-- ==== Sys2Proof/Word.lean ====
section
/-!
DEFINITION. The word types of the machine and their plainest arithmetic (R6, R11, R31, R33).
Bit 0 is the least significant bit (R6); the helpers are those of the notation table R31.
-/
namespace Sys2Proof

/-- A 32-bit register value. -/
abbrev Word := BitVec 32
/-- A byte of memory. -/
abbrev Byte := BitVec 8
/-- A 16-bit parcel of code (R57). -/
abbrev Parcel := BitVec 16
/-- A 64-bit value, held in an even-odd pair of registers where it is a register value (R13). -/
abbrev DWord := BitVec 64
/-- A set of lanes of a group: bit `l` stands for lane `l`. -/
abbrev LaneMask := BitVec 64

/-- `bits(x, hi, lo)` of R31, on naturals. -/
def bitsOf (x hi lo : Nat) : Nat := (x / 2 ^ lo) % 2 ^ (hi + 1 - lo)

/-- `wrap(x, n)` of R31: `x` modulo `2^n`, as an n-bit pattern. -/
def wrap (n : Nat) (x : Int) : BitVec n := BitVec.ofInt n x

/-- `sat(x, lo, hi)` of R31. -/
def satInt (x lo hi : Int) : Int := if x < lo then lo else if x > hi then hi else x

/-- The low word of a 64-bit value: the even register of a pair (R13). -/
def loWord (x : DWord) : Word := x.setWidth 32
/-- The high word of a 64-bit value: the odd register of a pair (R13). -/
def hiWord (x : DWord) : Word := (x >>> 32).setWidth 32
/-- The 64-bit value of a pair of words (R13). -/
def pairWord (lo hi : Word) : DWord := hi ++ lo

/-- A truth value as one bit. -/
def bit1 (b : Bool) : BitVec 1 := if b then 1 else 0

end Sys2Proof
end

