-- ==== Sys2Proof/Syntax.lean ====
section
/-!
DEFINITION. The syntax of the machine: one constructor of `Instr` per row of spec/opcode_table.json.
An encoded instruction is a full word of R60 (a `Form`) or the loop-nest word of R70 (a `NestForm`).
The other rows are the steps of engines, of the scheduler, of firmware and of the host: each names the thing it acts on.
-/
namespace Sys2Proof

/-- The predicate guard of R26: a lane executes where `p[idx] XOR neg` is true. -/
structure Guard where
  idx : BitVec 3
  neg : Bool
  deriving DecidableEq, Repr

/-- The unguarded form (R26): index 7, negate 0. -/
def Guard.always : Guard := { idx := 7, neg := false }

/-- A destination specifier (R63), or a field that is no operand. -/
inductive Dst where
  | v (i : BitVec 8)
  | g (i : BitVec 8)
  | o (i : BitVec 2)
  | h (i : BitVec 6)
  /-- A special register; only %seed is a destination (R18). -/
  | sr (i : BitVec 6)
  | p (i : BitVec 3)
  /-- No destination: specifier 0x3FF (R63). -/
  | none
  /-- Ten bits that are no register specifier: a layout or order field (R264), or zero (R61). -/
  | field (x : BitVec 10)
  deriving DecidableEq, Repr

/-- A source operand (R63, R62), or a field that is no operand. -/
inductive Opnd where
  | v (i : BitVec 8)
  | g (i : BitVec 8)
  | o (i : BitVec 2)
  | l (i : BitVec 2)
  | h (i : BitVec 6)
  | sr (i : BitVec 6)
  /-- The 8-bit immediate of R63, signed (R65). -/
  | imm (x : BitVec 8)
  /-- The 32-bit literal of R62, which serves as source b; as source a of the instructions of R279. -/
  | lit (x : BitVec 32)
  /-- A predicate named by bits [2:0] (the class psrc of R79). -/
  | pred (i : BitVec 3)
  /-- Ten bits that are no register specifier: a 10-bit immediate (R80, R102), a layout, order, type or tidemark field,
  the table and short c of R85, or zero (R61). -/
  | field (x : BitVec 10)
  deriving DecidableEq, Repr

/-- The fields of a full word other than its opcode (R60). -/
structure Form where
  mod   : BitVec 4
  guard : Guard
  dst   : Dst
  a     : Opnd
  b     : Opnd
  c     : Opnd
  /-- Write L: the L register that bit [3] also writes (R28). -/
  lw    : Option (BitVec 2)
  /-- Flag select, bit [2]: false selects set-flag A and true set-flag B (R74). -/
  fsel  : Bool
  deriving DecidableEq, Repr

/-- One operand of the loop-nest word (R70): layout entry, base g register, strides of levels 0 to 4. -/
structure NestOpnd where
  layout : BitVec 8
  base   : BitVec 8
  s0 : BitVec 8
  s1 : BitVec 8
  s2 : BitVec 8
  s3 : BitVec 8
  s4 : BitVec 8
  deriving DecidableEq, Repr

/-- The fields of the loop-nest word (R70). Extents are element counts minus one. -/
structure NestForm where
  op    : BitVec 8
  dtype : BitVec 4
  rnd   : BitVec 3
  red   : BitVec 5
  ext0 : BitVec 12
  ext1 : BitVec 12
  ext2 : BitVec 12
  ext3 : BitVec 12
  ext4 : BitVec 12
  x0 : NestOpnd
  x1 : NestOpnd
  x2 : NestOpnd
  fsel : Bool
  deriving DecidableEq, Repr

/-- One entry of a command queue (R461): opcode, tag and the command's operands, in the order in which R462 lists them.
How the 480 operand bits hold the operands is not in the spec (assumption 12). -/
structure CmdEntry where
  opcode   : BitVec 8
  tag      : BitVec 16
  operands : List (BitVec 64)
  deriving DecidableEq, Repr

/-- Where the host has put a queue's rings (R461): host address and entries of the ring of commands, and of the ring of completions. -/
structure Rings where
  base      : Nat
  size      : Nat
  doneBase  : Nat
  doneSize  : Nat
  deriving DecidableEq, Repr

/-- What a chain tells a join that it accepts (R337): its generation, its mode and the shape of its region. -/
structure ChainShape where
  gen   : Nat
  exact : Bool
  rows  : Nat
  cols  : Nat
  deriving DecidableEq, Repr

/-- What names a group of linked launches between devices: the sender's tenant, and the link id (R457). -/
structure PeerLink where
  tenant : Nat
  link   : Nat
  deriving DecidableEq, Repr

/-- What goes between linked devices over the peer links (R334, R337, R341, R352, R455, R457): how it is written is not in the spec (assumption 30). -/
inductive PeerMsg where
  /-- A join of a linked launch, under the sender's number for it. -/
  | join (id : Nat) (link : PeerLink) (name : BitVec 32) (share : Nat)
  /-- A join's answer: acknowledged, with what the chain is, or refused. -/
  | joined (id : Nat) (chain : Option ChainShape)
  /-- A contribution to a chain, its elements by row × 1,024 + column as TX48 values. -/
  | send (id : Nat) (link : PeerLink) (name : BitVec 32) (gen rows cols : Nat) (vals : List (Nat × BitVec 48))
  /-- A contribution has been accepted or discarded. -/
  | landed (id : Nat)
  /-- A chain is suspended, or its suspension is over. -/
  | suspend (link : PeerLink) (name : BitVec 32) (gen : Nat) (on : Bool)
  /-- The bindings to a chain are marked and every earlier send to it has landed. -/
  | suspended (name : BitVec 32) (gen : Nat)
  /-- The answer to an access of R455, or of the host (R458): whether it was performed, and what it read. -/
  | reply (ok : Bool) (data : List Byte)
  /-- R452: a window of a tenant of the sender is exported to a tenant of the receiver. -/
  | exported (tenant window toTenant : Nat)
  deriving DecidableEq, Repr

/-- What arrives: something of this device, by its number, or a message of a peer. -/
inductive Arrival where
  | here (id : Nat)
  | peer (device : BitVec 3) (m : PeerMsg)
  deriving DecidableEq, Repr

/-- What goes on with a suspended chain (R352): it is of this device, and the sends to it may have landed; a peer has marked its bindings to one
generation, and every earlier send of it has landed; or a chain of a peer is suspended, or goes on. -/
inductive ChainNotice where
  | due
  | acknowledged (device : BitVec 3) (gen : Nat)
  | told (device : BitVec 3) (link : PeerLink) (gen : Nat) (on : Bool)
  deriving DecidableEq, Repr

/-- A doorbell (R461): where the queue's rings lie, and how many entries are new. -/
structure Doorbell where
  rings : Rings
  count : Nat
  deriving DecidableEq, Repr

/-- What an access from outside the device does at its location. -/
inductive OutsideOp where
  | read (bytes : Nat)
  | write (data : List Byte)
  /-- An atomic or reduction of R271: operation code, 64-bit width, operand, and the compare value of .CAS. -/
  | atom (op : BitVec 4) (wide : Bool) (operand compare : BitVec 64)
  deriving DecidableEq, Repr

/-- An access by a peer device (R455): the exporting tenant, its window, the offset in it, and what is done. -/
structure PeerAccess where
  device : BitVec 3
  /-- The tenant on that device whose access it is. -/
  sender : Nat
  tenant : Nat
  window : Nat
  offset : Nat
  op     : OutsideOp
  deriving DecidableEq, Repr

/-- An access of the host through CXL.mem to an exported DEVICE window (R458). -/
structure HostAccess where
  tenant : Nat
  window : Nat
  offset : Nat
  op     : OutsideOp
  deriving DecidableEq, Repr

/-- The estimates that a power window ends with (R414): mW of each queue, and of the module (R475). -/
structure PowerReport where
  queues : List (Nat × BitVec 32)
  total  : BitVec 32
  deriving DecidableEq, Repr

/-- The instructions and steps of the machine, one constructor per row of spec/opcode_table.json. -/
inductive Instr where
  /-- R82. Adds two 32-bit integers per lane, wrapping or saturating. -/
  | iadd (f : Form)
  /-- R82. Subtracts two 32-bit integers per lane, wrapping or saturating. -/
  | isub (f : Form)
  /-- R82. Adds two 64-bit integer pairs per lane. -/
  | iadd64 (f : Form)
  /-- R82. Subtracts two 64-bit integer pairs per lane. -/
  | isub64 (f : Form)
  /-- R82. Multiplies two 32-bit integers and keeps the low word, wrapping or saturating. -/
  | imul (f : Form)
  /-- R82. Writes the high 32 bits of a 64-bit product, signed, unsigned or mixed. -/
  | imulh (f : Form)
  /-- R82. Computes a times b plus c in 32 bits. -/
  | imad (f : Form)
  /-- R82. Computes a 64-bit a times 32-bit b plus 64-bit c, wrapped to 64 bits. -/
  | imad64 (f : Form)
  /-- R82. Computes the exact 64-bit result of three 32-bit sources a times b plus c. -/
  | imadw (f : Form)
  /-- R82. Writes the lesser of two integers. -/
  | imin (f : Form)
  /-- R82. Writes the greater of two integers. -/
  | imax (f : Form)
  /-- R82. Writes the absolute value of a 32-bit integer, wrapping or saturating. -/
  | iabs (f : Form)
  /-- R83. Long-latency truncating integer division that never traps. -/
  | idiv (f : Form)
  /-- R83. Long-latency integer remainder that takes the sign of the dividend. -/
  | irem (f : Form)
  /-- R85. Computes each result bit from three inputs through an 8-bit table. -/
  | lut3 (f : Form)
  /-- R86. Shifts left, with a clamping or a wrapping count. -/
  | shl (f : Form)
  /-- R86. Shifts right logically. -/
  | shr (f : Form)
  /-- R86. Shifts right arithmetically. -/
  | sar (f : Form)
  /-- R87. Funnel-shifts a 64-bit concatenation left or right. -/
  | shf (f : Form)
  /-- R88. Extracts a bit field, sign- or zero-extended. -/
  | bfe (f : Form)
  /-- R88. Inserts a bit field into a word. -/
  | bfi (f : Form)
  /-- R89. Counts the set bits of a word. -/
  | popc (f : Form)
  /-- R89. Counts the leading zero bits of a word. -/
  | clz (f : Form)
  /-- R89. Reverses the bit order of a word. -/
  | brev (f : Form)
  /-- R89. Writes the index of the lowest set bit, or all ones for zero. -/
  | findlsb (f : Form)
  /-- R90. Compares two integers and writes a predicate ANDed with another predicate. -/
  | icmp (f : Form)
  /-- R91. Selects one of two values, 32-bit or 64-bit, by a predicate. -/
  | isel (f : Form)
  /-- R85. Computes a predicate from three predicates through an 8-bit table. -/
  | plut3 (f : Form)
  /-- R92. Copies a source to a register, or to %seed. -/
  | mov (f : Form)
  /-- R92. Moves a 10-bit immediate into a register. -/
  | movi (f : Form)
  /-- R92. Moves a 32-bit literal into a register. -/
  | movl (f : Form)
  /-- R92. Reads a special register into a register. -/
  | movs (f : Form)
  /-- R93. Writes the value of the first or the last executing lane to a group register. -/
  | movg (f : Form)
  /-- R95. Branches to a relative header, in the near or the far form. -/
  | bra (f : Form)
  /-- R96. Branches each lane to a header offset held in a register. -/
  | brai (f : Form)
  /-- R97. Writes the fall-through header offset and branches to a relative target. -/
  | call (f : Form)
  /-- R97. Writes the fall-through header offset and branches to a target held in a register. -/
  | calli (f : Form)
  /-- R96. Branches to a register target, with a return hint for the fetch unit. -/
  | ret (f : Form)
  /-- R98. Ends the lane's run of its element section and quits its seams. -/
  | exit (f : Form)
  /-- R99. Ends the clause with a yield hint. -/
  | yield (f : Form)
  /-- R99. Ends the clause with no effect. -/
  | nop (f : Form)
  /-- R104. Adds two FP32 values, correctly rounded. -/
  | fadd (f : Form)
  /-- R104. Subtracts two FP32 values, correctly rounded. -/
  | fsub (f : Form)
  /-- R104. Multiplies two FP32 values, correctly rounded. -/
  | fmul (f : Form)
  /-- R104. Computes a fused multiply-add with one rounding. -/
  | ffma (f : Form)
  /-- R106. Returns the lesser FP32 operand, with NaN and signed-zero rules. -/
  | fmin (f : Form)
  /-- R106. Returns the greater FP32 operand, with NaN and signed-zero rules. -/
  | fmax (f : Form)
  /-- R108. Compares two FP32 values and writes a predicate. -/
  | fcmp (f : Form)
  /-- R107. Rounds an FP32 value to an integral value by a mode. -/
  | frnd (f : Form)
  /-- R109. Classifies an FP32 value into a predicate or a one-hot word. -/
  | fclass (f : Form)
  /-- R107. Multiplies an FP32 value by a power of two given as an integer. -/
  | fscale (f : Form)
  /-- R104. Long-latency correctly rounded reciprocal. -/
  | frcp (f : Form)
  /-- R104. Long-latency correctly rounded reciprocal square root. -/
  | frsq (f : Form)
  /-- R104. Long-latency correctly rounded square root. -/
  | fsqrt (f : Form)
  /-- R104. Long-latency correctly rounded division. -/
  | fdiv (f : Form)
  /-- R112. Writes a rounded sum and its exact error as a pair. -/
  | f2sum (f : Form)
  /-- R113. Writes a rounded product and its error as a pair. -/
  | f2prd (f : Form)
  /-- R114. Adds packed FP16 or BF16 pairs. -/
  | hadd2 (f : Form)
  /-- R114. Multiplies packed FP16 or BF16 pairs. -/
  | hmul2 (f : Form)
  /-- R114. Computes packed half-precision fused multiply-adds. -/
  | hfma2 (f : Form)
  /-- R115. Computes a two-element half-precision dot product plus an FP32 addend, with one rounding. -/
  | fdot2 (f : Form)
  /-- R116. Computes a four-byte integer dot product plus an accumulator. -/
  | idot4 (f : Form)
  /-- R118. Converts between floating-point formats. -/
  | cvt (f : Form)
  /-- R119. Converts to, from or between integer types. -/
  | cvti (f : Form)
  /-- R120. Scales, rounds and packs FP32 values into narrow elements. -/
  | packn (f : Form)
  /-- R121. Unpacks and scales narrow elements into FP32 values. -/
  | unpackn (f : Form)
  /-- R110. Long-latency faithfully rounded power of two. -/
  | fex2 (f : Form)
  /-- R110. Long-latency faithfully rounded base-2 logarithm. -/
  | flg2 (f : Form)
  /-- R110. Long-latency faithfully rounded sine of an angle in turns. -/
  | fsin (f : Form)
  /-- R110. Long-latency faithfully rounded cosine of an angle in turns. -/
  | fcos (f : Form)
  /-- R125. Adds two complex FP32 values. -/
  | cadd (f : Form)
  /-- R125. Multiplies two complex FP32 values in the stated order of roundings. -/
  | cmul (f : Form)
  /-- R125. Multiplies a complex value by the conjugate of another. -/
  | ccmul (f : Form)
  /-- R125. Computes a complex fused multiply-add. -/
  | cfma (f : Form)
  /-- R125. Computes the squared magnitude of a complex value. -/
  | cabs2 (f : Form)
  /-- R125. Long-latency complex exponential of an angle in turns. -/
  | cexpi (f : Form)
  /-- R209. Computes any, all or a ballot of a predicate over the member lanes. -/
  | vote (f : Form)
  /-- R210. Gives each lane the value of a source lane picked by mode. -/
  | shfl (f : Form)
  /-- R211. Reduces a value over the member lanes in the pairwise tree. -/
  | redux (f : Form)
  /-- R212. Computes an exclusive or inclusive scan over the member lanes. -/
  | scan (f : Form)
  /-- R190. Makes the executing lanes members of a seam. -/
  | seamJoin (f : Form)
  /-- R191. Removes the executing lanes from a seam, possibly releasing it. -/
  | seamQuit (f : Form)
  /-- R214. Quits every seam named in a per-lane mask. -/
  | seamQuitm (f : Form)
  /-- R192. Arrives the executing lanes at a seam, releasing it when every member has arrived. -/
  | seamWait (f : Form)
  /-- R216. Writes a seam's image to four registers. -/
  | seamRead (f : Form)
  /-- R217. Stores a seam's image through a layout. -/
  | seamStore (f : Form)
  /-- R218. Loads a seam's member mask from memory and applies it. -/
  | seamLoad (f : Form)
  /-- R200. Opens a serial region and runs its lowest lane. -/
  | serOpen (f : Form)
  /-- R200. Ends a serial turn and passes the region to the next pending lane. -/
  | serClose (f : Form)
  /-- R223. Puts the executing lanes into the Regrouping state with a key. -/
  | regroup (f : Form)
  /-- R159. Once every participant regroups and every flag is clear, sorts the threads by key into new groups. -/
  | reorderPoint (block : Nat) (role : BitVec 2)
  /-- R177. Creates children at the EMITTED level below. -/
  | emit (f : Form)
  /-- R178. Creates one SPAWNED element per lane with arguments and a return run. -/
  | spawn (f : Form)
  /-- R178. When a spawned element and its descendants retire, writes the returned values and completes the spawner's lane. -/
  | spawnReturn (op lane : Nat)
  /-- R180. Ends the thread's claim on an ancestor Shelf slot. -/
  | ebb (f : Form)
  /-- R181. Reads a held value flat, or interpolated across three parents. -/
  | hlerp (f : Form)
  /-- R268. Loads data through a layout at given coordinates. -/
  | ld (f : Form)
  /-- R268. Stores data through a layout at given coordinates. -/
  | st (f : Form)
  /-- R269. Performs one load for the group into group registers. -/
  | ldu (f : Form)
  /-- R272. Performs an atomic read-modify-write and returns the old value. -/
  | atom (f : Form)
  /-- R272. Performs an atomic reduction that returns nothing. -/
  | red (f : Form)
  /-- R273. Enforces acquire or release ordering for the lane's accesses. -/
  | fence (f : Form)
  /-- R274. Asks for a location to be brought into a cache. -/
  | pref (f : Form)
  /-- R275. Derives a sub-view layout entry from a parent entry. -/
  | laysub (f : Form)
  /-- R277. Writes an extent, a stride, the rank, the element size or the attribute word of a layout. -/
  | layinfo (f : Form)
  /-- R281. Issues a per-lane copy that bears a tag. -/
  | copy (f : Form)
  /-- R281. A copy's destination bytes are performed and its tag count falls, setting the tag at zero. -/
  | copyLanding (copy : Nat)
  /-- R283. Waits until any or all of the named tags are set. -/
  | twait (f : Form)
  /-- R283. Writes the lowest set tag among those named. -/
  | tfirst (f : Form)
  /-- R286. Initialises a tidemark's phase, reload and counts. -/
  | tmInit (f : Form)
  /-- R286. Arrives at a tidemark, expecting sectors, and returns the phase. -/
  | tmArrive (f : Form)
  /-- R286. Arrives at a tidemark and waits for the phase to change. -/
  | tmArrivew (f : Form)
  /-- R286. Waits until a tidemark's phase differs from the recorded one. -/
  | tmWait (f : Form)
  /-- R286. Adds expected sectors to a tidemark. -/
  | tmExpect (f : Form)
  /-- R288. Hands a layout's scratchpad granules to an engine. -/
  | ownGive (f : Form)
  /-- R289. Waits until a layout's granules are owned by threads again. -/
  | ownTake (f : Form)
  /-- R294. Copies a tile of elements between layouts on the copy engine. -/
  | tcopy (f : Form)
  /-- R296. Copies a tile into the scratchpads of several cores of the reef. -/
  | tcopyMc (f : Form)
  /-- R302. Scatters rows into per-expert bins, with overflow and a status record. -/
  | scatb (f : Form)
  /-- R291. A tile-path operation performs its last write and reports through its tag or tidemark. -/
  | tileOperationCompletion (op : Nat)
  /-- R306. Sends one query for a work item to the distributor. -/
  | wqAsk (f : Form)
  /-- R306. The distributor writes a query's answer into scratchpad, possibly after holding it. -/
  | wqAskAnswer (ask : Nat)
  /-- R307. Pops work items from the core's queue for each lane. -/
  | wqTake (f : Form)
  /-- R308. Adds work items to a core's queue or to the spill pool. -/
  | wqAdd (f : Form)
  /-- R305. The distributor refills a core's queue up to the prefetch depth. -/
  | queueRefill (launch core : Nat)
  /-- R309. A passive core passes the end-of-work token, which may declare the end of work. -/
  | tokenPass (launch : Nat)
  /-- R298. Runs an element-wise or reduction loop nest on the streaming element unit. -/
  | lnest (n : NestForm)
  /-- R300. A loop nest performs its last write, returns its granules and clears its flag. -/
  | lnestCompletion (op : Nat)
  /-- R321. Multiplies operand matrices into an accumulator tile in bands of 64 rows. -/
  | mma (f : Form)
  /-- R325. Rotates and quantises rows into scaled narrow blocks. -/
  | quant (f : Form)
  /-- R325. Applies an n-point Hadamard rotation to rows. -/
  | had (f : Form)
  /-- R326. Sets every element of an accumulator tile to zero. -/
  | accZero (f : Form)
  /-- R327. Converts a tile and writes or adds it through a layout. -/
  | accDrain (f : Form)
  /-- R329. Writes a tile as a byte image. -/
  | accSave (f : Form)
  /-- R329. Loads a tile bit for bit from a byte image. -/
  | accLoad (f : Form)
  /-- R313. A core starts the next matrix-queue entry once the previous one has ended. -/
  | matrixQueueEntryStart (core : Nat)
  /-- R322. A band of 64 rows commits to the tile and updates row progress and status. -/
  | bandCommit (core : Nat)
  /-- R336. Opens a Tideway chain on a slot, reserving landing-buffer space. -/
  | chainOpen (f : Form)
  /-- R337. Asks a chain to accept contributions from the group. -/
  | chainJoin (f : Form)
  /-- R337. A join request reaches its slot, where it parks, is acknowledged or is refused. -/
  | joinRequestArrival (join : Arrival)
  /-- R339. Sends one contribution from a tile or from scratchpad into a chain. -/
  | chainSend (f : Form)
  /-- R342. A contribution lands and is added into the chain's running sums. -/
  | contributionLanding (contribution : Arrival)
  /-- R345. Waits for a chain to complete and integrate into its tile. -/
  | chainWait (f : Form)
  /-- R346. The queue entry writes the chain's total into the tile region and closes the chain. -/
  | integrationEntry (core slot : Nat)
  /-- R348. Writes a slot's chain status word. -/
  | chainStatus (f : Form)
  /-- R349. Closes a chain and discards its landed sums. -/
  | chainAbort (f : Form)
  /-- R352. Suspends a pre-empted block's open chains, waits for acknowledgements and saves them. -/
  | chainSuspension (name : BitVec 32) (notice : ChainNotice)
  /-- R372. Opens a constraint stream on the core's batcher. -/
  | batOpen (f : Form)
  /-- R373. Enters the lanes' constraints into the batcher window. -/
  | batPush (f : Form)
  /-- R374. Closes the stream and waits for every batch to end. -/
  | batClose (f : Form)
  /-- R375. Ends the executing lanes' body claims. -/
  | batDone (f : Form)
  /-- R376. Writes the batcher status word. -/
  | batStat (f : Form)
  /-- R362. Cuts one maximal body-disjoint batch from the window and takes its claims. -/
  | batchFormation (core : Nat)
  /-- R365. Admits a batch group once earlier claims on its bodies have ended. -/
  | batchAdmission (core batch : Nat)
  /-- R366. A lane's body claims end once its earlier accesses are performed. -/
  | bodyClaimRelease (core batch lane : Nat)
  /-- R382. Creates pending primitives from three vertices each. -/
  | primEmit (f : Form)
  /-- R383. Snaps a primitive whose vertices have finished, then culls it or sorts it into tiles. -/
  | primitiveBinning (prim : Nat)
  /-- R384. Resolves a complete pass tile by tile on the sample store. -/
  | passResolution (launch pass : Nat)
  /-- R399. Traverses a BVH and creates one ray element per lane. -/
  | trace (f : Form)
  /-- R395. The traversal unit finishes a ray's traversal and the ray element is created. -/
  | traversalCompletion (op lane : Nat)
  /-- R401. Records return components for the spawner. -/
  | retv (f : Form)
  /-- R403. Samples a texture with trilinear filtering. -/
  | tex (f : Form)
  /-- R403. Samples one texture level bilinearly. -/
  | texl (f : Form)
  /-- R403. Fetches one texel. -/
  | texf (f : Form)
  /-- R422. Raises a SOFTWARE trap with an information word. -/
  | trapi (f : Form)
  /-- R423. Leaves a trap handler to retry, to skip or to go to a target. -/
  | tret (f : Form)
  /-- R439. Ends a pre-emption handler on the executing lanes. -/
  | preemptDone (f : Form)
  /-- R424. Renews the slice's budget and deadline, and may lead to pre-emption. -/
  | sliceYield (f : Form)
  /-- R425. Submits a child launch record to the command queue. -/
  | launch (f : Form)
  /-- R426. Lets EARLY successors of the launch be admitted. -/
  | hintSucc (f : Form)
  /-- R427. Waits for every predecessor launch to end. -/
  | waitp (f : Form)
  /-- R428. Reads the slice budget, the deadline, the power estimate or the power limit. -/
  | budgetRead (f : Form)
  /-- R413. Each clock a partition chooses a ready group and issues its chosen path's clause. -/
  | partitionIssue (core part : Nat)
  /-- R23. A long-latency instruction completes on a lane and subtracts one from its flag. -/
  | laneCompletion (op lane : Nat)
  /-- R416. Delivers a pending BUDGET, PREEMPT or ENGINE_FAULT at the group's next clause boundary. -/
  | asyncTrapDelivery (group : Nat)
  /-- R412. The slice's budget count runs out, either refilling it and raising BUDGET or ending the launch. -/
  | sliceBudgetExpiry (block : Nat)
  /-- R408. Admits a waiting block when all its resources are free, earliest deadline first. -/
  | blockAdmission (block core : Nat)
  /-- R169. Admits a created element into a free Shelf slot of its level's pool. -/
  | elementAdmission (elem : Nat)
  /-- R98. An element finishes its section, creates its FIXED children, ends its claims and may end the launch. -/
  | elementFinish (elem : Nat)
  /-- R172. A claim ending reaches a memory-resident slot, which may then be freed. -/
  | claimEndingArrival (ending : Nat)
  /-- R414. At the end of each 10 µs window, estimates each queue's power and sets its issue fraction. -/
  | powerWindow (w : PowerReport)
  /-- R431. Holds an access on a missing translation and offers the fault to the host. -/
  | translationFaultOffer (fault : Nat)
  /-- R442. Once every group is done and its work is settled, firmware saves the engine state and frees the block. -/
  | blockSave (block : Nat)
  /-- R445. After 200 µs unsaved, firmware stops and ends the launch. -/
  | hardStop (block : Nat)
  /-- R446. Re-admits a saved block, writes back the firmware-saved state and starts groups at the restore entry. -/
  | blockRestore (block core : Nat)
  /-- R467. An instruction-cache fill checks its line tag and raises CODE_AUTH on a mismatch. -/
  | icacheFillAuth (code line : Nat)
  /-- R455. A PEER access from another device is translated and performed at this device. -/
  | peerAccessArrival (a : PeerAccess)
  /-- R458. The host accesses an exported DEVICE window through CXL.mem. -/
  | hostMemAccess (a : HostAccess)
  /-- R451. A peer link goes down; when both are down, peer traffic fails and a link event is posted. -/
  | linkDown (peer : BitVec 3) (link : Bool)
  /-- R474. A die at 105 °C lowers its clock in steps, raising it again below 100 °C. -/
  | thermalEmergency (die : BitVec 2) (celsius : BitVec 8)
  /-- R474. At 115 °C the device stops issue, ends every launch and posts a link event. -/
  | thermalShutdown
  /-- R470. Verifies the configuration, derives the identity key, zeroes memory and trains the links. -/
  | deviceReset
  /-- R461. The host writes a queue doorbell and the device fetches command entries by DMA. -/
  | doorbellWrite (queue : Nat) (bell : Doorbell)
  /-- R450. Sets the device number and the peer-group member mask. -/
  | groupSet (queue : Nat)
  /-- R459. Creates a tenant with its keys, its table root and its queues. -/
  | tenantCreate (queue : Nat)
  /-- R460. Erases a tenant's keys and unmaps its windows. -/
  | tenantDestroy (queue : Nat)
  /-- R414. Sets a queue's power budget. -/
  | budgetSet (queue : Nat)
  /-- R465. Sets the time of day from the host. -/
  | timeSet (queue : Nat)
  /-- R472. Verifies a signed image and writes it to flash. -/
  | fwUpdate (queue : Nat)
  /-- R452. Creates a DEVICE, HOST or PEER window. -/
  | windowMap (queue : Nat)
  /-- R454. Invalidates a window's mappings, with shootdown. -/
  | windowUnmap (queue : Nat)
  /-- R454. Writes page-table entries and completes after the shootdown. -/
  | pageMap (queue : Nat)
  /-- R464. Resolves an offered fault, retrying the walk, or declares it unresolvable. -/
  | faultDone (queue : Nat)
  /-- R467. Loads a code object, authenticating, checking and relocating it. -/
  | codeLoad (queue : Nat)
  /-- R462. Unloads a code object that no launch uses. -/
  | codeUnload (queue : Nat)
  /-- R406. Accepts or refuses a launch record with its predecessors and link id. -/
  | launchCommand (queue : Nat)
  /-- R434. Pre-empts every admitted block of a launch. -/
  | preemptCommand (queue : Nat)
  /-- R446. Resumes a pre-empted launch so that its blocks can be restored. -/
  | resume (queue : Nat)
  /-- R475. Returns identity, memory, time, launch state, peers or power. -/
  | query (queue : Nat)
  /-- R473. Writes a signed attestation report into the tenant's window. -/
  | attest (queue : Nat)
  /-- R307. A work item sent by WQ.ADD.CORE reaches the target core's queue and goes to the oldest waiting lane, or to the spill pool. -/
  | itemArrival (item : Nat)
  /-- R452. The peer's firmware confirms that the named window is exported, and the pending PEER WINDOW_MAP completes. -/
  | peerWindowConfirmation (tenant window : Nat) (exported : Bool)
  /-- R456. A sharer device receives an invalidation of a fabric-coherent line from the home, drops its copy and acknowledges. -/
  | fabricLineInvalidation (line : Nat) (sharer : BitVec 3)
  /-- R434. Firmware recovers from an uncorrectable error by pre-empting blocks whose cores it needs and discarding affected allocations. -/
  | uncorrectableErrorRecovery (blocks : List Nat)
  deriving DecidableEq, Repr

end Sys2Proof
end

