-- ==== Sys2Proof/Machine/Opcodes.lean ====
section
/-!
DEFINITION. The opcode map (R71, R72), the modifier values each entry accepts (R66), and the operand classes that each
entry gives its fields (R79 to R421). Decoding, encoding and well-formedness are all read off these tables.
-/
namespace Sys2Proof

/-- The opcodes of full words, named as R71's map names them. -/
inductive Op where
  | iadd | isub | iadd64 | isub64 | imul | imulh | imad | imad64
  | imadw | imin | imax | iabs | idiv | irem | lut3 | shl
  | shr | sar | shf | bfe | bfi | popc | clz | brev
  | findlsb | icmp | isel | plut3 | mov | movi | movl | movs
  | movg | bra | brai | call | calli | ret | exit | yield
  | nop | fadd | fsub | fmul | ffma | fmin | fmax | fcmp
  | frnd | fclass | fscale | frcp | frsq | fsqrt | fdiv | f2sum
  | f2prd | hadd2 | hmul2 | hfma2 | fdot2 | idot4 | cvt | cvti
  | packn | unpackn | fex2 | flg2 | fsin | fcos | cadd | cmul
  | ccmul | cfma | cabs2 | cexpi | vote | shfl | redux | scan
  | seamJoin | seamQuit | seamQuitm | seamWait | seamRead | seamStore | seamLoad | serOpen
  | serClose | regroup | emit | spawn | ebb | hlerp | ld | st
  | ldu | atom | red | fence | pref | laysub | layinfo | copy
  | twait | tfirst | tmInit | tmArrive | tmArrivew | tmWait | tmExpect | ownGive
  | ownTake | tcopy | tcopyMc | scatb | wqAsk | wqTake | wqAdd | mma
  | quant | had | accZero | accDrain | accSave | accLoad | chainOpen | chainJoin
  | chainSend | chainWait | chainStatus | chainAbort | batOpen | batPush | batClose | batDone
  | batStat | primEmit | trace | retv | tex | texl | texf | trapi
  | tret | preemptDone | sliceYield | launch | hintSucc | waitp | budgetRead
  deriving DecidableEq, Repr

namespace Op

/-- The opcode map R71: the 8-bit opcode of each entry. -/
def code : Op → BitVec 8
  | .iadd => 0x00
  | .isub => 0x01
  | .iadd64 => 0x02
  | .isub64 => 0x03
  | .imul => 0x04
  | .imulh => 0x05
  | .imad => 0x06
  | .imad64 => 0x07
  | .imadw => 0x08
  | .imin => 0x09
  | .imax => 0x0A
  | .iabs => 0x0B
  | .idiv => 0x0C
  | .irem => 0x0D
  | .lut3 => 0x10
  | .shl => 0x11
  | .shr => 0x12
  | .sar => 0x13
  | .shf => 0x14
  | .bfe => 0x15
  | .bfi => 0x16
  | .popc => 0x17
  | .clz => 0x18
  | .brev => 0x19
  | .findlsb => 0x1A
  | .icmp => 0x20
  | .isel => 0x21
  | .plut3 => 0x22
  | .mov => 0x23
  | .movi => 0x24
  | .movl => 0x25
  | .movs => 0x26
  | .movg => 0x27
  | .bra => 0x30
  | .brai => 0x31
  | .call => 0x32
  | .calli => 0x33
  | .ret => 0x34
  | .exit => 0x35
  | .yield => 0x36
  | .nop => 0x37
  | .fadd => 0x40
  | .fsub => 0x41
  | .fmul => 0x42
  | .ffma => 0x43
  | .fmin => 0x44
  | .fmax => 0x45
  | .fcmp => 0x46
  | .frnd => 0x47
  | .fclass => 0x48
  | .fscale => 0x49
  | .frcp => 0x4A
  | .frsq => 0x4B
  | .fsqrt => 0x4C
  | .fdiv => 0x4D
  | .f2sum => 0x4E
  | .f2prd => 0x4F
  | .hadd2 => 0x50
  | .hmul2 => 0x51
  | .hfma2 => 0x52
  | .fdot2 => 0x53
  | .idot4 => 0x54
  | .cvt => 0x60
  | .cvti => 0x61
  | .packn => 0x62
  | .unpackn => 0x63
  | .fex2 => 0x64
  | .flg2 => 0x65
  | .fsin => 0x66
  | .fcos => 0x67
  | .cadd => 0x68
  | .cmul => 0x69
  | .ccmul => 0x6A
  | .cfma => 0x6B
  | .cabs2 => 0x6C
  | .cexpi => 0x6D
  | .vote => 0x70
  | .shfl => 0x71
  | .redux => 0x72
  | .scan => 0x73
  | .seamJoin => 0x74
  | .seamQuit => 0x75
  | .seamQuitm => 0x76
  | .seamWait => 0x77
  | .seamRead => 0x78
  | .seamStore => 0x79
  | .seamLoad => 0x7A
  | .serOpen => 0x7B
  | .serClose => 0x7C
  | .regroup => 0x7D
  | .emit => 0x80
  | .spawn => 0x81
  | .ebb => 0x82
  | .hlerp => 0x83
  | .ld => 0x90
  | .st => 0x91
  | .ldu => 0x92
  | .atom => 0x93
  | .red => 0x94
  | .fence => 0x95
  | .pref => 0x96
  | .laysub => 0x97
  | .layinfo => 0x98
  | .copy => 0xA0
  | .twait => 0xA1
  | .tfirst => 0xA2
  | .tmInit => 0xA3
  | .tmArrive => 0xA4
  | .tmArrivew => 0xA5
  | .tmWait => 0xA6
  | .tmExpect => 0xA7
  | .ownGive => 0xA8
  | .ownTake => 0xA9
  | .tcopy => 0xAA
  | .tcopyMc => 0xAB
  | .scatb => 0xAC
  | .wqAsk => 0xAD
  | .wqTake => 0xAE
  | .wqAdd => 0xAF
  | .mma => 0xB0
  | .quant => 0xB1
  | .had => 0xB2
  | .accZero => 0xB3
  | .accDrain => 0xB4
  | .accSave => 0xB5
  | .accLoad => 0xB6
  | .chainOpen => 0xC0
  | .chainJoin => 0xC1
  | .chainSend => 0xC2
  | .chainWait => 0xC3
  | .chainStatus => 0xC4
  | .chainAbort => 0xC5
  | .batOpen => 0xC8
  | .batPush => 0xC9
  | .batClose => 0xCA
  | .batDone => 0xCB
  | .batStat => 0xCC
  | .primEmit => 0xD0
  | .trace => 0xD1
  | .retv => 0xD2
  | .tex => 0xD3
  | .texl => 0xD4
  | .texf => 0xD5
  | .trapi => 0xE0
  | .tret => 0xE1
  | .preemptDone => 0xE2
  | .sliceYield => 0xE3
  | .launch => 0xE4
  | .hintSucc => 0xE5
  | .waitp => 0xE6
  | .budgetRead => 0xE7

/-- The opcode map R71 read the other way: `none` for an unassigned opcode. -/
def decode : Nat → Option Op
  | 0x00 => some .iadd
  | 0x01 => some .isub
  | 0x02 => some .iadd64
  | 0x03 => some .isub64
  | 0x04 => some .imul
  | 0x05 => some .imulh
  | 0x06 => some .imad
  | 0x07 => some .imad64
  | 0x08 => some .imadw
  | 0x09 => some .imin
  | 0x0A => some .imax
  | 0x0B => some .iabs
  | 0x0C => some .idiv
  | 0x0D => some .irem
  | 0x10 => some .lut3
  | 0x11 => some .shl
  | 0x12 => some .shr
  | 0x13 => some .sar
  | 0x14 => some .shf
  | 0x15 => some .bfe
  | 0x16 => some .bfi
  | 0x17 => some .popc
  | 0x18 => some .clz
  | 0x19 => some .brev
  | 0x1A => some .findlsb
  | 0x20 => some .icmp
  | 0x21 => some .isel
  | 0x22 => some .plut3
  | 0x23 => some .mov
  | 0x24 => some .movi
  | 0x25 => some .movl
  | 0x26 => some .movs
  | 0x27 => some .movg
  | 0x30 => some .bra
  | 0x31 => some .brai
  | 0x32 => some .call
  | 0x33 => some .calli
  | 0x34 => some .ret
  | 0x35 => some .exit
  | 0x36 => some .yield
  | 0x37 => some .nop
  | 0x40 => some .fadd
  | 0x41 => some .fsub
  | 0x42 => some .fmul
  | 0x43 => some .ffma
  | 0x44 => some .fmin
  | 0x45 => some .fmax
  | 0x46 => some .fcmp
  | 0x47 => some .frnd
  | 0x48 => some .fclass
  | 0x49 => some .fscale
  | 0x4A => some .frcp
  | 0x4B => some .frsq
  | 0x4C => some .fsqrt
  | 0x4D => some .fdiv
  | 0x4E => some .f2sum
  | 0x4F => some .f2prd
  | 0x50 => some .hadd2
  | 0x51 => some .hmul2
  | 0x52 => some .hfma2
  | 0x53 => some .fdot2
  | 0x54 => some .idot4
  | 0x60 => some .cvt
  | 0x61 => some .cvti
  | 0x62 => some .packn
  | 0x63 => some .unpackn
  | 0x64 => some .fex2
  | 0x65 => some .flg2
  | 0x66 => some .fsin
  | 0x67 => some .fcos
  | 0x68 => some .cadd
  | 0x69 => some .cmul
  | 0x6A => some .ccmul
  | 0x6B => some .cfma
  | 0x6C => some .cabs2
  | 0x6D => some .cexpi
  | 0x70 => some .vote
  | 0x71 => some .shfl
  | 0x72 => some .redux
  | 0x73 => some .scan
  | 0x74 => some .seamJoin
  | 0x75 => some .seamQuit
  | 0x76 => some .seamQuitm
  | 0x77 => some .seamWait
  | 0x78 => some .seamRead
  | 0x79 => some .seamStore
  | 0x7A => some .seamLoad
  | 0x7B => some .serOpen
  | 0x7C => some .serClose
  | 0x7D => some .regroup
  | 0x80 => some .emit
  | 0x81 => some .spawn
  | 0x82 => some .ebb
  | 0x83 => some .hlerp
  | 0x90 => some .ld
  | 0x91 => some .st
  | 0x92 => some .ldu
  | 0x93 => some .atom
  | 0x94 => some .red
  | 0x95 => some .fence
  | 0x96 => some .pref
  | 0x97 => some .laysub
  | 0x98 => some .layinfo
  | 0xA0 => some .copy
  | 0xA1 => some .twait
  | 0xA2 => some .tfirst
  | 0xA3 => some .tmInit
  | 0xA4 => some .tmArrive
  | 0xA5 => some .tmArrivew
  | 0xA6 => some .tmWait
  | 0xA7 => some .tmExpect
  | 0xA8 => some .ownGive
  | 0xA9 => some .ownTake
  | 0xAA => some .tcopy
  | 0xAB => some .tcopyMc
  | 0xAC => some .scatb
  | 0xAD => some .wqAsk
  | 0xAE => some .wqTake
  | 0xAF => some .wqAdd
  | 0xB0 => some .mma
  | 0xB1 => some .quant
  | 0xB2 => some .had
  | 0xB3 => some .accZero
  | 0xB4 => some .accDrain
  | 0xB5 => some .accSave
  | 0xB6 => some .accLoad
  | 0xC0 => some .chainOpen
  | 0xC1 => some .chainJoin
  | 0xC2 => some .chainSend
  | 0xC3 => some .chainWait
  | 0xC4 => some .chainStatus
  | 0xC5 => some .chainAbort
  | 0xC8 => some .batOpen
  | 0xC9 => some .batPush
  | 0xCA => some .batClose
  | 0xCB => some .batDone
  | 0xCC => some .batStat
  | 0xD0 => some .primEmit
  | 0xD1 => some .trace
  | 0xD2 => some .retv
  | 0xD3 => some .tex
  | 0xD4 => some .texl
  | 0xD5 => some .texf
  | 0xE0 => some .trapi
  | 0xE1 => some .tret
  | 0xE2 => some .preemptDone
  | 0xE3 => some .sliceYield
  | 0xE4 => some .launch
  | 0xE5 => some .hintSucc
  | 0xE6 => some .waitp
  | 0xE7 => some .budgetRead
  | _ => none

/-- The instruction with this opcode and these fields. -/
def instr : Op → Form → Instr
  | .iadd, f => .iadd f
  | .isub, f => .isub f
  | .iadd64, f => .iadd64 f
  | .isub64, f => .isub64 f
  | .imul, f => .imul f
  | .imulh, f => .imulh f
  | .imad, f => .imad f
  | .imad64, f => .imad64 f
  | .imadw, f => .imadw f
  | .imin, f => .imin f
  | .imax, f => .imax f
  | .iabs, f => .iabs f
  | .idiv, f => .idiv f
  | .irem, f => .irem f
  | .lut3, f => .lut3 f
  | .shl, f => .shl f
  | .shr, f => .shr f
  | .sar, f => .sar f
  | .shf, f => .shf f
  | .bfe, f => .bfe f
  | .bfi, f => .bfi f
  | .popc, f => .popc f
  | .clz, f => .clz f
  | .brev, f => .brev f
  | .findlsb, f => .findlsb f
  | .icmp, f => .icmp f
  | .isel, f => .isel f
  | .plut3, f => .plut3 f
  | .mov, f => .mov f
  | .movi, f => .movi f
  | .movl, f => .movl f
  | .movs, f => .movs f
  | .movg, f => .movg f
  | .bra, f => .bra f
  | .brai, f => .brai f
  | .call, f => .call f
  | .calli, f => .calli f
  | .ret, f => .ret f
  | .exit, f => .exit f
  | .yield, f => .yield f
  | .nop, f => .nop f
  | .fadd, f => .fadd f
  | .fsub, f => .fsub f
  | .fmul, f => .fmul f
  | .ffma, f => .ffma f
  | .fmin, f => .fmin f
  | .fmax, f => .fmax f
  | .fcmp, f => .fcmp f
  | .frnd, f => .frnd f
  | .fclass, f => .fclass f
  | .fscale, f => .fscale f
  | .frcp, f => .frcp f
  | .frsq, f => .frsq f
  | .fsqrt, f => .fsqrt f
  | .fdiv, f => .fdiv f
  | .f2sum, f => .f2sum f
  | .f2prd, f => .f2prd f
  | .hadd2, f => .hadd2 f
  | .hmul2, f => .hmul2 f
  | .hfma2, f => .hfma2 f
  | .fdot2, f => .fdot2 f
  | .idot4, f => .idot4 f
  | .cvt, f => .cvt f
  | .cvti, f => .cvti f
  | .packn, f => .packn f
  | .unpackn, f => .unpackn f
  | .fex2, f => .fex2 f
  | .flg2, f => .flg2 f
  | .fsin, f => .fsin f
  | .fcos, f => .fcos f
  | .cadd, f => .cadd f
  | .cmul, f => .cmul f
  | .ccmul, f => .ccmul f
  | .cfma, f => .cfma f
  | .cabs2, f => .cabs2 f
  | .cexpi, f => .cexpi f
  | .vote, f => .vote f
  | .shfl, f => .shfl f
  | .redux, f => .redux f
  | .scan, f => .scan f
  | .seamJoin, f => .seamJoin f
  | .seamQuit, f => .seamQuit f
  | .seamQuitm, f => .seamQuitm f
  | .seamWait, f => .seamWait f
  | .seamRead, f => .seamRead f
  | .seamStore, f => .seamStore f
  | .seamLoad, f => .seamLoad f
  | .serOpen, f => .serOpen f
  | .serClose, f => .serClose f
  | .regroup, f => .regroup f
  | .emit, f => .emit f
  | .spawn, f => .spawn f
  | .ebb, f => .ebb f
  | .hlerp, f => .hlerp f
  | .ld, f => .ld f
  | .st, f => .st f
  | .ldu, f => .ldu f
  | .atom, f => .atom f
  | .red, f => .red f
  | .fence, f => .fence f
  | .pref, f => .pref f
  | .laysub, f => .laysub f
  | .layinfo, f => .layinfo f
  | .copy, f => .copy f
  | .twait, f => .twait f
  | .tfirst, f => .tfirst f
  | .tmInit, f => .tmInit f
  | .tmArrive, f => .tmArrive f
  | .tmArrivew, f => .tmArrivew f
  | .tmWait, f => .tmWait f
  | .tmExpect, f => .tmExpect f
  | .ownGive, f => .ownGive f
  | .ownTake, f => .ownTake f
  | .tcopy, f => .tcopy f
  | .tcopyMc, f => .tcopyMc f
  | .scatb, f => .scatb f
  | .wqAsk, f => .wqAsk f
  | .wqTake, f => .wqTake f
  | .wqAdd, f => .wqAdd f
  | .mma, f => .mma f
  | .quant, f => .quant f
  | .had, f => .had f
  | .accZero, f => .accZero f
  | .accDrain, f => .accDrain f
  | .accSave, f => .accSave f
  | .accLoad, f => .accLoad f
  | .chainOpen, f => .chainOpen f
  | .chainJoin, f => .chainJoin f
  | .chainSend, f => .chainSend f
  | .chainWait, f => .chainWait f
  | .chainStatus, f => .chainStatus f
  | .chainAbort, f => .chainAbort f
  | .batOpen, f => .batOpen f
  | .batPush, f => .batPush f
  | .batClose, f => .batClose f
  | .batDone, f => .batDone f
  | .batStat, f => .batStat f
  | .primEmit, f => .primEmit f
  | .trace, f => .trace f
  | .retv, f => .retv f
  | .tex, f => .tex f
  | .texl, f => .texl f
  | .texf, f => .texf f
  | .trapi, f => .trapi f
  | .tret, f => .tret f
  | .preemptDone, f => .preemptDone f
  | .sliceYield, f => .sliceYield f
  | .launch, f => .launch f
  | .hintSucc, f => .hintSucc f
  | .waitp, f => .waitp f
  | .budgetRead, f => .budgetRead f

/-- The long-latency opcodes of R72. -/
def isLong : Op → Bool
  | .idiv | .irem | .frcp | .frsq | .fsqrt | .fdiv | .fex2 | .flg2 | .fsin | .fcos | .cexpi | .seamStore | .seamLoad | .spawn | .ld | .st
  | .ldu | .atom | .red | .fence | .twait | .tmArrivew | .tmWait | .ownTake | .wqTake | .mma | .quant | .had | .accZero | .accDrain | .accSave | .accLoad
  | .chainOpen | .chainJoin | .chainSend | .chainWait | .chainAbort
  | .batPush | .batClose | .primEmit | .trace | .tex | .texl | .texf | .launch | .waitp => true
  | _ => false

/-- The clause-ending opcodes of R72 and R22. -/
def endsClause : Op → Bool
  | .bra | .brai | .call | .calli | .ret | .exit | .yield | .nop | .seamWait 
  | .serOpen | .serClose | .regroup | .trapi | .tret | .preemptDone | .sliceYield => true
  | _ => false

end Op

/-- The opcode and fields of an instruction that is a full word. -/
def parts : Instr → Option (Op × Form)
  | .iadd f => some (.iadd, f)
  | .isub f => some (.isub, f)
  | .iadd64 f => some (.iadd64, f)
  | .isub64 f => some (.isub64, f)
  | .imul f => some (.imul, f)
  | .imulh f => some (.imulh, f)
  | .imad f => some (.imad, f)
  | .imad64 f => some (.imad64, f)
  | .imadw f => some (.imadw, f)
  | .imin f => some (.imin, f)
  | .imax f => some (.imax, f)
  | .iabs f => some (.iabs, f)
  | .idiv f => some (.idiv, f)
  | .irem f => some (.irem, f)
  | .lut3 f => some (.lut3, f)
  | .shl f => some (.shl, f)
  | .shr f => some (.shr, f)
  | .sar f => some (.sar, f)
  | .shf f => some (.shf, f)
  | .bfe f => some (.bfe, f)
  | .bfi f => some (.bfi, f)
  | .popc f => some (.popc, f)
  | .clz f => some (.clz, f)
  | .brev f => some (.brev, f)
  | .findlsb f => some (.findlsb, f)
  | .icmp f => some (.icmp, f)
  | .isel f => some (.isel, f)
  | .plut3 f => some (.plut3, f)
  | .mov f => some (.mov, f)
  | .movi f => some (.movi, f)
  | .movl f => some (.movl, f)
  | .movs f => some (.movs, f)
  | .movg f => some (.movg, f)
  | .bra f => some (.bra, f)
  | .brai f => some (.brai, f)
  | .call f => some (.call, f)
  | .calli f => some (.calli, f)
  | .ret f => some (.ret, f)
  | .exit f => some (.exit, f)
  | .yield f => some (.yield, f)
  | .nop f => some (.nop, f)
  | .fadd f => some (.fadd, f)
  | .fsub f => some (.fsub, f)
  | .fmul f => some (.fmul, f)
  | .ffma f => some (.ffma, f)
  | .fmin f => some (.fmin, f)
  | .fmax f => some (.fmax, f)
  | .fcmp f => some (.fcmp, f)
  | .frnd f => some (.frnd, f)
  | .fclass f => some (.fclass, f)
  | .fscale f => some (.fscale, f)
  | .frcp f => some (.frcp, f)
  | .frsq f => some (.frsq, f)
  | .fsqrt f => some (.fsqrt, f)
  | .fdiv f => some (.fdiv, f)
  | .f2sum f => some (.f2sum, f)
  | .f2prd f => some (.f2prd, f)
  | .hadd2 f => some (.hadd2, f)
  | .hmul2 f => some (.hmul2, f)
  | .hfma2 f => some (.hfma2, f)
  | .fdot2 f => some (.fdot2, f)
  | .idot4 f => some (.idot4, f)
  | .cvt f => some (.cvt, f)
  | .cvti f => some (.cvti, f)
  | .packn f => some (.packn, f)
  | .unpackn f => some (.unpackn, f)
  | .fex2 f => some (.fex2, f)
  | .flg2 f => some (.flg2, f)
  | .fsin f => some (.fsin, f)
  | .fcos f => some (.fcos, f)
  | .cadd f => some (.cadd, f)
  | .cmul f => some (.cmul, f)
  | .ccmul f => some (.ccmul, f)
  | .cfma f => some (.cfma, f)
  | .cabs2 f => some (.cabs2, f)
  | .cexpi f => some (.cexpi, f)
  | .vote f => some (.vote, f)
  | .shfl f => some (.shfl, f)
  | .redux f => some (.redux, f)
  | .scan f => some (.scan, f)
  | .seamJoin f => some (.seamJoin, f)
  | .seamQuit f => some (.seamQuit, f)
  | .seamQuitm f => some (.seamQuitm, f)
  | .seamWait f => some (.seamWait, f)
  | .seamRead f => some (.seamRead, f)
  | .seamStore f => some (.seamStore, f)
  | .seamLoad f => some (.seamLoad, f)
  | .serOpen f => some (.serOpen, f)
  | .serClose f => some (.serClose, f)
  | .regroup f => some (.regroup, f)
  | .emit f => some (.emit, f)
  | .spawn f => some (.spawn, f)
  | .ebb f => some (.ebb, f)
  | .hlerp f => some (.hlerp, f)
  | .ld f => some (.ld, f)
  | .st f => some (.st, f)
  | .ldu f => some (.ldu, f)
  | .atom f => some (.atom, f)
  | .red f => some (.red, f)
  | .fence f => some (.fence, f)
  | .pref f => some (.pref, f)
  | .laysub f => some (.laysub, f)
  | .layinfo f => some (.layinfo, f)
  | .copy f => some (.copy, f)
  | .twait f => some (.twait, f)
  | .tfirst f => some (.tfirst, f)
  | .tmInit f => some (.tmInit, f)
  | .tmArrive f => some (.tmArrive, f)
  | .tmArrivew f => some (.tmArrivew, f)
  | .tmWait f => some (.tmWait, f)
  | .tmExpect f => some (.tmExpect, f)
  | .ownGive f => some (.ownGive, f)
  | .ownTake f => some (.ownTake, f)
  | .tcopy f => some (.tcopy, f)
  | .tcopyMc f => some (.tcopyMc, f)
  | .scatb f => some (.scatb, f)
  | .wqAsk f => some (.wqAsk, f)
  | .wqTake f => some (.wqTake, f)
  | .wqAdd f => some (.wqAdd, f)
  | .mma f => some (.mma, f)
  | .quant f => some (.quant, f)
  | .had f => some (.had, f)
  | .accZero f => some (.accZero, f)
  | .accDrain f => some (.accDrain, f)
  | .accSave f => some (.accSave, f)
  | .accLoad f => some (.accLoad, f)
  | .chainOpen f => some (.chainOpen, f)
  | .chainJoin f => some (.chainJoin, f)
  | .chainSend f => some (.chainSend, f)
  | .chainWait f => some (.chainWait, f)
  | .chainStatus f => some (.chainStatus, f)
  | .chainAbort f => some (.chainAbort, f)
  | .batOpen f => some (.batOpen, f)
  | .batPush f => some (.batPush, f)
  | .batClose f => some (.batClose, f)
  | .batDone f => some (.batDone, f)
  | .batStat f => some (.batStat, f)
  | .primEmit f => some (.primEmit, f)
  | .trace f => some (.trace, f)
  | .retv f => some (.retv, f)
  | .tex f => some (.tex, f)
  | .texl f => some (.texl, f)
  | .texf f => some (.texf, f)
  | .trapi f => some (.trapi, f)
  | .tret f => some (.tret, f)
  | .preemptDone f => some (.preemptDone, f)
  | .sliceYield f => some (.sliceYield, f)
  | .launch f => some (.launch, f)
  | .hintSucc f => some (.hintSucc, f)
  | .waitp f => some (.waitp, f)
  | .budgetRead f => some (.budgetRead, f)
  | _ => none

/-- The classes a destination field can have. -/
inductive DClass where
  /-- v, o, h or none (dst of R79); with `seed`, %seed as well (R92). -/
  | dst (seed : Bool)
  /-- A p specifier or none (pdst of R79). -/
  | pdst
  /-- An even v, an even h, or none (pairdst of R79). -/
  | pairdst
  | g (run align : Nat)
  /-- v or o; with `orNone`, none as well. -/
  | vo (orNone : Bool)
  /-- A run of v registers at a multiple of `align`; with `orNone`, none as well. -/
  | v (run align : Nat) (orNone : Bool)
  /-- Ten bits with the top two zero: a layout field (R264). -/
  | layout
  /-- Ten bits whose content the entry's own check accepts: an order field. -/
  | any
  /-- An unused field: zero (R61). -/
  | zero
  deriving DecidableEq, Repr

/-- The classes a source field can have. -/
inductive SClass where
  /-- v, g, o, l, h, special register or 8-bit immediate; with `lit`, the literal as well (src of R79). -/
  | src (lit : Bool)
  /-- An even v, g or h, or an 8-bit immediate; with `lit`, the literal as well (pair of R79). -/
  | pair (lit : Bool)
  /-- Bits [2:0] name a predicate and bits [9:3] are zero (psrc of R79). -/
  | psrc
  /-- A special register only (MOVS). -/
  | special
  /-- The literal only (MOVL, far BRA and CALL). -/
  | litOnly
  /-- A run of v registers at a multiple of `align`. -/
  | v (run align : Nat)
  /-- A g register. -/
  | g
  | h
  /-- The literal or immediate forms do not apply: a p destination specifier or none (WQ.TAKE). -/
  | pdst
  /-- Ten bits with the top two zero: a layout field (R264). -/
  | layout
  /-- Ten bits whose content the entry's own check accepts: an immediate, an order, type or tidemark field, or the table
  and short c of R85. -/
  | any
  /-- An unused field: zero (R61). -/
  | zero
  deriving DecidableEq, Repr

/-- The classes of an instruction's four fields, and whether bit [3] is accepted (R80, R101, R207, R267). -/
structure Sig where
  d : DClass
  a : SClass
  b : SClass
  c : SClass
  lw : Bool
  deriving DecidableEq, Repr

/-! ### Modifier values (R66, and each entry) -/

/-- The variant code [51:50] of class IU. -/
def iuVar (m : BitVec 4) : Nat := m.toNat % 4
/-- The U bit [52] of class IU. -/
def iuU (m : BitVec 4) : Bool := m.getLsbD 2
/-- The IMM bit [53] of classes IU and FR. -/
def modImm (m : BitVec 4) : Bool := m.getLsbD 3

/-- The modifier values that the opcode's class and entry accept; any other raises ILLEGAL_FORM (R66, R69 rule 4). -/
def modOk (op : Op) (m : BitVec 4) : Bool :=
  let n := m.toNat
  match op with
  | .iadd | .isub | .iadd64 | .isub64 | .imul | .imad => iuVar m ≤ 1                       -- R81
  | .imulh => iuVar m = 0 || (iuVar m = 1 && !iuU m)
  | .imad64 | .imadw | .imin | .imax | .idiv | .irem => iuVar m = 0
  | .iabs => n ≤ 1
  | .lut3 | .plut3 => true                                                                  -- R85
  | .shl | .shr | .sar => iuVar m ≤ 1 && !iuU m                                             -- R86
  | .shf => !iuU m                                                                          -- R87
  | .bfe => iuVar m = 0                                                                     -- R88
  | .bfi => iuVar m = 0 && !iuU m
  | .popc | .clz | .brev | .findlsb => n = 0                                                -- R89
  | .icmp => n / 2 ≤ 5                                                                      -- R90
  | .isel => n ≤ 1                                                                          -- R91
  | .mov | .movl | .movs => n = 0                                                           -- R92
  | .movi => n = 8 || n = 12
  | .movg => n ≤ 1                                                                          -- R93
  | .bra | .call => n ≤ 1                                                                   -- R95, R97
  | .brai | .calli | .ret | .exit | .yield | .nop => n = 0
  | .fadd | .fsub | .fmul | .ffma | .fscale | .fdiv => n % 8 ≤ 3                            -- R103
  | .fmin | .fmax | .f2sum | .f2prd => n % 8 = 0
  | .frnd | .frcp | .frsq | .fsqrt => n ≤ 3
  | .fcmp => n ≠ 13 && n ≠ 15                                                               -- R108
  | .fclass => n ≤ 1                                                                        -- R109
  | .hadd2 | .hmul2 | .hfma2 | .fdot2 => n ≤ 1                                              -- R114, R115
  | .idot4 => n ≤ 2                                                                         -- R116
  | .cvt | .cvti | .packn | .unpackn => n ≤ 4                                               -- R117
  | .fex2 | .flg2 | .fsin | .fcos | .cadd | .cmul | .ccmul | .cfma | .cabs2 | .cexpi => n = 0
  | .vote => n ≤ 3                                                                          -- R208
  | .shfl => n ≤ 7
  | .redux => n ≤ 10
  | .scan => true
  | .seamJoin | .seamQuit | .seamWait | .seamRead | .seamStore | .seamLoad => n ≤ 11
  | .seamQuitm | .serOpen | .serClose | .regroup => n = 0
  | .emit => n = 0                                                                          -- R176
  | .spawn => n ≤ 1
  | .ebb => n ≤ 7
  | .hlerp => n ≤ 2
  | .ld | .st | .ldu => n % 8 ≤ 4                                                           -- R267
  | .atom => n ≤ 12                                                                         -- R271
  | .red => n ≤ 12 && n ≠ 8 && n ≠ 9
  | .fence | .laysub => n = 0
  | .pref => n ≤ 1
  | .layinfo => n ≤ 12                                                                      -- R277
  | .copy => n / 4 ≤ 2 && n % 2 = 0                                                         -- R279
  | .twait => n ≤ 1
  | .tfirst | .tmInit | .tmArrive | .tmArrivew | .tmWait | .tmExpect | .ownTake => n = 0
  | .ownGive => 1 ≤ n && n ≤ 4
  | .tcopy | .tcopyMc => n ≤ 1                                                              -- R293
  | .scatb | .wqAsk | .wqTake => n = 0
  | .wqAdd => n ≤ 1
  | .mma | .quant | .had | .accZero | .accSave | .accLoad => n = 0                          -- R319
  | .accDrain => n ≤ 1
  | .chainOpen | .chainJoin | .chainWait | .chainStatus | .chainAbort => n = 0              -- R355
  | .chainSend => n ≤ 1
  | .batOpen | .batPush | .batClose | .batDone | .batStat => n = 0                          -- R371
  | .primEmit => n ≤ 2                                                                      -- R398
  | .trace | .texf => n ≤ 1
  | .retv | .tex | .texl => n = 0
  | .trapi | .preemptDone | .sliceYield | .launch | .hintSucc | .waitp => n = 0             -- R421, R439
  | .tret => n ≤ 2
  | .budgetRead => n ≤ 3

/-! ### Field contents that decide a form -/

/-- The order value [9:8] of an order field (R264). -/
def ordOrder (o : BitVec 10) : Nat := bitsOf o.toNat 9 8
/-- The scope [7:5] of an order field (R264). -/
def ordScope (o : BitVec 10) : Nat := bitsOf o.toNat 7 5
/-- The Remote bit of an order field (R264). -/
def ordRemote (o : BitVec 10) : Bool := o.getLsbD 4
/-- The U bit of an order field (R264). -/
def ordU (o : BitVec 10) : Bool := o.getLsbD 3
/-- The D bit of an order field (R264). -/
def ordD (o : BitVec 10) : Bool := o.getLsbD 2

/-- R265: which order fields an instruction accepts: the order values, whether a plain access has scope zero, and
whether Remote, U and D may be set. -/
def ordOk (o : BitVec 10) (orders : List Nat) (plainZero remote u d : Bool) : Bool :=
  orders.contains (ordOrder o) && ordScope o ≤ 5 && (!plainZero || ordOrder o ≠ 0 || ordScope o = 0) &&
  (!ordRemote o || (remote && ordScope o = 1 && ordOrder o % 2 = 1)) &&
  (u || !ordU o) && (d || !ordD o) && bitsOf o.toNat 1 0 = 0

/-- The To code [15:12] of a type field in source c (R117). -/
def typeTo (c : BitVec 10) : Nat := bitsOf c.toNat 9 6
/-- The From code [11:8] of a type field (R117). -/
def typeFrom (c : BitVec 10) : Nat := bitsOf c.toNat 5 2
/-- The U bit [7] of a type field (R117). -/
def typeU (c : BitVec 10) : Bool := c.getLsbD 1
/-- The SAT bit [6] of a type field (R117). -/
def typeSat (c : BitVec 10) : Bool := c.getLsbD 0

/-- The floating-point types of CVT: codes 0 to 6 and 9 (R118). -/
def isCvtFloat (t : Nat) : Bool := t ≤ 6 || t = 9
/-- The integer types of R33: INT8, INT16, INT32 and INT64. -/
def isIntType (t : Nat) : Bool := t = 7 || t = 10 || t = 11 || t = 14
/-- The other side that CVTI accepts: FP32, FP16 or BF16 (R119). -/
def isCvtiFloat (t : Nat) : Bool := t = 9 || t = 1 || t = 0

/-- R119: the type fields and rounding codes that CVTI accepts. -/
def cvtiOk (m : BitVec 4) (c : BitVec 10) : Bool :=
  let dest := typeTo c
  let fr := typeFrom c
  if isIntType dest && isIntType fr then m = 0
  else ((isIntType dest && isCvtiFloat fr) || (isCvtiFloat dest && isIntType fr)) && !typeSat c

/-- The element count n and the word count w of a packed type of R120, by its code; `none` where R120 does not list it. -/
def packShape (t : Nat) : Option (Nat × Nat) :=
  if t = 2 || t = 3 || t = 7 then some (4, 1)
  else if t = 4 || t = 5 then some (16, 3)
  else if t = 6 then some (8, 1)
  else if t = 8 then some (16, 1)
  else none

/-! ### Signatures -/

/-- Does a literal serve as source a: is that the source which the entry marks "lit" (R279)? Its field is zero then. DEDUCED (assumption 22). -/
def Sig.litA (s : Sig) : Bool :=
  s.b = .zero && (match s.a with
    | .src l | .pair l => l
    | _ => false)

/-- A two-source instruction of class IU or FR: with IMM, source b is the immediate in source c (R80, R102). DESIGN CHOICE (assumption 22): IMM and the
literal together give source b twice, and raise ILLEGAL_FORM. -/
def sigTwo (imm : Bool) (d : DClass) (a b : SClass) (lw : Bool) : Sig :=
  if imm then { d, a, b := .zero, c := .any, lw } else { d, a, b, c := .zero, lw }

/-- A three-source instruction of class IU or FR: with IMM, source c is the immediate (R80, R102). -/
def sigThree (imm : Bool) (d : DClass) (a b c : SClass) (lw : Bool) : Sig :=
  { d, a, b, c := if imm then .any else c, lw }

/-- The signature of a form with no operand. -/
def sigNone : Sig := { d := .zero, a := .zero, b := .zero, c := .zero, lw := false }

/-- The operand classes of an opcode with modifier `m`, given the raw destination, source-b and source-c fields (an order,
type or layout field decides some classes). `none`: the modifier or such a field is not one the entry accepts. -/
def sigOf (op : Op) (m : BitVec 4) (d b c : BitVec 10) : Option Sig :=
  if modOk op m = false then none else
  let n := m.toNat
  let imm := modImm m
  let src := SClass.src false
  let srcLit := SClass.src true
  let pair := SClass.pair false
  let pairLit := SClass.pair true
  let dst := DClass.dst false
  match op with
  | .iadd | .isub | .imul | .imulh | .imin | .imax => some (sigTwo imm dst src srcLit true)
  | .idiv | .irem => some (sigTwo imm dst src srcLit false)
  | .iadd64 | .isub64 => some (sigTwo imm .pairdst pair pairLit false)
  | .imad => some (sigThree imm dst src srcLit src true)
  | .imad64 => some (sigThree imm .pairdst pair srcLit pair false)
  | .imadw => some (sigThree imm .pairdst src srcLit src false)
  | .iabs | .popc | .clz | .brev | .findlsb => some { sigNone with d := dst, a := src, lw := true }
  | .lut3 => some { d := dst, a := src, b := srcLit, c := .any, lw := true }
  | .plut3 =>
    if bitsOf c.toNat 5 3 = 0 then some { d := .pdst, a := .psrc, b := .psrc, c := .any, lw := false } else none
  | .shl | .shr | .sar | .bfe => some (sigTwo imm dst src srcLit true)
  | .shf | .bfi => some (sigThree imm dst src srcLit src true)
  | .icmp | .fcmp => some { d := .pdst, a := src, b := srcLit, c := .psrc, lw := false }
  | .isel =>
    if n = 1 then some { d := .pairdst, a := pair, b := pairLit, c := .psrc, lw := false }
    else some { d := dst, a := src, b := srcLit, c := .psrc, lw := true }
  | .mov => some { sigNone with d := .dst true, a := src, lw := true }
  | .movi => some { sigNone with d := .dst true, c := .any, lw := true }
  | .movl => some { sigNone with d := .dst true, b := .litOnly, lw := true }
  | .movs => some { sigNone with d := dst, a := .special, lw := true }
  | .movg => some { sigNone with d := .g 1 1, a := src }
  | .bra => if n = 0 then some { sigNone with c := .any } else some { sigNone with b := .litOnly }
  | .call =>
    if n = 0 then some { sigNone with d := .vo true, c := .any } else some { sigNone with d := .vo true, b := .litOnly }
  | .brai | .ret => some { sigNone with a := src }
  | .calli => some { sigNone with d := .vo true, a := src }
  | .exit | .yield | .nop => some sigNone
  | .fadd | .fsub | .fmul | .fmin | .fmax | .fscale => some (sigTwo imm dst src srcLit true)
  | .fdiv => some (sigTwo imm dst src srcLit false)
  | .ffma => some (sigThree imm dst src srcLit src true)
  | .frnd => some { sigNone with d := dst, a := src, lw := true }
  | .frcp | .frsq | .fsqrt => some { sigNone with d := dst, a := src }
  | .f2sum | .f2prd => some (sigTwo imm .pairdst src srcLit false)
  | .fclass =>
    if n = 0 then some { sigNone with d := .pdst, a := src, c := .any }
    else some { sigNone with d := dst, a := src, lw := true }
  | .hadd2 | .hmul2 => some { d := dst, a := src, b := srcLit, c := .zero, lw := true }
  | .hfma2 | .fdot2 | .idot4 => some { d := dst, a := src, b := srcLit, c := src, lw := true }
  | .cvt =>
    if isCvtFloat (typeTo c) && isCvtFloat (typeFrom c) && !typeU c && !typeSat c then
      some { sigNone with d := dst, a := src, c := .any, lw := true }
    else none
  | .cvti =>
    if cvtiOk m c then
      some { d := if typeTo c = 14 then .pairdst else dst, a := if typeFrom c = 14 then pair else src, b := .zero, c := .any,
             lw := typeTo c ≠ 14 }
    else none
  | .packn =>
    match packShape (typeTo c) with
    | some (k, w) =>
      if typeFrom c = 0 && !typeU c && !typeSat c && (typeTo c ≠ 8 || n = 0) then
        some { d := .v w 1 false, a := .v k 1, b := srcLit, c := .any, lw := w = 1 }
      else none
    | none => none
  | .unpackn =>
    match packShape (typeTo c) with
    | some (k, w) =>
      if typeFrom c = 0 && !typeU c && !typeSat c then
        some { d := .v k 1 false, a := .v w 1, b := srcLit, c := .any, lw := false }
      else none
    | none => none
  | .fex2 | .flg2 | .fsin | .fcos => some { sigNone with d := dst, a := src }
  | .cadd | .cmul | .ccmul => some { d := .pairdst, a := pair, b := pairLit, c := .zero, lw := false }
  | .cfma => some { d := .pairdst, a := pair, b := pairLit, c := pair, lw := false }
  | .cabs2 => some { sigNone with d := dst, a := pair, lw := true }
  | .cexpi => some { sigNone with d := .pairdst, a := src }
  | .vote =>
    some { d := if n ≤ 1 then .pdst else if n = 2 then dst else .pairdst, a := .psrc, b := srcLit, c := .zero, lw := n = 2 }
  | .shfl =>
    some { d := if n ≤ 3 then dst else .pairdst, a := if n ≤ 3 then src else pair, b := srcLit, c := src, lw := n ≤ 3 }
  | .redux | .scan => some { d := dst, a := src, b := srcLit, c := .zero, lw := true }
  | .seamJoin | .seamQuit | .seamWait | .serOpen | .serClose => some sigNone
  | .seamQuitm => some { sigNone with b := srcLit }
  | .seamRead => some { sigNone with d := .v 4 1 false }
  | .seamStore | .seamLoad => some { sigNone with a := .v 1 1, c := .layout }
  | .regroup => some { sigNone with a := src }
  | .emit => some { sigNone with a := src }
  | .spawn => some { d := .pdst, a := .v 4 1, b := .zero, c := .v 4 1, lw := false }
  | .ebb => some sigNone
  | .hlerp => some { d := dst, a := .h, b := if n = 0 then .zero else .v 2 2, c := .zero, lw := true }
  | .ld =>
    if ordOk b [0, 1] true true (n % 8 ≤ 1) false then
      some { d := if n % 8 ≤ 2 then .vo false else if n % 8 = 3 then .v 2 2 false else .v 4 4 false,
             a := .v 1 1, b := .any, c := .layout, lw := false }
    else none
  | .st =>
    if ordOk d [0, 2] true false false false then
      some { d := .any, a := .v 1 1,
             b := if n % 8 ≤ 2 then srcLit else if n % 8 = 3 then pairLit else .v 4 4, c := .layout, lw := false }
    else none
  | .ldu =>
    if ordOk b [0, 1] true true (n % 8 ≤ 1) false then
      some { d := if n % 8 ≤ 2 then .g 1 1 else if n % 8 = 3 then .g 2 2 else .g 4 4,
             a := .g, b := .any, c := .layout, lw := false }
    else none
  | .atom =>
    if ordOk b [0, 1, 2, 3] false true false true && (!ordD b || n ≤ 9) then
      some { d := if n = 9 then (if ordD b then .v 4 4 false else .v 2 2 false)
                  else (if ordD b then .v 2 2 false else .v 1 1 false),
             a := .v 1 1, b := .any, c := .layout, lw := false }
    else none
  | .red =>
    if ordOk d [0, 2] false false false true && (!ordD d || n ≤ 9) then
      some { d := .any, a := .v 1 1, b := if ordD d then pair else srcLit, c := .layout, lw := false }
    else none
  | .fence => if ordOk b [1, 2, 3] false true false false then some { sigNone with b := .any } else none
  | .pref => some { sigNone with a := .v 1 1, c := .layout }
  | .laysub => some { d := .layout, a := .v 1 1, b := .zero, c := .layout, lw := false }
  | .layinfo => some { sigNone with d := dst, c := .layout, lw := true }
  | .copy => some { d := .layout, a := .v 1 1, b := srcLit, c := .layout, lw := false }
  | .twait => some { sigNone with a := pairLit }
  | .tfirst => some { sigNone with d := dst, a := pairLit }
  | .tmInit | .tmArrivew | .tmWait | .tmExpect => some { sigNone with a := srcLit, c := .any }
  | .tmArrive => some { sigNone with d := dst, a := srcLit, c := .any }
  | .ownGive | .ownTake => some { sigNone with c := .layout }
  | .tcopy | .tcopyMc | .scatb => some { d := .layout, a := .v 1 1, b := srcLit, c := .layout, lw := false }
  | .wqAsk => some { sigNone with d := .layout, b := srcLit }
  | .wqTake => some { sigNone with d := .vo false, c := .pdst }
  | .wqAdd => some { sigNone with a := src, b := if n = 1 then srcLit else .zero }
  | .mma | .quant | .had => some { d := .zero, a := src, b := srcLit, c := .layout, lw := false }
  | .accZero => some { sigNone with b := srcLit }
  | .accDrain =>
    let dest := typeTo c
    if (dest = 0 || dest = 9 || dest = 11 || (dest = 12 && n = 0)) && typeFrom c ≤ 3 && bitsOf c.toNat 1 0 = 0 then
      some { d := .layout, a := .v 2 1, b := srcLit, c := .any, lw := false }
    else none
  | .accSave | .accLoad => some { d := .layout, a := .v 1 1, b := srcLit, c := .zero, lw := false }
  | .chainOpen => some { sigNone with d := .pdst, a := pair }
  | .chainJoin => some { sigNone with d := .pdst, a := src, b := srcLit }
  | .chainSend =>
    if n = 0 then some { sigNone with a := src, b := srcLit } else some { sigNone with a := src, c := .layout }
  | .chainWait | .chainAbort => some { sigNone with a := src }
  | .chainStatus => some { sigNone with d := dst, a := src, lw := true }
  | .batOpen => some { sigNone with d := .pdst, a := src }
  | .batPush => some { sigNone with a := .v 1 1 }
  | .batClose | .batDone => some sigNone
  | .batStat => some { sigNone with d := dst, lw := true }
  | .primEmit => some { d := .zero, a := .v 3 1, b := srcLit, c := .h, lw := false }
  | .trace => some { d := .pdst, a := .v 10 1, b := .v 4 1, c := .layout, lw := false }
  | .retv => some { sigNone with a := .v 4 1, b := srcLit }
  | .tex | .texl | .texf => some { d := .v 4 4 false, a := .v 3 1, b := srcLit, c := .layout, lw := false }
  | .trapi => some { sigNone with b := srcLit }
  | .tret => some { sigNone with a := if n = 2 then src else .zero }
  | .preemptDone | .sliceYield | .hintSucc => some sigNone
  | .launch => some { d := dst, a := .v 1 1, b := srcLit, c := .layout, lw := false }
  | .waitp => some { sigNone with d := .pdst }
  | .budgetRead => some { sigNone with d := dst, lw := true }

/-- R199, R223, R439: these take only the unguarded form. -/
def guardOk (op : Op) (g : Guard) : Bool :=
  match op with
  | .serOpen | .serClose | .regroup | .preemptDone => g = Guard.always
  | _ => true

/-- Does the instruction, with this modifier, use source c for an operand? (R69 rule 5, R117.) -/
def cIsOperand (op : Op) (m : BitVec 4) : Bool :=
  match op with
  | .cvt | .cvti | .packn | .unpackn | .accDrain => false
  | _ => match sigOf op m 0x000 0x100 0x000 with
    | some s => s.c ≠ .zero
    | none => match sigOf op m 0x000 0x000 0x000 with
      | some s => s.c ≠ .zero
      | none => false

/-! ### Specifiers (R63) -/

/-- The ten bits of a destination (R63). -/
def encDst : Dst → BitVec 10
  | .v i => 0b00#2 ++ i
  | .g i => 0b01#2 ++ i
  | .o i => 0b10000000#8 ++ i
  | .h i => 0b1010#4 ++ i
  | .sr i => 0b1011#4 ++ i
  | .p i => 0b1100000#7 ++ i
  | .none => 0x3FF
  | .field x => x

/-- The ten bits of a source (R63); a literal leaves the field zero (R62). -/
def encOpnd : Opnd → BitVec 10
  | .v i => 0b00#2 ++ i
  | .g i => 0b01#2 ++ i
  | .o i => 0b10000000#8 ++ i
  | .l i => 0b10010000#8 ++ i
  | .h i => 0b1010#4 ++ i
  | .sr i => 0b1011#4 ++ i
  | .imm x => 0b11#2 ++ x
  | .lit _ => 0
  | .pred i => 0#7 ++ i
  | .field x => x

/-- Does a destination belong to a class? -/
def dstOk : DClass → Dst → Bool
  | .dst _, .v _ | .dst _, .o _ | .dst _, .h _ | .dst _, .none => true
  | .dst seed, .sr i => seed && i.toNat = 19
  | .pdst, .p _ | .pdst, .none => true
  | .pairdst, .v i => i.toNat % 2 = 0
  | .pairdst, .h i => i.toNat % 2 = 0
  | .pairdst, .none => true
  | .g run al, .g i => i.toNat % al = 0 && i.toNat + run ≤ 256
  | .vo _, .v _ | .vo _, .o _ => true
  | .vo n, .none => n
  | .v run al _, .v i => i.toNat % al = 0 && i.toNat + run ≤ 256
  | .v _ _ n, .none => n
  | .layout, .field x => x.toNat < 256
  | .any, .field _ => true
  | .zero, .field x => x = 0
  | _, _ => false

/-- Does a source belong to a class? Indices 32 to 63 of the special registers are reserved (R17). -/
def opndOk : SClass → Opnd → Bool
  | .src _, .v _ | .src _, .g _ | .src _, .o _ | .src _, .l _ | .src _, .h _ | .src _, .imm _ => true
  | .src _, .sr i => i.toNat < 32
  | .src l, .lit _ => l
  | .pair _, .v i => i.toNat % 2 = 0
  | .pair _, .g i => i.toNat % 2 = 0
  | .pair _, .h i => i.toNat % 2 = 0
  | .pair _, .imm _ => true
  | .pair l, .lit _ => l
  | .psrc, .pred _ => true
  | .special, .sr i => i.toNat < 32
  | .litOnly, .lit _ => true
  | .v run al, .v i => i.toNat % al = 0 && i.toNat + run ≤ 256
  | .g, .g _ => true
  | .h, .h _ => true
  | .pdst, .field x => x = 0x3FF || x.toNat / 8 = 0x60
  | .layout, .field x => x.toNat < 256
  | .any, .field _ => true
  | .zero, .field x => x = 0
  | _, _ => false

/-! ### The loop-nest word (R298 to R300) -/

/-- The operand words of a loop-nest operand that is not used are zero (R299). -/
def NestOpnd.isZero (x : NestOpnd) : Bool :=
  x.layout = 0 && x.base = 0 && x.s0 = 0 && x.s1 = 0 && x.s2 = 0 && x.s3 = 0 && x.s4 = 0

/-- The stride of an operand at a level. -/
def NestOpnd.stride (x : NestOpnd) : Nat → BitVec 8
  | 0 => x.s0
  | 1 => x.s1
  | 2 => x.s2
  | 3 => x.s3
  | _ => x.s4

/-- The element count of a nest at a level (R70). -/
def NestForm.count (n : NestForm) : Nat → Nat
  | 0 => n.ext0.toNat + 1
  | 1 => n.ext1.toNat + 1
  | 2 => n.ext2.toNat + 1
  | 3 => n.ext3.toNat + 1
  | _ => n.ext4.toNat + 1

/-- The floating-point data types of LNEST (R299). -/
def nestFloat (t : Nat) : Bool := t = 0 || t = 1 || t = 9
/-- The integer data types of LNEST (R299). -/
def nestInt (t : Nat) : Bool := t = 7 || t = 10 || t = 11

/-- The conditions that R70, R299 and R300 put on a loop-nest word; a word that breaks one raises ILLEGAL_FORM. -/
def nestOk (n : NestForm) : Bool :=
  let op := n.op.toNat
  let t := n.dtype.toNat
  op ≤ 8 && (nestFloat t || nestInt t) && (op ≤ 5 || nestInt t) &&
  (if nestFloat t then n.rnd.toNat ≤ 3 else n.rnd = 0) &&
  (n.red = 0 || (op ≠ 0 && op ≠ 2)) &&
  (if op = 0 || n.red ≠ 0 then n.x2.isZero else true) &&
  (List.range 5).all (fun k => !n.red.getLsbD k || n.x0.stride k = 0)

end Sys2Proof
end

