-- ==== Sys2Proof/WellFormed.lean ====
section
/-!
DEFINITION. Which terms of `Instr` are instructions: the terms that an encoding stands for (R60 to R75).
A step that is no encoded instruction is well formed as it stands.
-/
namespace Sys2Proof

/-- A form is well formed for an opcode: the entry accepts its modifier and guard, every operand is of the class the entry
gives that field, bit [3] is used only where it is accepted (R28, R80), and bit [2] only on a long-latency instruction (R61). -/
def Form.wf (op : Op) (f : Form) : Bool :=
  match sigOf op f.mod (encDst f.dst) (encOpnd f.b) (encOpnd f.c) with
  | none => false
  | some s =>
    guardOk op f.guard && dstOk s.d f.dst && opndOk s.a f.a && opndOk s.b f.b && opndOk s.c f.c &&
    (s.lw || f.lw = none) && (op.isLong || !f.fsel)

/-- A well-formed instruction. -/
def Instr.wf (i : Instr) : Bool :=
  match parts i with
  | some (op, f) => f.wf op
  | none =>
    match i with
    | .lnest n => nestOk n
    | _ => true

end Sys2Proof
end

