-- ==== Sys2Proof/Decode.lean ====
section
/-!
DEFINITION. The decoder of instructions (R57 to R70, R75), total on any parcels, and the encoder written from the same tables.
A rejection carries the guard of the word, because a fault checked at an instruction is raised only on the lanes whose guard is
true (R76).
-/
namespace Sys2Proof

/-- Why parcels are no instruction (R75). -/
inductive Reject where
  /-- ILLEGAL_OPCODE: the opcode is unassigned. -/
  | illegalOpcode (g : Guard) (op : BitVec 8)
  /-- ILLEGAL_FORM at the instruction. -/
  | illegalForm (g : Guard)
  /-- ILLEGAL_FORM at clause fetch: a header marker inside a body (R59). -/
  | headerMarker
  /-- ILLEGAL_FORM at clause fetch: the instruction runs past the parcels given (R19). -/
  | pastEnd
  deriving DecidableEq, Repr

/-! ### Fields -/

/-- A destination specifier (R63), whatever the class. -/
def parseDst (x : BitVec 10) : Option Dst :=
  let top := x.extractLsb' 8 2
  if top = 0 then some (.v (x.extractLsb' 0 8))
  else if top = 1 then some (.g (x.extractLsb' 0 8))
  else if x = 0x3FF then some .none
  else if top = 3 then (if x.extractLsb' 3 5 = 0 then some (.p (x.extractLsb' 0 3)) else none)
  else
    let mid := x.extractLsb' 6 2
    if mid = 0 then (if x.extractLsb' 2 4 = 0 then some (.o (x.extractLsb' 0 2)) else none)
    else if mid = 1 then none
    else if mid = 2 then some (.h (x.extractLsb' 0 6))
    else some (.sr (x.extractLsb' 0 6))

/-- A source specifier (R63), whatever the class. -/
def parseSrc (x : BitVec 10) : Option Opnd :=
  let top := x.extractLsb' 8 2
  if top = 0 then some (.v (x.extractLsb' 0 8))
  else if top = 1 then some (.g (x.extractLsb' 0 8))
  else if top = 3 then some (.imm (x.extractLsb' 0 8))
  else
    let mid := x.extractLsb' 6 2
    if mid = 0 then (if x.extractLsb' 2 4 = 0 then some (.o (x.extractLsb' 0 2)) else none)
    else if mid = 1 then (if x.extractLsb' 2 4 = 0 then some (.l (x.extractLsb' 0 2)) else none)
    else if mid = 2 then some (.h (x.extractLsb' 0 6))
    else some (.sr (x.extractLsb' 0 6))

/-- Keeps a value that passes a check. -/
def keepIf (ok : α → Bool) : Option α → Option α
  | some x => if ok x then some x else none
  | none => none

/-- The destination that a field of a class holds. -/
def decDst (cls : DClass) (x : BitVec 10) : Option Dst :=
  keepIf (dstOk cls) (match cls with
    | .layout | .any | .zero => some (.field x)
    | _ => parseDst x)

/-- The source that a field of a class holds. -/
def decOpnd (cls : SClass) (x : BitVec 10) : Option Opnd :=
  keepIf (opndOk cls) (match cls with
    | .layout | .any | .zero | .pdst => some (.field x)
    | .psrc => if x.extractLsb' 3 7 = 0 then some (.pred (x.extractLsb' 0 3)) else none
    | .litOnly => none
    | _ => parseSrc x)

/-- A source that the literal may serve as: the literal where there is one, whose field is then zero (R62), else the field. -/
def decSrcLit (cls : SClass) (x : BitVec 10) : Option (BitVec 32) → Option Opnd
  | some v => if x = 0 then keepIf (opndOk cls) (some (.lit v)) else none
  | none => decOpnd cls x

/-- The L index [5:4] and Write L [3]: the index is zero where bit [3] is clear (R61). -/
def decLw (idx : BitVec 2) (w : Bool) : Option (Option (BitVec 2)) :=
  if w then some (some idx) else if idx = 0 then some none else none

/-! ### Words -/

/-- The guard of a full word (R26, R60). -/
def wordGuard (w : BitVec 64) : Guard := { idx := w.extractLsb' 46 3, neg := w.getLsbD 49 }

/-- The form that a full word with this opcode holds, or `none` where it breaks a rule of R75 that raises ILLEGAL_FORM. -/
def decodeForm (op : Op) (w : BitVec 64) (lit : Option (BitVec 32)) : Option Form :=
  let m := w.extractLsb' 50 4
  let d := w.extractLsb' 36 10
  let a := w.extractLsb' 26 10
  let b := w.extractLsb' 16 10
  let c := w.extractLsb' 6 10
  match sigOf op m d b c with
  | none => none
  | some s =>
    match decDst s.d d, decSrcLit s.a a (if s.litA then lit else none), decSrcLit s.b b (if s.litA then none else lit), decOpnd s.c c,
        decLw (w.extractLsb' 4 2) (w.getLsbD 3) with
    | some dst, some a, some b, some c, some lw =>
      let f : Form := { mod := m, guard := wordGuard w, dst, a, b, c, lw, fsel := w.getLsbD 2 }
      if guardOk op f.guard && (s.lw || f.lw = none) && (op.isLong || !f.fsel) && !w.getLsbD 0 then some f else none
    | _, _, _, _, _ => none

/-- A full word and its literal (R60, R62, R75). -/
def decodeFull (w : BitVec 64) (lit : Option (BitVec 32)) : Except Reject Instr :=
  match Op.decode (w.extractLsb' 54 8).toNat with
  | none => .error (.illegalOpcode (wordGuard w) (w.extractLsb' 54 8))
  | some op =>
    match decodeForm op w lit with
    | none => .error (.illegalForm (wordGuard w))
    | some f => .ok (op.instr f)

/-- A dictionary parcel stands for its entry (R68): the patch replaces bits [4:0] of source c where the entry's bit [0] is set. -/
def dictWord (entry : BitVec 64) (patch : BitVec 5) : BitVec 64 :=
  entry.extractLsb' 11 53 ++ patch ++ entry.extractLsb' 1 5 ++ 0#1

/-- A dictionary parcel (R68). DESIGN CHOICE (assumption 70): one beyond the bank has no entry and so no guard, and traps on every lane of the path. -/
def decodeDict (bank : List (BitVec 64)) (p : Parcel) : Except Reject Instr :=
  match bank[(p.extractLsb' 0 10).toNat]? with
  | none => .error (.illegalForm Guard.always)
  | some e =>
    let patch := p.extractLsb' 10 5
    if e.getLsbD 0 then decodeFull (dictWord e patch) none
    else if patch = 0 then decodeFull e none
    else .error (.illegalForm (wordGuard e))

/-- One operand of a loop-nest word (R70), from its layout, base and stride fields. -/
def decodeNestOpnd (w : BitVec 256) (lay base str : Nat) : NestOpnd :=
  { layout := w.extractLsb' lay 8, base := w.extractLsb' base 8,
    s4 := w.extractLsb' (str + 32) 8, s3 := w.extractLsb' (str + 24) 8, s2 := w.extractLsb' (str + 16) 8,
    s1 := w.extractLsb' (str + 8) 8, s0 := w.extractLsb' str 8 }

/-- The loop-nest word (R70). -/
def decodeNest (w : BitVec 256) : Except Reject Instr :=
  let n : NestForm :=
    { op := w.extractLsb' 245 8, dtype := w.extractLsb' 241 4, rnd := w.extractLsb' 238 3, red := w.extractLsb' 233 5,
      ext4 := w.extractLsb' 221 12, ext3 := w.extractLsb' 209 12, ext2 := w.extractLsb' 197 12,
      ext1 := w.extractLsb' 185 12, ext0 := w.extractLsb' 173 12,
      x2 := decodeNestOpnd w 165 141 85, x1 := decodeNestOpnd w 157 133 45, x0 := decodeNestOpnd w 149 125 5,
      fsel := w.getLsbD 4 }
  if nestOk n && w.extractLsb' 0 4 = 0 then .ok (.lnest n) else .error (.illegalForm Guard.always)

/-- Four parcels as a word: the first holds the highest bits (R57). -/
def joinParcels4 (p0 p1 p2 p3 : Parcel) : BitVec 64 := p0 ++ p1 ++ p2 ++ p3

/-- The first `n` parcels as one number, the first the highest (R57); `none` where there are fewer. -/
def joinParcels : Nat → List Parcel → Option Nat
  | 0, _ => some 0
  | _ + 1, [] => none
  | n + 1, p :: ps => (joinParcels n ps).map (fun x => p.toNat * 65536 ^ n + x)

/-- The instruction at the head of a list of parcels, and its length in parcels (R58). -/
def decodeParcels (bank : List (BitVec 64)) : List Parcel → Except Reject (Instr × Nat)
  | [] => .error .pastEnd
  | p :: ps =>
    if p.getLsbD 15 = false then (decodeDict bank p).map (·, 1)
    else if p.getLsbD 14 = false then
      match ps with
      | p1 :: p2 :: p3 :: rest =>
        let w := joinParcels4 p p1 p2 p3
        if w.getLsbD 1 then
          match rest with
          | q0 :: q1 :: _ => (decodeFull w (some (q0 ++ q1))).map (·, 6)
          | _ => .error .pastEnd
        else (decodeFull w none).map (·, 4)
      | _ => .error .pastEnd
    else if p.getLsbD 13 = false then
      match joinParcels 16 (p :: ps) with
      | some w => (decodeNest (BitVec.ofNat 256 w)).map (·, 16)
      | none => .error .pastEnd
    else .error .headerMarker

/-- The length in parcels of the instruction at the head of a list, known from its first four parcels (R58): the length
serves where the word itself is no instruction. -/
def parcelLength : List Parcel → Except Reject Nat
  | [] => .error .pastEnd
  | p :: ps =>
    if p.getLsbD 15 = false then .ok 1
    else if p.getLsbD 14 = false then
      match ps with
      | _ :: _ :: p3 :: _ => .ok (if p3.getLsbD 1 then 6 else 4)
      | _ => .error .pastEnd
    else if p.getLsbD 13 = false then .ok 16
    else .error .headerMarker

/-- Bytes as parcels, each little-endian (R57, R8). -/
def parcelsOf : List Byte → List Parcel
  | lo :: hi :: rest => (hi ++ lo) :: parcelsOf rest
  | _ => []

/-- The instruction at the head of a list of code bytes. -/
def decodeBytes (bank : List (BitVec 64)) (bs : List Byte) : Except Reject (Instr × Nat) := decodeParcels bank (parcelsOf bs)

/-- The parcels of a number whose lowest 16 bits are the first parcel. -/
def parcelsOfNat : Nat → Nat → List Parcel
  | 0, _ => []
  | k + 1, w => BitVec.ofNat 16 w :: parcelsOfNat k (w / 65536)

/-- The instruction that the decoder reads from an instruction whose bits are `w`, numbered from the first parcel up, in a clause
whose bank is empty. Bits at and above `nbits` are zero; the longest instruction has 16 parcels. -/
def decodeTableWord (nbits w : Nat) : Option Instr :=
  match decodeParcels [] (parcelsOfNat 16 (w % 2 ^ nbits)) with
  | .ok (i, _) => some i
  | .error _ => none

/-! ### The encoder -/

/-- The literal of a form (R62). -/
def Form.literal (f : Form) : Option (BitVec 32) :=
  match f.b, f.a with
  | .lit v, _ => some v
  | _, .lit v => some v
  | _, _ => none

/-- The full word of an opcode and a form (R60). -/
def encodeFull (op : Op) (f : Form) : BitVec 64 :=
  0b10#2 ++ op.code ++ f.mod ++ bit1 f.guard.neg ++ f.guard.idx ++ encDst f.dst ++ encOpnd f.a ++ encOpnd f.b ++ encOpnd f.c ++
    f.lw.getD 0 ++ bit1 f.lw.isSome ++ bit1 f.fsel ++ bit1 f.literal.isSome ++ 0#1

/-- The five strides of an operand, level 4 highest (R70). -/
def encStrides (x : NestOpnd) : BitVec 40 := x.s4 ++ x.s3 ++ x.s2 ++ x.s1 ++ x.s0

/-- The loop-nest word (R70). -/
def encodeNest (n : NestForm) : BitVec 256 :=
  0b110#3 ++ n.op ++ n.dtype ++ n.rnd ++ n.red ++ n.ext4 ++ n.ext3 ++ n.ext2 ++ n.ext1 ++ n.ext0 ++
    n.x2.layout ++ n.x1.layout ++ n.x0.layout ++ n.x2.base ++ n.x1.base ++ n.x0.base ++
    encStrides n.x2 ++ encStrides n.x1 ++ encStrides n.x0 ++ bit1 n.fsel ++ 0#4

/-- A word cut into parcels, the highest bits first (R57). -/
def splitParcels (k w : Nat) : List Parcel :=
  match k with
  | 0 => []
  | k + 1 => BitVec.ofNat 16 (w / 65536 ^ k) :: splitParcels k w

/-- The parcels of an instruction; a step that is no encoded instruction has none. -/
def encode (i : Instr) : List Parcel :=
  match parts i with
  | some (op, f) =>
    splitParcels 4 (encodeFull op f).toNat ++
      (match f.literal with
       | some v => splitParcels 2 v.toNat
       | none => [])
  | none =>
    match i with
    | .lnest n => splitParcels 16 (encodeNest n).toNat
    | _ => []

end Sys2Proof
end

