-- ==== Sys2Proof/Config.lean ====
section
/-!
DEFINITION. What is fixed for one device: the organisation of R1 and the values the spec leaves open, as constants with no
body, so that no proof can rest on a value of theirs (guide, free values).
-/
namespace Sys2Proof.Config

/-- R1, R333: 96 cores, 24 to a die, 4 to a reef. -/
def cores : Nat := 96
/-- R1: partitions of a core. -/
def parts : Nat := 16
/-- R227: bytes of scratchpad of a core. -/
def scratchBytes : Nat := 2097152
/-- R234, R237: granules of 512 bytes of a core's scratchpad. -/
def granules : Nat := 4096
/-- R158: bytes of register file of a partition. -/
def regFileBytes : Nat := 262144
/-- R408: group slots of a partition. -/
def groupSlots : Nat := 64
/-- R1: bytes of accumulator memory of a core. -/
def accBytes : Nat := 1048576
/-- R331: bytes of landing buffer of a core. -/
def landingBytes : Nat := 262144
/-- R168: bytes of a core's Shelf that hold slots. -/
def shelfBytes : Nat := 229376
/-- R364: claims that a core's claim table holds. -/
def claimTable : Nat := 16384
/-- R1: bytes of device memory: 288 GiB. -/
def deviceBytes : Nat := 309237645312
/-- R461: entries of a command queue's pending launches (R425). -/
def pendingLaunches : Nat := 4096

/-- The open outcome of R110: for FEX2 (0), FLG2 (1), FSIN (2) and FCOS (3), whether the upper of the two bracketing FP32 values is
returned for an input. One value per function and input, the same in every run. -/
opaque faithfulUp (fn : Nat) (a : BitVec 32) : Bool

/-- R394 has no real value to test with where a ray's origin or direction is infinite, or a vertex is no finite number. The entry and the exit of a ray
with such an origin or direction at the slab of one axis, by those two and the slab's bounds (assumption 10). -/
opaque looseSlab (o d lo hi : BitVec 32) : BitVec 32 × BitVec 32
/-- Whether such a ray meets a leaf's triangle, or any ray one with such a vertex: t, b1, b2, and whether it is met from the front, by the ray's first eight
registers and the leaf (assumption 10). -/
opaque looseMeet (ray : List (BitVec 32)) (leaf : BitVec 512) : Option (BitVec 32 × BitVec 32 × BitVec 32 × Bool)
/-- A free value for each number drawn (assumption 10). -/
opaque freeValue : Nat → BitVec 64

/-- The first 64 bits of AES-CMAC under a code key (R467), computed over the given bytes. -/
opaque lineTag (key data : List Byte) : BitVec 64
/-- The code key that TENANT_CREATE unwraps with RSA-OAEP (R459); `none` where the wrapping is not valid. -/
opaque unwrapKey (identity : BitVec 4096) (wrapped : List Byte) : Option (List Byte)
/-- A data key that the device generates (R459). -/
opaque dataKey (n : Nat) : List Byte
/-- Does an image carry a valid RSA-4096 signature under the vendor key (R470, R472)? -/
opaque imageOk (image : List Byte) : Bool
/-- Is a signed image a configuration image, rather than firmware (R472)? -/
opaque imageIsConfig (image : List Byte) : Bool
/-- The version that a signed image carries (R475). -/
opaque imageVersion (image : List Byte) : BitVec 24
/-- The erratum list of a configuration image: number, and whether it is present rather than corrected (R469). -/
opaque imageErrata (image : List Byte) : List (BitVec 32 × Bool)
/-- The stepping that a configuration image names (R475). -/
opaque imageStepping (image : List Byte) : BitVec 8
/-- The response of a die's physically unclonable function, the same at every reset (R471). -/
opaque puf (die : Nat) : List Byte
/-- The private half of the RSA-4096 identity key that firmware derives from a hash (R471). -/
opaque identityKey (hash : List Byte) : BitVec 4096
/-- The RSASSA-PSS signature of a report under an identity key (R473). -/
opaque signReport (identity : BitVec 4096) (report : List Byte) : BitVec 4096
/-- The identity certificate of the configuration image (R471). -/
opaque certificate (image : List Byte) : List Byte

/-- Does the check of the links to a peer fail at a link training (R450)? By the free value's number at that training and the peer
(assumption 7). -/
opaque linksWrong (training : Nat) (peer : Nat) : Bool
/-- What the target's table says of a PEER access (R455), by its page in the peers' space, the time, and whether it reads and writes: 0 the page is there,
1 it is missing and offered to the target's host, 2 that host cannot resolve it, 3 its leaf forbids the access (assumption 46). -/
opaque peerPage (page clock : Nat) (reads writes : Bool) : BitVec 2
/-- Whether a launch of a tenant with a link id stands on a peer device (R457), at a time (assumption 30). -/
opaque peerLaunch (device tenant link clock : Nat) : Bool

end Sys2Proof.Config
end

