-- ==== Sys2Proof/Machine/SMap.lean ====
section
/-!
DEFINITION. Sparse maps: a list of (key, value) pairs in one canonical form, keys strictly rising and no value zero, so that equal
maps are equal lists. A key that is not listed reads as zero. Memory, register files and tables are held so.
-/
namespace Sys2Proof

/-- A map from naturals to n-bit values; absent keys read as zero. -/
abbrev SMap (n : Nat) := List (Nat × BitVec n)

namespace SMap
variable {n : Nat}

/-- The value at a key. -/
def get : SMap n → Nat → BitVec n
  | [], _ => 0
  | (j, x) :: m, k => if j = k then x else get m k

/-- Puts a pair before the first greater key. -/
def ins (k : Nat) (x : BitVec n) : SMap n → SMap n
  | [] => [(k, x)]
  | (j, y) :: m => if k < j then (k, x) :: (j, y) :: m else (j, y) :: ins k x m

/-- Removes a key. -/
def del (m : SMap n) (k : Nat) : SMap n := m.filter (fun c => c.1 ≠ k)

/-- The map with a key changed: writing zero removes the entry. -/
def set (m : SMap n) (k : Nat) (x : BitVec n) : SMap n := if x = 0 then del m k else ins k x (del m k)

/-- Keys strictly rising above a bound and no zero value. -/
def wfFrom : Option Nat → SMap n → Bool
  | _, [] => true
  | lo, (k, x) :: m => (match lo with
                        | none => true
                        | some j => j < k) && x ≠ 0 && wfFrom (some k) m

/-- The canonical form. -/
def wf (m : SMap n) : Bool := wfFrom none m

/-- Writes a list of pairs, the first first. -/
def setAll (m : SMap n) : List (Nat × BitVec n) → SMap n
  | [] => m
  | (k, x) :: l => setAll (set m k x) l

/-- Keeps the entries whose key passes a test. -/
def keep (m : SMap n) (p : Nat → Bool) : SMap n := m.filter (fun c => p c.1)

end SMap

/-- The first record of a list with an identifier. -/
def findId (key : α → Nat) (k : Nat) : List α → Option α
  | [] => none
  | x :: l => if key x = k then some x else findId key k l

/-- Changes every record with an identifier. -/
def updId (key : α → Nat) (k : Nat) (f : α → α) : List α → List α
  | [] => []
  | x :: l => (if key x = k then f x else x) :: updId key k f l

/-- Removes every record with an identifier. -/
def delId (key : α → Nat) (k : Nat) (l : List α) : List α := l.filter (fun x => key x ≠ k)

/-- Insertion into a list sorted by a strict order. -/
def insertBy (lt : α → α → Bool) (x : α) : List α → List α
  | [] => [x]
  | y :: l => if lt x y then x :: y :: l else y :: insertBy lt x l
/-- The list sorted, equals in their order. -/
def sortBy (lt : α → α → Bool) (l : List α) : List α := l.foldl (fun acc x => insertBy lt x acc) []

end Sys2Proof
end

