-- ==== Sys2Proof/Machine/State.lean ====
section
/-!
DEFINITION. The state of one device, as plain data: every piece of state that the spec names (INVENTORY.md lists each with its
rule), the steps still to come (the model's agenda, assumption 2), and State.reset.
Records that exist in numbers carry an identifier that is never used again; a sparse map (SMap) holds what is indexed.
-/
namespace Sys2Proof.Machine

/-! ### The launch record, as parsed -/

/-- A level descriptor (R145). -/
structure Level where
  present : Bool
  name : Nat
  domain : Nat
  scope : Nat
  width : Nat
  held : Nat
  gen : Nat
  spans : Bool
  countSrc : Bool
  countReg : Nat
  count : Nat
  uniform : Nat
  imageLen : Nat
  imageOff : Nat
  deriving DecidableEq, Repr

/-- A role entry (R157). -/
structure RoleEntry where
  entry : Nat
  budget : Nat
  groups : Nat
  deriving DecidableEq, Repr

/-- A Shelf table entry (R167). -/
structure ShelfEntry where
  slots : Nat
  backing : Option Nat
  backSlots : Nat
  deriving DecidableEq, Repr

/-- A tile descriptor (R310): format 0 declares no tile; rows and columns in elements. -/
structure TileDesc where
  format : Nat
  rows : Nat
  cols : Nat
  split : Bool
  home : Nat
  deriving DecidableEq, Repr

/-- The work descriptor (R304). -/
structure WorkDesc where
  count : Nat
  first : Nat
  depth : Nat
  dynamic : Bool
  deriving DecidableEq, Repr

/-- The draw descriptor (R379); width and height in pixels, coarse in pixels, samples per pixel. -/
structure DrawDesc where
  present : Bool
  x0 : Nat
  y0 : Nat
  width : Nat
  height : Nat
  clear : Word
  home : Nat
  pass : Nat
  coarse : Nat
  samples : Nat
  capacity : Nat
  deriving DecidableEq, Repr

/-- A launch record (R404, R405). Bases of the root layouts are tenant virtual addresses (R453). -/
structure LaunchRec where
  levels : List Level
  entries : List Nat
  roles : Bool
  roleLevel : Nat
  roleEntries : List RoleEntry
  heldMap : List Nat
  shelf : List ShelfEntry
  tiles : List TileDesc
  work : WorkDesc
  draw : DrawDesc
  handlers : List Nat
  restores : List Nat
  roots : List (BitVec 512)
  pool : List Word
  deadline : Nat
  budget : Nat
  seed : Word
  scratch : Nat
  tagBase : Nat
  tagCount : Nat
  derived : Nat
  spread : Bool
  budgets : List Nat
  deriving DecidableEq, Repr

/-! ### Lanes and groups -/

/-- Where TRET sends a lane once its handler closes (R423): to a header, to the trapped instruction, or past it. -/
inductive Return where
  | header (pc : Nat)
  | retry
  | skip
  deriving DecidableEq, Repr

/-- The state of a lane (R183, R152, R418, R438). `ft` is the fall-through header of the clause the lane stopped in. -/
inductive LaneSt where
  /-- A lane without an element (R152). -/
  | missing
  | free
  | arrived (seam ft : Nat)
  | pending
  | held (ft : Nat)
  /-- Regrouping at the REGROUP at code offset `site`, with its key (R222, R223). -/
  | regrouping (ft site : Nat) (key : Word)
  /-- A handler lane that has executed TRET, waiting for the handler to close (R418). -/
  | returned (dest : Return)
  /-- A handler lane that has executed PREEMPT.DONE (R438). -/
  | done
  | exited
  deriving DecidableEq, Repr

/-- A register that a long-latency instruction writes when it completes. -/
inductive RegRef where
  | v (i : Nat)
  | o (i : Nat)
  | h (i : Nat)
  | p (i : Nat)
  | g (i : Nat)
  /-- An L entry, valid from then to the end of the clause (R28). -/
  | l (i : Nat)
  | seed
  deriving DecidableEq, Repr

/-- One lane of a group: its element and its registers (R11, R17). -/
structure Lane where
  st : LaneSt
  elem : Nat
  /-- The header at which the lane stands, a code-object byte offset (R183). -/
  pc : Nat
  v : SMap 32
  o : SMap 32
  l : SMap 32
  /-- The valid bits of l0 to l3 (R28). -/
  lValid : BitVec 4
  /-- The valid bits that a handler keeps hidden, and the L entries themselves (R417). -/
  lHidden : BitVec 4
  lKept : SMap 32
  /-- p0 to p6; p7 reads true whatever bit [7] holds (R14). -/
  p : BitVec 8
  seed : Word
  clockHi : Word
  /-- W, the wait count (R185). -/
  wait : Nat
  /-- The lane's %trap.info (R437). -/
  info : Word
  /-- The header at which the lane stood when its handler opened (R416). -/
  retPc : Nat
  /-- R440: the lane runs its restore code and has made no taken transfer yet; what held instructions write at that transfer. -/
  restoring : Bool
  late : List (RegRef × Word)
  deriving DecidableEq, Repr

/-- The clause that a group is running (R25). -/
structure Run where
  /-- The offset of its header. -/
  hdr : Nat
  /-- The offset of the instruction being run, and of the next one. -/
  cur : Nat
  next : Nat
  /-- The parcels of the body still to be decoded, and those from the instruction being run on, for an instruction that waits at
  issue (R281, R313) or is retried (R423). -/
  body : List Parcel
  curBody : List Parcel
  /-- The offset of the fall-through header (R19). -/
  ft : Nat
  /-- The lanes of the path. -/
  lanes : LaneMask
  flagA : Option Nat
  flagB : Option Nat
  bank : Nat
  /-- What the flag counts still hold for instructions not yet run (R23, R417). -/
  remA : Nat
  remB : Nat
  /-- The free lanes of ready paths that were not chosen, whose W rises when the clause ends (R185). -/
  losers : LaneMask
  /-- The lanes that leave the clause by a transfer, and where each goes. -/
  targets : List (Nat × Nat)
  /-- The header's yield hint, or YIELD's (R20, R99): at the clause's end the scheduler prefers another group. -/
  hint : Bool
  deriving DecidableEq, Repr

/-- An open handler (R416 to R418). -/
structure Handler where
  cause : BitVec 8
  pc : Nat
  trapLanes : LaneMask
  lanes : LaneMask
  /-- The clause of a synchronous trap at an instruction, kept for TRET (R417, R423). -/
  kept : Option Run
  /-- R278: the lanes of that clause on which its instruction has not been performed. -/
  todo : LaneMask
  /-- Was the trap at a header, or asynchronous? Then .NEXT acts as .RETRY (R423). -/
  atHeader : Bool
  tret : Bool
  preDone : Bool
  deriving DecidableEq, Repr

/-- An open serial region (R199, R200): its entering lanes, the serial lane, where its turns start. -/
structure Serial where
  lanes : LaneMask
  lane : Nat
  start : Nat
  deriving DecidableEq, Repr

/-- A report of ENGINE_FAULT: the word of R292 and the path that issued. -/
structure EngFault where
  info : Word
  lanes : LaneMask
  deriving DecidableEq, Repr

/-- A chain binding (R337). -/
structure Binding where
  name : Word
  gen : Nat
  exact : Bool
  rows : Nat
  cols : Nat
  share : Nat
  pending : Bool
  suspended : Bool
  deriving DecidableEq, Repr

/-- One group (R152, R153, R157). -/
structure Group where
  id : Nat
  block : Nat
  launch : Nat
  level : Nat
  num : Nat
  role : Nat
  width : Nat
  core : Nat
  part : Nat
  lanes : List Lane
  g : SMap 32
  /-- Outstanding-work counts of f0 to f11 (R23). A clause starts only where no count passes 4,095; one bit more holds what TRET adds back (R423)
  and the lanes of an instruction performed in part (R278), without a wrap. -/
  flags : SMap 13
  /-- Seam images: members in the high half, arrived in the low (R189). -/
  seams : SMap 128
  serial : Option Serial
  run : Option Run
  handler : Option Handler
  budgetPending : Bool
  preemptPending : Bool
  faults : List EngFault
  /-- R278, R423: the lanes on which the instruction at an offset runs, where such a mask is in force. -/
  resumeOn : Bool
  resume : LaneMask
  resumeAt : Nat
  /-- Derived layout entries, by entry number (R230). -/
  derived : SMap 512
  bindings : List Binding
  /-- R413: the clock of the last issue, the opportunities passed over, and the clock at which they reached 64. -/
  lastIssue : Option Nat
  passed : Nat
  passedAt : Nat
  /-- R20, R99: the clause that it ended last hinted a yield, and its partition has not issued since. -/
  yielded : Bool
  /-- R282: tag errors that a TWAIT observed, by the flag whose waiting clause raises them. -/
  tagErrors : List (Nat × Nat)
  /-- R431: the fault that holds an access or a fetch of the group. -/
  hold : Option Nat
  /-- R308's admission order, for R413's last tie. -/
  admitted : Nat
  /-- R438: every lane has left a PREEMPT handler. -/
  done : Bool
  deriving DecidableEq, Repr

/-! ### Elements, slots and blocks -/

/-- The life of an element (R151, R169, R98). -/
inductive ElemSt where
  /-- It waits for its Shelf slot. -/
  | waiting
  /-- It has its slot, or needs none. -/
  | admitted
  | finished
  deriving DecidableEq, Repr

/-- One element (R144 to R153). -/
structure Elem where
  id : Nat
  launch : Nat
  level : Nat
  /-- %elem.n at its own level. -/
  idx : Word
  /-- The parent, or the three parents of a SPANS level, the provoking vertex first; none at level 0. -/
  parents : List Nat
  depth : Nat
  primId : Word
  /-- Reciprocal-w weights of its primitive (R388). -/
  iw : List Word
  /-- The holders whose slots it claims (R170). -/
  claims : List Nat
  /-- Children emitted so far (R177), and spawned so far at this level and the next (R178). -/
  emitted : Nat
  spawnedSame : Nat
  spawnedNext : Nat
  /-- Values returned by RETV, by component (R401). -/
  rets : List (Nat × Word)
  st : ElemSt
  block : Nat
  /-- The core on which it runs, or ran last (R172, R400). -/
  core : Option Nat
  /-- R149: the children that it creates under FIXED, as read when it finishes its section. -/
  count : Nat
  /-- Starting values of its registers (R178, R367, R389, R400). -/
  init : List (Nat × Word)
  /-- Children of the element and their descendants not yet retired (R178). -/
  exited : Bool
  deriving DecidableEq, Repr

/-- A Shelf slot in use (R161, R169, R170). -/
structure Slot where
  elem : Nat
  launch : Nat
  level : Nat
  /-- The core of a core-resident pool; 0x7F for a memory-resident pool (R174). -/
  core : Nat
  index : Nat
  h : SMap 32
  /-- Claims that have ended and whose ending is still on its way (R172) keep the count up. -/
  holds : Nat
  deriving DecidableEq, Repr

/-- The life of a block (R408, R442). -/
inductive BlockSt where
  | waiting
  | admitted
  | saved
  | ended
  deriving DecidableEq, Repr

/-- What firmware keeps of a saved block (R442). -/
structure Saved where
  /-- Engine-owned granules, per position of the block: owner code and bytes. -/
  owners : SMap 3
  bytes : SMap 8
  deriving DecidableEq, Repr

/-- One block (R146, R152, R408, R411). Batch groups belong to the block that opened their stream (R367). -/
structure Block where
  id : Nat
  launch : Nat
  level : Nat
  /-- %block. -/
  num : Word
  st : BlockSt
  /-- The cores by position (R408); one core for a block that is not of REEF domain. -/
  cores : List Nat
  /-- The elements of each group, in lane order, and each group's role. -/
  members : List (List Nat)
  roles : List Nat
  /-- The first granule of its allocation on each position. -/
  base : List Nat
  /-- The core a block must take (R172, R178, R381). -/
  bound : Option Nat
  admissible : Nat
  deadline : Option Nat
  budgetLeft : Nat
  refilled : Bool
  counting : Bool
  preemptAt : Option Nat
  /-- Copies and multicasts addressed to the allocation and not yet landed (R241). -/
  addressed : Nat
  /-- R146: the die that holds the children of its elements at levels of domain DIE. -/
  kidsDie : Option Nat
  saved : Option Saved
  deriving DecidableEq, Repr

/-! ### Outstanding work -/

/-- What a lane's completion waits for. -/
inductive Cond where
  /-- Nothing further. -/
  | ready
  /-- R283: tags of the core. -/
  | tags (core : Nat) (any : Bool) (mask : BitVec 64)
  /-- R286: the phase of the tidemark at this address differs. -/
  | tidemark (addr phase : Nat)
  /-- R289: every granule of the footprint is THREADS-owned. -/
  | owned (granules : List Nat)
  /-- R307: an item, or the end of work. -/
  | work
  /-- R427: every predecessor has ended. -/
  | preds
  /-- An engine operation that answers by itself. -/
  | engine
  /-- Nothing further; every lane completes with this one (R355). -/
  | joint
  /-- The same, of a CHAIN.OPEN, which has written its pd at issue (R336). -/
  | opened
  /-- R178, R399: the child, and its descendants, have retired. -/
  | child (elem : Nat)
  /-- R399: the ray is still to be traversed. -/
  | trace
  /-- R382: the primitive is binned. -/
  | prim (id : Nat)
  /-- R273: the lane's outstanding instructions that a FENCE follows. -/
  | after (ops : List Nat)
  /-- R218: the image that a SEAM.LOAD has read, to be applied to the seam. -/
  | seamLoad (n : Nat) (image : BitVec 128)
  deriving DecidableEq, Repr

/-- How R440 treats an instruction when its group is done. -/
inductive Fate where
  | completed
  | saved
  | held
  | cancelled
  deriving DecidableEq, Repr

/-- One lane of an outstanding long-latency instruction: what it waits for, and the registers it then writes. -/
structure OpLane where
  lane : Nat
  cond : Cond
  writes : List (RegRef × Word)
  deriving DecidableEq, Repr

/-- An outstanding long-latency instruction (R25, R74). -/
structure LongOp where
  id : Nat
  group : Nat
  flag : Option Nat
  lanes : List OpLane
  fate : Fate
  /-- R178, R399: the first register of the return run. -/
  run : Nat
  /-- R307: the destinations of WQ.TAKE. R427, R337, R336: the predicate written at completion. -/
  dst : Option RegRef
  pdst : Option RegRef
  /-- R440: it was outstanding when its block was saved. -/
  kept : Bool
  deriving DecidableEq, Repr

/-- A copy whose landing its tag has still to count (R281). Its bytes were performed when it issued (assumption 3). -/
structure CopyOp where
  id : Nat
  block : Nat
  core : Nat
  tag : Nat
  /-- Did it read an uncorrectable line (R282)? -/
  error : Bool
  /-- Is it addressed to its block's allocation (R241)? -/
  onChip : Bool
  deriving DecidableEq, Repr

/-- What a tile-path operation does (R294, R296, R301). -/
inductive TileKind where
  | copy (z : Bool)
  | multicast (z : Bool) (mask : BitVec 4) (target : Nat)
  | scatter (i c t : BitVec 512) (ks : List Nat) (i0 n r0 ov q : Nat)
  deriving DecidableEq, Repr

/-- A tile-path operation (R290, R291). -/
structure TileOp where
  id : Nat
  group : Nat
  block : Nat
  core : Nat
  lanes : LaneMask
  kind : TileKind
  dst : BitVec 512
  src : BitVec 512
  dstEntry : Nat
  srcEntry : Nat
  dstOrg : List Nat
  srcOrg : List Nat
  counts : List Nat
  tag : Option Nat
  mark : Option Nat
  /-- Granules counted for it, as core × 4,096 + granule (R290). -/
  granules : List Nat
  /-- The first granule of the allocation at each destination core, as it was at issue (R292). -/
  homes : List (Nat × Nat)
  deriving DecidableEq, Repr

/-- A loop nest in flight (R298 to R300). -/
structure NestOp where
  id : Nat
  op : Nat
  group : Nat
  block : Nat
  core : Nat
  lanes : LaneMask
  form : NestForm
  lay0 : BitVec 512
  lay1 : BitVec 512
  lay2 : BitVec 512
  base0 : Int
  base1 : Int
  base2 : Int
  granules : List Nat
  deriving DecidableEq, Repr

/-- A WQ.ASK request (R306). -/
structure Ask where
  id : Nat
  launch : Nat
  core : Nat
  group : Nat
  groupNum : Nat
  block : Nat
  lanes : LaneMask
  /-- The 16 bytes in the map that receive the answer. -/
  addrs : List Nat
  entry : Nat
  tag : Option Nat
  mark : Option Nat
  granules : List Nat
  /-- Its number among the distributor's requests, once it has arrived there (R305, R306). -/
  seq : Option Nat
  deriving DecidableEq, Repr

/-- A work item on its way to a core (R308), and the core that sent it. -/
structure Item where
  id : Nat
  sender : Nat
  launch : Nat
  core : Nat
  value : Word
  /-- The first item of the WQ.ADD that sent it. -/
  first : Nat
  deriving DecidableEq, Repr

/-- What a matrix-queue entry does. -/
inductive MatKind where
  /-- MMA (0), QUANT (1) or HAD (2): format word, addresses in the map of the parameter block's bytes, the block as read at issue. -/
  | compute (which : Nat) (fmt : Word) (param : List Nat) (pb : BitVec 512)
  | zero
  | drain (lay : BitVec 512) (entry d0 d1 dest rnd : Nat) (addst : Bool)
  | save (lay : BitVec 512) (entry at0 : Nat)
  | load (lay : BitVec 512) (entry at0 : Nat)
  | send (contribution i0 j0 rows cols : Nat)
  | integrate (slot : Nat)
  deriving DecidableEq, Repr

/-- An entry of a matrix queue (R313). -/
structure MatEntry where
  id : Nat
  op : Nat
  group : Nat
  block : Nat
  launch : Nat
  /-- The cores in whose queues it stands: both of a split tile's. -/
  cores : List Nat
  /-- The core that issued it, from which its scratchpad layouts are reached. -/
  core : Nat
  lanes : LaneMask
  tile : Nat
  kind : MatKind
  /-- The layouts of A, B, SA and SB, with their entry numbers. -/
  lays : List (Nat × BitVec 512)
  started : Bool
  /-- The first row of the next band. -/
  row : Nat
  suspended : Bool
  granules : List Nat
  deriving DecidableEq, Repr

/-- A join request (R337). -/
structure Join where
  id : Nat
  /-- A join of a peer: the device, its own number for it, and the group of linked launches; then `op`, `group` and `launch` mean nothing (R457). -/
  peer : Option (Nat × Nat × PeerLink)
  op : Nat
  group : Nat
  launch : Nat
  name : Word
  share : Nat
  parked : Bool
  deriving DecidableEq, Repr

/-- A contribution on its way (R339, R341): its elements as TX48 values. -/
structure Contribution where
  id : Nat
  op : Nat
  group : Nat
  launch : Nat
  name : Word
  gen : Nat
  rows : Nat
  cols : Nat
  /-- The elements, by row × 1,024 + column, once they have been read. -/
  vals : Option (SMap 48)
  /-- .SP: the layout that it is read through, with its entry number. -/
  lay : BitVec 512
  entry : Nat
  block : Nat
  core : Nat
  lanes : LaneMask
  granules : List Nat
  /-- Has it left for a peer's chain? -/
  away : Bool
  deriving DecidableEq, Repr

/-- A chain slot that has been opened (R334 to R348). -/
structure Chain where
  core : Nat
  slot : Nat
  launch : Nat
  block : Nat
  isOpen : Bool
  gen : Nat
  exact : Bool
  set : Bool
  scale : BitVec 8
  count : Nat
  /-- Shares acknowledged so far (R337). -/
  acked : Nat
  tile : Nat
  i0 : Nat
  j0 : Nat
  rows : Nat
  cols : Nat
  landed : Nat
  /-- Running sums by row × 1,024 + column: TX48 values, or 128-bit sums. -/
  sums : SMap 128
  /-- Status of each element: bit 0 OVERFLOW, bit 1 INVALID (R344). -/
  stat : SMap 2
  aborted : Bool
  waiter : Option Nat
  placed : Bool
  suspended : Bool
  saved : Bool
  /-- R353: its saved CHAIN.WAIT goes on with the re-entry of R330. -/
  held : Bool
  /-- The peers with a binding to it, and those that have yet to acknowledge its suspension (R352). -/
  peers : List Nat
  awaited : List Nat
  deriving DecidableEq, Repr

/-- A constraint (R359). -/
structure Constraint where
  seq : Nat
  key : Word
  bodies : List Word
  pusher : Nat
  /-- The claims that it holds for the element to come (R170). -/
  claims : List Nat
  deriving DecidableEq, Repr

/-- A pushed constraint that has not entered the window yet (R361, R364). -/
structure Push where
  op : Nat
  lane : Nat
  key : Word
  bodies : List Word
  pusher : Nat
  claims : List Nat
  deriving DecidableEq, Repr

/-- The body claims of a batched lane (R366): held; to end once the lane's accesses have been performed; ended. -/
inductive ClaimSt where
  | held
  | leaving
  | ended
  deriving DecidableEq, Repr

/-- A formed batch (R362, R364, R365). -/
structure Batch where
  num : Nat
  members : List Constraint
  elems : List Nat
  /-- The claim set of each lane. -/
  claims : List ClaimSt
  group : Option Nat
  /-- Its group has ended. -/
  ended : Bool
  deriving DecidableEq, Repr

/-- The stream of a core's batcher (R358). -/
structure Stream where
  core : Nat
  launch : Nat
  block : Nat
  level : Nat
  depth : Nat
  bodies : Nat
  closed : Bool
  closeOp : Option Nat
  seq : Nat
  formed : Nat
  window : List Constraint
  pushes : List Push
  batches : List Batch
  deriving DecidableEq, Repr

/-- A primitive, pending or binned (R382 to R388). -/
structure Prim where
  id : Nat
  launch : Nat
  op : Nat
  lane : Nat
  emitter : Nat
  verts : List Nat
  primId : Word
  cull : Nat
  reg : Nat
  claims : List Nat
  binned : Bool
  resolved : Bool
  /-- Snapped coordinates, depths and w of the three vertices, once binned. -/
  pts : List (Int × Int)
  zs : List Word
  ws : List Word
  deriving DecidableEq, Repr

/-- A claim ending on its way to a memory-resident slot (R172). -/
structure Ending where
  id : Nat
  holder : Nat
  deriving DecidableEq, Repr

/-- A translation fault (R431, R464). -/
structure PageFault where
  id : Nat
  tenant : Nat
  page : Nat
  /-- The address that faulted first (R461). -/
  va : Nat
  /-- The fault id offered to the host, once it has been. -/
  offered : Bool
  level : Nat
  reason : Nat
  fetch : Bool
  layout : Nat
  unresolvable : Bool
  /-- Who waits for the page: engine operations, peers, and the fetches of groups. -/
  waiters : List Nat
  deriving DecidableEq, Repr

/-- A ray to be traversed (R394 to R399). -/
structure Ray where
  op : Nat
  lane : Nat
  elem : Nat
  bvh : BitVec 512
  entry : Nat
  first : Bool
  inputs : List Word
  payload : List Word
  /-- %elem.n and depth of the ray element, and the claims held for it (R170, R399). -/
  idx : Word
  depth : Nat
  claims : List Nat
  /-- The starting registers v0 to v6 of the ray element, once traversed (R400). -/
  result : Option (List Word)
  deriving DecidableEq, Repr

/-- The rays of one TRACE execution, which form one block (R400). -/
structure RaySet where
  op : Nat
  group : Nat
  /-- The lanes on which the TRACE executed. -/
  lanes : LaneMask
  same : Bool
  rays : List Ray
  deriving DecidableEq, Repr

/-! ### Launches, tenants and the host -/

/-- The life of a launch (R410, R475). -/
inductive LaunchSt where
  | queued
  | running
  | ended
  deriving DecidableEq, Repr

/-- The work distributor's state for a launch (R304 to R309, R443). -/
structure Distributor where
  spill : List Word
  handed : Nat
  sequence : Nat
  /-- The queue of each core that has one. -/
  queues : List (Nat × List Word)
  black : List Nat
  /-- The core that holds the token, its colour (true black), and whether a round is under way. -/
  token : Nat
  tokenBlack : Bool
  circulating : Bool
  declared : Bool
  /-- R443: cores whose blocks have all been saved, and whose queue goes once what is on its way there has landed. -/
  leaving : List Nat := []
  deriving DecidableEq, Repr

/-- A launch (R404 to R410). -/
structure Launch where
  id : Nat
  tenant : Nat
  queue : Nat
  tag : BitVec 16
  /-- The code of the command that submitted it; 0 where LAUNCH did (R425). -/
  opcode : BitVec 8
  code : Nat
  link : Nat
  rcd : LaunchRec
  /-- Predecessors: launch, and whether EARLY (R410). -/
  preds : List (Nat × Bool)
  hinted : Bool
  st : LaunchSt
  endWord : Word
  normal : Bool
  preempted : Bool
  dist : Distributor
  /-- The sample store (R385): depth and id of each sample that differs from its starting value, with bit [32] set, keyed by
  frame element, pixel and sample. -/
  depths : SMap 33
  ids : SMap 33
  /-- Elements at level p whose pass has resolved (R384). -/
  passes : List Nat
  /-- The next %block assigned in admission order (R153). -/
  blockSeq : Nat
  /-- R146: the die of its level 0, where that is of domain DIE. -/
  die : Option Nat
  /-- Device memory taken from the tenant's at acceptance, by first byte and size: held areas (R168) and the depth area (R385). -/
  areas : List (Nat × Nat)
  deriving DecidableEq, Repr

/-- A completion entry (R461). -/
structure Completion where
  queue : Nat
  tag : BitVec 16
  opcode : BitVec 8
  kind : BitVec 8
  status : Word
  value : BitVec 64
  detail : BitVec 128
  deriving DecidableEq, Repr

/-- A command queue (R459, R461): queue 0 is the management queue and queue 1 + 4 t + i is queue i of tenant t. -/
structure Queue where
  num : Nat
  rings : Rings
  /-- The next entry of the ring of commands, and of the ring of completions. -/
  head : Nat
  tail : Nat
  /-- How often its MSI-X vector has been raised (R459, R461). -/
  raised : Nat
  pending : List CmdEntry
  budget : Word
  estimate : Word
  /-- Sixteenths of the opportunities at which its groups are ready (R414). -/
  fraction : Nat
  deriving DecidableEq, Repr

/-- A tenant (R459). -/
structure Tenant where
  num : Nat
  queues : Nat
  tableSize : Nat
  codeKey : List Byte
  dataKey : List Byte
  deriving DecidableEq, Repr

/-- The kinds of a window (R452). -/
inductive WindowKind where
  | device
  | host
  | peer (device tenant window : Nat)
  deriving DecidableEq, Repr

/-- A window (R452). -/
structure Window where
  tenant : Nat
  num : Nat
  kind : WindowKind
  base : Nat
  size : Nat
  /-- First byte of its backing: a device address, a host physical address, or 0 for a peer window. -/
  backing : Nat
  /-- A PEER map that waits for its confirmation, with its command's tag and queue. -/
  waiting : Option (BitVec 16 × Nat)
  /-- The peer device and tenant to which the window is exported; 0xFF, 0xFF for the host (R452, R458). -/
  exports : List (Nat × Nat)
  deriving DecidableEq, Repr

/-- A resident code object (R466 to R468). -/
structure Code where
  handle : Nat
  tenant : Nat
  objectId : BitVec 64
  lines : Nat
  codeLines : Nat
  banks : List (List (BitVec 64))
  /-- Its tenant virtual address (assumption 14), where its lines lie in device memory, and the line of its first byte of code. -/
  va : Nat
  place : Nat
  codeLine : Nat
  tags : List (BitVec 64)
  /-- SHA-512 of the object as loaded, before patching (R473). -/
  digest : List Byte
  deriving DecidableEq, Repr

/-- A PREEMPT command that waits for the blocks of its launch to be saved (R434, R461). -/
structure PreemptCmd where
  queue : Nat
  tag : BitVec 16
  launch : Nat
  deriving DecidableEq, Repr

/-- The state of the machine. -/
structure State where
  /-- Reference clocks since reset (R17). -/
  clock : Nat
  /-- The group whose clause is being run, one instruction a step. -/
  focus : Option Nat
  /-- The steps still to come, each with the clocks that pass before it (assumption 2). -/
  agenda : List (Nat × Instr)
  /-- The next identifier to give. -/
  nextId : Nat
  /-- Values drawn from Config.freeValue so far (assumption 10). -/
  free : Nat
  /-- Device memory, scratchpads, host memory and peer memory, by address (R227, R470). -/
  mem : SMap 8
  /-- 32-byte sectors with an uncorrectable error, by address / 32 (R433). -/
  bad : List Nat
  /-- Page-table entries, by table × 4,096 + index (R429, R430). -/
  ptes : SMap 64
  nextTable : Nat
  /-- Owner codes of scratchpad granules, by core × 4,096 + granule (R237). -/
  owners : SMap 3
  /-- Engine operations outstanding on a granule (R290). -/
  engineCounts : SMap 32
  /-- Copies outstanding on a tag, by core × 64 + tag (R281). -/
  tagCounts : SMap 16
  /-- Tags with an error that nobody has observed (R282). -/
  tagErrs : List Nat
  groups : List Group
  blocks : List Block
  elems : List Elem
  slots : List Slot
  ops : List LongOp
  copies : List CopyOp
  tileOps : List TileOp
  nests : List NestOp
  asks : List Ask
  items : List Item
  /-- Matrix queues, one list for all cores in entry order (R313). -/
  matrix : List MatEntry
  /-- Accumulator elements, by block × 2^24 + tile × 2^20 + row × 2^10 + column (R312). -/
  acc : SMap 48
  joins : List Join
  contributions : List Contribution
  chains : List Chain
  streams : List Stream
  prims : List Prim
  endings : List Ending
  faults : List PageFault
  raySets : List RaySet
  launches : List Launch
  /-- The completions given so far, in order, and how many of them have been written to their rings (R461). -/
  completions : List Completion
  written : Nat
  /-- What has been sent over the peer links, and to the host as 8, in order (R337, R341, R352, R455, R458). -/
  outbox : List (Nat × PeerMsg)
  queues : List Queue
  tenants : List Tenant
  windows : List Window
  codes : List Code
  /-- Dictionary slots of a core, by core × 4 + slot: 1 + handle of the code object held (R67, R468). -/
  dict : SMap 32
  /-- PREEMPT commands that have not completed (R434). -/
  preempts : List PreemptCmd
  /-- Device number and member mask (R450), links down by peer × 2 + link (R451). -/
  device : Nat
  members : BitVec 8
  linksDown : List Nat
  /-- Sharer masks of fabric-coherent lines, by line (R456). -/
  directory : SMap 8
  /-- Time of day at TIME_SET, in nanoseconds, and the clock then (R465). -/
  timeBase : Option (Nat × Nat)
  /-- Junction temperature and clock step of each die, in eighths of 1.75 GHz (R474). -/
  temps : List (BitVec 8)
  clockSteps : List Nat
  /-- Dies in a thermal emergency, whether a die has reached 115 °C, and whether that has stopped the device (R474). -/
  hotDies : List Nat
  overheated : Bool
  stopped : Bool
  /-- The module's power, in mW, in the last power window (R414, R475). -/
  powerTotal : Word
  stepping : BitVec 8
  fwVersion : BitVec 24
  cfgVersion : BitVec 24
  errata : List (BitVec 32 × Bool)
  /-- The private half of the identity key; no instruction reads it (R471). -/
  identity : BitVec 4096
  /-- The images that run, and those in the module's serial flash, which the next reset takes (R470, R472). -/
  fwImage : List Byte
  cfgImage : List Byte
  fwFlash : List Byte
  cfgFlash : List Byte
  /-- Has the configuration image failed its check at reset, so that only a recovery FW_UPDATE is accepted (R470)? -/
  recovery : Bool
  deriving DecidableEq, Repr

/-- The model's reasons to stop. Every outcome that the spec describes is a next state. -/
inductive Fault where
  /-- Raised by an access whose page-table entry names a frame that no memory of the machine has: firmware never writes such an
  entry (R454), so this is safe. -/
  | noSuchMemory (address : Nat)
  deriving DecidableEq, Repr

/-- Instructions without a meaning. -/
inductive Refusal where
  /-- Raised by an arm of exec that has no meaning yet, by name; safe. -/
  | notModelled (mnemonic : String)
  deriving DecidableEq, Repr

/-- A command queue at reset: empty, with an unlimited budget (R414). -/
def Queue.fresh (num : Nat) : Queue :=
  { num, rings := { base := 0, size := 0, doneBase := 0, doneSize := 0 }, head := 0, tail := 0, raised := 0, pending := [], budget := 0
    estimate := 0, fraction := 16 }

/-- R237, R408, R452, R470: the machine right after reset. Nothing is admitted, no tenant exists, memory is zero, every page-table
entry is invalid and every granule is THREADS-owned; the management queue is empty. Values that the spec does not give are
those of assumptions 4 to 10. -/
def State.reset : State :=
  { clock := 0, focus := none, agenda := [], nextId := 1, free := 0,
    mem := [], bad := [], ptes := [], nextTable := 17, owners := [], engineCounts := [], tagCounts := [], tagErrs := [],
    groups := [], blocks := [], elems := [], slots := [], ops := [], copies := [], tileOps := [], nests := [], asks := [],
    items := [], matrix := [], acc := [], joins := [], contributions := [], chains := [], streams := [], prims := [],
    endings := [], faults := [], raySets := [], launches := [], completions := [], written := 0, outbox := [],
    queues := [Queue.fresh 0], tenants := [], windows := [], codes := [], dict := [], preempts := [],
    device := 0, members := 0, linksDown := [], directory := [], timeBase := none,
    temps := [40, 40, 40, 40], clockSteps := [8, 8, 8, 8], hotDies := [], overheated := false, stopped := false, powerTotal := 0,
    stepping := 0, fwVersion := 0, cfgVersion := 0, errata := [], identity := 0, fwImage := [], cfgImage := [], fwFlash := [], cfgFlash := [],
    recovery := false }

end Sys2Proof.Machine
end

