-- ==== Sys2Proof/Machine/Flags.lean ====
section
/-!
DEFINITION. Flags f0 to f11 of a group (R23, R24): outstanding-work counts that read as 1 while nonzero, what a clause adds to them, and
what a trap removes (R417).
-/
namespace Sys2Proof.Machine

/-- The lanes that a mask names, ascending. -/
def lanesOf (m : LaneMask) : List Nat := (List.range 64).filter (fun l => m.getLsbD l)
/-- How many lanes a mask names. -/
def laneCount (m : LaneMask) : Nat := (lanesOf m).length
/-- The mask that names the lanes of a list. -/
def maskOf (ls : List Nat) : LaneMask := ls.foldl (fun m l => m ||| (1#64 <<< l)) 0
/-- The lowest lane of a mask (0 of an empty one). -/
def lowLane (m : LaneMask) : Nat := (lanesOf m).headD 0

/-- The outstanding-work count of a flag (R23). -/
def Group.flag (g : Group) (i : Nat) : Nat := (g.flags.get i).toNat
/-- Adds to a flag's count. -/
def Group.addFlag (g : Group) (i n : Nat) : Group := { g with flags := g.flags.set i (BitVec.ofNat 13 (g.flag i + n)) }
/-- Subtracts from a flag's count. -/
def Group.subFlag (g : Group) (i n : Nat) : Group := { g with flags := g.flags.set i (BitVec.ofNat 13 (g.flag i - n)) }
/-- Subtracts from the flag that an instruction selected, where it selected one. -/
def Group.subFlag? (g : Group) (i : Option Nat) (n : Nat) : Group :=
  match i with
  | some f => g.subFlag f n
  | none => g
/-- Adds to a flag that is there. -/
def Group.addFlag? (g : Group) (i : Option Nat) (n : Nat) : Group :=
  match i with
  | some f => g.addFlag f n
  | none => g

/-- The value of %flags: bit i is flag i (R17). -/
def Group.flagWord (g : Group) : Word :=
  (List.range 12).foldl (fun w i => if g.flag i = 0 then w else w ||| (1#32 <<< i)) 0

/-- R24: every flag of a wait mask is clear. -/
def Group.waitsMet (g : Group) (waits : List Nat) : Bool := waits.all (fun i => g.flag i = 0)

/-- The set-flag of the clause that bit [2] selects (R23, R74). -/
def Run.flagOf (r : Run) (fsel : Bool) : Option Nat := if fsel then r.flagB else r.flagA

/-- What a clause does not hold any longer once a long-latency instruction that selected the flag has executed on `x` of its lanes:
the other lanes' counts go at once, and the instruction's are no longer pending (R23). -/
def Group.settle (g : Group) (r : Run) (fsel : Bool) (x : LaneMask) : Group :=
  let n := laneCount r.lanes
  let g := g.subFlag? (r.flagOf fsel) (n - laneCount x)
  { g with run := g.run.map (fun r => if fsel then { r with remB := r.remB - n } else { r with remA := r.remA - n }) }

/-- R23: the clause ends, and takes back the 1 that it holds on each set-flag. -/
def Group.endFlags (g : Group) (r : Run) : Group := (g.subFlag? r.flagA 1).subFlag? r.flagB 1

/-- R417: at a synchronous trap the clause's 1 and the counts of the instructions that did not execute go. -/
def Group.dropFlags (g : Group) (r : Run) : Group := (g.subFlag? r.flagA (1 + r.remA)).subFlag? r.flagB (1 + r.remB)

/-- R423: they come back when TRET resumes the clause, for the lanes that go on. DESIGN CHOICE (assumption 54): R23 bounds a count where a clause starts,
and the spec says nothing of counts that TRET adds back; the model adds them, above 4,095 too. -/
def Group.restoreFlags (g : Group) (r : Run) : Group := (g.addFlag? r.flagA (1 + r.remA)).addFlag? r.flagB (1 + r.remB)

end Sys2Proof.Machine
end

