-- ==== Sys2Proof/Machine/Num.lean ====
section
/-!
DEFINITION. Number formats, rounding and conversions (chapter 02). A finite value is held exactly, as a sign, a natural m and an
exponent e, for (−1)^s × m × 2^e; sums and products are exact, quotients are pairs of naturals, and every result is rounded once,
in one place.
-/
namespace Sys2Proof

/-- What a floating-point code stands for (R35): exact, with the sign of a zero kept. -/
inductive Val where
  | nan
  | inf (neg : Bool)
  | fin (neg : Bool) (m : Nat) (e : Int)
  deriving DecidableEq, Repr

/-- Which codes of a format are special (R35). -/
inductive Specials where
  /-- The highest exponent field holds infinities and NaN. -/
  | ieee
  /-- Only the highest code is NaN (E4M3). -/
  | topNan
  /-- Every code is finite. -/
  | none
  deriving DecidableEq, Repr

/-- A floating-point format (R35). -/
structure Fmt where
  width : Nat
  frac : Nat
  bias : Nat
  specials : Specials
  deriving DecidableEq, Repr

namespace Fmt
def fp32 : Fmt := { width := 32, frac := 23, bias := 127, specials := .ieee }
def fp16 : Fmt := { width := 16, frac := 10, bias := 15, specials := .ieee }
def bf16 : Fmt := { width := 16, frac := 7, bias := 127, specials := .ieee }
def tx48 : Fmt := { width := 48, frac := 39, bias := 127, specials := .ieee }
def e5m2 : Fmt := { width := 8, frac := 2, bias := 15, specials := .ieee }
def e4m3 : Fmt := { width := 8, frac := 3, bias := 7, specials := .topNan }
def e3m2 : Fmt := { width := 6, frac := 2, bias := 3, specials := .none }
def e2m3 : Fmt := { width := 6, frac := 3, bias := 1, specials := .none }
def e2m1 : Fmt := { width := 4, frac := 1, bias := 1, specials := .none }

/-- The floating-point format of a data-type code (R32). -/
def ofCode : Nat → Option Fmt
  | 0 => some bf16
  | 1 => some fp16
  | 2 => some e4m3
  | 3 => some e5m2
  | 4 => some e3m2
  | 5 => some e2m3
  | 6 => some e2m1
  | 9 => some fp32
  | 12 => some tx48
  | _ => Option.none

/-- The number of exponent codes. -/
def expCodes (F : Fmt) : Nat := 2 ^ (F.width - 1 - F.frac)
/-- The sign bit of a code. -/
def signBit (F : Fmt) : Nat := 2 ^ (F.width - 1)
/-- The exponent of the least significant bit of a subnormal (R35). -/
def minExp (F : Fmt) : Int := 1 - (F.bias : Int) - (F.frac : Int)
/-- The code of the largest finite value, without its sign. -/
def maxCode (F : Fmt) : Nat :=
  match F.specials with
  | .ieee => (F.expCodes - 1) * 2 ^ F.frac - 1
  | .topNan => F.expCodes * 2 ^ F.frac - 2
  | .none => F.expCodes * 2 ^ F.frac - 1
/-- What an infinity becomes, without its sign: the infinity, or the largest finite value where the format has none (R50). -/
def infCode (F : Fmt) : Nat :=
  match F.specials with
  | .ieee => (F.expCodes - 1) * 2 ^ F.frac
  | _ => F.maxCode
/-- The canonical quiet NaN (R37); +0 for a format without one (R50). -/
def nanCode (F : Fmt) : Nat :=
  match F.specials with
  | .ieee => (F.expCodes - 1) * 2 ^ F.frac + 2 ^ (F.frac - 1)
  | .topNan => F.expCodes * 2 ^ F.frac - 1
  | .none => 0

/-- R35: the value of a code. -/
def value (F : Fmt) (code : Nat) : Val :=
  let neg := code / F.signBit % 2 = 1
  let x := code / 2 ^ F.frac % F.expCodes
  let f := code % 2 ^ F.frac
  if F.specials = .ieee ∧ x = F.expCodes - 1 then (if f = 0 then .inf neg else .nan)
  else if F.specials = .topNan ∧ x = F.expCodes - 1 ∧ f = 2 ^ F.frac - 1 then .nan
  else if x = 0 then .fin neg f F.minExp
  else .fin neg (2 ^ F.frac + f) (F.minExp + (x : Int) - 1)

/-- A code with a sign. -/
def signed (F : Fmt) (neg : Bool) (code : Nat) : Nat := if neg then F.signBit + code else code

end Fmt

/-- A rounding mode (R48): the codes 0 to 3, and RS with the 16 bits that it adds (R49). -/
inductive Rnd where
  | ne
  | z
  | u
  | d
  | s (r : Nat)
  deriving DecidableEq, Repr

/-- The mode of a code 0 to 3 (R48). -/
def Rnd.ofCode : Nat → Rnd
  | 1 => .z
  | 2 => .u
  | 3 => .d
  | _ => .ne

/-- `n / d` rounded to an integer by a mode, for a value whose sign is `neg` (R48, R49). -/
def roundQuot (mode : Rnd) (neg : Bool) (n d : Nat) : Nat :=
  let q := n / d
  let r := n % d
  match mode with
  | .ne => if 2 * r > d ∨ (2 * r = d ∧ q % 2 = 1) then q + 1 else q
  | .z => q
  | .u => if r ≠ 0 ∧ neg = false then q + 1 else q
  | .d => if r ≠ 0 ∧ neg = true then q + 1 else q
  | .s x => (n * 65536 + x * d) / (d * 65536)

/-- `n / d × 2^e` as a quotient of naturals. -/
def scaleQuot (n d : Nat) (e : Int) : Nat × Nat :=
  if 0 ≤ e then (n * 2 ^ e.toNat, d) else (n, d * 2 ^ (-e).toNat)

/-- The floor of the base-2 logarithm of `n / d`, for `n` and `d` positive. -/
def floorLog2 (n d : Nat) : Int :=
  let k : Int := (Nat.log2 n : Int) - (Nat.log2 d : Int)
  let (a, b) := scaleQuot n d (-k)
  if b ≤ a then k else k - 1

/-- The ceiling of the base-2 logarithm of `n / d × 2^e` (R44). -/
def ceilLog2 (n d : Nat) (e : Int) : Int :=
  let (a, b) := scaleQuot n d e
  let k := floorLog2 a b
  let (p, q) := scaleQuot a b (-k)
  if p = q then k else k + 1

/-- What an overflow gives (R50): by mode in a format with infinities, and the largest finite value in any other. -/
def Fmt.overflow (F : Fmt) (mode : Rnd) (neg : Bool) : Nat :=
  match mode with
  | .ne => F.infCode
  | .u => if neg then F.maxCode else F.infCode
  | .d => if neg then F.infCode else F.maxCode
  | _ => F.maxCode

/-- The code of (−1)^neg × n / d × 2^e rounded once to a format (R48 to R50); a zero keeps the sign. -/
def Fmt.roundQ (F : Fmt) (mode : Rnd) (neg : Bool) (n d : Nat) (e : Int) : Nat :=
  if n = 0 then F.signed neg 0 else
  let k := floorLog2 n d + e
  let q := max (k - F.frac) F.minExp
  let (a, b) := scaleQuot n d (e - q)
  let m := roundQuot mode neg a b
  let code := (q - F.minExp).toNat * 2 ^ F.frac + m
  F.signed neg (if F.maxCode < code then F.overflow mode neg else code)

/-- A value rounded to a format (R50): NaN canonical, infinities as the format has them. -/
def Fmt.round (F : Fmt) (mode : Rnd) : Val → Nat
  | .nan => F.nanCode
  | .inf neg => F.signed neg F.infCode
  | .fin neg m e => F.roundQ mode neg m 1 e

/-- The sign of a value; NaN counts as positive. -/
def Val.isNeg : Val → Bool
  | .nan => false
  | .inf s => s
  | .fin s _ _ => s

/-- Negation, exact. -/
def Val.neg : Val → Val
  | .nan => .nan
  | .inf s => .inf (!s)
  | .fin s m e => .fin (!s) m e

/-- Is the value a NaN? -/
def Val.isNan : Val → Bool
  | .nan => true
  | _ => false

/-- Is the value infinite? -/
def Val.isInf : Val → Bool
  | .inf _ => true
  | _ => false

/-- Is the value a zero of either sign? -/
def Val.isZero : Val → Bool
  | .fin _ 0 _ => true
  | _ => false

/-- A finite value as an integer multiple of 2^e, for e at or below its exponent. -/
def finAt (neg : Bool) (m : Nat) (x e : Int) : Int :=
  let k : Int := m * 2 ^ (x - e).toNat
  if neg then -k else k

/-- An integer multiple of 2^e as a value; zero has the given sign. -/
def Val.ofInt (zneg : Bool) (k e : Int) : Val :=
  if k = 0 then .fin zneg 0 0 else .fin (k < 0) k.natAbs e

/-- The exact sum (R104): an exact cancellation, or zeros of opposite signs, give +0, or −0 where `rd` says that the mode is RD. -/
def Val.add (rd : Bool) : Val → Val → Val
  | .nan, _ => .nan
  | _, .nan => .nan
  | .inf s, .inf t => if s = t then .inf s else .nan
  | .inf s, _ => .inf s
  | _, .inf t => .inf t
  | .fin s m x, .fin t n y =>
    if m = 0 ∧ n = 0 then .fin (if s = t then s else rd) 0 0
    else
      let e := min x y
      .ofInt rd (finAt s m x e + finAt t n y e) e

/-- The exact product (R104). -/
def Val.mul : Val → Val → Val
  | .nan, _ => .nan
  | _, .nan => .nan
  | .inf s, .inf t => .inf (s ^^ t)
  | .inf s, .fin t n _ => if n = 0 then .nan else .inf (s ^^ t)
  | .fin s m _, .inf t => if m = 0 then .nan else .inf (s ^^ t)
  | .fin s m x, .fin t n y => .fin (s ^^ t) (m * n) (x + y)

/-- Order of two values that are not NaN: `a < b` on the reals, with −0 equal to +0 (R108). -/
def Val.lt : Val → Val → Bool
  | .nan, _ => false
  | _, .nan => false
  | .inf s, .inf t => s && !t
  | .inf s, .fin _ _ _ => s
  | .fin _ _ _, .inf t => !t
  | .fin s m x, .fin t n y => let e := min x y; decide (finAt s m x e < finAt t n y e)

/-- Equality of two values that are not NaN, with −0 equal to +0 (R108). -/
def Val.eqv (a b : Val) : Bool := !a.isNan && !b.isNan && !a.lt b && !b.lt a

/-- A quotient a / b rounded once to a format (R104, R105). -/
def Fmt.div (F : Fmt) (mode : Rnd) : Val → Val → Nat
  | .nan, _ => F.nanCode
  | _, .nan => F.nanCode
  | .inf _, .inf _ => F.nanCode
  | .inf s, .fin t _ _ => F.signed (s ^^ t) F.infCode
  | .fin s _ _, .inf t => F.signed (s ^^ t) 0
  | .fin s m x, .fin t n y =>
    if n = 0 then (if m = 0 then F.nanCode else F.signed (s ^^ t) F.infCode)
    else F.roundQ mode (s ^^ t) m n (x - y)

/-! ### Roots -/

/-- Finds the integer square root of `n` bit by bit from 2^k down; `r` is the root so far. -/
def isqrtFrom (n : Nat) : Nat → Nat → Nat
  | 0, r => if (r + 1) * (r + 1) ≤ n then r + 1 else r
  | k + 1, r =>
    let r' := r + 2 ^ (k + 1)
    isqrtFrom n k (if r' * r' ≤ n then r' else r)

/-- The integer square root. -/
def isqrt (n : Nat) : Nat := isqrtFrom n (Nat.log2 n / 2 + 1) 0

/-- √(n / d × 2^e) rounded once to a format. The root is taken to 64 bits below the format's precision; what is cut off counts as a half
of the last bit kept, which no rounding point meets. -/
def Fmt.sqrtQ (F : Fmt) (mode : Rnd) (n d : Nat) (e : Int) : Nat :=
  let k : Int := 2 * (F.frac + 64 : Nat) - floorLog2 n d
  let e1 := if (e - k) % 2 = 0 then k else k + 1
  let (a, b) := scaleQuot n d e1
  let q := a / b
  let s := isqrt q
  let sticky := if s * s = q ∧ a % b = 0 then 0 else 1
  F.roundQ mode false (2 * s + sticky) 1 ((e - e1) / 2 - 1)

/-- √a rounded once (R105). -/
def Fmt.sqrt (F : Fmt) (mode : Rnd) : Val → Nat
  | .nan => F.nanCode
  | .inf s => if s then F.nanCode else F.infCode
  | .fin s m e => if m = 0 then F.signed s 0 else if s then F.nanCode else F.sqrtQ mode m 1 e

/-- 1 / √a rounded once (R105). -/
def Fmt.rsqrt (F : Fmt) (mode : Rnd) : Val → Nat
  | .nan => F.nanCode
  | .inf s => if s then F.nanCode else 0
  | .fin s m e => if m = 0 then F.signed s F.infCode else if s then F.nanCode else F.sqrtQ mode 1 m (-e)

/-! ### Integers -/

/-- A value rounded to an integer by mode and saturated to [lo, hi] (R50): NaN gives 0. -/
def roundToInt (mode : Rnd) (lo hi : Int) : Val → Int
  | .nan => 0
  | .inf s => if s then lo else hi
  | .fin s m e =>
    let (a, b) := scaleQuot m 1 e
    let k : Int := roundQuot mode s a b
    satInt (if s then -k else k) lo hi

/-- An integer as a value. -/
def Val.int (k : Int) : Val := .fin (k < 0) k.natAbs 0

/-! ### The generator of RS (R49) -/

/-- One advance of xorshift32 with shifts 13, 17 and 5. -/
def xorshift (s : Word) : Word :=
  let s := s ^^^ (s <<< 13)
  let s := s ^^^ (s >>> 17)
  s ^^^ (s <<< 5)

/-- The mode of a rounding code for one element, and the generator afterwards: RS advances it once (R49). -/
def drawRnd (code : Nat) (seed : Word) : Rnd × Word :=
  if code = 4 then
    let s := xorshift seed
    (.s (s.toNat / 65536), s)
  else (Rnd.ofCode code, seed)

/-! ### Ternary weights and packed streams (R40, R41) -/

/-- The value of a TERN2 code (R40). -/
def tern2 (code : Nat) : Int := if code = 1 then 1 else if code = 3 then -1 else 0

/-- A value as a TERN2 code (R50). -/
def toTern2 (x : Val) : Nat :=
  let k := roundToInt .ne (-1) 1 x
  if k = 1 then 1 else if k = -1 then 3 else 0

/-- The width in bits of an element of a packed sequence (R41). -/
def elemBits (t : Nat) : Nat :=
  if t = 2 ∨ t = 3 ∨ t = 7 then 8 else if t = 4 ∨ t = 5 then 6 else if t = 6 then 4 else if t = 8 then 2
  else if t = 0 ∨ t = 1 ∨ t = 10 then 16 else if t = 9 ∨ t = 11 then 32 else 64

/-- Element codes as one little-endian bit stream, element 0 lowest (R41). -/
def packStream (b : Nat) : List Nat → Nat
  | [] => 0
  | c :: cs => c + 2 ^ b * packStream b cs

end Sys2Proof
end

