-- ==== Sys2Proof/Machine/Float.lean ====
section
/-!
DEFINITION. FP32, packed-half, complex and conversion arithmetic on register values (chapter 05), each function the computation of one
table row or pseudocode line, over the exact numbers of Num.lean.
-/
namespace Sys2Proof.Fp

/-- The value of an FP32 register. -/
def val (a : Word) : Val := Fmt.fp32.value a.toNat
/-- A code as a register value. -/
def w (n : Nat) : Word := BitVec.ofNat 32 n
/-- The canonical NaN of FP32 (R37). -/
def qnan : Word := 0x7FC00000

/-- Is the mode RD? The sign of an exact zero sum depends on it (R104). -/
def isRd (m : Rnd) : Bool := m = .d

/-- Rounds an exact FP32 result. -/
def rnd (m : Rnd) (x : Val) : Word := w (Fmt.fp32.round m x)

def add (m : Rnd) (a b : Word) : Word := rnd m (Val.add (isRd m) (val a) (val b))
def sub (m : Rnd) (a b : Word) : Word := rnd m (Val.add (isRd m) (val a) (val b).neg)
def mul (m : Rnd) (a b : Word) : Word := rnd m (Val.mul (val a) (val b))
def fma (m : Rnd) (a b c : Word) : Word := rnd m (Val.add (isRd m) (Val.mul (val a) (val b)) (val c))
def div (m : Rnd) (a b : Word) : Word := w (Fmt.fp32.div m (val a) (val b))
def rcp (m : Rnd) (a : Word) : Word := w (Fmt.fp32.div m (.fin false 1 0) (val a))
def sqrt (m : Rnd) (a : Word) : Word := w (Fmt.fp32.sqrt m (val a))
def rsqrt (m : Rnd) (a : Word) : Word := w (Fmt.fp32.rsqrt m (val a))
/-- Negation of the bits, exact (R125). -/
def neg (a : Word) : Word := a ^^^ 0x80000000

/-- R106: the order of FMIN and FMAX, with −0 below +0. -/
def below (a b : Word) : Bool := (val a).lt (val b) || ((val a).eqv (val b) && (val a).isNeg && !(val b).isNeg)

/-- FMIN (R106). -/
def min (a b : Word) : Word :=
  if (val a).isNan then (if (val b).isNan then qnan else b) else if (val b).isNan then a else if below b a then b else a
/-- FMAX (R106). -/
def max (a b : Word) : Word :=
  if (val a).isNan then (if (val b).isNan then qnan else b) else if (val b).isNan then a else if below a b then b else a

/-- FRND (R107). -/
def roundInt (m : Rnd) (a : Word) : Word :=
  match val a with
  | .nan => qnan
  | .inf _ => a
  | .fin s k e =>
    if 0 ≤ e then a else
    let (x, y) := scaleQuot k 1 e
    w (Fmt.fp32.roundQ .ne s (roundQuot m s x y) 1 0)

/-- FSCALE (R107): the exponent is clamped where every larger one gives the same result. -/
def scale (m : Rnd) (a b : Word) : Word :=
  match val a with
  | .nan => qnan
  | .inf _ => a
  | .fin s k e => if k = 0 then a else w (Fmt.fp32.roundQ m s k 1 (e + satInt b.toInt (-1000) 1000))

/-- The comparisons of FCMP (R108). -/
def cmp (cc : Nat) (u : Bool) (a b : Word) : Bool :=
  let x := val a
  let y := val b
  let nan := x.isNan || y.isNan
  match cc with
  | 0 => if nan then u else x.eqv y
  | 1 => if nan then u else !x.eqv y
  | 2 => if nan then u else x.lt y
  | 3 => if nan then u else !y.lt x
  | 4 => if nan then u else y.lt x
  | 5 => if nan then u else !x.lt y
  | 6 => !nan
  | _ => nan

/-- class(a) of FCLASS, one-hot (R109). -/
def fclass (a : Word) : Nat :=
  let s := a.getLsbD 31
  let x := bitsOf a.toNat 30 23
  let f := bitsOf a.toNat 22 0
  if x = 255 then (if f = 0 then (if s then 1 else 128) else if a.getLsbD 22 then 512 else 256)
  else if x = 0 then (if f = 0 then (if s then 8 else 16) else if s then 4 else 32)
  else if s then 2 else 64

/-- F2SUM (R112). -/
def twoSum (a b : Word) : Word × Word :=
  let s := add .ne a b
  match val s with
  | .fin _ _ _ =>
    let e := Val.add false (Val.add false (val a) (val b)) (val s).neg
    (s, if e.isZero then 0 else rnd .ne e)
  | _ => (s, s)

/-- F2PRD (R113). -/
def twoProd (a b : Word) : Word × Word :=
  let p := mul .ne a b
  match val p with
  | .fin _ _ _ => (p, fma .ne a b (neg p))
  | _ => (p, p)

/-! ### Packed half precision and dot products (R114 to R116) -/

/-- The half format of a sub-operation: 0 FP16 and 1 BF16 (R114). -/
def half (bf : Bool) : Fmt := if bf then .bf16 else .fp16

/-- Element 0 or 1 of a packed register. -/
def elem (a : Word) (k : Nat) : Nat := a.toNat / 65536 ^ k % 65536

/-- Two halves as a register. -/
def pack2 (x y : Nat) : Word := w (x + 65536 * y)

/-- One element of HADD2 (0), HMUL2 (1) or HFMA2 (2). -/
def halfOp (which : Nat) (F : Fmt) (a b c : Nat) : Nat :=
  F.round .ne (match which with
    | 0 => Val.add false (F.value a) (F.value b)
    | 1 => Val.mul (F.value a) (F.value b)
    | _ => Val.add false (Val.mul (F.value a) (F.value b)) (F.value c))

/-- HADD2, HMUL2 and HFMA2 (R114). -/
def packed (which : Nat) (bf : Bool) (a b c : Word) : Word :=
  let F := half bf
  pack2 (halfOp which F (elem a 0) (elem b 0) (elem c 0)) (halfOp which F (elem a 1) (elem b 1) (elem c 1))

/-- The exact sum of several terms with R54's order of special cases: NaN, infinities of both signs, an infinity, the finite sum. The sum
of finite terms that is zero is −0 only where every term is −0. -/
def exactSum (ts : List Val) : Val :=
  if ts.any Val.isNan then .nan
  else if ts.contains (.inf false) && ts.contains (.inf true) then .nan
  else if ts.contains (.inf false) then .inf false
  else if ts.contains (.inf true) then .inf true
  else
    let s := ts.foldl (Val.add false) (.fin true 0 0)
    if s.isZero then .fin (ts.all (fun t => t.isZero && t.isNeg)) 0 0 else s

/-- FDOT2 (R115). -/
def dot2 (bf : Bool) (a b c : Word) : Word :=
  let F := half bf
  rnd .ne (exactSum [Val.mul (F.value (elem a 0)) (F.value (elem b 0)), Val.mul (F.value (elem a 1)) (F.value (elem b 1)), val c])

/-- Byte k of a register, signed or unsigned. -/
def byteOf (signed : Bool) (a : Word) (k : Nat) : Int :=
  let x := a.extractLsb' (8 * k) 8
  if signed then x.toInt else x.toNat

/-- IDOT4 (R116). -/
def idot4 (sub : Nat) (a b c : Word) : Word :=
  let sa := sub ≠ 1
  let sb := sub = 0
  wrap 32 ((List.range 4).foldl (fun acc k => acc + byteOf sa a k * byteOf sb b k) c.toInt)

/-! ### Conversions (R117 to R123) -/

/-- CVT (R118), from the code of one format to the code of another, with the generator. DESIGN CHOICE (assumption 66): E4M3 or E2M3 to E5M2, which no
row of R50 names, rounds by the mode, and overflows as the other rows to E5M2 do. -/
def cvt (dest fr code : Nat) (a seed : Word) : Word × Word :=
  match Fmt.ofCode dest, Fmt.ofCode fr with
  | some T, some F =>
    let (m, s) := drawRnd code seed
    let x := F.value (a.toNat % 2 ^ F.width)
    (if dest = fr then (if x.isNan then w T.nanCode else w (a.toNat % 2 ^ F.width)) else w (T.round m x), s)
  | _, _ => (0, seed)

/-- The width of an integer type (R33). -/
def intBits (t : Nat) : Nat := if t = 7 then 8 else if t = 10 then 16 else if t = 11 then 32 else 64
/-- The least value of an integer of b bits. -/
def intLo (b : Nat) (u : Bool) : Int := if u then 0 else -(2 ^ (b - 1) : Nat)
/-- The greatest value of an integer of b bits. -/
def intHi (b : Nat) (u : Bool) : Int := if u then (2 ^ b : Nat) - 1 else (2 ^ (b - 1) : Nat) - 1

/-- An integer operand of CVTI: its low bits, read by U. -/
def intVal (b : Nat) (u : Bool) (a : DWord) : Int :=
  let x := a.toNat % 2 ^ b
  if u ∨ x < 2 ^ (b - 1) then x else (x : Int) - (2 ^ b : Nat)

/-- CVTI (R119): the result as 64 bits; a result of 32 bits or fewer is in the low word, extended by U. DEDUCED (assumption 66), as R118 says of CVT:
an FP16 or BF16 result leaves zero above it, and of a narrow source the low bits are read. -/
def cvti (dest fr : Nat) (u sat : Bool) (code : Nat) (a : DWord) (seed : Word) : DWord × Word :=
  if isInt dest && isInt fr then
    let x := intVal (intBits fr) u a
    let b := intBits dest
    let y := if sat then satInt x (intLo b u) (intHi b u) else intVal b u (wrap 64 x)
    (wrap 64 y, seed)
  else
    let (m, s) := drawRnd code seed
    if isInt dest then
      match Fmt.ofCode fr with
      | some F =>
        let b := intBits dest
        (wrap 64 (roundToInt m (intLo b u) (intHi b u) (F.value (a.toNat % 2 ^ F.width))), s)
      | none => (0, s)
    else
      match Fmt.ofCode dest with
      | some T => (BitVec.ofNat 64 (T.round m (.int (intVal (intBits fr) u a))), s)
      | none => (0, s)
where
  /-- The integer types. -/
  isInt (t : Nat) : Bool := t = 7 || t = 10 || t = 11 || t = 14

/-- One element of PACKN (R120): the code of FP32 value `x` scaled by 2^(127 − e), and the generator. DESIGN CHOICE (assumption 66): −0 keeps its sign. -/
def packElem (t code e : Nat) (x seed : Word) : Nat × Word :=
  let (m, s) := drawRnd code seed
  (if e = 255 then 0
   else
     let v := match val x with
       | .fin n k y => Val.fin n k (y - ((e : Int) - 127))
       | o => o
     if t = 7 then (roundToInt m (-128) 127 v % 256).toNat
     else if t = 8 then toTern2 v
     else match Fmt.ofCode t with
       | some F =>
         match v with
         | .fin n k y => F.signed n (Nat.min (F.roundQ m n k 1 y % F.signBit) F.maxCode)
         | o => F.round m o
       | none => 0, s)

/-- Elements of PACKN in ascending order (R120, R51). -/
def packElems (t code e : Nat) : List Word → Word → List Nat × Word
  | [], seed => ([], seed)
  | x :: xs, seed =>
    let (c, s) := packElem t code e x seed
    let (cs, s) := packElems t code e xs s
    (c :: cs, s)

/-- The words of a bit stream (R41). -/
def streamWords (n : Nat) (stream : Nat) : List Word := (List.range n).map (fun j => w (stream / 2 ^ (32 * j)))

/-- One element of UNPACKN (R121). -/
def unpackElem (t code e c : Nat) (seed : Word) : Word × Word :=
  let (m, s) := drawRnd code seed
  (if e = 255 then qnan
   else
     let v := if t = 7 then Val.int (intVal 8 false (BitVec.ofNat 64 c)) else if t = 8 then Val.int (tern2 c)
       else match Fmt.ofCode t with
         | some F => F.value c
         | none => .nan
     match v with
     | .fin n k y => w (Fmt.fp32.roundQ m n k 1 (y + ((e : Int) - 127)))
     | o => rnd m o, s)

/-- Elements of UNPACKN in ascending order. -/
def unpackElems (t code e : Nat) : List Nat → Word → List Word × Word
  | [], seed => ([], seed)
  | c :: cs, seed =>
    let (x, s) := unpackElem t code e c seed
    let (xs, s) := unpackElems t code e cs s
    (x :: xs, s)

/-! ### Complex values (R125) -/

/-- CADD (R125), as real and imaginary words. -/
def cadd (ar ai br bi : Word) : Word × Word := (add .ne ar br, add .ne ai bi)
/-- CMUL (R125). -/
def cmul (ar ai br bi : Word) : Word × Word :=
  (fma .ne ar br (neg (mul .ne ai bi)), fma .ne ar bi (mul .ne ai br))
/-- CCMUL (R125): a × conj(b). -/
def ccmul (ar ai br bi : Word) : Word × Word :=
  (fma .ne ar br (mul .ne ai bi), fma .ne (neg ar) bi (mul .ne ai br))
/-- CFMA (R125). -/
def cfma (ar ai br bi cr ci : Word) : Word × Word :=
  (fma .ne ar br (fma .ne (neg ai) bi cr), fma .ne ar bi (fma .ne ai br ci))
/-- CABS2 (R125). -/
def cabs2 (ar ai : Word) : Word := fma .ne ar ar (mul .ne ai ai)

end Sys2Proof.Fp
end

