-- ==== Sys2Proof/Machine/Ops.lean ====
section
/-!
DEFINITION. Named operations over the state that every family uses: records by identifier, lanes and their registers, special registers
(R17), held registers (R161 to R166), chains and the links to peers (R337, R340, R457), the end of a launch (R349, R410, R419), taking a trap (R415 to R419), and return from one (R418, R423).
-/
namespace Sys2Proof.Machine

/-- The outcomes of a step. -/
abbrev Out := Host.Outcome State Fault Refusal

/-- Changes the entry at a position. -/
def updAt (f : α → α) : Nat → List α → List α
  | _, [] => []
  | 0, x :: l => f x :: l
  | k + 1, x :: l => x :: updAt f k l

/-- Removes repetitions, keeping the first of each. -/
def dedup : List Nat → List Nat
  | [] => []
  | x :: xs => x :: (dedup xs).filter (fun y => y ≠ x)

/-! ### Records -/

namespace State
def group? (s : State) (k : Nat) : Option Group := findId Group.id k s.groups
def updGroup (s : State) (k : Nat) (f : Group → Group) : State := { s with groups := updId Group.id k f s.groups }
def block? (s : State) (k : Nat) : Option Block := findId Block.id k s.blocks
def updBlock (s : State) (k : Nat) (f : Block → Block) : State := { s with blocks := updId Block.id k f s.blocks }
def elem? (s : State) (k : Nat) : Option Elem := findId Elem.id k s.elems
def updElem (s : State) (k : Nat) (f : Elem → Elem) : State := { s with elems := updId Elem.id k f s.elems }
def slot? (s : State) (holder : Nat) : Option Slot := findId Slot.elem holder s.slots
def updSlot (s : State) (holder : Nat) (f : Slot → Slot) : State := { s with slots := updId Slot.elem holder f s.slots }
def launch? (s : State) (k : Nat) : Option Launch := findId Launch.id k s.launches
def updLaunch (s : State) (k : Nat) (f : Launch → Launch) : State := { s with launches := updId Launch.id k f s.launches }
def op? (s : State) (k : Nat) : Option LongOp := findId LongOp.id k s.ops
def updOp (s : State) (k : Nat) (f : LongOp → LongOp) : State := { s with ops := updId LongOp.id k f s.ops }
def code? (s : State) (k : Nat) : Option Code := findId Code.handle k s.codes
def queue? (s : State) (k : Nat) : Option Queue := findId Queue.num k s.queues
def updQueue (s : State) (k : Nat) (f : Queue → Queue) : State := { s with queues := updId Queue.num k f s.queues }
/-- Takes the next identifier. -/
def fresh (s : State) : Nat × State := (s.nextId, { s with nextId := s.nextId + 1 })
/-- Draws a free value (assumption 10). -/
def draw (s : State) : BitVec 64 × State := (Config.freeValue s.free, { s with free := s.free + 1 })
/-- Adds a completion entry (R461). -/
def complete (s : State) (c : Completion) : State := { s with completions := s.completions ++ [c] }
end State

/-! ### The launch record -/

/-- A level that the record does not declare. -/
def Level.absent : Level :=
  { present := false, name := 0, domain := 0, scope := 0, width := 8, held := 0, gen := 0, spans := false
    countSrc := false, countReg := 0, count := 0, uniform := 0, imageLen := 0, imageOff := 0 }

/-- The descriptor of a level; an absent one where there is none. -/
def LaunchRec.level (r : LaunchRec) (n : Nat) : Level := r.levels.getD n .absent
/-- %ltop: the number of levels declared (R17). -/
def LaunchRec.ltop (r : LaunchRec) : Nat := (r.levels.filter (·.present)).length
/-- A level's V budget in units of 8 registers: its role's, or the record's for the level (R157, R158). -/
def LaunchRec.budgetOf (r : LaunchRec) (level role : Nat) : Nat :=
  if r.roles ∧ level = r.roleLevel then (r.roleEntries[role]?).elim 0 (·.budget) else r.budgets.getD level 0
/-- Where a group of a level and role starts (R151, R157). -/
def LaunchRec.entryOf (r : LaunchRec) (level role : Nat) : Nat :=
  if r.roles ∧ level = r.roleLevel then (r.roleEntries[role]?).elim 0 (·.entry) else r.entries.getD level 0
/-- The G image of a level (R156). -/
def LaunchRec.gImage (r : LaunchRec) (n : Nat) : SMap 32 :=
  SMap.setAll [] ((List.range (r.level n).imageLen).map (fun i => (i, r.pool.getD ((r.level n).imageOff + i) 0)))

/-! ### Lanes -/

namespace Lane
/-- p0 to p7; p7 reads true (R14). -/
def pred (ln : Lane) (i : Nat) : Bool := i = 7 || ln.p.getLsbD i
/-- A predicate written; a write to p7 is discarded (R14). -/
def setPred (ln : Lane) (i : Nat) (x : Bool) : Lane :=
  if i ≥ 7 then ln
  else { ln with p := if x then ln.p ||| (1#8 <<< i) else ln.p &&& ~~~(1#8 <<< i) }
/-- %seed written; zero stores 1 (R18). -/
def setSeed (ln : Lane) (x : Word) : Lane := { ln with seed := if x = 0 then 1 else x }
/-- An L entry written, and valid from then to the end of the clause (R28). -/
def writeL (ln : Lane) (i : Nat) (x : Word) : Lane := { ln with l := ln.l.set i x, lValid := ln.lValid ||| (1#4 <<< i) }
/-- A register of the lane written; g and h belong to the group and to the element's slot. -/
def write (ln : Lane) : RegRef → Word → Lane
  | .v i, x => { ln with v := ln.v.set i x }
  | .o i, x => { ln with o := ln.o.set i x }
  | .p i, x => ln.setPred i (x ≠ 0)
  | .l i, x => ln.writeL i x
  | .seed, x => ln.setSeed x
  | .h _, _ => ln
  | .g _, _ => ln
/-- Every L entry invalid (R28). -/
def dropL (ln : Lane) : Lane := { ln with lValid := 0 }
def isFree (ln : Lane) : Bool := match ln.st with | .free => true | _ => false
/-- A lane that has an element and has not exited. -/
def unexited (ln : Lane) : Bool := match ln.st with | .missing => false | .exited => false | _ => true
end Lane

namespace Group
def lane? (g : Group) (l : Nat) : Option Lane := g.lanes[l]?
def updLane (g : Group) (l : Nat) (f : Lane → Lane) : Group := { g with lanes := updAt f l g.lanes }
/-- Changes every lane that a mask names. -/
def updLanes (g : Group) (m : LaneMask) (f : Nat → Lane → Lane) : Group :=
  { g with lanes := g.lanes.mapIdx (fun l ln => if m.getLsbD l then f l ln else ln) }
/-- The lanes that pass a test. -/
def lanesWhere (g : Group) (p : Lane → Bool) : LaneMask := maskOf ((g.lanes.zipIdx.filter (fun x => p x.1)).map (·.2))
/-- The mask of lanes below the width. -/
def allLanes (g : Group) : LaneMask := maskOf (List.range g.width)
/-- The member mask of a seam (R189). -/
def members (g : Group) (n : Nat) : LaneMask := (g.seams.get n).extractLsb' 64 64
/-- The arrived mask of a seam (R189). -/
def arrivedMask (g : Group) (n : Nat) : LaneMask := (g.seams.get n).extractLsb' 0 64
/-- A seam with these masks. -/
def setSeam (g : Group) (n : Nat) (m a : LaneMask) : Group := { g with seams := g.seams.set n (m ++ a) }
end Group

/-! ### Ancestors and held registers -/

/-- The first parent of the first parent, and so on, up to a level (R144, R153). -/
def ancestorFrom (s : State) (level : Nat) : Nat → Elem → Option Elem
  | 0, _ => none
  | k + 1, e =>
    if e.level ≤ level then (if e.level = level then some e else none)
    else match e.parents with
      | [] => none
      | p :: _ => match s.elem? p with
        | some q => ancestorFrom s level k q
        | none => none
/-- The ancestor of an element at a level, or itself at its own (levels and depths end within 80 steps). -/
def State.ancestor (s : State) (e : Elem) (level : Nat) : Option Elem := ancestorFrom s level 80 e

/-- %elem.m of an element (R17, R153). -/
def State.elemIdx (s : State) (e : Elem) (m : Nat) : Word :=
  if e.level < m then 0xFFFFFFFF else match s.ancestor e m with
    | some a => a.idx
    | none => 0xFFFFFFFF

/-- The word of HELD_READ (R164). -/
def heldInfo (bit level index : Nat) : Word := BitVec.ofNat 32 (2 ^ bit + level * 64 + index)

/-- The level that supplies hN to readers at a level (R162); 15 where none does. -/
def LaunchRec.heldLevel (r : LaunchRec) (level n : Nat) : Nat := r.heldMap.getD (64 * level + n) 15

/-- A plain read by an element of the register `k` after hN, from the holder of hN (R163), or the word of HELD_READ (R164): both registers of a pair come
from one holder. DEDUCED (assumption 55): the map entry of the first register selects it, and an index that it does not hold is not supplied. DESIGN CHOICE
(assumption 3): of a register written after the reader's creation it gives the newest value, where R263 leaves the old one open too. -/
def State.readHeld (s : State) (r : LaunchRec) (e : Elem) (n k : Nat) : Except Word Word :=
  let m := r.heldLevel e.level n
  let slotVal := fun (x : Nat) => match s.slot? x with
    | some sl => sl.h.get (n + k)
    | none => 0
  if m = 15 || r.heldLevel e.level (n + k) = 15 || (k ≠ 0 && decide ((r.level m).held ≤ n + k)) then
    .error (heldInfo 9 0 (if m = 15 then n else n + k))
  else if m = e.level then .ok (slotVal e.id)
  else match s.ancestor e m with
    | none => .error (heldInfo 11 m n)
    | some a => if e.claims.contains a.id then .ok (slotVal a.id) else .error (heldInfo 11 m n)

/-! ### Special registers -/

/-- The tag bitmap of a block on a core (R281): bit n is set where tag n is of the block's range and has nothing outstanding. -/
def State.tagWord (s : State) (r : LaunchRec) (core : Nat) : BitVec 64 :=
  (List.range r.tagCount).foldl (fun w i =>
    if s.tagCounts.get (core * 64 + r.tagBase + i) = 0 then w ||| (1#64 <<< (r.tagBase + i)) else w) 0

/-- %budget (R17, R412). -/
def State.budgetWord (r : LaunchRec) (b : Block) : Word :=
  if r.budget = 0 then 0xFFFFFFFF else BitVec.ofNat 32 (min b.budgetLeft 0xFFFFFFFF)

/-- The lowest dictionary slot of a core that holds a code object (R67). -/
def State.codeSlot (s : State) (core handle : Nat) : Nat :=
  ((List.range 4).find? (fun i => (s.dict.get (core * 4 + i)).toNat = handle + 1)).getD 0

/-- The value of a special register on a lane (R17). -/
def State.special (s : State) (g : Group) (l : Nat) (ln : Lane) (i : Nat) : Word :=
  let nat := fun (n : Nat) => BitVec.ofNat 32 n
  let rcd := (s.launch? g.launch).map (·.rcd)
  let inHandler := fun (f : Handler → Word) => match g.handler with
    | some h => f h
    | none => 0
  match i with
  | 0 => nat l
  | 1 => nat g.width
  | 2 => nat (if (rcd.elim 5 (fun r => (r.level g.level).domain)) ≤ 1 then 0 else g.num)
  | 3 => (s.block? g.block).elim 0 (·.num)
  | 4 => nat g.level
  | 13 => nat g.core
  | 14 => nat (g.core % 24 / 4)
  | 15 => nat (g.core / 24)
  | 16 => nat s.device
  | 17 => nat s.clock
  | 18 => ln.clockHi
  | 19 => ln.seed
  | 20 => rcd.elim 0 (fun r => (s.tagWord r g.core).extractLsb' 0 32)
  | 21 => rcd.elim 0 (fun r => (s.tagWord r g.core).extractLsb' 32 32)
  | 22 => g.flagWord
  | 23 => nat g.part
  | 24 => inHandler (fun h => h.cause.setWidth 32)
  | 25 => inHandler (fun h => nat h.pc)
  | 26 => inHandler (fun _ => ln.info)
  | 27 => inHandler (fun h => h.trapLanes.extractLsb' 0 32)
  | 28 => inHandler (fun h => h.trapLanes.extractLsb' 32 32)
  | 29 => match rcd, s.block? g.block with
    | some r, some b => State.budgetWord r b
    | _, _ => 0xFFFFFFFF
  | 30 => rcd.elim 0 (fun r => nat r.ltop)
  | 31 => (s.launch? g.launch).elim 0 (fun la => nat (s.codeSlot g.core la.code))
  | n => if 5 ≤ n ∧ n ≤ 12 then (s.elem? ln.elem).elim 0xFFFFFFFF (fun e => s.elemIdx e (n - 5)) else 0

/-! ### Register writes -/

/-- A register of a lane written: v, o, p and %seed in the lane, g in the group, h in the slot of the lane's element. -/
def State.writeReg (s : State) (gid l : Nat) (ref : RegRef) (x : Word) : State :=
  match ref with
  | .g i => s.updGroup gid (fun g => { g with g := g.g.set i x })
  | .h i => match (s.group? gid).bind (·.lane? l) with
    | some ln => s.updSlot ln.elem (fun sl => { sl with h := sl.h.set i x })
    | none => s
  | _ => s.updGroup gid (fun g => g.updLane l (·.write ref x))

/-- Several registers written, the first first. -/
def State.writeRegs (s : State) (gid : Nat) : List (Nat × RegRef × Word) → State
  | [] => s
  | (l, ref, x) :: ws => (s.writeReg gid l ref x).writeRegs gid ws

/-! ### Linked launches and what chains tell them (R333, R334, R349 to R353, R450 to R452, R457) -/

def nameDevice (n : Word) : Nat := bitsOf n.toNat 31 29
def nameCore (n : Word) : Nat := bitsOf n.toNat 28 22
def nameSlot (n : Word) : Nat := bitsOf n.toNat 21 16

/-- The name of a slot of a core. -/
def State.slotName (s : State) (core slot : Nat) : Word := BitVec.ofNat 32 (s.device * 2 ^ 29 + core * 2 ^ 22 + slot * 2 ^ 16)

/-- R452: the devices and tenants that a window binds its tenant to: the one whose window it maps, and those it is exported to. -/
def Window.partners (w : Window) : List (Nat × Nat) :=
  (match w.kind with
    | .peer d t _ => [(d, t)]
    | _ => []) ++ w.exports.filter (fun x => decide (x.1 < 8))

/-- R457, R452: the devices and tenants to which a tenant is bound as a peer. One window binds both ends (assumption 30): the tenant that maps it, once
the map is confirmed, and the tenant that exports it, which cannot see when its peer maps it. -/
def State.bonds (s : State) (tenant : Nat) : List (Nat × Nat) :=
  (s.windows.filter (fun w => w.tenant = tenant && w.waiting.isNone)).flatMap Window.partners

/-- R457, R452: is a tenant bound as a peer to that tenant of a device of the group? -/
def State.boundWith (s : State) (tenant device peer : Nat) : Bool :=
  s.members.getLsbD device && (s.bonds tenant).contains (device, peer)

/-- R457: the launch here that is linked with one on a device, by the link id and their tenants. -/
def State.linked (s : State) (l : PeerLink) (device : Nat) : Option Launch :=
  s.launches.find? (fun la => l.link ≠ 0 && la.link = l.link && la.st ≠ .ended && s.boundWith la.tenant device l.tenant)

/-- R457: is a launch linked with one on a device: does a launch with its link id stand there, of a tenant that its own is bound to? What stands there
is another machine's, so it is free (assumption 30). -/
def State.linkedAt (s : State) (la : Launch) (device : Nat) : Bool :=
  la.link ≠ 0 && s.members.getLsbD device &&
    (s.bonds la.tenant).any (fun x => x.1 = device && Config.peerLaunch device x.2 la.link s.clock)

/-- Sends a message to a device. -/
def State.post (s : State) (device : Nat) (m : PeerMsg) : State := { s with outbox := s.outbox ++ [(device, m)] }

/-- The group of linked launches that a launch is in. -/
def State.linkOf (s : State) (launch : Nat) : PeerLink := (s.launch? launch).elim { tenant := 0, link := 0 } (fun la => { tenant := la.tenant, link := la.link })

/-- R352, R353: the bindings of a launch to one generation of a chain are marked suspended, or their marks go. -/
def State.markBindings (s : State) (launch : Nat) (name : Word) (gen : Nat) (on : Bool) : State :=
  { s with groups := s.groups.map (fun (g : Group) => if g.launch = launch then
      { g with bindings := g.bindings.map (fun (b : Binding) => if b.name = name && b.gen = gen then { b with suspended := on } else b) }
    else g) }

/-- R352, R353: the marks of the bindings to a chain, on this device and on peers. -/
def State.markChain (s : State) (c : Chain) (on : Bool) : State :=
  let name := s.slotName c.core c.slot
  c.peers.foldl (fun (s : State) d => s.post d (.suspend (s.linkOf c.launch) name c.gen on)) (s.markBindings c.launch name c.gen on)

/-- R334, R457: the launch that a join is for, at its chain's device. -/
def State.joinLaunch (s : State) (j : Join) : Option Nat :=
  match j.peer with
  | some p => (s.linked p.2.2 p.1).map (·.id)
  | none => some j.launch

/-- R349, R337: the joins parked for an open chain of its launch. -/
def State.parkedAt (s : State) (c : Chain) : List Join :=
  s.joins.filter (fun j => j.parked && s.joinLaunch j = some c.launch && nameDevice j.name = s.device && nameCore j.name = c.core &&
    nameSlot j.name = c.slot)

/-- R346, R349: a chain that closes; its slot keeps its status and its landed count. -/
def Chain.closed (c : Chain) : Chain :=
  { c with isOpen := false, sums := [], waiter := none, placed := false, suspended := false, saved := false, held := false, awaited := [] }

/-- R349, R445: what peers are told as firmware aborts an open chain: the marks of a suspended one go, and their parked joins are refused. -/
def State.tellAbort (s : State) (c : Chain) : State :=
  let s := if c.suspended then s.markChain c false else s
  (s.parkedAt c).foldl (fun (s : State) j => match j.peer with
    | some p => { s.post p.1 (.joined p.2.1 none) with joins := delId Join.id j.id s.joins }
    | none => s) s

/-! ### The end of a launch -/

/-- Does a queue number belong to a tenant? (1 + 4 t + i) -/
def queueTenant (q : Nat) : Nat := (q - 1) / 4

/-- The completion of kind 2 that reports the end of a launch (R419, R461). -/
def endCompletion (la : Launch) (word info pc : Word) (lanes : LaneMask) : Completion :=
  { queue := la.queue, tag := la.tag, opcode := la.opcode, kind := 2, status := word, value := BitVec.ofNat 64 la.id,
    detail := lanes ++ pc ++ info }

/-- An operation takes its place on granules (R290). -/
def State.holdGranules (s : State) (gs : List Nat) : State :=
  { s with engineCounts := gs.foldl (fun m g => m.set g (m.get g + 1)) s.engineCounts }
/-- R290: an operation has completed; a granule without another returns from the engine to THREADS. -/
def State.handBack (s : State) (gs : List Nat) : State :=
  let counts := gs.foldl (fun m g => m.set g (m.get g - 1)) s.engineCounts
  { s with engineCounts := counts, owners := gs.foldl (fun m g => if counts.get g = 0 then m.set g 0 else m) s.owners }

/-- The granules that the loop nests and matrix entries of a launch hold. What a saved entry holds are positions only (R330). -/
def State.heldByLaunch (s : State) (k : Nat) : List Nat :=
  (s.nests.filter (fun o => s.groups.any (fun g => g.id = o.group && g.launch = k))).flatMap (·.granules) ++
    (s.matrix.filter (fun m => m.launch = k && s.blocks.all (fun b => b.id ≠ m.block || b.st ≠ .saved))).flatMap (·.granules)

/-- The queue entries of a launch that are to read a contribution from a tile (R339). -/
def State.unreadSends (s : State) (k : Nat) : List Nat :=
  s.matrix.filterMap (fun m => match m.kind with
    | .send c _ _ _ _ => if m.launch = k then some c else none
    | _ => none)

/-- A block that ends. One that was saved has given its space up already (R442). -/
def Block.ended (b : Block) : Block :=
  if b.st = .saved then { b with st := .ended, saved := none, cores := [], base := [] } else { b with st := .ended, saved := none }

/-- Frees what a launch holds in the machine: its groups, outstanding instructions, blocks, slots, queue entries, chains, streams and requests
(R408, R419, R445). Copies and tile operations under way still land, and queries are still answered; what loop nests and matrix entries held
returns (R290). A contribution that its queue entry has yet to read goes with that entry; one that has been read, or lies in scratchpad, still lands
(R350). Its open chains are aborted as R349 says. -/
def State.clearLaunch (s : State) (k : Nat) : State :=
  let gs := (s.groups.filter (fun g => g.launch = k)).map (·.id)
  let s := s.handBack (s.heldByLaunch k)
  let s := (s.chains.filter (fun c => c.launch = k && c.isOpen)).foldl State.tellAbort s
  { s with
    contributions := s.contributions.filter (fun c => !(s.unreadSends k).contains c.id)
    focus := match s.focus with
      | some f => if gs.contains f then none else some f
      | none => none
    groups := s.groups.filter (fun g => g.launch ≠ k)
    ops := s.ops.filter (fun o => !gs.contains o.group)
    nests := s.nests.filter (fun o => !gs.contains o.group)
    blocks := s.blocks.map (fun b => if b.launch = k then b.ended else b)
    elems := s.elems.map (fun e => if e.launch = k then { e with st := .finished } else e)
    slots := s.slots.filter (fun sl => sl.launch ≠ k)
    items := s.items.filter (fun i => i.launch ≠ k)
    matrix := s.matrix.filter (fun m => m.launch ≠ k)
    joins := s.joins.filter (fun j => j.launch ≠ k)
    chains := s.chains.map (fun c => if c.launch = k ∧ c.isOpen then { c.closed with aborted := true } else c)
    streams := s.streams.filter (fun t => t.launch ≠ k)
    prims := s.prims.filter (fun p => p.launch ≠ k)
    raySets := s.raySets.filter (fun r => !gs.contains r.group) }

/-- R410, R419: firmware ends a launch and reports a cause; no lane of it runs again. -/
def State.endLaunch (s : State) (k : Nat) (word info pc : Word) (lanes : LaneMask) : State :=
  match s.launch? k with
  | none => s
  | some la =>
    if la.st = .ended then s else
    let s := (s.clearLaunch k).handBack ((s.asks.filter (fun a => a.launch = k)).flatMap (·.granules))
    let s := ({ s with asks := s.asks.filter (fun a => a.launch ≠ k) }).updLaunch k (fun la =>
      { la with st := .ended, normal := false, endWord := word })
    s.complete (endCompletion la word info pc lanes)

/-! ### Traps -/

/-- Cause codes (R415). -/
def Cause.illegalOpcode : Nat := 0x01
def Cause.illegalForm : Nat := 0x02
def Cause.rateMismatch : Nat := 0x03
def Cause.regBudget : Nat := 0x04
def Cause.roleViolation : Nat := 0x05
def Cause.formatDivergence : Nat := 0x06
def Cause.maskMismatch : Nat := 0x07
def Cause.orphanedSeam : Nat := 0x08
def Cause.seamInRegroup : Nat := 0x09
def Cause.serialNesting : Nat := 0x0A
def Cause.shelfDeadlock : Nat := 0x0B
def Cause.heldRead : Nat := 0x0C
def Cause.bounds : Nat := 0x10
def Cause.translation : Nat := 0x11
def Cause.permission : Nat := 0x12
def Cause.ownerViolation : Nat := 0x13
def Cause.alignment : Nat := 0x14
def Cause.uncorrectable : Nat := 0x15
def Cause.codeAuth : Nat := 0x16
def Cause.chainSuspended : Nat := 0x18
def Cause.chainUnknown : Nat := 0x19
def Cause.chainProtocol : Nat := 0x1A
def Cause.batchProtocol : Nat := 0x1B
def Cause.budget : Nat := 0x20
def Cause.preempt : Nat := 0x21
def Cause.software : Nat := 0x22
def Cause.engineFault : Nat := 0x23

/-- Where a trap is taken. -/
inductive TrapSite where
  /-- At an instruction of the clause in progress. -/
  | instr
  /-- At a header, on the lanes that reached it. -/
  | header (pc : Nat)
  /-- At a clause boundary, asynchronously, with the %trap.pc of R416. -/
  | async (pc : Nat)
  /-- Asynchronously, while a missing translation holds an instruction of the clause in progress (R464). -/
  | held (pc : Nat)
  deriving DecidableEq, Repr

/-- The group in the handler of its level (R416, R417): each handler lane keeps its return point, its L entries are hidden, and it
stands at the handler's first header; the clause in progress is kept and its flag counts go. `info` gives each lane's %trap.info. The resume mask
is cleared, but an instruction that a missing translation held keeps it, for no lane is performed twice (R278). -/
def Group.enterHandler (g : Group) (entry cause : Nat) (info : Lane → Word) (trapLanes hl : LaneMask) (site : TrapSite) : Group :=
  let (pc, kept) := match site, g.run with
    | .instr, some r => (r.cur, some r)
    | .instr, none => (0, none)
    | .header pc, _ => (pc, none)
    | .async pc, _ => (pc, none)
    | .held pc, kept => (pc, kept)
  let todo : LaneMask := match site, kept with
    | .held _, some r => if g.resumeOn && g.resumeAt = r.cur then g.resume else r.lanes
    | _, some r => r.lanes
    | _, none => 0
  let g := match kept with
    | some r => g.dropFlags r
    | none => g
  let g := g.updLanes hl (fun _ ln =>
    { ln with info := info ln, retPc := ln.pc, pc := entry, lHidden := ln.lValid, lKept := ln.l, lValid := 0 })
  { g with
    run := none, resumeOn := false, resume := 0, hold := none
    handler := some { cause := BitVec.ofNat 8 cause, pc, trapLanes, lanes := hl, kept, todo, atHeader := kept.isNone,
                      tret := false, preDone := false } }

/-- Taking a trap (R415 to R419), the one operation that does so. A level without a handler ends the launch; a synchronous trap in a handler
is a double trap and ends it with bit [8] set. -/
def State.takeTrapWith (s : State) (gid cause : Nat) (info : Lane → Word) (trapLanes hl : LaneMask) (site : TrapSite) : State :=
  match s.group? gid with
  | none => s
  | some g =>
    let pc := match site, g.run with
      | .instr, some r => r.cur
      | .instr, none => 0
      | .header pc, _ => pc
      | .async pc, _ => pc
      | .held pc, _ => pc
    let entry := (s.launch? g.launch).elim 0 (fun la => la.rcd.handlers.getD g.level 0)
    let word := fun (w : Nat) => s.endLaunch g.launch (BitVec.ofNat 32 w)
      ((g.lane? (lowLane trapLanes)).elim 0 info) (BitVec.ofNat 32 pc) trapLanes
    if g.handler.isSome then word (256 + cause)
    else if entry = 0 then word cause
    else
      let s := s.updGroup gid (·.enterHandler entry cause info trapLanes hl site)
      { s with focus := if s.focus = some gid then none else s.focus }

/-- A synchronous trap at the instruction being run, on the lanes `trapLanes`; the handler runs on the whole path (R416). -/
def State.trapAt (s : State) (gid cause : Nat) (info : Word) (trapLanes : LaneMask) : State :=
  let path := match s.group? gid with
    | some g => g.run.elim 0 (·.lanes)
    | none => 0
  s.takeTrapWith gid cause (fun _ => info) trapLanes path .instr

/-- A synchronous trap at a header, on the lanes that stand there (R76, R416). -/
def State.trapHeader (s : State) (gid cause : Nat) (info : Word) (lanes : LaneMask) (pc : Nat) : State :=
  s.takeTrapWith gid cause (fun _ => info) lanes lanes (.header pc)

/-- R423: the clause of a trapped instruction goes on with the lanes that TRET sends back into it: the instruction runs on those of `due`,
and the flag counts that the trap removed come back for them. -/
def Group.resumeClause (g : Group) (k : Run) (back due : LaneMask) : Group :=
  let per := fun (n : Nat) => n / laneCount k.lanes * laneCount back
  let r : Run := { k with lanes := back, remA := per k.remA, remB := per k.remB, body := k.curBody, next := k.cur }
  { g.restoreFlags r with
    run := some r, resume := due, resumeOn := true, resumeAt := k.cur }

/-- R185: W rises for the lanes that a choice passed over, once the clause of the chosen path has ended. -/
def Group.passWaits (g : Group) (losers : LaneMask) : Group := g.updLanes losers (fun _ ln => { ln with wait := ln.wait + 1 })

/-- R418, R423, R438: once every handler lane has executed TRET or PREEMPT.DONE, or has exited, the handler closes and each lane goes where its
TRET sends it; a lane that goes back into its clause has its hidden L entries again, and the instruction runs on those of RETRY that R278 allows. Where
none goes back, the clause has ended (R185). A PREEMPT handler that closes without TRET leaves the group done (R438). -/
def Group.closeHandler (g : Group) : Group :=
  match g.handler with
  | none => g
  | some h =>
    let left := g.lanesWhere (fun ln => match ln.st with
      | .returned _ => false
      | .done => false
      | .exited => false
      | .missing => false
      | _ => true)
    if left &&& h.lanes ≠ 0 then g else
    let retry := h.lanes &&& g.lanesWhere (fun ln => ln.st = .returned .retry)
    let back := retry ||| (h.lanes &&& g.lanesWhere (fun ln => ln.st = .returned .skip))
    let g := g.updLanes h.lanes (fun _ ln => match ln.st with
      | .returned (.header pc) => { ln with st := .free, pc, lValid := 0, lHidden := 0, lKept := [], info := 0 }
      | .returned _ => { ln with st := .free, pc := ln.retPc, l := ln.lKept, lValid := ln.lHidden, lHidden := 0, lKept := [], info := 0 }
      | .done => { ln with restoring := true }
      | _ => ln)
    let g := match h.kept with
      | some k => if back &&& k.lanes = 0 then { g.passWaits k.losers with resumeOn := false } else g.resumeClause k (back &&& k.lanes) (retry &&& h.todo)
      | none => { g with resumeOn := false }
    { g with
      handler := none
      preemptPending := if h.cause.toNat = Cause.preempt ∧ h.tret then true else g.preemptPending
      done := g.done || (h.cause.toNat = Cause.preempt && !h.tret) }

end Sys2Proof.Machine
end

