-- ==== Sys2Proof/Machine/Operands.lean ====
section
/-!
DEFINITION. What every encoded instruction shares: the lanes that execute it (R26, R278), the checks of R75 and R76 that need the state,
the reading of every operand form (R62 to R65, R80, R102), the writing of results (R13, R28, R64), and how it completes (R23 to R30).
-/
namespace Sys2Proof
open Machine (RegRef)

/-! ### Specifiers -/

/-- The 10-bit immediate of source c, signed (R66). -/
def Opnd.simm : Opnd → Int
  | .field x => x.toInt
  | _ => 0
/-- The 10-bit immediate of source c, unsigned (R66, R80). -/
def Opnd.uimm : Opnd → Nat
  | .field x => x.toNat
  | _ => 0
/-- The value of a field, or of a destination field, that is no specifier. -/
def Dst.uimm : Dst → Nat
  | .field x => x.toNat
  | _ => 0

/-- The V registers that a source of a class names: first and count. -/
def SClass.vRun (cls : SClass) : Opnd → List (Nat × Nat)
  | .v i => match cls with
    | .pair _ => [(i.toNat, 2)]
    | .v n _ => [(i.toNat, n)]
    | _ => [(i.toNat, 1)]
  | _ => []
/-- The V registers that a destination of a class names. -/
def DClass.vRun (cls : DClass) : Dst → List (Nat × Nat)
  | .v i => match cls with
    | .pairdst => [(i.toNat, 2)]
    | .v n _ _ => [(i.toNat, n)]
    | _ => [(i.toNat, 1)]
  | _ => []
/-- The V register that LUT3's short c names (R85). -/
def lutRun (op : Op) (f : Form) : List (Nat × Nat) :=
  if op = .lut3 && !(f.c.uimm.testBit 5) then [(f.c.uimm % 32, 1)] else []

/-- The V registers that an instruction's specifiers name (R16). -/
def Sig.vRuns (sg : Sig) (op : Op) (f : Form) : List (Nat × Nat) :=
  sg.d.vRun f.dst ++ sg.a.vRun f.a ++ sg.b.vRun f.b ++ sg.c.vRun f.c ++ lutRun op f

/-- The held registers that a source of a class names: the register that selects the holder, and how far after it (R163). -/
def SClass.hRun (cls : SClass) : Opnd → List (Nat × Nat)
  | .h i => match cls with
    | .pair _ => [(i.toNat, 0), (i.toNat, 1)]
    | .src _ => [(i.toNat, 0)]
    | _ => []
  | _ => []
/-- The held registers that a destination of a class names. -/
def DClass.hRun (cls : DClass) : Dst → List Nat
  | .h i => match cls with
    | .pairdst => [i.toNat, i.toNat + 1]
    | _ => [i.toNat]
  | _ => []

/-- Does an instruction name a special register as a source? -/
def Form.reads (f : Form) (i : Nat) : Bool :=
  let is := fun (o : Opnd) => match o with
    | .sr j => j.toNat = i
    | _ => false
  is f.a || is f.b || is f.c

/-- Register `k` of the destination's run. -/
def Dst.ref (k : Nat) : Dst → Option RegRef
  | .v i => some (.v (i.toNat + k))
  | .g i => some (.g (i.toNat + k))
  | .o i => some (.o (i.toNat + k))
  | .h i => some (.h (i.toNat + k))
  | .p i => some (.p i.toNat)
  | .sr _ => some .seed
  | .none => Option.none
  | .field _ => Option.none

end Sys2Proof

namespace Sys2Proof.Machine

/-! ### The instruction in its clause -/

/-- Where an instruction executes: its group, the clause in progress, its block and launch, and X, the lanes that execute it. -/
structure Env where
  gid : Nat
  g : Group
  r : Run
  b : Block
  la : Launch
  x : LaneMask

/-- The launch record. -/
def Env.rcd (e : Env) : LaunchRec := e.la.rcd

/-- R26: the lanes of a path whose guard is true. -/
def Group.guarded (g : Group) (lanes : LaneMask) (gd : Guard) : LaneMask :=
  lanes &&& g.lanesWhere (fun ln => ln.pred gd.idx.toNat != gd.neg)

/-- X: the lanes of the path whose guard is true, and that the resume mask allows (R278). -/
def Group.active (g : Group) (r : Run) (gd : Guard) : LaneMask :=
  let x := g.guarded r.lanes gd
  if g.resumeOn ∧ g.resumeAt = r.cur then x &&& g.resume else x

/-- The instruction being run on the group in focus. R278: the instruction of a resume mask runs only on the lanes of the mask. -/
def State.env (s : State) (gd : Guard) : Option Env :=
  match s.focus with
  | none => none
  | some gid =>
    match s.group? gid with
    | none => none
    | some g =>
      match g.run, s.block? g.block, s.launch? g.launch with
      | some r, some b, some la =>
        some { gid, g, r, b, la, x := g.active r gd }
      | _, _, _ => none

/-- The lanes of X with their numbers, ascending. -/
def Env.lanes (e : Env) : List (Nat × Lane) := (lanesOf e.x).filterMap (fun l => (e.g.lane? l).map (l, ·))

/-- The lanes of X that pass a test. -/
def Env.where_ (e : Env) (p : Nat → Lane → Bool) : LaneMask := maskOf ((e.lanes.filter (fun c => p c.1 c.2)).map (·.1))

/-! ### Operand values -/

/-- How an instruction reads an immediate (R65, R102). -/
inductive View where
  | int
  | fp
  | half (bf : Bool)
  deriving DecidableEq, Repr

/-- An immediate of value `k` as a register value (R65, R102). -/
def immWord (v : View) (k : Int) : Word :=
  match v with
  | .int => wrap 32 k
  | .fp => Fp.w (Fmt.fp32.round .ne (.int k))
  | .half bf => Fp.pack2 ((Fp.half bf).round .ne (.int k)) ((Fp.half bf).round .ne (.int k))

/-- A held register as a source, `k` registers after hN of whose holder it is (R163); zero where the read raises HELD_READ. -/
def State.held (s : State) (e : Env) (ln : Lane) (n k : Nat) : Word :=
  match s.elem? ln.elem with
  | none => 0
  | some el => match s.readHeld e.rcd el n k with
    | .ok x => x
    | .error _ => 0

/-- Register `k` of the run that starts at a source (k = 0: the source itself), on a lane. -/
def State.srcAt (s : State) (e : Env) (v : View) (l : Nat) (ln : Lane) (k : Nat) : Opnd → Word
  | .v i => ln.v.get (i.toNat + k)
  | .g i => e.g.g.get (i.toNat + k)
  | .o i => ln.o.get (i.toNat + k)
  | .l i => ln.l.get (i.toNat + k)
  | .h i => s.held e ln i.toNat k
  | .sr i => s.special e.g l ln i.toNat
  | .imm x => immWord v x.toInt
  | .lit x => x
  | .pred i => if ln.pred i.toNat then 1 else 0
  | .field _ => 0

/-- A 32-bit source on a lane. -/
def State.src (s : State) (e : Env) (v : View) (l : Nat) (ln : Lane) (o : Opnd) : Word := s.srcAt e v l ln 0 o

/-- A 64-bit source on a lane (R13, R62, R65). -/
def State.pair (s : State) (e : Env) (l : Nat) (ln : Lane) : Opnd → DWord
  | .imm x => x.signExtend 64
  | .lit x => x.signExtend 64
  | o => pairWord (s.srcAt e .int l ln 0 o) (s.srcAt e .int l ln 1 o)

/-- A complex source on a lane: real and imaginary part (R13, R62, R65). -/
def State.complex (s : State) (e : Env) (l : Nat) (ln : Lane) : Opnd → Word × Word
  | .imm x => (immWord .fp x.toInt, 0)
  | .lit x => (x, 0)
  | o => (s.srcAt e .fp l ln 0 o, s.srcAt e .fp l ln 1 o)

/-- A predicate source on a lane. -/
def Lane.psrc (ln : Lane) : Opnd → Bool
  | .pred i => ln.pred i.toNat
  | _ => false

/-- Source b of a two-source instruction of class IU or FR: the 10-bit immediate under IMM (R80, R102). -/
def State.srcB (s : State) (e : Env) (v : View) (zext : Bool) (f : Form) (l : Nat) (ln : Lane) : Word :=
  if modImm f.mod then immWord v (if zext then f.c.uimm else f.c.simm) else s.src e v l ln f.b
/-- Source b as a pair, likewise. -/
def State.pairB (s : State) (e : Env) (zext : Bool) (f : Form) (l : Nat) (ln : Lane) : DWord :=
  if modImm f.mod then wrap 64 (if zext then f.c.uimm else f.c.simm) else s.pair e l ln f.b
/-- Source c of a three-source instruction of class IU or FR, likewise. -/
def State.srcC (s : State) (e : Env) (v : View) (zext : Bool) (f : Form) (l : Nat) (ln : Lane) : Word :=
  if modImm f.mod then immWord v (if zext then f.c.uimm else f.c.simm) else s.src e v l ln f.c
/-- Source c as a pair, likewise. -/
def State.pairC (s : State) (e : Env) (zext : Bool) (f : Form) (l : Nat) (ln : Lane) : DWord :=
  if modImm f.mod then wrap 64 (if zext then f.c.uimm else f.c.simm) else s.pair e l ln f.c

/-- A membership mask (R203): 64 bits in a group of width 64. -/
def State.maskOpnd (s : State) (e : Env) (l : Nat) (ln : Lane) (o : Opnd) : LaneMask :=
  if e.g.width = 64 then s.pair e l ln o else (s.src e .int l ln o).setWidth 64

/-! ### Checks at the instruction (R76) -/

/-- Do these instructions take a lane mask as source b? -/
def takesMask (op : Op) : Bool :=
  match op with
  | .vote | .shfl | .redux | .scan => true
  | _ => false

/-- The operand classes in this group: a lane mask is a pair at width 64 (R203). -/
def Env.sig (e : Env) (op : Op) (f : Form) : Option Sig :=
  (sigOf op f.mod (encDst f.dst) (encOpnd f.b) (encOpnd f.c)).map (fun sg =>
    if takesMask op && e.g.width = 64 then { sg with b := .pair true } else sg)

/-- The lowest V index at or beyond a budget that some run names. -/
def lowestBeyond (budget : Nat) (runs : List (Nat × Nat)) : Option Nat :=
  ((runs.filter (fun c => c.2 ≠ 0 && c.1 + c.2 > budget)).map (fun c => max c.1 budget)).min?

/-- R28: the L entry that a source reads, where it is not valid. -/
def Lane.badL (ln : Lane) : Opnd → Bool
  | .l i => !ln.lValid.getLsbD i.toNat
  | _ => false

/-- R164: the first HELD_READ of an instruction on a lane. DESIGN CHOICE (assumption 55): a source's comes before a destination's, but for the reads of HLERP,
which come after it. -/
def State.heldError (s : State) (e : Env) (sg : Sig) (f : Form) (ln : Lane) : Option Word :=
  let reads := sg.a.hRun f.a ++ sg.b.hRun f.b ++ sg.c.hRun f.c
  let bad := reads.findSome? (fun n => match s.elem? ln.elem with
    | none => none
    | some el => match s.readHeld e.rcd el n.1 n.2 with
      | .ok _ => none
      | .error w => some w)
  match bad with
  | some w => some w
  | none => ((sg.d.hRun f.dst).find? (fun n => (e.rcd.level e.g.level).held ≤ n)).map (heldInfo 10 e.g.level)

/-- Is a G run that is a destination launch-uniform in part (R156)? -/
def Env.uniformG (e : Env) : Dst → Bool
  | .g i => i.toNat < (e.rcd.level e.g.level).uniform
  | _ => false

/-- Can a lane read a source: is it within the register budget, and does its held read pass (R16, R164)? -/
def State.readable (s : State) (e : Env) (ln : Lane) : Opnd → Bool
  | .v i => i.toNat < 8 * e.rcd.budgetOf e.g.level e.g.role
  | .h i => (s.elem? ln.elem).elim true (fun el => (s.readHeld e.rcd el i.toNat 0).isOk)
  | _ => true

/-- The lowest lane's 64-bit source. -/
def State.lowPair (s : State) (e : Env) (o : Opnd) : BitVec 64 := (e.lanes.head?).elim 0 (fun c => s.pair e c.1 c.2 o)
/-- The lowest lane's 32-bit source. -/
def State.lowSrc (s : State) (e : Env) (o : Opnd) : Word := (e.lanes.head?).elim 0 (fun c => s.src e .int c.1 c.2 o)
/-- Can the lowest lane read a source? -/
def State.lowReadable (s : State) (e : Env) (o : Opnd) : Bool := (e.lanes.head?).elim false (fun c => s.readable e c.2 o)

/-- R320: are the checks of an instruction reported on every lane of X? -/
def reportsOnAll (op : Op) : Bool := op = .mma || op = .quant || op = .had

/-- The first of R76's causes 1 to 4, then HELD_READ, that an instruction meets, with its %trap.info and lanes; `runs` are the V registers
that it names without a specifier of their own. DEDUCED (assumption 81): a run of PREF, and d of LAYINFO, are checked too, though R274 and R277 name the
encoding traps of R75 only. -/
def State.preCheck (s : State) (e : Env) (op : Op) (f : Form) (runs : List (Nat × Nat)) : Option (Nat × Word × LaneMask) :=
  match e.sig op f with
  | none => some (Cause.illegalForm, 0, e.x)
  | some sg =>
    let badL := e.where_ (fun _ ln => ln.badL f.a || ln.badL f.b || ln.badL f.c)
    let budget := 8 * e.rcd.budgetOf e.g.level e.g.role
    let held := e.lanes.filterMap (fun c => (s.heldError e sg f c.2).map (c.1, ·))
    if (op.isLong && (e.r.flagOf f.fsel).isNone) || runs.any (fun c => c.1 + c.2 > 256) || e.uniformG f.dst ||
       (takesMask op && !opndOk sg.b f.b) then some (Cause.illegalForm, 0, e.x)
    else if badL ≠ 0 then some (Cause.illegalForm, 0, if reportsOnAll op then e.x else badL)
    else match lowestBeyond budget (sg.vRuns op f ++ runs) with
      | some n => some (Cause.regBudget, BitVec.ofNat 32 (budget / 8 * 256 + n), e.x)
      | none =>
        if op = .mma ∧ e.g.role ≠ 1 then some (Cause.roleViolation, BitVec.ofNat 32 e.g.role, e.x)
        else match held with
          | (_, w) :: _ => some (Cause.heldRead, w, maskOf (held.map (·.1)))
          | [] => none

/-! ### Completing -/

/-- What the body of an instruction does with the state. -/
inductive Res where
  /-- It takes effect. -/
  | ok (s : State)
  /-- It traps, with no effect. -/
  | trap (cause : Nat) (info : Word) (lanes : LaneMask)
  /-- It traps in the state given: the report itself changes it (R282), or the lanes `done` have been performed and are not performed again (R177). -/
  | trapIn (s : State) (done : LaneMask) (cause : Nat) (info : Word) (lanes : LaneMask)
  /-- R278: it is performed on the lanes `done` in the state given, and traps on the others. -/
  | part (s : State) (done : LaneMask) (cause : Nat) (info : Word) (lanes : LaneMask)
  /-- R278, R431: it is performed on the lanes `done`, and the others wait for a missing translation. -/
  | partHold (s : State) (done lanes : LaneMask) (fault : Nat)
  /-- It waits at issue (R281, R313, R427). -/
  | stall
  /-- The same, in the state given (R330). -/
  | stallIn (s : State)
  /-- R431: a missing translation holds it. -/
  | hold (s : State) (fault : Nat)
  | stop (r : Fault)

/-- R17: a read of %clock latches the high half. -/
def Group.latchClock (g : Group) (f : Form) (x : LaneMask) (clock : Nat) : Group :=
  if f.reads 17 then g.updLanes x (fun _ ln => { ln with clockHi := BitVec.ofNat 32 (clock / 2 ^ 32) }) else g

/-- The same in the instruction's group, for the lanes that a part of it has been performed on (R278). -/
def State.latch (s : State) (e : Env) (f : Form) (done : LaneMask) : State := s.updGroup e.gid (fun g => g.latchClock f done s.clock)

/-- The instruction has taken effect: %clockhi is latched (DESIGN CHOICE, assumption 76: after its operands have been read, so an instruction that names
%clock and %clockhi reads the earlier latch), a long-latency instruction's counts are its own from now on (R23), and a resume
mask that it has used is cleared (R278). -/
def State.retire (s : State) (e : Env) (op : Op) (f : Form) : State :=
  let clock := s.clock
  s.updGroup e.gid (fun g =>
    let g := g.latchClock f e.x clock
    let g := if op.isLong then g.settle e.r f.fsel e.x else g
    if g.resumeOn ∧ g.resumeAt = e.r.cur then { g with resumeOn := false } else g)

/-- The instruction waits where it stands: its parcels are decoded again when the group next issues. -/
def State.rewind (s : State) (e : Env) : State :=
  let s := s.updGroup e.gid (fun g => { g with run := g.run.map (fun r => { r with body := r.curBody, next := r.cur }) })
  { s with focus := none }

/-- The lanes of a long-latency instruction that have been performed before a trap keep their counts (R278). -/
def State.keepCounts (s : State) (e : Env) (op : Op) (f : Form) (done : LaneMask) : State :=
  if op.isLong then s.updGroup e.gid (fun g => g.addFlag? (e.r.flagOf f.fsel) (laneCount done)) else s

/-- R278: the lanes on which a trapped instruction has not been performed, for a TRET that comes back to it. -/
def State.leaveTodo (s : State) (gid : Nat) (lanes : LaneMask) : State :=
  s.updGroup gid (fun g => { g with handler := g.handler.map (fun h => { h with todo := lanes }) })

/-- What the instruction's body answered, done to the machine. DESIGN CHOICE (assumption 70): EMIT, which R278 puts in neither class, is partial where
R177's check by parent traps: TRET.RETRY runs it on the trapping lanes only. -/
def State.finish (s : State) (e : Env) (op : Op) (f : Form) : Res → Out
  | .ok s' => .next (s'.retire e op f)
  | .trap cause info lanes => .next (s.trapAt e.gid cause info lanes)
  | .trapIn s' done cause info lanes =>
    let s' := (s'.latch e f done).trapAt e.gid cause info lanes
    .next (if done = 0 then s' else s'.leaveTodo e.gid lanes)
  | .part s' done cause info lanes =>
    let s' := (((s'.latch e f done).keepCounts e op f done).trapAt e.gid cause info lanes)
    .next (s'.leaveTodo e.gid lanes)
  | .partHold s' done lanes fault =>
    let s' := (s'.latch e f done).keepCounts e op f done
    let s' := s'.updGroup e.gid (fun g =>
      { g with resumeOn := true, resume := lanes, resumeAt := e.r.cur, hold := some fault })
    .next (s'.rewind e)
  | .stall => .next (s.rewind e)
  | .stallIn s' => .next (s'.rewind e)
  | .hold s' fault => .next ((s'.updGroup e.gid (fun g => { g with hold := some fault })).rewind e)
  | .stop r => .fault r

/-- No ILLEGAL_FORM of the entry's own. -/
def noForm (_ : Env) : Option (Word × LaneMask) := none
/-- An ILLEGAL_FORM of the entry's own, of every lane of X, with its code (R420). -/
def ownForm (code : Nat) (bad : Env → Bool) (e : Env) : Option (Word × LaneMask) :=
  if bad e then some (BitVec.ofNat 32 code, e.x) else none
/-- The same, of the lanes that meet it. -/
def laneForm (bad : Env → Nat → Lane → Bool) (e : Env) : Option (Word × LaneMask) :=
  if e.where_ (bad e) = 0 then none else some (0, e.where_ (bad e))

/-- R76: what the checks report, given an ILLEGAL_FORM of the entry's own (R420 lists their codes), which ranks before REG_BUDGET. DESIGN CHOICE
(assumption 70): with another ILLEGAL_FORM at once, the lanes are those of both, and %trap.info is the lowest lane's, 0 where it meets both. -/
def firstCause (own : Option (Word × LaneMask)) (found : Option (Nat × Word × LaneMask)) : Option (Nat × Word × LaneMask) :=
  match own, found with
  | some (info, lanes), some (cause, i, ls) =>
    if cause = Cause.illegalForm then some (cause, if lowLane ls ≤ lowLane lanes then i else info, ls ||| lanes)
    else some (Cause.illegalForm, info, lanes)
  | some (info, lanes), none => some (Cause.illegalForm, info, lanes)
  | none, found => found

/-- An encoded instruction: on no lane it takes no effect (R26, R76); else the checks of R76 come first, with the ILLEGAL_FORM of its own entry, then its
body. -/
def runWith (op : Op) (f : Form) (runs : Env → List (Nat × Nat)) (s : State) (body : Env → Res)
    (own : Env → Option (Word × LaneMask) := noForm) : Out :=
  match s.env f.guard with
  | none => .next s
  | some e =>
    if e.x = 0 then .next (s.retire e op f)
    else match firstCause (own e) (s.preCheck e op f (runs e)) with
      | some (cause, info, lanes) => .next (s.trapAt e.gid cause info lanes)
      | none => s.finish e op f (body e)

/-- The same where every register is named by a specifier. -/
def runOp (op : Op) (f : Form) (s : State) (body : Env → Res) (own : Env → Option (Word × LaneMask) := noForm) : Out :=
  runWith op f (fun _ => []) s body own

/-! ### Results -/

/-- What an instruction writes on one lane: successive registers of its destination, and perhaps %seed (R49). -/
structure LaneRes where
  words : List Word
  seed : Option Word

/-- A result of these words. -/
def LaneRes.of (ws : List Word) : LaneRes := { words := ws, seed := none }
/-- A 64-bit result. -/
def LaneRes.pair (x : DWord) : LaneRes := .of [loWord x, hiWord x]
/-- A predicate result. -/
def LaneRes.pred (b : Bool) : LaneRes := .of [if b then 1 else 0]

/-- The registers that an instruction writes on a lane: its destination, its L entry (R28), %seed. -/
def LaneRes.writes (r : LaneRes) (f : Form) : List (RegRef × Word) :=
  (match r.seed with
   | some x => [(RegRef.seed, x)]
   | none => []) ++
  (r.words.zipIdx.filterMap (fun c => (f.dst.ref c.2).map (·, c.1))) ++
  (match f.lw, r.words with
   | some i, w :: _ => [(RegRef.l i.toNat, w)]
   | _, _ => [])

/-- The writes of every lane of X: all lanes read before any writes (R31). -/
def Env.writes (e : Env) (f : Form) (fn : Nat → Lane → LaneRes) : List (Nat × RegRef × Word) :=
  e.lanes.flatMap (fun c => ((fn c.1 c.2).writes f).map (fun w => (c.1, w.1, w.2)))

/-- A fixed-latency instruction that only writes registers of its lanes. -/
def runFixed (op : Op) (f : Form) (s : State) (fn : Env → Nat → Lane → LaneRes) : Out :=
  runOp op f s (fun e => .ok (s.writeRegs e.gid (e.writes f (fn e))))

/-- Adds a long-latency instruction on the lanes of X: what each waits for and then writes. Answers its identifier. -/
def State.addOp (s : State) (e : Env) (f : Form) (fate : Fate) (lane : Nat → Lane → Cond × List (RegRef × Word)) : Nat × State :=
  let (k, s) := s.fresh
  let op : LongOp :=
    { id := k, group := e.gid, flag := e.r.flagOf f.fsel
      lanes := e.lanes.map (fun c => { lane := c.1, cond := (lane c.1 c.2).1, writes := (lane c.1 c.2).2 })
      fate, run := 0, dst := f.dst.ref 0, pdst := none, kept := false }
  (k, { s with ops := s.ops ++ [op] })

/-- The lanes of a long-latency instruction just added that have nothing to wait for complete at issue (R178, R336, R399): their counts go. -/
def State.doneAtIssue (s : State) (e : Env) (f : Form) (k : Nat) (done : LaneMask) : State :=
  let s := s.updOp k (fun o => { o with lanes := o.lanes.filter (fun l => !done.getLsbD l.lane) })
  let s := { s with ops := s.ops.filter (fun o => o.id ≠ k || !o.lanes.isEmpty) }
  s.updGroup e.gid (fun g => g.subFlag? (e.r.flagOf f.fsel) (laneCount done))

/-- A long-latency instruction that only writes registers of its lanes, when it completes (R25). -/
def runLong (op : Op) (f : Form) (s : State) (fn : Env → Nat → Lane → LaneRes) : Out :=
  runOp op f s (fun e => .ok (s.addOp e f .completed (fun l ln => (.ready, (fn e l ln).writes f))).2)

/-! ### The completion of a lane (R23, R440) -/

/-- R98: a lane that has exited leaves nothing in its element's held registers; its own registers are nobody's. DESIGN CHOICE (assumption 70): the g
register of an LDU, which R269 writes for the group, is still written where every lane that issued it has exited. -/
def keepsWrite (exited : Bool) : RegRef → Bool
  | .h _ => !exited
  | _ => true

/-- One lane of a long-latency instruction completes: it writes its registers, or keeps them for the first transfer of a restored lane, and its flag
falls by 1. DEDUCED (assumption 53): what completes once its group is done counts as completing after the save. -/
def State.completeLane (s : State) (o : LongOp) (l : OpLane) (writes : List (RegRef × Word)) : State :=
  let ln := (s.group? o.group).bind (·.lane? l.lane)
  let writes := writes.filter (fun w => keepsWrite (ln.elim false (fun x => x.st = .exited)) w.1)
  let late := o.kept && (ln.elim false (·.restoring) || (s.group? o.group).elim false (·.done))
  let s := if late then s.updGroup o.group (fun g => g.updLane l.lane (fun ln => { ln with late := ln.late ++ writes }))
    else s.writeRegs o.group (writes.map (fun w => (l.lane, w.1, w.2)))
  let s := s.updGroup o.group (·.subFlag? o.flag 1)
  let rest := o.lanes.filter (fun x => x.lane ≠ l.lane)
  if rest.isEmpty then { s with ops := delId LongOp.id o.id s.ops } else s.updOp o.id (fun o => { o with lanes := rest })

end Sys2Proof.Machine
end

