-- ==== Sys2Proof/Machine/Memory.lean ====
section
/-!
DEFINITION. Memory and the ways to it: layout entries (R228 to R232), translation (R429 to R431), allocations of scratchpad (R234), owner
bits (R237, R238), the backing of the Shelf (R168), and the reading and writing of bytes (R8, R433).
The machine has one map from byte addresses to bytes: device memory from 0, the scratchpad of core k at 2^40 + k × 2^21, host memory at
2^49, and the memory behind peer windows at 2^60 (assumption 13).
-/
namespace Sys2Proof.Machine

/-- The canonical form of memory: addresses strictly rising and no entry zero, which is what an unlisted address reads as. -/
def Memory.wf (m : SMap 8) : Bool := m.wf

/-! ### Bytes -/

/-- Bytes as a number, the first the least significant (R8). -/
def leNat : List Byte → Nat
  | [] => 0
  | b :: bs => b.toNat + 256 * leNat bs

/-- The low `n` bytes of a number, the least significant first (R8). -/
def leBytes : Nat → Nat → List Byte
  | 0, _ => []
  | n + 1, x => BitVec.ofNat 8 x :: leBytes n (x / 256)

namespace State
/-- One byte of memory. -/
def byte (s : State) (a : Nat) : Byte := s.mem.get a
/-- The bytes at a list of addresses. -/
def bytes (s : State) (as : List Nat) : List Byte := as.map s.byte
/-- The number that the bytes at a list of addresses hold. -/
def load (s : State) (as : List Nat) : Nat := leNat (s.bytes as)
/-- Writes bytes, the first first. -/
def storeCells (s : State) (cs : List Host.Cell) : State := { s with mem := s.mem.setAll cs }
/-- Writes the low bytes of a number at a list of addresses. -/
def store (s : State) (as : List Nat) (x : Nat) : State := s.storeCells (as.zip (leBytes as.length x))
end State

/-- Addresses of `n` bytes from `a` up. -/
def span (a n : Nat) : List Nat := (List.range n).map (a + ·)

/-- Where the scratchpad of a core lies in the map. -/
def scratchAt (core : Nat) : Nat := 2 ^ 40 + core * 2 ^ 21
/-- Where host physical memory lies. -/
def hostAt : Nat := 2 ^ 49
/-- Where the memory behind window w of tenant t of device d lies. -/
def peerAt (d t w : Nat) : Nat := 2 ^ 60 + ((d * 16 + t) * 256 + w) * 2 ^ 40
/-- The device whose memory a place beyond `peerAt 0 0 0` is in. -/
def peerDevice (a : Nat) : Nat := (a - 2 ^ 60) / 2 ^ 40 / 4096

/-! ### Layout entries (R228) -/

def layBase (m : BitVec 512) : Nat := (m.extractLsb' 0 64).toNat
def layExt (m : BitVec 512) (i : Nat) : Nat := (m.extractLsb' (64 + 32 * i) 32).toNat
def layStride (m : BitVec 512) (i : Nat) : Int := (m.extractLsb' (224 + 32 * i) 32).toInt
def layDerived (m : BitVec 512) : Bool := m.getLsbD 389
def layValid (m : BitVec 512) : Bool := m.getLsbD 390
def layA (m : BitVec 512) : Bool := m.getLsbD 391
def layW (m : BitVec 512) : Bool := m.getLsbD 392
def layR (m : BitVec 512) : Bool := m.getLsbD 393
/-- The element size code; an element has 2^code bytes. -/
def layCode (m : BitVec 512) : Nat := (m.extractLsb' 394 3).toNat
def layElem (m : BitVec 512) : Nat := 2 ^ layCode m
def layRank (m : BitVec 512) : Nat := (m.extractLsb' 397 3).toNat
def laySpace (m : BitVec 512) : Nat := (m.extractLsb' 400 3).toNat
def layShift (m : BitVec 512) : Nat := (m.extractLsb' 403 4).toNat
def laySwizzle (m : BitVec 512) : Bool := m.getLsbD 407
def layTarget (m : BitVec 512) : Nat := (m.extractLsb' 408 3).toNat
def layZ (m : BitVec 512) : Nat := (m.extractLsb' 416 32).toNat

/-- Spaces (R229). -/
def spGlobal : Nat := 0
def spScratch : Nat := 1
def spReef : Nat := 2
def spTexture : Nat := 3
def spPeer : Nat := 4
def spBacking : Nat := 5

/-- Is the entry of SCRATCH or REEFSCRATCH? -/
def layOnChip (m : BitVec 512) : Bool := laySpace m = spScratch || laySpace m = spReef

/-- Layout entry mK of a group (R230): a root of the launch, or a derived entry of the group; an entry that is neither is invalid. DESIGN CHOICE
(assumption 78): a group's derived entries stand in `Group.derived`, and no byte of the scratchpad is one of theirs, so that a tidemark that lies in the
derived area (R280) neither reads nor changes an entry. -/
def layoutOf (la : Launch) (g : Group) (k : Nat) : BitVec 512 :=
  match la.rcd.roots[k]? with
  | some m => m
  | none => if k < la.rcd.roots.length + la.rcd.derived then g.derived.get k else 0

/-- Layout entry mK of the executing group. -/
def Env.layout (e : Env) (k : Nat) : BitVec 512 := layoutOf e.la e.g k

/-- The byte address of an element, exact (R231): Base and Σ c × stride. -/
def layAddr (m : BitVec 512) (cs : List Nat) : Int :=
  (layBase m : Int) + (cs.zipIdx.map (fun c => (c.1 : Int) * layStride m c.2)).foldl (· + ·) 0

/-- R231: the offset of byte `t` of an access at A, swizzled. -/
def laySwizzled (m : BitVec 512) (a t : Nat) : Nat :=
  if layOnChip m && laySwizzle m then
    let h := 7 + layShift m
    let k := bitsOf (wrap 64 ((a : Int) - layZ m)).toNat (h + 4) h
    ((a + t / 4 * 4) ^^^ (k * 4)) + t % 4
  else a + t

/-- The lowest and the highest byte that an entry reaches, over its rank's dimensions. -/
def layReach (m : BitVec 512) : Int × Int :=
  (List.range (layRank m)).foldl (fun (lh : Int × Int) i =>
    let d := ((layExt m i : Int) - 1) * layStride m i
    if d < 0 then (lh.1 + d, lh.2) else (lh.1, lh.2 + d)) ((layBase m : Int), (layBase m : Int) + layElem m - 1)

/-- Is some byte of an entry, as the swizzle of R231 places it, at `lo` or above it and below `hi`? The search follows the dimensions given, as extent and
step upwards, from an element address, and leaves out the coordinates from which no element comes near. -/
def layMeets (m : BitVec 512) (lo hi : Nat) : List (Nat × Nat) → Nat → Bool
  | [], a => (List.range (layElem m)).any (fun t => decide (lo ≤ laySwizzled m a t) && decide (laySwizzled m a t < hi))
  | (n, d) :: rest, a =>
    let up := (rest.map (fun x => (x.1 - 1) * x.2)).sum + layElem m + 127
    let first := if d = 0 then 0 else (lo - up - a + d - 1) / d
    let last := if d = 0 then 0 else min (n - 1) ((hi + 127 - a) / d)
    decide (a < hi + 127) && ((List.range (last + 1 - first)).any (fun i => layMeets m lo hi rest (a + (first + i) * d)))

/-- The same from the entry's lowest element. -/
def layMeetsRange (m : BitVec 512) (lo hi : Nat) : Bool :=
  layMeets m lo hi ((List.range (layRank m)).map (fun i => (layExt m i, (layStride m i).natAbs))) (layReach m).1.toNat

/-- Every element address of an entry (its byte offset or virtual address). -/
def layAddrs (m : BitVec 512) : List Int :=
  (List.range (layRank m)).foldl (fun as i => as.flatMap (fun a => (List.range (layExt m i)).map (fun (c : Nat) => a + (c : Int) * layStride m i)))
    [(layBase m : Int)]

/-! ### Allocations and owner bits -/

/-- The first granule of a block's allocation on a core, where it has one there (R234). -/
def State.allocOn (_s : State) (b : Block) (core : Nat) : Option Nat :=
  (((b.cores.zip b.base).find? (fun c => c.1 = core))).map (·.2)

/-- The address in the map of byte `off` of an allocation that starts at granule `base` of a core. -/
def scratchByte (core base off : Nat) : Nat := scratchAt core + base * 512 + off

/-- Key of a granule in the owner and count maps. -/
def granuleKey (core g : Nat) : Nat := core * 4096 + g

/-- The granule, as core × 4,096 + granule, of a scratchpad address in the map. -/
def granuleOf (a : Nat) : Nat := (a - scratchAt 0) / 512

/-- The core that an on-chip entry reaches from a core (R229, R234). -/
def layCore (m : BitVec 512) (core : Nat) : Nat := if laySpace m = spReef then core / 4 * 4 + layTarget m else core

/-- Every granule that a SCRATCH or REEFSCRATCH entry reaches, ascending, as core × 4,096 + granule (R288). -/
def State.footprint (s : State) (b : Block) (core : Nat) (m : BitVec 512) : List Nat :=
  match s.allocOn b (layCore m core) with
  | none => []
  | some base =>
    let gs := (layAddrs m).flatMap (fun a => [a.toNat / 512, (a.toNat + layElem m - 1) / 512])
    ((List.range 4096).filter (fun g => gs.contains g)).map (fun g => granuleKey (layCore m core) (base + g))

/-! ### Translation (R429 to R431) -/

/-- What a walk of a tenant's table finds. -/
inductive Walk where
  | page (entry : BitVec 64) (bits : Nat)
  | missing (level : Nat)
  | malformed (level : Nat)
  deriving DecidableEq, Repr

/-- The index of an address at a walk level, and the size in bits of a leaf there (R429). -/
def walkIndex (level va : Nat) : Nat :=
  match level with
  | 0 => bitsOf va 47 39
  | 1 => bitsOf va 38 30
  | 2 => bitsOf va 29 21
  | _ => bitsOf va 20 16
def leafBits (level : Nat) : Nat :=
  match level with
  | 0 => 39
  | 1 => 30
  | 2 => 21
  | _ => 16

def pteValid (p : BitVec 64) : Bool := p.getLsbD 63
def pteLeaf (p : BitVec 64) : Bool := p.getLsbD 62
def pteKey (p : BitVec 64) : Nat := (p.extractLsb' 48 5).toNat
def pteAddr (p : BitVec 64) : Nat := (p.extractLsb' 12 36).toNat * 4096
def pteR (p : BitVec 64) : Bool := p.getLsbD 11
def pteW (p : BitVec 64) : Bool := p.getLsbD 10
def pteX (p : BitVec 64) : Bool := p.getLsbD 9
/-- R242. -/
def pteSc (p : BitVec 64) : Bool := p.getLsbD 8
def pteShared (p : BitVec 64) : Bool := p.getLsbD 7

/-- R430: is an entry malformed at a walk level? -/
def pteMalformed (level : Nat) (p : BitVec 64) : Bool :=
  p.extractLsb' 0 7 ≠ 0 || p.extractLsb' 60 2 = 3 || (pteLeaf p && level = 0) || (!pteLeaf p && level ≥ 3) ||
  (pteLeaf p && pteW p && pteX p) || (pteLeaf p && pteAddr p % 2 ^ leafBits level ≠ 0)

/-- The walk from a level down. -/
def walkFrom (ptes : SMap 64) (va : Nat) : Nat → Nat → Nat → Walk
  | 0, level, _ => .missing level
  | fuel + 1, level, table =>
    let p := ptes.get (table * 4096 + walkIndex level va)
    if !pteValid p then .missing level
    else if pteMalformed level p then .malformed level
    else if pteLeaf p then .page p (leafBits level)
    else walkFrom ptes va fuel (level + 1) (pteAddr p / 4096)

/-- The walk of a tenant's table. -/
def State.walk (s : State) (tenant va : Nat) : Walk := walkFrom s.ptes va 4 0 (tenant + 1)

/-- The window of a tenant that covers a virtual address. -/
def State.windowOf (s : State) (tenant va : Nat) : Option Window :=
  s.windows.find? (fun w => w.tenant = tenant && w.waiting.isNone && w.base ≤ va && va < w.base + w.size)

/-- Where a frame address lies in the map, by the kind of the window that covers the virtual address (R452). -/
def framePlace (w : Option Window) (frame : Nat) : Nat :=
  match w with
  | some w => match w.kind with
    | .device => frame
    | .host => hostAt + frame
    | .peer d t n => peerAt d t n + frame
  | none => frame

/-- Does the map have a byte there? Device memory ends at 288 GiB (R1). -/
def memoryHas (a : Nat) : Bool := a < Config.deviceBytes || scratchAt 0 ≤ a

/-- What translation of a byte address answers. -/
inductive Translated where
  /-- The place in the map, and the entry. -/
  | at_ (place : Nat) (entry : BitVec 64)
  /-- R431: reason and walk level. -/
  | bad (reason level : Nat)
  deriving DecidableEq, Repr

/-- R429: the translation of a virtual address. -/
def State.translate (s : State) (tenant va : Nat) : Translated :=
  if va ≥ 2 ^ 48 then .bad 2 0
  else match s.walk tenant va with
    | .missing l => .bad 0 l
    | .malformed l => .bad 1 l
    | .page p n => .at_ (framePlace (s.windowOf tenant va) (pteAddr p + va % 2 ^ n)) p

/-- The word of TRANSLATION (R431). -/
def transInfo (reason level : Nat) (fetch : Bool) (layout : Nat) : Word :=
  BitVec.ofNat 32 (reason * 2 ^ 30 + level * 2 ^ 27 + (if fetch then 2 ^ 26 else 0) + layout)

/-- The pending fault on a page, or a new one: faults on one page are coalesced (R431). Reason 3 is a fault on a peer (R455), which that peer's host is
offered. -/
def State.pageFault (s : State) (tenant va level reason layout : Nat) (fetch : Bool) : Nat × State :=
  match s.faults.find? (fun p => p.tenant = tenant && p.page = va / 65536 && !p.unresolvable && (p.reason = 3) = (reason = 3)) with
  | some p => (p.id, s)
  | none =>
    let (k, s) := s.fresh
    (k, { s with faults := s.faults ++ [{ id := k, tenant, page := va / 65536, va, offered := false, level, reason, fetch, layout,
                                          unresolvable := false, waiters := [] }] })

/-- R455: what the target's table says of an access to a place in a peer's memory, a free value at each time; 0 for a place elsewhere. -/
def State.peerSays (s : State) (place : Nat) (reads writes : Bool) : BitVec 2 :=
  if peerAt 0 0 0 ≤ place then Config.peerPage (place / 65536) s.clock reads writes else 0

/-- Offers a missing page, and notes who waits for it (R431): an engine operation, a peer, or a group's fetches. -/
def State.pageWait (s : State) (waiter tenant va level reason layout : Nat) (fetch : Bool) : State :=
  let (k, s) := s.pageFault tenant va level reason layout fetch
  let note := fun (p : PageFault) => { p with waiters := if p.waiters.contains waiter then p.waiters else waiter :: p.waiters }
  { s with faults := updId PageFault.id k note s.faults }

/-- The number under which the fetches of a group wait for a page. -/
def fetchWaiter (group : Nat) : Nat := 2 ^ 49 + group

/-- R431, R464: the unresolvable fault on a page for which a group's fetches have waited. -/
def State.fetchUnresolved (s : State) (g : Group) (tenant va : Nat) : Option PageFault :=
  s.faults.find? (fun p => p.tenant = tenant && p.page = va / 65536 && p.unresolvable && p.waiters.contains (fetchWaiter g.id))

/-- Does a group's fetch of a page wait for a fault (R431)? -/
def State.fetchWaits (s : State) (g : Group) (tenant va : Nat) : Bool :=
  s.faults.any (fun p => p.tenant = tenant && p.page = va / 65536 && !p.unresolvable && p.waiters.contains (fetchWaiter g.id))

/-- R431: a fetch of `n` bytes has trapped: what its group was told of their pages is over, and a fetch to come is a new one. -/
def State.fetchTold (s : State) (g : Group) (tenant va n : Nat) : State :=
  { s with faults := s.faults.map (fun p =>
      if p.tenant = tenant && p.unresolvable && va / 65536 ≤ p.page && p.page ≤ (va + n) / 65536 then
        { p with waiters := p.waiters.filter (· ≠ fetchWaiter g.id) } else p) }

/-- R451: are both links to a peer down? -/
def State.peerCut (s : State) (d : Nat) : Bool := s.linksDown.contains (2 * d) && s.linksDown.contains (2 * d + 1)

/-- R455, R464, R451: a peer's fault is over once its table maps the page or its host has answered, or no link goes there any more; the access is then tried
again. -/
def State.endPeerFaults (s : State) : State :=
  { s with faults := s.faults.filter (fun p => p.reason ≠ 3 || (match s.translate p.tenant p.va with
      | .at_ place _ => !s.peerCut (peerDevice place) && s.peerSays place (p.level ≠ 1) (p.level ≠ 0) = 1
      | .bad _ _ => false)) }

/-- R431, R464: the unresolvable fault on a page for which a group has waited. -/
def State.unresolved (s : State) (g : Group) (va : Nat) : Option PageFault :=
  match g.hold with
  | none => none
  | some k => s.faults.find? (fun p => p.id = k && p.page = va / 65536 && p.unresolvable)

/-- Is a group still held by a fault? -/
def State.heldBy (s : State) (g : Group) : Bool :=
  match g.hold with
  | none => false
  | some k => s.faults.any (fun p => p.id = k && !p.unresolvable)

/-! ### Checks of an access (R231, R232, R238, R431, R433) -/

/-- The word of R232. -/
def boundsInfo (kind : Nat) (invalid : Bool) (dim layout : Nat) : Word :=
  BitVec.ofNat 32 (kind * 2 ^ 17 + (if invalid then 2 ^ 16 else 0) + dim * 256 + layout)

/-- The word of R238. -/
def ownerInfo (write : Bool) (owner granule : Nat) : Word :=
  BitVec.ofNat 32 ((if write then 2 ^ 15 else 0) + owner * 4096 + granule)

/-- The word of UNCORRECTABLE for a thread (R433). -/
def eccInfo (write : Bool) (layout : Nat) : Word := BitVec.ofNat 32 ((if write then 256 else 0) + layout)

/-- What the checks of one lane's access find. -/
inductive Chk where
  /-- The addresses in the map of its bytes. -/
  | ok (addrs : List Nat)
  /-- A dimension check failed under .Z: a read gives zero and a write is dropped (R268). -/
  | skip
  | bad (cause : Nat) (info : Word)
  /-- R431: a missing or malformed table entry; with reason 3, of the target of a PEER access (R455), and then the level is the access kind. -/
  | missing (va level reason : Nat)
  /-- The access waits for the copies of a shared line (R456). -/
  | busy
  | stop (a : Nat)
  deriving DecidableEq, Repr

/-- Does some byte lie in a sector with an uncorrectable error (R433)? -/
def State.damaged (s : State) (as : List Nat) : Bool := as.any (fun a => s.bad.contains (a / 32))

/-- R433: may these bytes be written: does the write cover every damaged sector that it touches? -/
def State.covers (s : State) (as : List Nat) : Bool :=
  s.bad.all (fun k => as.all (fun a => a / 32 ≠ k) || (span (32 * k) 32).all as.contains)

/-- R433: bytes written from outside, or by firmware; an error goes with the sector that the write replaces. -/
def State.writeOutside (s : State) (as : List Nat) (data : List Byte) : State :=
  if s.covers as then
    { s.storeCells (as.zip data) with bad := s.bad.filter (fun k => as.all (fun a => a / 32 ≠ k)) }
  else s

/-- R456: the lines of some bytes. -/
def linesOf (as : List Nat) : List Nat := dedup (as.map (· / 128))

/-- R456: does a device hold a copy of some line of a fabric-coherent page? -/
def State.copiedAway (s : State) (entry : BitVec 64) (as : List Nat) : Bool :=
  pteShared entry && (linesOf as).any (fun k => s.directory.get k ≠ 0)

/-- R168: does one of `w` bytes from a virtual address lie in memory that the Shelf owns, the backing layout of a running launch of the tenant? -/
def State.inBacking (s : State) (tenant va w : Nat) : Bool :=
  s.launches.any (fun la => la.tenant = tenant && la.st = .running && la.rcd.shelf.any (fun t => match t.backing with
    | none => false
    | some k =>
      let r := layReach (la.rcd.roots.getD k 0)
      decide (r.1 < (va + w : Nat)) && decide ((va : Int) ≤ r.2)))

/-- R168: does one of `w` bytes of the map belong to the memory of such a layout, under whatever address? -/
def State.inBackingFrames (s : State) (tenant place w : Nat) : Bool :=
  s.launches.any (fun la => la.tenant = tenant && la.st = .running && la.rcd.shelf.any (fun t => match t.backing with
    | none => false
    | some k =>
      let lo := (layReach (la.rcd.roots.getD k 0)).1.toNat
      let hi := ((layReach (la.rcd.roots.getD k 0)).2 + 1).toNat
      (List.range ((hi + 65535) / 65536 - lo / 65536)).any (fun i =>
        let a := max lo ((lo / 65536 + i) * 65536)
        match s.translate tenant a with
        | .at_ p _ => decide (p < place + w) && decide (place < p + (min hi ((lo / 65536 + i + 1) * 65536) - a))
        | .bad _ _ => false)))

/-- The first dimension that fails the check of R231. -/
def layDimFail (m : BitVec 512) (cs : List Nat) (n : Nat) : Option Nat :=
  (cs.zipIdx.find? (fun c => (if c.2 = 0 then c.1 + n - 1 else c.1) ≥ layExt m c.2)).map (·.2)

/-- A thread's access of `w` bytes through entry `k` at coordinates `cs`: kind 0 read, 1 write, 2 atomic or reduction. The checks come
in the order of R231. DESIGN CHOICE (assumption 75): the addresses of a backing layout are tested before translation, and other ways to its memory after the
permission of the page (R168, R238). -/
def State.access (s : State) (e : Env) (k : Nat) (cs : List Nat) (w kind : Nat) (z : Bool) : Chk :=
  let m := e.layout k
  let n := if w > layElem m then w / layElem m else 1
  let core := layCore m e.g.core
  if !layValid m then .bad Cause.bounds (boundsInfo kind true 0 k)
  else if layOnChip m && (s.allocOn e.b core).isNone then .bad Cause.bounds (boundsInfo kind false 6 k)
  else match layDimFail m cs n with
  | some i => if z then .skip else .bad Cause.bounds (boundsInfo kind false i k)
  | none =>
    if !(if kind = 0 then layR m else if kind = 1 then layW m else layA m) then .bad Cause.permission (boundsInfo kind false 0 k)
    else
      let a := layAddr m cs
      if (n > 1 && layStride m 0 ≠ layElem m) || a % (min w 16 : Nat) ≠ 0 then .bad Cause.alignment (boundsInfo kind false 0 k)
      else if layOnChip m then
        let base := (s.allocOn e.b core).getD 0
        let as := (List.range w).map (fun t => scratchByte core base (laySwizzled m a.toNat t))
        match as.find? (fun p => s.owners.get (granuleOf p) ≠ 0) with
        | some p => .bad Cause.ownerViolation (ownerInfo (kind ≠ 0) (s.owners.get (granuleOf p)).toNat (granuleOf p % 4096))
        | none => if s.damaged as then .bad Cause.uncorrectable (eccInfo (kind ≠ 0) k) else .ok as
      else
        let va := (wrap 64 a).toNat
        if laySpace m = spPeer && s.peerCut (layTarget m) then .bad Cause.uncorrectable (eccInfo (kind ≠ 0) k)
        else if s.inBacking e.la.tenant va w then .bad Cause.ownerViolation (ownerInfo (kind ≠ 0) 5 k)
        else match s.translate e.la.tenant va with
        | .bad reason level =>
          if reason = 2 then .bad Cause.translation (transInfo 2 0 false k)
          else match s.unresolved e.g va with
            | some p => .bad Cause.translation (transInfo p.reason p.level false k)
            | none => .missing va level reason
        | .at_ place p =>
          if (kind ≠ 1 && !pteR p) || (kind ≠ 0 && !pteW p) then .bad Cause.permission (boundsInfo kind false 5 k)
          else if s.inBackingFrames e.la.tenant place w then .bad Cause.ownerViolation (ownerInfo (kind ≠ 0) 5 k)
          else if !memoryHas place then .stop place
          else
            let peer := s.peerSays place (kind ≠ 1) (kind ≠ 0)
            if peer = 3 then .bad Cause.permission (boundsInfo kind false 5 k)
            else if peer = 2 then .bad Cause.translation (transInfo 0 0 false k)
            else if s.damaged (span place w) then .bad Cause.uncorrectable (eccInfo (kind ≠ 0) k)
            else if peer = 1 then .missing va kind 3
            else if kind ≠ 0 && s.copiedAway p (span place w) then .busy
            else .ok (span place w)

/-! ### The lanes of one access (R76, R231, R278) -/

/-- The place of a cause in the order of R231. -/
def causeRank (c : Nat) : Nat :=
  if c = Cause.bounds then 0 else if c = Cause.permission then 1 else if c = Cause.alignment then 2
  else if c = Cause.ownerViolation then 3 else if c = Cause.translation then 4 else 5

/-- What the lanes of an instruction meet together: nothing; a stop; the first cause of R231, with the lowest lane's word and the lanes that
meet it; or else a missing translation. -/
inductive Verdict where
  | fine
  | stop (a : Nat)
  | trap (cause : Nat) (info : Word) (lanes : LaneMask)
  | miss (va level reason layout : Nat)
  | busy
  deriving DecidableEq, Repr

def Chk.good : Chk → Bool
  | .ok _ | .skip => true
  | _ => false

/-- The verdict on checks, each with its lane and its layout entry, in lane order. -/
def verdict (cs : List (Nat × Nat × Chk)) : Verdict :=
  let stops := cs.filterMap (fun c => match c.2.2 with
    | .stop a => some a
    | _ => none)
  let bads := cs.filterMap (fun c => match c.2.2 with
    | .bad cause info => some (c.1, cause, info)
    | _ => none)
  let misses := cs.filterMap (fun c => match c.2.2 with
    | .missing va l r => some (va, l, r, c.2.1)
    | _ => none)
  match stops, bads with
  | a :: _, _ => .stop a
  | [], b :: bs =>
    let best := bs.foldl (fun (x : Nat × Nat × Word) y => if causeRank y.2.1 < causeRank x.2.1 then y else x) b
    .trap best.2.1 best.2.2 (maskOf ((bads.filter (fun x => x.2.1 = best.2.1)).map (·.1)))
  | [], [] => match misses with
    | (va, l, r, k) :: _ => .miss va l r k
    | [] => if cs.any (fun c => c.2.2 = .busy) then .busy else .fine

/-- All-or-nothing (R278): the instruction acts only where every lane passes; a missing translation holds it (R431). -/
def State.allOrNothing (s : State) (e : Env) (cs : List (Nat × Nat × Chk)) (act : Unit → Res) : Res :=
  match verdict cs with
  | .fine => act ()
  | .busy => .stall
  | .stop a => .stop (.noSuchMemory a)
  | .trap cause info lanes => .trap cause info lanes
  | .miss va level reason k =>
    let (id, s) := s.pageFault e.la.tenant va level reason k false
    .hold s id

/-- Partial (R278): every lane that passes is performed, in ascending order, and the others become the resume mask. `act` performs one lane
and gives the registers that it writes at completion. While a lane must wait (R456), none is performed. -/
def State.someOfAll (s : State) (e : Env) (f : Form) (cs : List (Nat × Nat × Chk))
    (act : State → Nat → Lane → Chk → State × List (RegRef × Word)) : Res :=
  if cs.any (fun c => c.2.2 = .busy) then .stall
  else
  let good := cs.filter (fun c => c.2.2.good)
  let done := maskOf (good.map (·.1))
  let left := e.x &&& ~~~done
  let run := good.foldl (fun (acc : State × List (Nat × List (RegRef × Word))) c =>
    match e.g.lane? c.1 with
    | none => acc
    | some ln =>
      let r := act acc.1 c.1 ln c.2.2
      (r.1, acc.2 ++ [(c.1, r.2)])) (s, [])
  let s' := if done = 0 then s
    else (run.1.addOp { e with x := done } f .completed (fun l _ => (.ready, ((run.2.find? (fun w => w.1 = l)).map (·.2)).getD []))).2
  match verdict cs with
  | .fine => .ok s'
  | .busy => .stall
  | .stop a => .stop (.noSuchMemory a)
  | .trap cause info _ => .part s' done cause info left
  | .miss va level reason k =>
    let (id, s') := s'.pageFault e.la.tenant va level reason k false
    .partHold s' done left id

end Sys2Proof.Machine
end

