-- ==== Sys2Proof/Machine/Code.lean ====
section
/-!
DEFINITION. Code in memory: where a code object lies, clause headers and their checks (R19 to R22, R59, R67, R72), what a clause body holds,
and the targets of transfers (R22, R94). The lines of a resident object stand at a tenant virtual address of the model's own
(assumption 14), on pages that are X and not W (R467).
-/
namespace Sys2Proof.Machine

/-- Code-object byte offsets count from the first byte of the code (R466). -/
def Code.byteVa (c : Code) (off : Nat) : Nat := c.va + c.codeLine * 128 + off
/-- Bytes of code. -/
def Code.codeBytes (c : Code) : Nat := c.codeLines * 128
/-- The line of the object that holds a byte of code. -/
def Code.lineOf (c : Code) (off : Nat) : Nat := c.codeLine + off / 128

/-- What a fetch of code bytes meets. -/
inductive Fetched where
  | bytes (bs : List Byte)
  /-- Past the end of the code, or no such object. -/
  | outside
  /-- R431: a missing or malformed table entry. -/
  | missing (va level reason : Nat)
  /-- R431: the page's X bit forbids the fetch. -/
  | forbidden
  /-- R433. -/
  | damaged
  /-- R467: the line whose tag fails. -/
  | unauthentic (line : Nat)
  deriving DecidableEq, Repr

/-- R467: does the tag of a line hold for the bytes in memory? -/
def State.lineOk (s : State) (c : Code) (line : Nat) : Bool :=
  let key := ((s.tenants.find? (fun t => t.num = c.tenant)).map (·.codeKey)).getD []
  match s.translate c.tenant (c.va + line * 128) with
  | .at_ place _ =>
    Config.lineTag key (s.bytes (span place 128) ++ leBytes 8 line ++ leBytes 8 c.objectId.toNat) = c.tags.getD line 0
  | .bad _ _ => false

/-- Fetches `n` bytes of code; `auth` asks for the tags of the lines that hold them. -/
def State.fetchCode (s : State) (c : Code) (off n : Nat) (auth : Bool) : Fetched :=
  if n = 0 then .bytes []
  else if off + n > c.codeBytes then .outside
  else
    let vas := (List.range n).map (fun i => c.byteVa (off + i))
    let ts := vas.map (fun va => (va, s.translate c.tenant va))
    match ts.findSome? (fun t => match t.2 with
      | .bad reason level => some (t.1, level, reason)
      | .at_ _ _ => none) with
    | some (va, level, reason) => .missing va level reason
    | none =>
      let ps := ts.filterMap (fun t => match t.2 with
        | .at_ place p => some (place, p)
        | .bad _ _ => none)
      if ps.any (fun p => !pteX p.2) then .forbidden
      else if s.damaged (ps.map (·.1)) then .damaged
      else match (if auth then (List.range ((off + n - 1) / 128 - off / 128 + 1)).find? (fun i => !s.lineOk c (c.lineOf off + i)) else none) with
        | some i => .unauthentic (c.lineOf off + i)
        | none => .bytes (s.bytes (ps.map (·.1)))

/-! ### Clause headers (R20, R21) -/

/-- The first parcel is stored first and holds the highest bits (R57). -/
def parcelsWord (bs : List Byte) : Nat := (parcelsOf bs).foldl (fun w p => w * 65536 + p.toNat) 0

/-- A clause header (R20). -/
structure Header where
  level : Nat
  waits : List Nat
  flagA : Option Nat
  flagB : Option Nat
  len : Nat
  yieldHint : Bool
  pack : Bool
  bank : Nat
  deriving DecidableEq, Repr

/-- Do the top bits say that this is a header (R20, R57)? -/
def isHeader (w : BitVec 64) : Bool := w.extractLsb' 61 3 = 7

/-- The header that a word holds. -/
def Header.ofWord (w : BitVec 64) : Header :=
  { level := (w.extractLsb' 58 3).toNat
    waits := (List.range 12).filter (fun i => w.getLsbD (46 + i))
    flagA := if w.getLsbD 45 then some (w.extractLsb' 41 4).toNat else none
    flagB := if w.getLsbD 40 then some (w.extractLsb' 36 4).toNat else none
    len := (w.extractLsb' 30 6).toNat
    yieldHint := w.getLsbD 29
    pack := w.getLsbD 28
    bank := (w.extractLsb' 26 2).toNat }

/-- R21: the checks of a header that raise ILLEGAL_FORM. -/
def headerOk (w : BitVec 64) : Bool :=
  let idx := fun (lo v : Nat) => if w.getLsbD v then (w.extractLsb' lo 4).toNat < 12 else w.extractLsb' lo 4 = 0
  let len := (w.extractLsb' 30 6).toNat
  idx 41 45 && idx 36 40 && len ≠ 0 && len ≠ 63 && w.extractLsb' 0 26 = 0

/-- R19: the first 8-byte boundary at or after the end of a body of `len` parcels under a header at `hdr`. -/
def fallThrough (hdr len : Nat) : Nat := (hdr + 8 + 2 * len + 7) / 8 * 8

/-- What stands at a target. -/
inductive Target where
  | header (level : Nat)
  | illegal
  /-- The parcel cannot be read now; the fetch at the target reports why. -/
  | unread
  | missing (va level reason : Nat)
  deriving DecidableEq, Repr

/-- R94, R22: what stands at a byte offset, as a target. -/
def State.targetAt (s : State) (c : Code) (t : Nat) : Target :=
  if t % 8 ≠ 0 || t + 8 > c.codeBytes then .illegal
  else match s.fetchCode c t 8 false with
    | .bytes bs =>
      let w : BitVec 64 := BitVec.ofNat 64 (parcelsWord bs)
      if isHeader w then .header (w.extractLsb' 58 3).toNat else .illegal
    | .missing va l r => .missing va l r
    | .outside => .illegal
    | _ => .unread

/-! ### Clause bodies -/

/-- What a body's scan says of one instruction: its length in parcels, whether it ends a clause, and the flag that it selects where it is
long-latency. -/
structure Scan where
  len : Nat
  ends : Bool
  long : Option Bool
  deriving DecidableEq, Repr

/-- The scan of a full word, by its opcode (R72). -/
def scanWord (len : Nat) (w : BitVec 64) : Scan :=
  match Op.decode (w.extractLsb' 54 8).toNat with
  | none => { len, ends := false, long := none }
  | some op => { len, ends := op.endsClause, long := if op.isLong then some (w.getLsbD 2) else none }

/-- The scan of the instruction at the head of a body; `none` where the clause raises ILLEGAL_FORM at fetch (R19, R59). -/
def scanOne (bank : List (BitVec 64)) (ps : List Parcel) : Option Scan :=
  match parcelLength ps with
  | .error _ => none
  | .ok n =>
    if n > ps.length then none
    else match ps with
      | [] => none
      | p :: rest =>
        if n = 1 then some (match bank[(p.extractLsb' 0 10).toNat]? with
          | some e => scanWord 1 e
          | none => { len := 1, ends := false, long := none })
        else if n = 16 then some { len := 16, ends := false, long := some ((rest.getD 14 0).getLsbD 4) }
        else match rest with
          | p1 :: p2 :: p3 :: _ => some (scanWord n (joinParcels4 p p1 p2 p3))
          | _ => none

/-- R22, R23: the numbers of long-latency instructions that select flag A and flag B; `none` where the clause raises ILLEGAL_FORM at fetch. -/
def scanBody (bank : List (BitVec 64)) : Nat → List Parcel → Option (Nat × Nat)
  | _, [] => some (0, 0)
  | 0, _ :: _ => none
  | fuel + 1, ps =>
    match scanOne bank ps with
    | none => none
    | some sc =>
      let rest := ps.drop sc.len
      if sc.ends && !rest.isEmpty then none
      else match scanBody bank fuel rest with
        | none => none
        | some (a, b) => match sc.long with
          | some true => some (a, b + 1)
          | some false => some (a + 1, b)
          | none => some (a, b)

/-! ### The end of a clause -/

/-- R440: what held instructions have to write on a lane, written at its first taken transfer after the restore entry. -/
def Lane.landLate (ln : Lane) : Lane :=
  if ln.restoring then { ln.late.foldl (fun (x : Lane) w => x.write w.1 w.2) ln with restoring := false, late := [] } else ln

/-- R19, R186, R28: each lane of the clause that is still free goes to its target or to the fall-through, its L entries end, the clause gives
back the 1 that it holds on its flags, and W rises for the lanes that were passed over (R185). DESIGN CHOICE (assumption 58): the boundary of R20's yield
hint is the one at which the clause ends. -/
def Group.endClause (g : Group) : Group :=
  match g.run with
  | none => g
  | some r =>
    let g := g.updLanes r.lanes (fun l ln =>
      let ln := ln.dropL
      if ln.isFree then (match r.targets.find? (fun t => t.1 = l) with
        | some t => { ln with pc := t.2 }.landLate
        | none => { ln with pc := r.ft })
      else ln)
    let g := g.passWaits r.losers
    let g := g.endFlags r
    ({ g with run := none, yielded := r.hint, resumeOn := false }).closeHandler

/-- The group in focus ends its clause, once its body is done. -/
def State.endClause (s : State) (gid : Nat) : State :=
  match (s.group? gid).bind (·.run) with
  | none => s
  | some r =>
    if r.body.isEmpty then { s.updGroup gid (·.endClause) with focus := none } else s

end Sys2Proof.Machine
end

