-- ==== Sys2Proof/Machine/MemOps.lean ====
section
/-!
DEFINITION. Loads, stores, atomics, fences, prefetches and derived layouts (R264 to R278). Every access is performed when its instruction
issues, in one order for the whole machine (assumption 3); a register result is written when the instruction completes.
-/
namespace Sys2Proof.Machine

/-- The layout field in source c (R264). -/
def layC (f : Form) : Nat := f.c.uimm
/-- The width in bytes of a memory word (R267). -/
def memWidth (f : Form) : Nat := 2 ^ (f.mod.toNat % 8)
/-- Bit [53] of a memory word: .Z. -/
def memZ (f : Form) : Bool := f.mod.getLsbD 3

/-- The V register that a run starts at. -/
def Opnd.first : Opnd → Nat
  | .v i => i.toNat
  | .g i => i.toNat
  | _ => 0

/-- The coordinates of a lane, from register `k` of source a's run up (R231). -/
def coords (s : State) (e : Env) (f : Form) (l : Nat) (ln : Lane) (k rank : Nat) : List Nat :=
  (List.range rank).map (fun i => (s.srcAt e .int l ln (k + i) f.a).toNat)

/-- The coordinate run of a memory word (R267). -/
def coordRun (f : Form) (e : Env) : List (Nat × Nat) := [(Opnd.first f.a, layRank (e.layout (layC f)))]

/-- The checks of every lane of X for one access through the layout in source c. -/
def laneChecks (s : State) (e : Env) (f : Form) (w kind : Nat) (z : Bool) : List (Nat × Nat × Chk) :=
  e.lanes.map (fun c => (c.1, layC f, s.access e (layC f) (coords s e f c.1 c.2 0 (layRank (e.layout (layC f)))) w kind z))

/-- A loaded value as registers: .B8 and .B16 extended by U, wider ones in runs (R268). -/
def loadWords (w : Nat) (u : Bool) (x : Nat) : List Word :=
  match w with
  | 1 => [if u then BitVec.ofNat 32 x else (BitVec.ofNat 8 x).signExtend 32]
  | 2 => [if u then BitVec.ofNat 32 x else (BitVec.ofNat 16 x).signExtend 32]
  | _ => (List.range (w / 4)).map (fun j => BitVec.ofNat 32 (x / 2 ^ (32 * j)))

/-- What a lane's read gives: the bytes, or zero under .Z. -/
def State.chkLoad (s : State) : Chk → Nat
  | .ok as => s.load as
  | _ => 0

/-- The check of a lane. -/
def chkOf (cs : List (Nat × Nat × Chk)) (l : Nat) : Chk := ((cs.find? (fun c => c.1 = l)).map (·.2.2)).getD .skip

/-- R268. LD: all or nothing under R278. -/
def execLd (f : Form) (s : State) : Out :=
  runWith .ld f (coordRun f) s (fun e =>
    let w := memWidth f
    let cs := laneChecks s e f w 0 (memZ f)
    s.allOrNothing e cs (fun _ =>
      .ok (s.addOp e f .completed (fun l _ =>
        (.ready, (LaneRes.of (loadWords w (ordU (BitVec.ofNat 10 f.b.uimm)) (s.chkLoad (chkOf cs l)))).writes f))).2))

/-- The data of a store on a lane, as a number. -/
def storeData (s : State) (e : Env) (f : Form) (w l : Nat) (ln : Lane) : Nat :=
  if w ≤ 4 then (s.src e .int l ln f.b).toNat
  else if w = 8 then (s.pair e l ln f.b).toNat
  else (List.range 4).foldl (fun x j => x + (s.srcAt e .int l ln j f.b).toNat * 2 ^ (32 * j)) 0

/-- R268. ST: each lane that passes stores the low bytes of b; a byte that several lanes write holds the highest lane's value (R236). -/
def execSt (f : Form) (s : State) : Out :=
  runWith .st f (coordRun f) s (fun e =>
    let w := memWidth f
    s.someOfAll e f (laneChecks s e f w 1 (memZ f)) (fun t l ln c => match c with
      | .ok as => (t.store as (storeData s e f w l ln), [])
      | _ => (t, [])))

/-- R269. LDU: one access by the lowest lane of X, with coordinates from G; a trap is reported on every lane of X. -/
def execLdu (f : Form) (s : State) : Out :=
  runOp .ldu f s (fun e =>
    let w := memWidth f
    let k := layC f
    let rank := layRank (e.layout k)
    let low := lowLane e.x
    let cs := (List.range rank).map (fun i => (e.g.g.get (Opnd.first f.a + i)).toNat)
    let c := s.access e k cs w 0 (memZ f)
    match s.allOrNothing e [(low, k, c)] (fun _ =>
      .ok (s.addOp e f .completed (fun l _ => (.ready,
        if l = low then (LaneRes.of (loadWords w (ordU (BitVec.ofNat 10 f.b.uimm)) (s.chkLoad c))).writes f else []))).2) with
    | .trap cause info _ => .trap cause info e.x
    | r => r)
    (ownForm 0 (fun e => decide (Opnd.first f.a + layRank (e.layout (layC f)) > 256)))

/-! ### ATOM and RED (R270 to R272) -/

/-- R271: the new value from the old one, the operand and, for .CAS, the value compared with; n is the width in bits. -/
def atomNew (n op m x cmp : Nat) : Nat :=
  let sg := fun (y : Nat) => (BitVec.ofNat n y).toInt
  let bits := fun (y : BitVec n) => y.toNat
  match op with
  | 0 => (m + x) % 2 ^ n
  | 1 => if sg x < sg m then x else m
  | 2 => min m x
  | 3 => if sg m < sg x then x else m
  | 4 => max m x
  | 5 => bits (BitVec.ofNat n m &&& BitVec.ofNat n x)
  | 6 => bits (BitVec.ofNat n m ||| BitVec.ofNat n x)
  | 7 => bits (BitVec.ofNat n m ^^^ BitVec.ofNat n x)
  | 8 => x
  | 9 => if m = cmp then x else m
  | 10 => (Fp.add .ne (BitVec.ofNat 32 m) (BitVec.ofNat 32 x)).toNat
  | 11 => (Fp.min (BitVec.ofNat 32 m) (BitVec.ofNat 32 x)).toNat
  | _ => (Fp.max (BitVec.ofNat 32 m) (BitVec.ofNat 32 x)).toNat

/-- Registers `k` and, for a 64-bit operation, `k + 1` of ATOM's in-place destination, as a number. -/
def inPlace (f : Form) (wide : Bool) (ln : Lane) (k : Nat) : Nat :=
  match f.dst with
  | .v i => (ln.v.get (i.toNat + k)).toNat + (if wide then (ln.v.get (i.toNat + k + 1)).toNat * 2 ^ 32 else 0)
  | _ => 0

/-- R270 to R272. ATOM: in ascending lane order, so each lane's old value includes the effect of every lower lane. -/
def execAtom (f : Form) (s : State) : Out :=
  runWith .atom f (coordRun f) s (fun e =>
    let wide := ordD (BitVec.ofNat 10 f.b.uimm)
    let w := if wide then 8 else 4
    let op := f.mod.toNat
    let step := if wide then 2 else 1
    s.someOfAll e f (laneChecks s e f w 2 false) (fun t _ ln c => match c with
      | .ok as =>
        let m := t.load as
        let x := if op = 9 then inPlace f wide ln step else inPlace f wide ln 0
        (t.store as (atomNew (8 * w) op m x (inPlace f wide ln 0)), (LaneRes.of (loadWords w false m)).writes f)
      | _ => (t, [])))

/-- R272, R65: operand b of RED on a lane, as a number; a floating-point operation reads it as FP32. -/
def redData (s : State) (e : Env) (f : Form) (l : Nat) (ln : Lane) : Nat :=
  if ordD (BitVec.ofNat 10 f.dst.uimm) then (s.pair e l ln f.b).toNat
  else (s.src e (if 10 ≤ f.mod.toNat then .fp else .int) l ln f.b).toNat

/-- R272. RED: the same operation with x = b, and no register written. -/
def execRed (f : Form) (s : State) : Out :=
  runWith .red f (coordRun f) s (fun e =>
    let w := if ordD (BitVec.ofNat 10 f.dst.uimm) then 8 else 4
    s.someOfAll e f (laneChecks s e f w 2 false) (fun t l ln c => match c with
      | .ok as => (t.store as (atomNew (8 * w) f.mod.toNat (t.load as) (redData s e f l ln) 0), [])
      | _ => (t, [])))

/-- R273: the instructions of a lane of a group that complete by themselves and are outstanding: its loads, atomics and stores among them. -/
def State.laneOps (s : State) (gid l : Nat) : List Nat :=
  (s.ops.filter (fun o => o.group = gid && o.fate = .completed && o.lanes.any (fun x => x.lane = l))).map (·.id)

/-- R273. FENCE performs no access, and every access is performed in issue order (assumption 3). Its flag waits on each lane until the lane's earlier
instructions have completed. -/
def execFence (f : Form) (s : State) : Out :=
  runOp .fence f s (fun e => .ok (s.addOp e f .completed (fun l _ => (.after (s.laneOps e.gid l), []))).2)

/-- R274. PREF changes no value, order or flag, and a location that would fail a check is ignored. -/
def execPref (f : Form) (s : State) : Out := runWith .pref f (coordRun f) s (fun _ => .ok s)

/-! ### Derived layouts (R233, R275 to R277) -/

/-- A LAYSUB descriptor: requested permits, the parent dimensions, and (origin, count, step) of each dimension of the parent (R275). -/
structure SubDesc where
  word : Nat
  dims : List (Nat × Nat × Nat)

/-- The new rank. -/
def SubDesc.rank (d : SubDesc) : Nat := d.word % 8
/-- p_j of new dimension j. -/
def SubDesc.parent (d : SubDesc) (j : Nat) : Nat := bitsOf d.word (3 * j + 5) (3 * j + 3)
def SubDesc.dim (d : SubDesc) (i : Nat) : Nat × Nat × Nat := d.dims.getD i (0, 0, 0)

/-- The descriptor that the lowest lane holds. -/
def subDesc (s : State) (e : Env) (f : Form) (rank : Nat) : SubDesc :=
  match e.lanes.head? with
  | none => { word := 0, dims := [] }
  | some (l, ln) =>
    let r := fun (k : Nat) => (s.srcAt e .int l ln k f.a).toNat
    { word := r 0, dims := (List.range rank).map (fun i => (r (1 + 3 * i), r (2 + 3 * i), r (3 + 3 * i))) }

/-- R276's check of the descriptor's shape. -/
def SubDesc.shapeOk (d : SubDesc) (p : BitVec 512) : Bool :=
  let ps := (List.range d.rank).map d.parent
  (1 ≤ d.rank && d.rank ≤ 5) && bitsOf d.word 31 21 = 0 && (List.range 5).all (fun j => j < d.rank || d.parent j = 0) &&
  ps.all (fun i => decide (i < layRank p)) && decide ps.Nodup &&
  ps.all (fun i =>
    let (_, n, st) := d.dim i
    let x := (st : Int) * layStride p i
    n ≠ 0 && st ≠ 0 && decide (-(2 ^ 31 : Int) ≤ x) && decide (x < (2 ^ 31 : Int)))

/-- R276's check of the ranges: the first dimension of the parent that fails. -/
def SubDesc.rangeFail (d : SubDesc) (p : BitVec 512) : Option Nat :=
  let ps := (List.range d.rank).map d.parent
  (List.range (layRank p)).find? (fun i =>
    let (o, n, st) := d.dim i
    if ps.contains i then o + (n - 1) * st ≥ layExt p i else o ≥ layExt p i)

/-- The derived entry (R233). -/
def SubDesc.entry (d : SubDesc) (p : BitVec 512) : BitVec 512 :=
  let base : Int := (layBase p : Int) + ((List.range (layRank p)).map (fun i => ((d.dim i).1 : Int) * layStride p i)).foldl (· + ·) 0
  let ext := fun (j : Nat) => if j < d.rank then BitVec.ofNat 32 (d.dim (d.parent j)).2.1 else 1#32
  let str := fun (j : Nat) => if j < d.rank then wrap 32 (((d.dim (d.parent j)).2.2 : Int) * layStride p (d.parent j)) else 0#32
  let asked := d.word
  0#64 ++ p.extractLsb' 416 32 ++ 0#5 ++ p.extractLsb' 400 11 ++ BitVec.ofNat 3 d.rank ++ p.extractLsb' 394 3 ++
    bit1 (layR p && asked.testBit 20) ++ bit1 (layW p && asked.testBit 19) ++ bit1 (layA p && asked.testBit 18) ++ 1#1 ++ 1#1 ++ 0#5 ++
    str 4 ++ str 3 ++ str 2 ++ str 1 ++ str 0 ++ ext 4 ++ ext 3 ++ ext 2 ++ ext 1 ++ ext 0 ++ wrap 64 base

/-- Is an entry number one of the group's derived entries (R230)? -/
def Env.isDerived (e : Env) (k : Nat) : Bool := e.rcd.roots.length ≤ k && k < e.rcd.roots.length + e.rcd.derived

/-- R275, R276. LAYSUB: derives mD once for the group, or raises BOUNDS on every lane of X. -/
def execLaysub (f : Form) (s : State) : Out :=
  runWith .laysub f (fun e => [(Opnd.first f.a, 1 + 3 * layRank (e.layout (layC f)))]) s (fun e =>
    let p := layC f
    let m := e.layout p
    let d := subDesc s e f (layRank m)
    let dst := f.dst.uimm
    if !layValid m then .trap Cause.bounds (boundsInfo 3 true 0 p) e.x
    else if !e.isDerived dst then .trap Cause.bounds (boundsInfo 3 false 7 dst) e.x
    else if !d.shapeOk m then .trap Cause.bounds (boundsInfo 3 false 6 p) e.x
    else match d.rangeFail m with
      | some i => .trap Cause.bounds (boundsInfo 3 false i p) e.x
      | none => .ok (s.updGroup e.gid (fun g => { g with derived := g.derived.set dst (d.entry m) })))

/-- R277: the word about an entry; every word of an invalid entry is 0. -/
def layInfoWord (m : BitVec 512) (q : Nat) : Word :=
  if !layValid m then 0
  else if q ≤ 4 then BitVec.ofNat 32 (layExt m q)
  else if q ≤ 9 then wrap 32 (layStride m (q - 5))
  else if q = 10 then BitVec.ofNat 32 (layRank m)
  else if q = 11 then BitVec.ofNat 32 (layElem m)
  else bit1 (layValid m) ++ bit1 (layDerived m) ++ bit1 (layR m) ++ bit1 (layW m) ++ bit1 (layA m) ++ BitVec.ofNat 3 (laySpace m) ++
    BitVec.ofNat 3 (layTarget m) ++ bit1 (laySwizzle m) ++ BitVec.ofNat 4 (layShift m) ++ BitVec.ofNat 3 (layRank m) ++
    BitVec.ofNat 3 (layCode m) ++ 0#10
/-- R277. LAYINFO. -/
def execLayinfo (f : Form) (s : State) : Out :=
  runFixed .layinfo f s (fun e _ _ => .of [layInfoWord (e.layout (layC f)) f.mod.toNat])

end Sys2Proof.Machine
end

