-- ==== Sys2Proof/Machine/Places.lean ====
section
/-!
DEFINITION. Where the groups of a block go (R157, R158, R408): their roles, their reef positions, and the partition that each takes.
-/
namespace Sys2Proof.Machine

/-- R157: the role of each group of a block, in role order; every group of a level without roles is COMPUTE. -/
def LaunchRec.groupRoles (r : LaunchRec) (level n : Nat) : List Nat :=
  if r.roles ∧ level = r.roleLevel then
    (r.roleEntries.zipIdx.flatMap (fun c => List.replicate c.1.groups c.2)).take n
  else List.replicate n 3

/-! ### Places of a block (R408) -/

/-- R408: the reef position of each group of a REEF-domain block; 0 for any other. -/
def LaunchRec.positions (r : LaunchRec) (level n : Nat) : List Nat :=
  if (r.level level).domain = 2 then
    (List.range n).map (fun g => if r.spread then g % 4 else g / ((n + 3) / 4))
  else List.replicate n 0

/-- How many cores a block spans. -/
def LaunchRec.spanned (r : LaunchRec) (level n : Nat) : Nat := ((r.positions level n).foldl max 0) + 1

/-- Bytes of register file of a group (R158). -/
def LaunchRec.groupBytes (r : LaunchRec) (level role : Nat) : Nat := 8 * r.budgetOf level role * (r.level level).width * 4

/-- R310: the tile level: the role level, or the lowest level whose domain is PARTITION, CORE or REEF. -/
def LaunchRec.tileLevel (r : LaunchRec) : Option Nat :=
  if r.roles then some r.roleLevel
  else (List.range 8).find? (fun n => (r.level n).present && 2 ≤ (r.level n).domain && (r.level n).domain ≤ 4)

/-- R310: does the block span the positions that its tiles' homes and partners name? -/
def LaunchRec.tilesReach (r : LaunchRec) (level n : Nat) : Bool :=
  r.tileLevel ≠ some level || r.tiles.all (fun t => t.format = 0 ||
    (let reach := if t.split then max t.home (t.home ^^^ 1) else t.home
     decide (reach < r.spanned level n)))

/-- The groups that `n` elements of a level form. -/
def LaunchRec.groupsOf (r : LaunchRec) (level n : Nat) : Nat := (n + (r.level level).width - 1) / (r.level level).width

/-! ### Partitions (R158, R408) -/

/-- The partition of a core that a group of `bytes` of register file takes: the one with the most free register space among those that have room
for it, ties to the lower number; `only` fixes it. `use` gives the slots and the bytes that stand on a partition already, and `placed` lists
core, partition and bytes of what is placed with the group. -/
def partFor (use : Nat → Nat → Nat × Nat) (placed : List (Nat × Nat × Nat)) (core bytes : Nat) (only : Option Nat) : Option Nat :=
  let mine := fun (p : Nat) => placed.filter (fun x => x.1 = core && x.2.1 = p)
  let taken := fun (p : Nat) => (use core p).2 + ((mine p).map (·.2.2)).sum
  let fits := fun (p : Nat) => decide ((use core p).1 + (mine p).length < Config.groupSlots) && decide (taken p + bytes ≤ Config.regFileBytes) &&
    (match only with
     | some q => p = q
     | none => true)
  (List.range Config.parts).foldl (fun (best : Option Nat) p =>
    if !fits p then best
    else match best with
      | none => some p
      | some q => if taken p < taken q then some p else some q) none

/-- Every group in order, as core and bytes: with `same`, all take the first one's partition. -/
def placeGroups (use : Nat → Nat → Nat × Nat) (same : Bool) : Option Nat → List (Nat × Nat) → List (Nat × Nat × Nat) → Option (List Nat)
  | _, [], _ => some []
  | only, (c, b) :: rest, placed =>
    match partFor use placed c b only with
    | none => none
    | some p => match placeGroups use same (if same then some p else only) rest ((c, p, b) :: placed) with
      | none => none
      | some ps => some (p :: ps)

/-- R408: would the groups of a block of `n` groups have places on an empty core? -/
def LaunchRec.placeable (r : LaunchRec) (level n : Nat) : Bool :=
  let n := if (r.level level).domain ≤ 1 then 1 else n
  let bytes := (r.groupRoles level n).map (r.groupBytes level)
  n ≤ 4 * Config.parts * Config.groupSlots &&
  (placeGroups (fun _ _ => (0, 0)) ((r.level level).domain = 4) none ((r.positions level n).zip bytes) []).isSome

/-- R408: could a block of `n` groups be admitted on an empty core, and does it reach its tiles? -/
def LaunchRec.fits (r : LaunchRec) (level n : Nat) : Bool := r.placeable level n && r.tilesReach level n

end Sys2Proof.Machine
end

