-- ==== Sys2Proof/Machine/Control.lean ====
section
/-!
DEFINITION. Control flow (R94 to R100), collectives over lanes (R203 to R213), seams (R189 to R198, R214 to R220), serial regions (R199 to
R202, R221) and REGROUP (R222 to R226).
-/
namespace Sys2Proof.Machine

/-! ### Transfers (R94 to R97) -/

/-- The code object of the executing launch. -/
def State.codeOf (s : State) (e : Env) : Option Code := s.code? e.la.code

/-- What stands at a target, which is exact (R31): one below the code is outside it. -/
def State.standsAt (s : State) (c : Code) (t : Int) : Target := if t < 0 then .illegal else s.targetAt c t.toNat

/-- R94: the lanes whose target is no clause header of the code, with the target of the lowest; `reads` says where a lane can read its target. This
ILLEGAL_FORM ranks before REG_BUDGET and HELD_READ (R76). DEDUCED (assumption 56): a target that a lane cannot read is no bad target. -/
def badTargets (s : State) (e : Env) (reads : Lane → Bool) (target : Nat → Lane → Int) : Option (Word × LaneMask) :=
  match s.codeOf e with
  | none => some (0, e.x)
  | some c =>
    match e.lanes.filter (fun x => reads x.2 && (match s.standsAt c (target x.1 x.2) with
      | .illegal => true
      | _ => false)) with
    | [] => none
    | x :: xs => some (wrap 32 (target x.1 x.2), maskOf ((x :: xs).map (·.1)))

/-- R94: the other checks of the lanes' targets; `act` is what follows when every target is a header of the clause's level. DEDUCED (assumption 26): where
a target's page is missing the transfer is held at its own instruction until the page is there. -/
def checkTargets (s : State) (e : Env) (target : Nat → Lane → Int) (act : List (Nat × Nat) → Res) : Res :=
  match s.codeOf e with
  | none => .trap Cause.illegalForm 0 e.x
  | some c =>
    let ts := e.lanes.map (fun x => (x.1, (target x.1 x.2).toNat))
    let at_ := fun (t : Nat × Nat) => s.targetAt c t.2
    let rate := ts.filterMap (fun t => match at_ t with
      | .header lv => if lv ≠ e.g.level then some (t.1, lv) else none
      | _ => none)
    let miss := ts.findSome? (fun t => match at_ t with
      | .missing va l r => if (s.unresolved e.g va).isSome then none else some (va, l, r)
      | _ => none)
    match rate, miss with
    | t :: _, _ => .trap Cause.rateMismatch (BitVec.ofNat 32 (8 * t.2 + e.g.level)) (maskOf (rate.map (·.1)))
    | [], some (va, l, r) =>
      let (id, s) := s.pageFault e.la.tenant va l r 0 true
      .hold s id
    | [], none => act ts

/-- R94: transfers each lane of X to its target, after its checks; `pre` is what the instruction does besides. -/
def transfer (s : State) (e : Env) (target : Nat → Lane → Int) (pre : State → State) : Res :=
  checkTargets s e target (fun ts =>
    .ok ((pre s).updGroup e.gid (fun g => { g with run := g.run.map (fun r => { r with targets := ts ++ r.targets }) })))

/-- R95: the target of BRA and CALL, relative to the clause's own header: the 10-bit immediate (near) or the literal (far), in 8 bytes; exact (R31). -/
def nearFar (e : Env) (f : Form) : Int :=
  let off : Int := match f.b with
    | .lit x => x.toInt
    | _ => f.c.simm
  (e.r.hdr : Int) + 8 * off
/-- R96: the target that source a holds. -/
def aTarget (s : State) (e : Env) (f : Form) (l : Nat) (ln : Lane) : Int := ((s.src e .int l ln f.a).toNat : Int)
/-- R94: a bad target of BRA or CALL. -/
def badNearFar (s : State) (f : Form) (e : Env) : Option (Word × LaneMask) := badTargets s e (fun _ => true) (fun _ _ => nearFar e f)
/-- R94: a bad target that source a holds. -/
def badATarget (s : State) (f : Form) (e : Env) : Option (Word × LaneMask) := badTargets s e (fun ln => s.readable e ln f.a) (aTarget s e f)

/-- R95. BRA. -/
def execBra (f : Form) (s : State) : Out := runOp .bra f s (fun e => transfer s e (fun _ _ => nearFar e f) id) (badNearFar s f)
/-- R96. BRAI. -/
def execBrai (f : Form) (s : State) : Out := runOp .brai f s (fun e => transfer s e (aTarget s e f) id) (badATarget s f)
/-- R96. RET: the same effect. -/
def execRet (f : Form) (s : State) : Out := runOp .ret f s (fun e => transfer s e (aTarget s e f) id) (badATarget s f)
/-- R97: d receives the offset of the fall-through header. -/
def linkWrite (e : Env) (f : Form) (s : State) : State :=
  s.writeRegs e.gid (e.writes f (fun _ _ => .of [BitVec.ofNat 32 e.r.ft]))
/-- R97. CALL. -/
def execCall (f : Form) (s : State) : Out :=
  runOp .call f s (fun e => transfer s e (fun _ _ => nearFar e f) (linkWrite e f)) (badNearFar s f)
/-- R97. CALLI. -/
def execCalli (f : Form) (s : State) : Out := runOp .calli f s (fun e => transfer s e (aTarget s e f) (linkWrite e f)) (badATarget s f)
/-- R99. NOP changes nothing. -/
def execNop (f : Form) (s : State) : Out := runOp .nop f s (fun _ => .ok s)
/-- R99, R20. YIELD changes no register, flag or memory; at its boundary it acts as a yield hint. -/
def execYield (f : Form) (s : State) : Out :=
  runOp .yield f s (fun e => .ok (s.updGroup e.gid (fun g => { g with run := g.run.map (fun r => { r with hint := true }) })))

/-! ### Collectives (R203 to R213) -/

/-- The word of MASK_MISMATCH (R204). -/
def maskInfo (seam : Option Nat) (reason : Nat) : Word :=
  BitVec.ofNat 32 (match seam with
    | some n => 2 ^ 31 + 4 * n
    | none => reason)

/-- R203, R213: the reason for which a collective's membership mask does not fit, with reason 1 first, then 2, then 0. -/
def maskFault (s : State) (e : Env) (f : Form) : Option Nat :=
  let ks := e.lanes.map (fun c => s.maskOpnd e c.1 c.2 f.b)
  match ks with
  | [] => none
  | k :: rest =>
    if rest.any (fun j => j ≠ k) then some 1
    else if k &&& ~~~e.g.allLanes ≠ 0 then some 2
    else if k ≠ e.x then some 0
    else none

/-- A collective: the checks of its mask, then each lane's result. -/
def collective (op : Op) (f : Form) (s : State) (fn : Env → Nat → Lane → LaneRes) : Out :=
  runOp op f s (fun e => match maskFault s e f with
    | some reason => .trap Cause.maskMismatch (maskInfo none reason) e.x
    | none => .ok (s.writeRegs e.gid (e.writes f (fn e))))

/-- R209. VOTE. -/
def execVote (f : Form) (s : State) : Out :=
  collective .vote f s (fun e _ _ =>
    let yes := e.where_ (fun _ ln => ln.psrc f.a)
    match f.mod.toNat with
    | 0 => .pred (yes ≠ 0)
    | 1 => .pred (yes = e.x)
    | 2 => .of [yes.extractLsb' 0 32]
    | _ => .pair yes)

/-- R210: the source lane, computed exactly. -/
def shflLane (mode l n : Nat) : Int :=
  match mode with
  | 0 => n
  | 1 => (l : Int) - n
  | 2 => (l : Int) + n
  | _ => ((l ^^^ n : Nat) : Int)
/-- R210. SHFL: a source lane that is out of range or not a member leaves the lane its own value. -/
def execShfl (f : Form) (s : State) : Out :=
  collective .shfl f s (fun e l ln =>
    let j := shflLane (f.mod.toNat % 4) l (s.src e .int l ln f.c).toNat
    let (k, src) := if 0 ≤ j && j < e.g.width && e.x.getLsbD j.toNat then (j.toNat, (e.g.lane? j.toNat).getD ln) else (l, ln)
    if f.mod.toNat ≥ 4 then .pair (s.pair e k src f.a) else .of [s.src e .int k src f.a])

/-- R211: the combination and the identity of a REDUX operation. -/
def reduxOp (code : Nat) : (Word → Word → Word) × Word :=
  match code with
  | 0 => ((· + ·), 0)
  | 1 => (fun x y => if y.slt x then y else x, 0x7FFFFFFF)
  | 2 => (fun x y => if y.ult x then y else x, 0xFFFFFFFF)
  | 3 => (fun x y => if x.slt y then y else x, 0x80000000)
  | 4 => (fun x y => if x.ult y then y else x, 0)
  | 5 => ((· &&& ·), 0xFFFFFFFF)
  | 6 => ((· ||| ·), 0)
  | 7 => ((· ^^^ ·), 0)
  | 8 => (Fp.add .ne, 0x80000000)
  | 9 => (Fp.min, 0x7FC00000)
  | _ => (Fp.max, 0x7FC00000)
/-- R212: SCAN's operation codes as REDUX's. -/
def scanCode (code : Nat) : Nat := [0, 1, 2, 3, 4, 6, 7, 8].getD code 0

/-- How a REDUX or SCAN operation reads an immediate. -/
def reduxView (code : Nat) : View := if code ≥ 8 then .fp else .int

/-- R52, R53: the values by lane position, the identity where a lane is not a member. -/
def treeInit (s : State) (e : Env) (f : Form) (code : Nat) : List Word :=
  (List.range e.g.width).map (fun l => match (if e.x.getLsbD l then e.g.lane? l else none) with
    | some ln => s.src e (reduxView code) l ln f.a
    | none => (reduxOp code).2)

/-- R52: one level of the tree: neighbours combined. -/
def pairUp (op : Word → Word → Word) : List Word → List Word
  | x :: y :: r => op x y :: pairUp op r
  | r => r
/-- R52: the pairwise tree. -/
def treeReduce (op : Word → Word → Word) : Nat → List Word → List Word
  | 0, a => a
  | k + 1, a => treeReduce op k (pairUp op a)
/-- The levels of the tree of a width. -/
def treeDepth (w : Nat) : Nat := Nat.log2 w
/-- R211. REDUX. -/
def execRedux (f : Form) (s : State) : Out :=
  collective .redux f s (fun e _ _ =>
    let c := f.mod.toNat
    .of [(treeReduce (reduxOp c).1 (treeDepth e.g.width) (treeInit s e f c)).headD 0])

/-- R53: the exclusive scan by recursion on the tree: the left half keeps the value that comes down, the right half gets it combined with the
sum of the left half. -/
def scanDown (op : Word → Word → Word) : Nat → List Word → Word → List Word
  | 0, a, down => a.map (fun _ => down)
  | k + 1, a, down =>
    let l := a.take (2 ^ k)
    let r := a.drop (2 ^ k)
    scanDown op k l down ++ scanDown op k r (op down ((treeReduce op k l).headD 0))
/-- R212. SCAN: exclusive, or with .INC combined once more. -/
def execScan (f : Form) (s : State) : Out :=
  collective .scan f s (fun e l ln =>
    let c := scanCode (f.mod.toNat % 8)
    let ex := (scanDown (reduxOp c).1 (treeDepth e.g.width) (treeInit s e f c) (reduxOp c).2).getD l 0
    .of [if f.mod.getLsbD 3 then (reduxOp c).1 ex (s.src e (reduxView c) l ln f.a) else ex])

/-! ### Seams (R189 to R198) -/

/-- A blocked lane becomes free at its fall-through header. -/
def Lane.freeAt (ln : Lane) (pc : Nat) : Lane := { ln with st := .free, pc }

/-- R191: every lane of A becomes free at the fall-through of the SEAM.WAIT clause where it arrived, and A becomes 0. -/
def Group.release (g : Group) (n : Nat) : Group :=
  let g := g.updLanes (g.arrivedMask n) (fun _ ln => match ln.st with
    | .arrived _ ft => ln.freeAt ft
    | _ => ln)
  g.setSeam n (g.members n) 0

/-- R191: the lanes of a mask quit a seam, which may release. -/
def Group.quit (g : Group) (n : Nat) (x : LaneMask) : Group :=
  let m := g.members n &&& ~~~x
  let g := g.setSeam n m (g.arrivedMask n)
  if m ≠ 0 && g.arrivedMask n = m then g.release n else g

/-- R194: lanes quit every seam, in ascending order. -/
def Group.quitAll (g : Group) (x : LaneMask) : Group := (List.range 12).foldl (fun g n => g.quit n (x &&& g.members n)) g

/-- R219: is a SEAM.LOAD of a seam outstanding? -/
def State.seamBusy (s : State) (gid n : Nat) : Bool :=
  s.ops.any (fun o => o.group = gid && o.lanes.any (fun l => match l.cond with
    | .seamLoad m _ => m = n
    | _ => false))

/-- R201: is X the serial lane of an open region? -/
def Env.serialLane (e : Env) : Bool :=
  match e.g.serial with
  | some r => e.x.getLsbD r.lane
  | none => false

/-- A seam instruction: SERIAL_NESTING for the serial lane (R201), a wait while a load of a seam that it names is outstanding (R219). -/
def seamOp (op : Op) (f : Form) (s : State) (runs : Env → List (Nat × Nat)) (names : Env → List Nat) (body : Env → Res) : Out :=
  runWith op f runs s (fun e =>
    if e.serialLane then .trap Cause.serialNesting 1 e.x
    else if (names e).any (s.seamBusy e.gid) then .stall
    else body e)

/-- The seam of a sub-operation. -/
def seamN (f : Form) : Nat := f.mod.toNat

/-- R190, R214. SEAM.JOIN. -/
def execSeamJoin (f : Form) (s : State) : Out :=
  seamOp .seamJoin f s (fun _ => []) (fun _ => [seamN f]) (fun e =>
    .ok (s.updGroup e.gid (fun g => g.setSeam (seamN f) (g.members (seamN f) ||| e.x) (g.arrivedMask (seamN f)))))
/-- R191, R214. SEAM.QUIT. -/
def execSeamQuit (f : Form) (s : State) : Out :=
  seamOp .seamQuit f s (fun _ => []) (fun _ => [seamN f]) (fun e => .ok (s.updGroup e.gid (·.quit (seamN f) e.x)))
/-- The lanes of X whose seam mask names a seam (R214). -/
def quitLanes (s : State) (e : Env) (f : Form) (n : Nat) : LaneMask := e.where_ (fun l ln => (s.src e .int l ln f.b).getLsbD n)
/-- R191, R214. SEAM.QUITM. -/
def execSeamQuitm (f : Form) (s : State) : Out :=
  seamOp .seamQuitm f s (fun _ => []) (fun e => (List.range 12).filter (fun n => quitLanes s e f n ≠ 0)) (fun e =>
    .ok (s.updGroup e.gid (fun g => (List.range 12).foldl (fun g n => g.quit n (quitLanes s e f n)) g)))

/-- R197: is every unexited lane arrived, and is there one? -/
def Group.orphaned (g : Group) : Bool :=
  let live := g.lanes.filter (·.unexited)
  !live.isEmpty && live.all (fun ln => match ln.st with
    | .arrived _ _ => true
    | _ => false)
/-- R197: the word of ORPHANED_SEAM. -/
def Group.orphanInfo (g : Group) (byExit : Bool) : Word :=
  BitVec.ofNat 32 ((if byExit then 4096 else 0) + ((List.range 12).filter (fun n => g.arrivedMask n ≠ 0)).foldl (fun x n => x + 2 ^ n) 0)

/-- R192: the lanes of X arrive, and the seam releases at once where every member has. -/
def Group.arrive (g : Group) (n : Nat) (x : LaneMask) (ft : Nat) : Group :=
  let a := g.arrivedMask n ||| x
  let g := g.updLanes x (fun _ ln => { ln with st := .arrived n ft })
  let g := g.setSeam n (g.members n) a
  if a = g.members n then g.release n else g

/-- R192, R197, R215. SEAM.WAIT. -/
def execSeamWait (f : Form) (s : State) : Out :=
  seamOp .seamWait f s (fun _ => []) (fun _ => [seamN f]) (fun e =>
    let n := seamN f
    let out := e.x &&& ~~~e.g.members n
    if out ≠ 0 then .trap Cause.maskMismatch (maskInfo (some n) 0) out
    else
      let g := e.g.arrive n e.x e.r.ft
      if g.orphaned then .trap Cause.orphanedSeam (g.orphanInfo false) e.x
      else .ok (s.updGroup e.gid (·.arrive n e.x e.r.ft)))

/-- R216. SEAM.READ. -/
def execSeamRead (f : Form) (s : State) : Out :=
  seamOp .seamRead f s (fun _ => []) (fun _ => [seamN f]) (fun e =>
    let im := e.g.seams.get (seamN f)
    .ok (s.writeRegs e.gid (e.writes f (fun _ _ => .of ((List.range 4).map (fun k => im.extractLsb' (32 * k) 32))))))

/-- The check of the lowest lane's 16-byte access of SEAM.STORE and SEAM.LOAD. -/
def seamCheck (s : State) (e : Env) (f : Form) (kind : Nat) : List (Nat × Nat × Chk) :=
  (laneChecks s { e with x := maskOf [lowLane e.x] } f 16 kind false)
/-- R217. SEAM.STORE: the image as it is at issue. -/
def execSeamStore (f : Form) (s : State) : Out :=
  seamOp .seamStore f s (coordRun f) (fun _ => [seamN f]) (fun e =>
    let cs := seamCheck s e f 1
    s.allOrNothing e cs (fun _ =>
      let s := match chkOf cs (lowLane e.x) with
        | .ok as => s.store as (e.g.seams.get (seamN f)).toNat
        | _ => s
      .ok (s.addOp e f .completed (fun _ _ => (.ready, []))).2))
/-- R218. SEAM.LOAD: the image is applied when the lowest lane completes. -/
def execSeamLoad (f : Form) (s : State) : Out :=
  seamOp .seamLoad f s (coordRun f) (fun _ => []) (fun e =>
    let cs := seamCheck s e f 0
    s.allOrNothing e cs (fun _ =>
      let im : BitVec 128 := BitVec.ofNat 128 (s.chkLoad (chkOf cs (lowLane e.x)))
      .ok (s.addOp e f .completed (fun l _ => (if l = lowLane e.x then .seamLoad (seamN f) im else .ready, []))).2))

/-- R218: a loaded image is applied to its seam. -/
def Group.applySeam (g : Group) (n : Nat) (image : BitVec 128) : Group :=
  let live := g.lanesWhere (·.unexited)
  let m : LaneMask := image.extractLsb' 64 64 &&& live &&& g.allLanes
  let g := g.updLanes (g.arrivedMask n &&& ~~~m) (fun _ ln => match ln.st with
    | .arrived _ ft => ln.freeAt ft
    | _ => ln)
  let g := g.setSeam n m (g.arrivedMask n &&& m)
  if m ≠ 0 && g.arrivedMask n = m then g.release n else g

/-! ### EXIT (R98, R149, R194, R197) -/

/-- R149: the elements that FIXED with Count source 1 creates under an element: its held register. -/
def State.countOf (s : State) (r : LaunchRec) (el : Elem) : Nat :=
  let lv := r.level (el.level + 1)
  if !lv.present || lv.gen ≠ 0 then 0
  else if lv.countSrc then (s.slot? el.id).elim 0 (fun sl => (sl.h.get lv.countReg).toNat)
  else lv.count

/-- The most children of one parent in a domain (R146). -/
def domainLimit (domain width : Nat) : Nat :=
  match domain with
  | 0 => 0xFFFFFFFF
  | 1 => 0xFFFFFFFF
  | 2 => 8192
  | 3 => 2048
  | 4 => 2048
  | _ => width

/-- The lanes exit: they end, and quit every seam (R98, R194). -/
def Group.exitLanes (g : Group) (x : LaneMask) : Group := (g.updLanes x (fun _ ln => { ln with st := .exited })).quitAll x

/-- R98. EXIT. -/
def execExit (f : Form) (s : State) : Out :=
  runOp .exit f s (fun e =>
    let lv := e.rcd.level (e.g.level + 1)
    let tooMany := e.lanes.filterMap (fun c => match s.elem? c.2.elem with
      | none => none
      | some el =>
        let n := s.countOf e.rcd el
        if lv.present && lv.gen = 0 && lv.countSrc && n ≠ 0 &&
            (n > domainLimit lv.domain lv.width || !e.rcd.fits (e.g.level + 1) (e.rcd.groupsOf (e.g.level + 1) n)) then some (c.1, n) else none)
    let g := e.g.exitLanes e.x
    if e.serialLane then .trap Cause.serialNesting 1 e.x
    else if (List.range 12).any (s.seamBusy e.gid) then .stall
    else match tooMany with
      | (_, n) :: _ => .trap Cause.bounds (BitVec.ofNat 32 n) (maskOf (tooMany.map (·.1)))
      | [] =>
        if g.orphaned then .trap Cause.orphanedSeam (g.orphanInfo true) e.x
        else
          let els := e.lanes.map (fun c => c.2.elem)
          let s := s.updGroup e.gid (·.exitLanes e.x)
          .ok { s with elems := s.elems.map (fun el => if els.contains el.id then { el with exited := true, count := s.countOf e.rcd el } else el) })

/-! ### Serial regions (R199 to R202) -/

/-- R199 to R201. SER.OPEN: the lowest lane runs on, and the others wait for their turns. -/
def execSerOpen (f : Form) (s : State) : Out :=
  runOp .serOpen f s (fun e =>
    if e.g.serial.isSome then .trap Cause.serialNesting 0 e.x
    else
      let low := lowLane e.x
      .ok (s.updGroup e.gid (fun g =>
        let g := g.updLanes (e.x &&& ~~~maskOf [low]) (fun _ ln => { ln with st := .pending })
        { g with serial := some { lanes := e.x, lane := low, start := e.r.ft } })))

/-- R200: the serial lane's turn ends, and the next begins, or the region ends. -/
def Group.nextTurn (g : Group) (r : Serial) (ft : Nat) : Group :=
  let g := g.updLane r.lane (fun ln => { ln with st := .held ft })
  match lanesOf (r.lanes &&& g.lanesWhere (fun ln => ln.st = .pending)) with
  | l :: _ => { g.updLane l (·.freeAt r.start) with serial := some { r with lane := l } }
  | [] =>
    let g := g.updLanes r.lanes (fun _ ln => match ln.st with
      | .held pc => ln.freeAt pc
      | _ => ln)
    { g with serial := none }

/-- R200, R201. SER.CLOSE. -/
def execSerClose (f : Form) (s : State) : Out :=
  runOp .serClose f s (fun e =>
    match e.g.serial with
    | none => .trap Cause.serialNesting 2 e.x
    | some r =>
      let out := e.x &&& ~~~maskOf [r.lane]
      if out ≠ 0 then .trap Cause.serialNesting 2 out
      else .ok (s.updGroup e.gid (·.nextTurn r e.r.ft)))

/-! ### REGROUP (R222 to R226) -/

/-- R159, R223: the groups of a block, a level and a role. -/
def State.roleGroups (s : State) (block level role : Nat) : List Group :=
  s.groups.filter (fun g => g.block = block && g.level = level && g.role = role)

/-- The REGROUP at which a lane waits: fall-through, code offset, key. -/
def Lane.regroup? (ln : Lane) : Option (Nat × Nat × Word) :=
  match ln.st with
  | .regrouping ft site key => some (ft, site, key)
  | _ => none

/-- R223, R224. REGROUP. -/
def execRegroup (f : Form) (s : State) : Out :=
  runOp .regroup f s (fun e =>
    let inSeam := fun (n : Nat) => e.g.members n &&& e.x
    let sites := (s.roleGroups e.g.block e.g.level e.g.role).flatMap (fun g => g.lanes.filterMap (fun ln => ln.regroup?.map (·.2.1)))
    if e.serialLane then .trap Cause.serialNesting 1 e.x
    else if (List.range 12).any (fun n => inSeam n ≠ 0) then
      .trap Cause.seamInRegroup (BitVec.ofNat 32 (((List.range 12).filter (fun n => inSeam n ≠ 0)).foldl (fun x n => x + 2 ^ n) 0))
        ((List.range 12).foldl (fun m n => m ||| inSeam n) 0)
    else if sites.any (fun x => x ≠ e.r.cur) then .trap Cause.maskMismatch (maskInfo none 3) e.x
    else .ok (s.updGroup e.gid (fun g => g.updLanes e.x (fun l ln =>
      { ln with st := .regrouping e.r.ft e.r.cur (s.src e .int l ln f.a) }))))

end Sys2Proof.Machine
end

