-- ==== Sys2Proof/Machine/Create.lean ====
section
/-!
DEFINITION. The creation of elements and of the blocks that hold them (R144 to R153, R170, R177, R178), and what a block needs on an empty core
(R408).
-/
namespace Sys2Proof.Machine

/-- What is known of an element when it is created. -/
structure Birth where
  idx : Word
  parents : List Nat
  depth : Nat
  primId : Word
  iw : List Word
  init : List (Nat × Word)
  /-- The claims that a deferred creation has held for it (R170); `none` where they are its parents'. -/
  claims : Option (List Nat)
  deriving DecidableEq, Repr

/-- R170: the holders that an element claims at creation: each parent's own slot where it has one, or awaits one, and each parent's claim set, once
each. A finished parent counts with the claims that it had when it finished (R382). -/
def State.claimsOf (s : State) (parents : List Nat) : List Nat :=
  dedup (parents.flatMap (fun p => match s.elem? p with
    | none => []
    | some e => (if (s.slot? p).isSome || e.st = .waiting then [p] else []) ++ e.claims))

/-- Each slot gains one from each claim (R170). -/
def State.addClaims (s : State) (hs : List Nat) : State :=
  hs.foldl (fun (s : State) h => s.updSlot h (fun sl => { sl with holds := sl.holds + 1 })) s

/-- Creates one element of a level, waiting for what it needs. -/
def State.createElem (s : State) (launch level : Nat) (b : Birth) : Nat × State :=
  let (k, s) := s.fresh
  let claims := b.claims.getD (s.claimsOf b.parents)
  let held := (s.launch? launch).elim 0 (fun la => (la.rcd.level level).held)
  let s := s.addClaims claims
  (k, { s with elems := s.elems ++ [{ id := k, launch, level, idx := b.idx, parents := b.parents, depth := b.depth, primId := b.primId
                                      iw := b.iw, claims, emitted := 0,
                                      spawnedSame := 0, spawnedNext := 0, rets := [], st := if held = 0 then .admitted else .waiting
                                      block := 0, core := none, count := 0, init := b.init, exited := false }] })

/-- Creates elements in order. -/
def State.createElems (s : State) (launch level : Nat) : List Birth → List Nat × State
  | [] => ([], s)
  | b :: bs =>
    let (k, s) := s.createElem launch level b
    let (ks, s) := s.createElems launch level bs
    (k :: ks, s)

/-- Cuts a list into pieces of `w`; the fuel bounds the number of pieces. -/
def chunk (w : Nat) : Nat → List Nat → List (List Nat)
  | 0, _ => []
  | _ + 1, [] => []
  | k + 1, l => l.take w :: chunk w k (l.drop w)

/-- Elements belong to a block from now on. -/
def State.placeElems (s : State) (ids : List Nat) (block : Nat) : State :=
  { s with elems := s.elems.map (fun e => if ids.contains e.id then { e with block } else e) }

/-- A new block of these groups. -/
def State.newBlock (s : State) (la : Launch) (level : Nat) (groups : List (List Nat)) (bound : Option Nat) : State :=
  let (k, s) := s.fresh
  let b : Block :=
    { id := k, launch := la.id, level, num := 0, st := .waiting, cores := [], members := groups
      roles := la.rcd.groupRoles level groups.length, base := [], bound, admissible := s.clock
      deadline := if la.rcd.deadline = 0 then none else some (s.clock + la.rcd.deadline * 1750)
      budgetLeft := la.rcd.budget * 1024, refilled := false, counting := true, preemptAt := none, addressed := 0, kidsDie := none, saved := none }
  ({ s with blocks := s.blocks ++ [b] }).placeElems groups.flatten k

/-- R172: must an element of level n run on the core of a holder of level m whose slot it claims: has neither its own level nor one between them a domain
wider than CORE? -/
def LaunchRec.sameCore (r : LaunchRec) (m n : Nat) : Bool :=
  (List.range (n + 1)).all (fun k => (decide (k ≤ m) && k ≠ n) || decide (3 ≤ (r.level k).domain))

/-- R172: the core that the slots which an element claims bind it to; `counts` says which holders do. -/
def State.claimedCore (s : State) (r : LaunchRec) (e : Elem) (counts : Elem → Bool) : Option Nat :=
  e.claims.findSome? (fun h => (s.elem? h).bind (fun a => if r.sameCore a.level e.level && counts a then a.core else none))

/-- R381: the home core of a draw, for a level that runs there: its levels of a domain no wider than CORE; but a SPAWNED level of such a domain runs where
its spawners do (R400), so there only if the level above it does. -/
def LaunchRec.homeOf (r : LaunchRec) : Nat → Option Nat
  | 0 => if r.draw.present && decide (3 ≤ (r.level 0).domain) then some r.draw.home else none
  | n + 1 =>
    if r.draw.present && decide (3 ≤ (r.level (n + 1)).domain) then (if (r.level (n + 1)).gen = 3 then r.homeOf n else some r.draw.home) else none

/-- The core that the block of some elements must take: the home core of a draw (R381), that of a holder whose slot they claim (R172), or the spawner's
(`given`, R400). -/
def State.boundCore (s : State) (la : Launch) (level : Nat) (ids : List Nat) (given : Option Nat) : Option Nat :=
  match la.rcd.homeOf level, (ids.filterMap s.elem?).findSome? (fun e => s.claimedCore la.rcd e (fun _ => true)) with
  | some c, _ => some c
  | none, some c => some c
  | none, none => if (la.rcd.level level).domain ≤ 1 then none else given

/-- R146: is each group of a level a block of its own? -/
def Level.groupBlocks (lv : Level) : Bool := lv.domain ≤ 1

/-- R146, R152: a block for each group of a DIE or DEVICE domain, and one block of any other. DEDUCED (assumption 71): the elements of a SPAWN or TRACE of
such a level, which R178 and R400 put in one block, are divided so too. -/
def State.newBlocks (s : State) (la : Launch) (level : Nat) (ids : List Nat) (bound : Option Nat) : State :=
  let lv := la.rcd.level level
  let gs := chunk lv.width ids.length ids
  let bound := s.boundCore la level ids bound
  if gs.isEmpty then s
  else if lv.groupBlocks then gs.foldl (fun (s : State) g => s.newBlock la level [g] bound) s
  else s.newBlock la level gs bound

/-- Creates elements and their blocks; answers the elements' identifiers. -/
def State.create (s : State) (la : Launch) (level : Nat) (bs : List Birth) (bound : Option Nat) : List Nat × State :=
  let (ids, s) := s.createElems la.id level bs
  (ids, s.newBlocks la level ids bound)

/-! ### Numbers and seeds -/

/-- R153: do a level and all its ancestors take FIXED counts from the record? -/
def LaunchRec.allFixed (r : LaunchRec) (level : Nat) : Bool :=
  (List.range (level + 1)).all (fun m => (r.level m).gen = 0 && !(r.level m).countSrc)

/-- R153: the mixed-radix %block of a block of such a level. -/
def State.fixedBlockNum (s : State) (la : Launch) (b : Block) : Word :=
  match (b.members.flatten.head?).bind s.elem? with
  | none => 0
  | some e =>
    let tuple := (List.range b.level).foldl (fun x m => x * (la.rcd.level m).count + (s.elemIdx e m).toNat) 0
    let lv := la.rcd.level b.level
    BitVec.ofNat 32 (if lv.domain ≤ 1 then tuple * ((lv.count + lv.width - 1) / lv.width) + e.idx.toNat / lv.width else tuple)

/-- R153: the first number beyond those that record counts give to the blocks of a launch. -/
def LaunchRec.countedBlocks (r : LaunchRec) : Nat :=
  (List.range 8).foldl (fun x n =>
    let lv := r.level n
    if lv.present && r.allFixed n then
      max x ((List.range n).foldl (fun y m => y * (r.level m).count) (if lv.domain ≤ 1 then (lv.count + lv.width - 1) / lv.width else 1))
    else x) 0

/-- R18: the seed of an element at its start. -/
def State.seedOf (s : State) (r : LaunchRec) (e : Elem) : Word :=
  let step := fun (x y : Word) => (x ^^^ y) * 0x9E3779B9
  let x := (List.range (e.level + 1)).foldl (fun x m => step x (s.elemIdx e m)) r.seed
  let x := if (r.level e.level).gen = 3 then step x (BitVec.ofNat 32 e.depth) else x
  let x := if (r.level e.level).gen = 2 then step x e.primId else x
  if x = 0 then 1 else x

end Sys2Proof.Machine
end

