-- ==== Sys2Proof/Machine/Tags.lean ====
section
/-!
DEFINITION. Per-lane copies and their tags, tidemarks, and the handing over of granules (R279 to R289).
A copy moves its bytes when it issues, as every access of an instruction (assumption 3); its landing, which its tag counts, is a later step.
-/
namespace Sys2Proof.Machine

/-! ### Tags (R280 to R283) -/

/-- The key of a tag of a core. -/
def tagKey (core tag : Nat) : Nat := core * 64 + tag

/-- Is a tag in the block's range of the launch record (R280)? -/
def tagOk (r : LaunchRec) (tag : Nat) : Bool := r.tagBase ≤ tag && tag < r.tagBase + r.tagCount

/-- The lowest tag of a mask that lies outside the block's range. -/
def badTag (r : LaunchRec) (mask : BitVec 64) : Option Nat :=
  (List.range 64).find? (fun t => mask.getLsbD t && !tagOk r t)

/-- The word of R280: resource 1 tile or work queue, 2 tag, 3 tidemark. -/
def resourceInfo (resource number : Nat) : Word := BitVec.ofNat 32 (resource * 2 ^ 30 + number)

/-- Adds to a tag's outstanding count. -/
def State.addTag (s : State) (core tag n : Nat) : State :=
  { s with tagCounts := s.tagCounts.set (tagKey core tag) (s.tagCounts.get (tagKey core tag) + BitVec.ofNat 16 n) }
/-- A copy or an answer lands on a tag (R281); the tags of a block that has ended are nobody's until a block takes them, all set. -/
def State.landTag (s : State) (block core tag : Nat) : State :=
  if (s.block? block).elim true (fun b => b.st = .ended) then s
  else { s with tagCounts := s.tagCounts.set (tagKey core tag) (s.tagCounts.get (tagKey core tag) - 1) }
/-- Would an issue of `n` copies take the count above 65,535? -/
def State.tagFull (s : State) (core tag n : Nat) : Bool := (s.tagCounts.get (tagKey core tag)).toNat + n > 65535

/-- Copies on their way to a block's allocation (R241). -/
def State.address (s : State) (block n : Nat) : State := s.updBlock block (fun b => { b with addressed := b.addressed + n })

/-- The width of COPY in bytes (R279). -/
def copyWidth (f : Form) : Nat := 4 * 2 ^ (f.mod.toNat / 4)

/-- What a lane's copy writes (R281, R282): the bytes that it reads, zeros under .Z, or nothing where its line is uncorrectable. -/
inductive CopySrc where
  | bytes (as : List Nat)
  | zeros
  | error
  deriving DecidableEq, Repr

/-- One lane's copy after its checks: its tag, its source, and where it writes. -/
structure LaneCopy where
  tag : Nat
  src : CopySrc
  dst : List Nat
  deriving DecidableEq, Repr

/-- R281, R282: a copy lands and its tag falls; one that read an uncorrectable line records an error against its tag. DEDUCED (assumption 49): not once its
block has ended, when the tag is nobody's. -/
def State.landCopy (s : State) (c : CopyOp) : State :=
  let s := { s with copies := delId CopyOp.id c.id s.copies }
  let s := if c.onChip then s.updBlock c.block (fun b => { b with addressed := b.addressed - 1 }) else s
  let s := s.landTag c.block c.core c.tag
  let k := tagKey c.core c.tag
  let gone := (s.block? c.block).elim true (fun b => b.st = .ended)
  if c.error && !gone && !s.tagErrs.contains k then { s with tagErrs := s.tagErrs ++ [k] } else s

/-- R281, R282: a lane's copy; `none` where .Z drops it. -/
def laneCopy (tag : Nat) (src dst : Chk) : Option LaneCopy :=
  match dst with
  | .ok as => some { tag, dst := as, src := match src with
                                            | .ok bs => .bytes bs
                                            | .bad _ _ => .error
                                            | _ => .zeros }
  | _ => none

/-- R281, R282: a lane's copy reads its source and writes its destination. -/
def State.moveCopy (s : State) (c : LaneCopy) : State :=
  match c.src with
  | .bytes as => s.storeCells (c.dst.zip (s.bytes as))
  | .zeros => s.storeCells (c.dst.map (fun a => (a, 0)))
  | .error => s

/-- A source's uncorrectable line is no fault of COPY (R282). -/
def Chk.eccAsError : Chk → Chk
  | .bad cause info => if cause = Cause.uncorrectable then .skip else .bad cause info
  | c => c

/-- R281: a lane's copy is performed and counted on its tag, and has still to land. -/
def State.issueCopy (s : State) (core block : Nat) (onChip : Bool) (c : LaneCopy) : State :=
  let (k, s) := s.fresh
  let s := (s.addTag core c.tag 1).moveCopy c
  { s with copies := s.copies ++ [{ id := k, block, core, tag := c.tag, error := c.src = .error, onChip }] }

/-- R281, R242: the copies of an instruction are performed in ascending lane order, so of lanes that write one byte the highest keeps it. -/
def State.issueCopies (s : State) (e : Env) (block : Nat) (onChip : Bool) (cs : List LaneCopy) : State :=
  let s := cs.foldl (fun (s : State) c => s.issueCopy e.g.core block onChip c) s
  if onChip then s.address block cs.length else s

/-- R280: the lowest tag outside the block's range that a lane names. -/
def lowestBadTag (r : LaunchRec) (tags : List Nat) : Nat := ((tags.filter (fun t => !tagOk r t)).min?).getD 0

/-- R281. COPY: all or nothing; the copies that land are counted on their lane's tag. DESIGN CHOICE (assumption 80): where a lane meets one cause at both
ends, or at an end and at its tag, the word is the destination's, else the source's; a tag's PERMISSION ranks with that of the layouts (R231). -/
def execCopy (f : Form) (s : State) : Out :=
  runWith .copy f (fun e => [(Opnd.first f.a, layRank (e.layout f.dst.uimm) + layRank (e.layout (layC f)))]) s (fun e =>
    let w := copyWidth f
    let z := f.mod.getLsbD 1
    let md := e.layout f.dst.uimm
    let ms := e.layout (layC f)
    let one := fun (c : Nat × Lane) =>
      let (l, ln) := c
      let tag := (s.src e .int l ln f.b).toNat % 64
      (l, tag, s.access e f.dst.uimm (coords s e f l ln 0 (layRank md)) w 1 z,
        s.access e (layC f) (coords s e f l ln (layRank md) (layRank ms)) w 0 z)
    let ls := e.lanes.map one
    let low := lowestBadTag e.rcd (ls.map (·.2.1))
    let checks := ls.flatMap (fun c => [(c.1, f.dst.uimm, c.2.2.1), (c.1, layC f, c.2.2.2.eccAsError)] ++
      (if tagOk e.rcd c.2.1 then [] else [(c.1, 0, Chk.bad Cause.permission (resourceInfo 2 low))]))
    s.allOrNothing e checks (fun _ =>
      let cs := ls.filterMap (fun c => laneCopy c.2.1 c.2.2.2 c.2.2.1)
      if (List.range 64).any (fun t => s.tagFull e.g.core t (cs.filter (fun c => c.tag = t)).length) then .stall
      else .ok (s.issueCopies e e.b.id (layOnChip md) cs)))

/-- The tags of a mask that are set: in the block's range, with nothing outstanding (R281). -/
def State.setTags (s : State) (r : LaunchRec) (core : Nat) (mask : BitVec 64) : BitVec 64 := mask &&& s.tagWord r core

/-- R283. TWAIT: sub-operation 0 .ANY, 1 .ALL. -/
def execTwait (f : Form) (s : State) : Out :=
  runOp .twait f s (fun e =>
    let mask := s.lowPair e f.a
    match badTag e.rcd mask with
    | some t => .trap Cause.permission (resourceInfo 2 t) e.x
    | none => .ok (s.addOp e f .cancelled (fun _ _ => (.tags e.g.core (f.mod = 0) mask, []))).2)

/-- R282: the error record of a tag, cleared when an observer reports it. -/
def State.clearTagErr (s : State) (core tag : Nat) : State := { s with tagErrs := s.tagErrs.filter (fun k => k ≠ tagKey core tag) }

/-- R283, R282. TFIRST: the lowest tag of the lowest lane's mask that is set, on every lane of X. -/
def execTfirst (f : Form) (s : State) : Out :=
  runOp .tfirst f s (fun e =>
    let mask := s.lowPair e f.a
    match badTag e.rcd mask with
    | some t => .trap Cause.permission (resourceInfo 2 t) e.x
    | none =>
      match lanesOf (s.setTags e.rcd e.g.core mask) with
      | [] => .ok (s.writeRegs e.gid (e.writes f (fun _ _ => .of [0xFFFFFFFF])))
      | t :: _ =>
        if s.tagErrs.contains (tagKey e.g.core t) then
          .trapIn (s.clearTagErr e.g.core t) 0 Cause.uncorrectable (BitVec.ofNat 32 t) e.x
        else .ok (s.writeRegs e.gid (e.writes f (fun _ _ => .of [BitVec.ofNat 32 t]))))

/-! ### Tidemarks (R284 to R287) -/

/-- A tidemark's fields (R284). -/
structure Tidemark where
  phase : Nat
  reload : Nat
  arrivals : Nat
  sectors : Nat
  deriving DecidableEq, Repr

/-- The tidemark that 16 bytes hold. -/
def Tidemark.ofNat (x : Nat) : Tidemark :=
  { phase := bitsOf x 127 124, reload := bitsOf x 111 96, arrivals := bitsOf x 95 80, sectors := bitsOf x 79 48 }
/-- The 16 bytes of a tidemark: the reserved fields are written as zero. -/
def Tidemark.toNat (t : Tidemark) : Nat := t.phase * 2 ^ 124 + t.reload * 2 ^ 96 + t.arrivals * 2 ^ 80 + t.sectors * 2 ^ 48

/-- R285: a change of the counts; a phase completes when it makes both zero. -/
def Tidemark.change (t : Tidemark) (sectors arrivals : Nat) : Tidemark :=
  if (sectors ≠ t.sectors || arrivals ≠ t.arrivals) && sectors = 0 && arrivals = 0 then
    { t with phase := (t.phase + 1) % 16, arrivals := t.reload, sectors := 0 }
  else { t with sectors, arrivals }

/-- The tidemark at an address of the map. -/
def State.tidemark (s : State) (a : Nat) : Tidemark := .ofNat (s.load (span a 16))
/-- A tidemark written. -/
def State.setTidemark (s : State) (a : Nat) (t : Tidemark) : State := s.store (span a 16) t.toNat

/-- R285: `n` sectors land, one after the other: where no arrival is pending, the one that takes the count to zero completes a phase. -/
def Tidemark.land (t : Tidemark) (n : Nat) : Tidemark :=
  if t.arrivals = 0 ∧ 0 < t.sectors ∧ t.sectors ≤ n then
    { t with phase := (t.phase + 1) % 16, arrivals := t.reload, sectors := (2 ^ 32 - (n - t.sectors)) % 2 ^ 32 }
  else { t with sectors := (t.sectors + (2 ^ 32 - n % 2 ^ 32)) % 2 ^ 32 }

/-- R285: an engine's sectors land toward a tidemark; this is no data access. DESIGN CHOICE (assumption 74): into a damaged sector, of which a tidemark is a
part only, nothing is written (R433), and the sectors are not counted. -/
def State.landSectors (s : State) (a n : Nat) : State := if s.damaged (span a 16) then s else s.setTidemark a ((s.tidemark a).land n)

/-- The bytes of a block's allocation on each of its cores (R405). -/
def allocBytes (r : LaunchRec) : Nat := r.scratch * 512

/-- The address of tidemark `t` of the executing block and core (R279), or what the access raises (R280, R285, R287). DEDUCED (assumption 74): it is a read, and
but for TM.WAIT a partial write, so in a damaged sector it raises UNCORRECTABLE (R433); %trap.info then names no layout. -/
def State.tidemarkAt (s : State) (e : Env) (t : Nat) (write : Bool) : Except (Nat × Word) Nat :=
  if 16 * t + 16 > allocBytes e.rcd then .error (Cause.permission, resourceInfo 3 t)
  else match s.allocOn e.b e.g.core with
    | none => .error (Cause.permission, resourceInfo 3 t)
    | some base =>
      let a := scratchByte e.g.core base (16 * t)
      let o := (s.owners.get (granuleOf a)).toNat
      if o ≠ 0 then .error (Cause.ownerViolation, ownerInfo true o (granuleOf a % 4096))
      else if s.damaged (span a 16) then .error (Cause.uncorrectable, eccInfo write 0) else .ok a

/-- A tidemark instruction: it acts once, with the lowest lane's operand (R285). -/
def tidemarkOp (op : Op) (f : Form) (s : State) (act : Env → Nat → Nat → State) : Out :=
  runOp op f s (fun e => match s.tidemarkAt e f.c.uimm (op ≠ .tmWait) with
    | .error (cause, info) => .trap cause info e.x
    | .ok a => .ok (act e a (s.lowSrc e f.a).toNat))

/-- R286. TM.INIT. -/
def execTmInit (f : Form) (s : State) : Out :=
  tidemarkOp .tmInit f s (fun _ a x =>
    s.setTidemark a { phase := 0, reload := x % 65536, arrivals := x % 65536, sectors := 0 })
/-- R286. TM.EXPECT. -/
def execTmExpect (f : Form) (s : State) : Out :=
  tidemarkOp .tmExpect f s (fun _ a x =>
    let t := s.tidemark a
    s.setTidemark a (t.change ((t.sectors + x) % 2 ^ 32) t.arrivals))
/-- R286, R287: an arrival; at a tidemark with reload 0 it completes no phase. -/
def State.arrive (s : State) (a x : Nat) : State :=
  let t := s.tidemark a
  let sectors := (t.sectors + x) % 2 ^ 32
  s.setTidemark a (if t.reload = 0 then { t with sectors, arrivals := t.arrivals - 1 } else t.change sectors (t.arrivals - 1))
/-- R286. TM.ARRIVE: d is the phase before the check, on every lane of X. -/
def execTmArrive (f : Form) (s : State) : Out :=
  tidemarkOp .tmArrive f s (fun e a x =>
    let p := (s.tidemark a).phase
    (s.arrive a x).writeRegs e.gid (e.writes f (fun _ _ => .of [BitVec.ofNat 32 p])))
/-- R286. TM.ARRIVEW: each lane completes when the phase differs from the one before the check. -/
def execTmArrivew (f : Form) (s : State) : Out :=
  tidemarkOp .tmArrivew f s (fun e a x => ((s.arrive a x).addOp e f .cancelled (fun _ _ => (.tidemark a (s.tidemark a).phase, []))).2)
/-- R286. TM.WAIT: each lane completes when the phase differs from bits [3:0] of a. -/
def execTmWait (f : Form) (s : State) : Out :=
  tidemarkOp .tmWait f s (fun e a x => (s.addOp e f .cancelled (fun _ _ => (.tidemark a (x % 16), []))).2)

/-! ### Owner bits (R288, R289) -/

/-- Gives granules an owner. -/
def State.setOwners (s : State) (gs : List Nat) (code : BitVec 3) : State :=
  { s with owners := gs.foldl (fun m g => m.set g code) s.owners }

/-- The check of the layout that OWN.GIVE and OWN.TAKE make (R288, R289). -/
def ownCheck (e : Env) (k : Nat) : Option (Nat × Word) :=
  if !layValid (e.layout k) then some (Cause.bounds, boundsInfo 1 true 0 k)
  else if laySpace (e.layout k) ≠ spScratch then some (Cause.permission, boundsInfo 1 false 0 k)
  else none

/-- R288. OWN.GIVE: the footprint goes from THREADS to the engine that the sub-operation names. Every earlier access has been performed (assumption 3). -/
def execOwnGive (f : Form) (s : State) : Out :=
  runOp .ownGive f s (fun e =>
    match ownCheck e (layC f) with
    | some (cause, info) => .trap cause info e.x
    | none =>
      let gs := s.footprint e.b e.g.core (e.layout (layC f))
      match gs.find? (fun g => s.owners.get g ≠ 0) with
      | some g => .trap Cause.ownerViolation (ownerInfo true (s.owners.get g).toNat (g % 4096)) e.x
      | none => .ok (s.setOwners gs (f.mod.setWidth 3)))

/-- R289. OWN.TAKE: granules without an engine operation return at once, and each lane waits for all of them. -/
def execOwnTake (f : Form) (s : State) : Out :=
  runOp .ownTake f s (fun e =>
    match ownCheck e (layC f) with
    | some (cause, info) => .trap cause info e.x
    | none =>
      let gs := s.footprint e.b e.g.core (e.layout (layC f))
      let s := s.setOwners (gs.filter (fun g => s.engineCounts.get g = 0)) 0
      .ok (s.addOp e f .cancelled (fun _ _ => (.owned gs, []))).2)

end Sys2Proof.Machine
end

