-- ==== Sys2Proof/Machine/Engine.lean ====
section
/-!
DEFINITION. The copy engine's tile path and the streaming element unit (R290 to R303), and what every engine shares: accesses by an engine
(R239, R431), holds on granules (R290), failures after issue (R292), completion words (R291).
-/
namespace Sys2Proof.Machine

/-! ### What engines share -/

/-- The owner codes of R237. -/
def ownCopy : Nat := 1
def ownElement : Nat := 2
def ownMatrix : Nat := 3
def ownTideway : Nat := 4

/-- What an engine's access of one element meets. -/
inductive EngAt where
  | ok (addrs : List Nat)
  /-- R292: reason, and for reason 1 the granule, as core × 4,096 + granule. -/
  | fail (reason granule : Nat)
  /-- R431: the operation waits for the page; with reason 3, for what is no fault of this device (R455, R456). -/
  | wait (va level reason : Nat)
  | stop (a : Nat)
  deriving DecidableEq, Repr

/-- A byte range by virtual address, for an engine: translation, page permission, errors (R431, R433, R451). -/
def State.engGlobal (s : State) (op tenant : Nat) (m : BitVec 512) (va w : Nat) (write atom : Bool) : EngAt :=
  if laySpace m = spPeer && s.peerCut (layTarget m) then .fail 3 0
  else match s.translate tenant va with
  | .bad reason level =>
    if reason = 2 then .fail 2 0
    else if s.faults.any (fun p => p.tenant = tenant && p.page = va / 65536 && p.unresolvable && p.waiters.contains op) then .fail 2 0
    else .wait va level reason
  | .at_ place p =>
    if ((!write || atom) && !pteR p) || ((write || atom) && !pteW p) then .fail 6 0
    else if !memoryHas place then .stop place
    else
      let peer := s.peerSays place (!write || atom) (write || atom)
      if peer = 3 then .fail 6 0
      else if peer = 2 then .fail 2 0
      else if s.damaged (span place w) then .fail 3 0
      else if peer = 1 || (write && s.copiedAway p (span place w)) then .wait va 0 3
      else .ok (span place w)

/-- An engine's access of one element of an entry, of `w` bytes at coordinates `cs`; `base` is the first granule of the allocation, on chip
(R231, R239). -/
def State.engAt (s : State) (op owner tenant core : Nat) (base : Option Nat) (m : BitVec 512) (cs : List Nat) (w : Nat) (write atom : Bool) :
    EngAt :=
  let a := layAddr m cs
  if layOnChip m then
    match base with
    | none => .fail 4 0
    | some base =>
      let as := (List.range w).map (fun t => scratchByte core base (laySwizzled m a.toNat t))
      match as.find? (fun p => (s.owners.get (granuleOf p)).toNat ≠ owner) with
      | some p => .fail 1 (granuleOf p)
      | none => if s.damaged as then .fail 3 0 else .ok as
  else s.engGlobal op tenant m (wrap 64 a).toNat w write atom

/-- The places that an engine's write of one element goes to, damaged or not; none where it fails. -/
def State.engBytes (s : State) (op owner tenant core : Nat) (base : Option Nat) (m : BitVec 512) (cs : List Nat) (w : Nat) : List Nat :=
  match s.engAt op owner tenant core base m cs 0 true false with
  | .ok _ =>
    let a := layAddr m cs
    if layOnChip m then base.elim [] (fun b => (List.range w).map (fun t => scratchByte core b (laySwizzled m a.toNat t)))
    else match s.translate tenant (wrap 64 a).toNat with
      | .at_ place _ => span place w
      | .bad _ _ => []
  | _ => []

/-- R433: the damaged sectors that an operation's writes to some bytes replace: those that they cover wholly, and that it does not read. -/
def State.coveredBad (s : State) (as reads : List Nat) : List Nat :=
  s.bad.filter (fun k => (span (k * 32) 32).all as.contains && reads.all (fun a => a / 32 ≠ k))
/-- R433: writes that cover whole sectors replace them and clear their errors. -/
def State.clearBad (s : State) (ks : List Nat) : State := { s with bad := s.bad.filter (fun k => !ks.contains k) }

/-- R242: is the element at coordinates of an entry on an SC page? -/
def State.scAt (s : State) (tenant : Nat) (m : BitVec 512) (cs : List Nat) : Bool :=
  !layOnChip m && (match s.translate tenant (wrap 64 (layAddr m cs)).toNat with
    | .at_ _ p => pteSc p
    | .bad _ _ => false)

/-- Offers an engine's missing page, and notes that the operation waits for it (R431); what a peer must supply is not offered here (R455). -/
def State.engWait (s : State) (op tenant va level reason layout : Nat) : State :=
  if reason = 3 then s else s.pageWait op tenant va level reason layout false

/-- R292: the word of ENGINE_FAULT. -/
def engineInfo (engine reason layout granule : Nat) : Word :=
  BitVec.ofNat 32 (engine * 2 ^ 29 + reason * 2 ^ 25 + layout % 256 * 2 ^ 17 + granule % 4096)

/-- R292: the lowest of some granules that lies on the core of an offending one and offends too: the engine does not own it. -/
def State.lowestOffence (s : State) (owner : Nat) (gs : List Nat) (g : Nat) : Nat :=
  ((gs.filter (fun x => x / 4096 = g / 4096 && decide ((s.owners.get x).toNat ≠ owner))).min?).getD g

/-- R292: an ENGINE_FAULT becomes pending in the issuing group. -/
def State.engineFault (s : State) (gid : Nat) (lanes : LaneMask) (engine reason layout granule : Nat) : State :=
  s.updGroup gid (fun g => { g with faults := g.faults ++ [{ info := engineInfo engine reason layout granule, lanes }] })

/-- R290: of a footprint's granules, those that the issuing engine owns, which its operation holds. -/
def State.heldBy_ (s : State) (owner : Nat) (gs : List Nat) : List Nat := gs.filter (fun g => (s.owners.get g).toNat = owner)

/-- A long-latency operation of an engine is done: its lanes may complete. -/
def State.engineDone (s : State) (op : Nat) : State :=
  s.updOp op (fun o => { o with lanes := o.lanes.map (fun l => match l.cond with
    | .engine => { l with cond := .ready }
    | _ => l) })

/-- A completion word (R291): the tag, and the address of the tidemark. -/
structure Report where
  tag : Option Nat
  mark : Option Nat
  deriving DecidableEq, Repr

/-- The report that a completion word asks for, or the word of PERMISSION (R280, R291). -/
def State.reportOf (s : State) (e : Env) (word : Word) : Except Word Report :=
  let tag := if word.getLsbD 17 then some (bitsOf word.toNat 5 0) else none
  let t := bitsOf word.toNat 15 6
  let base := s.allocOn e.b e.g.core
  match tag with
  | some n => if !tagOk e.rcd n then .error (resourceInfo 2 n)
    else if word.getLsbD 16 && (16 * t + 16 > allocBytes e.rcd || base.isNone) then .error (resourceInfo 3 t)
    else .ok { tag, mark := if word.getLsbD 16 then some (16 * t) else none }
  | none =>
    if word.getLsbD 16 && (16 * t + 16 > allocBytes e.rcd || base.isNone) then .error (resourceInfo 3 t)
    else .ok { tag, mark := if word.getLsbD 16 then some (16 * t) else none }

/-- Adds an operation to its tag's count, where it bears one (R291). -/
def State.tagIssue (s : State) (core : Nat) (tag : Option Nat) : State :=
  match tag with
  | some t => s.addTag core t 1
  | none => s
/-- The operation's tag falls. -/
def State.tagLand (s : State) (block core : Nat) (tag : Option Nat) : State :=
  match tag with
  | some t => s.landTag block core t
  | none => s

/-- Every tuple of indices below the counts, dimension 0 the fastest (R294). -/
def tuples : List Nat → List (List Nat)
  | [] => [[]]
  | k :: ks => (tuples ks).flatMap (fun rest => (List.range k).map (fun i => i :: rest))

/-- Two lists of coordinates added. -/
def addCoords (a b : List Nat) : List Nat := List.zipWith (· + ·) a b

/-- The 32-byte units that an element's bytes lie in, by layout address (R291). -/
def unitsOf (m : BitVec 512) (cs : List Nat) : List Nat :=
  let a := (wrap 64 (layAddr m cs)).toNat
  dedup ((List.range (layElem m)).map (fun t => laySwizzled m a t / 32))

/-- How many different 32-byte units of an entry the elements at some coordinates touch. -/
def unitCount (m : BitVec 512) (cs : List (List Nat)) : Nat := (dedup (cs.flatMap (unitsOf m))).length

/-- The granules that the elements at some coordinates touch, where the entry is on chip. -/
def granulesAt (core : Nat) (base : Option Nat) (m : BitVec 512) (cs : List (List Nat)) : List Nat :=
  match base with
  | none => []
  | some base =>
    if layOnChip m then
      dedup (cs.flatMap (fun c => (List.range (layElem m)).map (fun t =>
        granuleOf (scratchByte core base (laySwizzled m (layAddr m c).toNat t)))))
    else []

/-! ### TCOPY and TCOPY.MC (R294 to R297) -/

/-- The lowest lane's register `k` of source a's run. -/
def State.lowAt (s : State) (e : Env) (f : Form) (k : Nat) : Nat := (e.lanes.head?).elim 0 (fun c => (s.srcAt e .int c.1 c.2 k f.a).toNat)

/-- The rank that both ends of a tile copy take (R294). -/
def tileRank (e : Env) (f : Form) : Nat := max (layRank (e.layout f.dst.uimm)) (layRank (e.layout (layC f)))

/-- R295: the extent check of one end: the first dimension that fails, a dimension of count 0 apart. -/
def extentFail (m : BitVec 512) (org counts : List Nat) : Option Nat :=
  ((org.zip counts).zipIdx.find? (fun c => c.1.2 ≠ 0 && c.1.1 + c.1.2 - 1 ≥ layExt m c.2)).map (·.2)

/-- R295, R296: the checks of a tile copy at issue, in their order, up to the permits. DESIGN CHOICE (assumption 80): none of them is an ALIGNMENT check
(R231); R295, R298 and R303 name none. -/
def tileCheck (s : State) (e : Env) (f : Form) (z : Bool) (dOrg sOrg counts : List Nat) : Option (Nat × Word) :=
  let kd := f.dst.uimm
  let ks := layC f
  let md := e.layout kd
  let ms := e.layout ks
  let lost := fun (m : BitVec 512) => layOnChip m && (s.allocOn e.b (layCore m e.g.core)).isNone
  if !layValid md then some (Cause.bounds, boundsInfo 1 true 0 kd)
  else if !layValid ms then some (Cause.bounds, boundsInfo 1 true 0 ks)
  else if lost md then some (Cause.bounds, boundsInfo 1 false 6 kd)
  else if lost ms then some (Cause.bounds, boundsInfo 0 false 6 ks)
  else match extentFail md dOrg counts, (if z then none else extentFail ms sOrg counts) with
  | some i, _ => some (Cause.bounds, boundsInfo 1 false i kd)
  | none, some i => some (Cause.bounds, boundsInfo 0 false i ks)
  | none, none =>
    if layCode md ≠ layCode ms then some (Cause.bounds, boundsInfo 1 false 7 kd)
    else if !layR ms then some (Cause.permission, boundsInfo 0 false 0 ks)
    else if !layW md then some (Cause.permission, boundsInfo 1 false 0 kd)
    else none

/-- Where each destination of a tile operation lies: core and first granule of the allocation. -/
def State.tileTargets (s : State) (o : TileOp) : List (Nat × Option Nat) :=
  match o.kind with
  | .multicast _ mask target =>
    (List.range 4).filterMap (fun c => if mask.getLsbD c then
      let core := o.core / 4 * 4 + c
      some (core, (s.block? target).bind (fun b => s.allocOn b core)) else none)
  | _ => [(layCore o.dst o.core, (s.block? o.block).bind (fun b => s.allocOn b (layCore o.dst o.core)))]

/-- The source end. -/
def State.tileSource (s : State) (o : TileOp) : Nat × Option Nat :=
  (layCore o.src o.core, (s.block? o.block).bind (fun b => s.allocOn b (layCore o.src o.core)))

/-- Is every coordinate within an entry? -/
def inExtents (m : BitVec 512) (cs : List Nat) : Bool := cs.zipIdx.all (fun c => decide (c.1 < layExt m c.2))

/-- The granules of a tile copy's destinations, and those of its source. -/
def State.tileDstGranules (s : State) (o : TileOp) : List Nat :=
  (s.tileTargets o).flatMap (fun t => granulesAt t.1 t.2 o.dst ((tuples o.counts).map (addCoords o.dstOrg)))
def State.tileSrcGranules (s : State) (o : TileOp) : List Nat :=
  granulesAt (s.tileSource o).1 (s.tileSource o).2 o.src (((tuples o.counts).map (addCoords o.srcOrg)).filter (inExtents o.src))

/-- Adds an operation of the tile path, with the granules it holds (those that `touch` names and COPY owns), its tag and the blocks that it addresses
(R290, R291, R241). -/
def State.issueTile (s : State) (e : Env) (r : Report) (kind : TileKind) (f : Form) (dOrg sOrg counts : List Nat) (touch : TileOp → List Nat) : State :=
  let (k, s) := s.fresh
  let o : TileOp :=
    { id := k, group := e.gid, block := e.b.id, core := e.g.core, lanes := e.r.lanes, kind
      dst := e.layout f.dst.uimm, src := e.layout (layC f), dstEntry := f.dst.uimm, srcEntry := layC f
      dstOrg := dOrg, srcOrg := sOrg, counts, tag := r.tag, mark := r.mark, granules := [], homes := [] }
  let gs := s.heldBy_ ownCopy (dedup (touch o))
  let o := { o with granules := gs, homes := (s.tileTargets o).filterMap (fun (t : Nat × Option Nat) => t.2.map (t.1, ·)) }
  let s := (s.holdGranules gs).tagIssue e.g.core r.tag
  let s := match kind with
    | .multicast _ _ target => s.address target 1
    | _ => if layOnChip o.dst then s.address o.block 1 else s
  { s with tileOps := s.tileOps ++ [o] }

/-- What a tile operation has done when it ends: the state, and where it failed: reason, layout, granule (R292). -/
inductive TileEnd where
  | done (s : State)
  /-- `left` elements had not been written. -/
  | failed (s : State) (left reason layout granule : Nat)
  | wait (va level reason layout : Nat)
  | stop (a : Nat)

/-- Reads one element of the source; past the extents, under .Z, zero (R294). -/
def State.tileRead (s : State) (o : TileOp) (tenant : Nat) (z : Bool) (cs : List Nat) : EngAt × Nat :=
  if z && !inExtents o.src cs then (.ok [], 0)
  else
    let (core, base) := s.tileSource o
    let a := s.engAt o.id ownCopy tenant core base o.src cs (layElem o.src) false false
    (a, match a with
        | .ok as => s.load as
        | _ => 0)

/-- Writes one element to the destinations in turn. -/
def State.tileWrite (s : State) (o : TileOp) (tenant : Nat) (cs : List Nat) (x : Nat) : List (Nat × Option Nat) → TileEnd
  | [] => .done s
  | (core, base) :: ts =>
    match s.engAt o.id ownCopy tenant core base o.dst cs (layElem o.dst) true false with
    | .ok as => (s.store as x).tileWrite o tenant cs x ts
    | .fail reason granule => .failed s 0 reason o.dstEntry (if reason = 4 then core * 4096 else granule)
    | .wait va l r => .wait va l r o.dstEntry
    | .stop a => .stop a

/-- R242: an engine reaches the elements of an SC page in ascending address order; those of any other in the order given. `at_` gives the coordinates. -/
def State.scOrder {α : Type} (s : State) (tenant : Nat) (m : BitVec 512) (at_ : α → List Nat) (xs : List α) : List α :=
  if xs.any (fun x => s.scAt tenant m (at_ x)) then sortBy (fun (x y : α) => decide (layAddr m (at_ x) < layAddr m (at_ y))) xs else xs

/-- R242: the order in which a tile copy moves its elements: by the destination's addresses, else by the source's. -/
def State.tileOrder (s : State) (o : TileOp) (tenant : Nat) (ts : List (List Nat)) : List (List Nat) :=
  if ts.any (fun i => s.scAt tenant o.dst (addCoords o.dstOrg i)) then s.scOrder tenant o.dst (addCoords o.dstOrg) ts
  else s.scOrder tenant o.src (addCoords o.srcOrg) ts

/-- Copies the elements of a tile in order; a failure leaves what was written (R294, R292). DESIGN CHOICE (assumption 75): the operation stops at the first
element that fails, and no later granule or core is written. -/
def State.tileCopy (s : State) (o : TileOp) (tenant : Nat) (z : Bool) : List (List Nat) → TileEnd
  | [] => .done s
  | i :: is =>
    match s.tileRead o tenant z (addCoords o.srcOrg i) with
    | (.ok _, x) => match s.tileWrite o tenant (addCoords o.dstOrg i) x (s.tileTargets o) with
      | .done s => s.tileCopy o tenant z is
      | .failed s _ reason layout granule => .failed s (is.length + 1) reason layout granule
      | r => r
    | (.fail reason granule, _) => .failed s (is.length + 1) reason o.srcEntry granule
    | (.wait va l r, _) => .wait va l r o.srcEntry
    | (.stop a, _) => .stop a

/-- Sectors of the COPY engine land toward a tidemark; a damaged one fails there (R292, R433). -/
def State.landToward (s : State) (group : Nat) (lanes : LaneMask) (entry a n : Nat) : State :=
  (if s.damaged (span a 16) then s.engineFault group lanes 1 3 entry 0 else s).landSectors a n

/-- The operation has ended: its granules go back first, then its sectors count, then its tag falls (R290, R291). -/
def State.tileReport (s : State) (o : TileOp) (units : Nat) : State :=
  let s := s.handBack o.granules
  let land := fun (s : State) (core base off : Nat) => if units = 0 then s else s.landToward o.group o.lanes o.dstEntry (scratchByte core base off) units
  let s := match o.mark with
    | none => s
    | some off => match o.kind with
      | .multicast _ _ _ => (s.tileTargets o).foldl (fun (s : State) (t : Nat × Option Nat) => match t.2 with
        | some base => land s t.1 base off
        | none => s) s
      | _ => match (s.block? o.block).bind (fun b => s.allocOn b o.core) with
        | some base => land s o.core base off
        | none => s
  let s := s.tagLand o.block o.core o.tag
  let s := match o.kind with
    | .multicast _ _ target => s.updBlock target (fun b => { b with addressed := b.addressed - 1 })
    | _ => if layOnChip o.dst then s.updBlock o.block (fun b => { b with addressed := b.addressed - 1 }) else s
  { s with tileOps := delId TileOp.id o.id s.tileOps }

/-- The issue of TCOPY and TCOPY.MC after their checks; an operation of no element completes at once (R294). -/
def tileIssue (s : State) (e : Env) (f : Form) (kind : TileKind) (r : Report) (dOrg sOrg counts : List Nat) : Res :=
  if (match r.tag with
      | some t => s.tagFull e.g.core t 1
      | none => false) then .stall
  else if counts.contains 0 then .ok s
  else .ok (s.issueTile e r kind f dOrg sOrg counts (fun o => s.tileDstGranules o ++ s.tileSrcGranules o))

/-- R294, R295. TCOPY. -/
def execTcopy (f : Form) (s : State) : Out :=
  runWith .tcopy f (fun e => [(Opnd.first f.a, 3 * tileRank e f)]) s (fun e =>
    let n := tileRank e f
    let z : Bool := f.mod = 1
    let at_ := fun (k : Nat) => (List.range n).map (fun i => s.lowAt e f (k * n + i))
    match tileCheck s e f z (at_ 0) (at_ 1) (at_ 2) with
    | some (cause, info) => .trap cause info e.x
    | none => match s.reportOf e (s.lowSrc e f.b) with
      | .error info => .trap Cause.permission info e.x
      | .ok r => tileIssue s e f (.copy z) r (at_ 0) (at_ 1) (at_ 2))

/-- R241, R296: may a block hold allocations: is it admitted, or has it ended with its space not yet free? -/
def Block.stands (b : Block) : Bool := b.st = .admitted || b.st = .ended

/-- R296. TCOPY.MC. -/
def execTcopyMc (f : Form) (s : State) : Out :=
  runWith .tcopyMc f (fun e => [(Opnd.first f.a, 3 * tileRank e f + 2)]) s (fun e =>
    let n := tileRank e f
    let z : Bool := f.mod = 1
    let at_ := fun (k : Nat) => (List.range n).map (fun i => s.lowAt e f (k * n + i))
    let mask := BitVec.ofNat 4 (s.lowAt e f (3 * n))
    let num := BitVec.ofNat 32 (s.lowAt e f (3 * n + 1))
    let target := s.blocks.find? (fun b => b.launch = e.g.launch && b.level = e.g.level && b.num = num && b.stands)
    let kd := f.dst.uimm
    match tileCheck s e f z (at_ 0) (at_ 1) (at_ 2) with
    | some (cause, info) => .trap cause info e.x
    | none =>
      let refuse := Res.trap Cause.permission (boundsInfo 1 false 6 kd) e.x
      if laySpace (e.layout kd) ≠ spScratch then refuse
      else match target with
      | none => refuse
      | some t =>
        if (List.range 4).any (fun c => mask.getLsbD c && (s.allocOn t (e.g.core / 4 * 4 + c)).isNone) then refuse
        else match s.reportOf e (s.lowSrc e f.b) with
          | .error info => .trap Cause.permission info e.x
          | .ok r => tileIssue s e f (.multicast z mask t.id) r (at_ 0) (at_ 1) (at_ 2))

/-! ### SCATB (R301 to R303) -/

/-- The layout of a number held in a register: beyond m255 there is none. -/
def Env.layoutNo (e : Env) (k : Nat) : BitVec 512 := if k < 256 then e.layout k else 0

/-- R303, R234: SCATB's checks at issue. DESIGN CHOICE (assumption 27): a rank of I, C or T other than 1, which the table does not name, is reported as
a wrong element size is. -/
def scatCheck (s : State) (e : Env) (f : Form) (v : Nat → Nat) : Option (Nat × Word) :=
  let kd := f.dst.uimm
  let ks := layC f
  let md := e.layout kd
  let ms := e.layout ks
  let ki := v 2
  let kc := v 4
  let kt := v 6
  let mi := e.layoutNo ki
  let mc := e.layoutNo kc
  let mt := e.layoutNo kt
  let word := fun (m : BitVec 512) => layRank m = 1 && layCode m = 2
  let bins := layExt md 2
  let bad := fun (kind dim k : Nat) => some (Cause.bounds, boundsInfo kind false dim (k % 256))
  let all : List (Nat × Nat × BitVec 512) := [(1, kd, md), (0, ks, ms), (0, ki, mi), (2, kc, mc), (1, kt, mt)]
  match all.find? (fun x => !layValid x.2.2) with
  | some x => some (Cause.bounds, boundsInfo x.1 true 0 (x.2.1 % 256))
  | none => match all.find? (fun x => layOnChip x.2.2 && (s.allocOn e.b (layCore x.2.2 e.g.core)).isNone) with
  | some x => some (Cause.bounds, boundsInfo x.1 false 6 (x.2.1 % 256))
  | none =>
    if layRank md ≠ 3 || layRank ms ≠ 2 || layExt md 0 ≠ layExt ms 0 || layCode md ≠ layCode ms then bad 1 7 kd
    else if !word mi then bad 1 7 ki
    else if !word mc then bad 1 7 kc
    else if !word mt then bad 1 7 kt
    else if v 0 ≠ 0 && v 1 + v 0 > layExt ms 1 then bad 0 1 ks
    else if v 0 ≠ 0 && v 3 + v 0 > layExt mi 0 then bad 0 0 ki
    else if bins > layExt mc 0 then bad 2 0 kc
    else if v 7 + 4 > layExt mt 0 then bad 1 0 kt
    else if v 5 ≥ bins then bad 1 2 kd
    else match (all.find? (fun x => !(if x.1 = 0 then layR x.2.2 else if x.1 = 1 then layW x.2.2 else layA x.2.2))) with
      | some x => some (Cause.permission, boundsInfo x.1 false 0 (x.2.1 % 256))
      | none => none

/-- The granules that a SCATB touches (R290): with n = 0 those of its status words only, since nothing else of it changes. -/
def scatTouch (s : State) (e : Env) (f : Form) (v : Nat → Nat) : List Nat :=
  let md := e.layout f.dst.uimm
  let row := List.range (layExt md 0)
  let on := fun (m : BitVec 512) (cs : List (List Nat)) => granulesAt (layCore m e.g.core) (s.allocOn e.b (layCore m e.g.core)) m cs
  (if v 0 = 0 then [] else
    on md ((List.range (layExt md 2)).flatMap (fun b => (List.range (layExt md 1)).flatMap (fun j => row.map (fun i => [i, j, b])))) ++
    on (e.layout (layC f)) ((List.range (v 0)).flatMap (fun r => row.map (fun i => [i, v 1 + r]))) ++
    on (e.layoutNo (v 2)) ((span (v 3) (v 0)).map (fun i => [i])) ++
    on (e.layoutNo (v 4)) ((List.range (layExt md 2)).map (fun i => [i]))) ++
  on (e.layoutNo (v 6)) ((span (v 7) 4).map (fun i => [i]))

/-- R301, R303. SCATB. -/
def execScatb (f : Form) (s : State) : Out :=
  runWith .scatb f (fun _ => [(Opnd.first f.a, 8)]) s (fun e =>
    let v := s.lowAt e f
    match scatCheck s e f v with
    | some (cause, info) => .trap cause info e.x
    | none => match s.reportOf e (s.lowSrc e f.b) with
      | .error info => .trap Cause.permission info e.x
      | .ok r =>
        if (match r.tag with
            | some t => s.tagFull e.g.core t 1
            | none => false) then .stall
        else
          .ok (s.issueTile e r (.scatter (e.layoutNo (v 2)) (e.layoutNo (v 4)) (e.layoutNo (v 6)) [v 2, v 4, v 6] (v 3) (v 0) (v 1) (v 5) (v 7))
            f [0, 0, 0] [0, v 1] [] (fun _ => scatTouch s e f v)))

/-- One element of an entry that a SCATB names, read or written by the engine. -/
def State.scatAt (s : State) (o : TileOp) (tenant : Nat) (m : BitVec 512) (cs : List Nat) (write atom : Bool) : EngAt :=
  let core := layCore m o.core
  s.engAt o.id ownCopy tenant core ((s.block? o.block).bind (fun b => s.allocOn b core)) m cs (layElem m) write atom

/-- The progress of a SCATB: the state, placed, over and dropped rows, and the destination elements written. -/
structure Scat where
  s : State
  placed : Nat
  tooMany : Nat
  dropped : Nat
  /-- Rows that are to be copied, of a destination on an SC page (R242): row, slot and bin. -/
  moves : List (Nat × Nat × Nat)
  cells : List (List Nat)
  bad : Option (Nat × Nat × Nat)
  wait : Option (Nat × Nat × Nat × Nat)
  stop : Option Nat

/-- Notes the first thing that goes wrong. -/
def Scat.note (a : Scat) (k : Nat) (x : EngAt) : Scat :=
  match x with
  | .ok _ => a
  | .fail r g => if a.bad.isNone then { a with bad := some (r, k, g) } else a
  | .wait va l r => if a.wait.isNone then { a with wait := some (va, l, r, k) } else a
  | .stop p => { a with stop := some p }

/-- Is everything well so far? -/
def Scat.fine (a : Scat) : Bool := a.bad.isNone && a.wait.isNone && a.stop.isNone

/-- R302: bump of a counter: the old value. -/
def Scat.bump (a : Scat) (o : TileOp) (tenant : Nat) (c : BitVec 512) (k cap x : Nat) : Nat × Scat :=
  match a.s.scatAt o tenant c [x] true true with
  | .ok as =>
    let old := a.s.load as
    (old, if old < cap then { a with s := a.s.store as (old + 1) } else a)
  | r => (cap, a.note k r)

/-- R302: one element of a row goes to its place in the destination. -/
def Scat.put (a : Scat) (o : TileOp) (tenant row : Nat) (cell : List Nat) : Scat :=
  if !a.fine then a else
  match a.s.scatAt o tenant o.src [cell.getD 0 0, row] false false with
  | .ok as => match a.s.scatAt o tenant o.dst cell true false with
    | .ok bs => { a with s := a.s.store bs (a.s.load as), cells := a.cells ++ [cell] }
    | r => a.note o.dstEntry r
  | r => a.note o.srcEntry r

/-- The elements of a row in slot `slot` of bin `bin`: the row, and the destination's coordinates. -/
def rowCells (o : TileOp) (row slot bin : Nat) : List (Nat × List Nat) := (List.range (layExt o.dst 0)).map (fun i => (row, [i, slot, bin]))

/-- R302: one row goes to slot `slot` of bin `bin`, element by element; where the destination is on an SC page, once every row has its slot. -/
def Scat.place (a : Scat) (o : TileOp) (tenant : Nat) (sc : Bool) (row slot bin : Nat) : Scat :=
  if sc then { a with moves := a.moves ++ [(row, slot, bin)] } else (rowCells o row slot bin).foldl (fun a x => a.put o tenant x.1 x.2) a

/-- R242: the rows of a destination on an SC page are copied in ascending address order. -/
def Scat.flush (a : Scat) (o : TileOp) (tenant : Nat) : Scat :=
  (a.s.scOrder tenant o.dst (·.2) (a.moves.flatMap (fun m => rowCells o m.1 m.2.1 m.2.2))).foldl (fun a x => a.put o tenant x.1 x.2) a

/-- R302: the rows of a SCATB, in ascending order. -/
def Scat.rows (a : Scat) (o : TileOp) (tenant : Nat) (sc : Bool) (mi mc : BitVec 512) (ks : List Nat) (i0 n r0 ov : Nat) : Scat :=
  let cap := layExt o.dst 1
  let bins := layExt o.dst 2
  (List.range n).foldl (fun (a : Scat) r =>
    if !a.fine then a else
    match a.s.scatAt o tenant mi [i0 + r] false false with
    | .ok as =>
      let x := a.s.load as
      let (slot, a) := if x < bins then a.bump o tenant mc (ks.getD 1 0) cap x else (cap, a)
      if !a.fine then a
      else if slot < cap then
        let a := a.place o tenant sc (r0 + r) slot x
        { a with placed := a.placed + 1 }
      else
        let (slot, a) := a.bump o tenant mc (ks.getD 1 0) cap ov
        if !a.fine then a
        else if slot < cap then
          let a := a.place o tenant sc (r0 + r) slot ov
          { a with tooMany := a.tooMany + 1 }
        else { a with dropped := a.dropped + 1 }
    | x => a.note (ks.getD 0 0) x) a

/-- R302: its status words, after every row. -/
def Scat.status (a : Scat) (o : TileOp) (tenant : Nat) (mt : BitVec 512) (ks : List Nat) (q : Nat) : Scat :=
  [a.placed, a.tooMany, a.dropped, 0].zipIdx.foldl (fun (a : Scat) x =>
    if !a.fine then a else
    match a.s.scatAt o tenant mt [q + x.2] true false with
    | .ok as => { a with s := a.s.store as x.1 }
    | r => a.note (ks.getD 2 0) r) a

/-- A SCATB before its first row. -/
def Scat.start (s : State) : Scat :=
  { s, placed := 0, tooMany := 0, dropped := 0, moves := [], cells := [], bad := none, wait := none, stop := none }

/-- The elements of a SCATB's destination. -/
def binCells (o : TileOp) : List (List Nat) :=
  (List.range (layExt o.dst 2)).flatMap (fun b => (List.range (layExt o.dst 1)).flatMap (fun j => (List.range (layExt o.dst 0)).map (fun i => [i, j, b])))

/-- R302: a whole SCATB. -/
def State.scatter (s : State) (o : TileOp) (tenant : Nat) (mi mc mt : BitVec 512) (ks : List Nat) (i0 n r0 ov q : Nat) : Scat :=
  let sc := (binCells o).any (s.scAt tenant o.dst)
  (((Scat.start s).rows o tenant sc mi mc ks i0 n r0 ov).flush o tenant).status o tenant mt ks q

/-- The bytes of an element wherever the engine finds it, whoever owns it and whatever its page permits; `none` where there is no byte to read. -/
def State.rawAt (s : State) (o : TileOp) (tenant : Nat) (m : BitVec 512) (cs : List Nat) : Option (List Nat) :=
  let core := layCore m o.core
  let a := layAddr m cs
  if layOnChip m then ((s.block? o.block).bind (fun b => s.allocOn b core)).map (fun base =>
    (List.range (layElem m)).map (fun t => scratchByte core base (laySwizzled m a.toNat t)))
  else match s.translate tenant (wrap 64 a).toNat with
    | .at_ place _ => some (span place (layElem m))
    | .bad _ _ => none

/-- R292: the destination elements that the rows of a SCATB name by their indices and counters: those that a failed one would have written. DESIGN CHOICE
(assumption 62): an index or a counter that cannot be read names none; the rows that failed to be written count. -/
def State.scatCells (s : State) (o : TileOp) (tenant : Nat) (mi mc : BitVec 512) (i0 n ov : Nat) : List (List Nat) :=
  let cap := layExt o.dst 1
  let bins := layExt o.dst 2
  let word := fun (m : BitVec 512) (x : Nat) => (s.rawAt o tenant m [x]).map s.load
  let place := fun (acc : List (Nat × Nat) × List (Nat × Nat)) (x : Nat) =>
    let old := (acc.1.find? (fun c => c.1 = x)).elim ((word mc x).getD cap) (·.2)
    if old < cap then some (((x, old + 1) :: acc.1, acc.2 ++ [(old, x)]) : List (Nat × Nat) × List (Nat × Nat)) else none
  let acc := (List.range n).foldl (fun (acc : List (Nat × Nat) × List (Nat × Nat)) r =>
    match word mi (i0 + r) with
    | none => acc
    | some x => match (if x < bins then place acc x else none) with
      | some a => a
      | none => (place acc ov).getD acc) ([], [])
  acc.2.flatMap (fun c => (List.range (layExt o.dst 0)).map (fun i => [i, c.1, c.2]))

/-- The granules of the entry of a SCATB that failed: those it touches for its destination elements, rows, indices, counters or status words. -/
def State.scatGranules (s : State) (o : TileOp) (mi mc mt : BitVec 512) (cells : List (List Nat)) (i0 n r0 q entry : Nat) (ks : List Nat) : List Nat :=
  let on := fun (m : BitVec 512) (cs : List (List Nat)) =>
    granulesAt (layCore m o.core) ((s.block? o.block).bind (fun b => s.allocOn b (layCore m o.core))) m cs
  let row := List.range (layExt o.dst 0)
  (if entry = o.dstEntry then on o.dst cells else []) ++
  (if entry = o.srcEntry then on o.src ((List.range n).flatMap (fun r => row.map (fun i => [i, r0 + r]))) else []) ++
  (if entry = ks.getD 0 0 then on mi ((span i0 n).map (fun i => [i])) else []) ++
  (if entry = ks.getD 1 0 then on mc ((List.range (layExt o.dst 2)).map (fun i => [i])) else []) ++
  (if entry = ks.getD 2 0 then on mt ((span q 4).map (fun i => [i])) else [])

/-- The bytes that the elements of a tile copy are written to, on every destination. -/
def State.tileBytes (s : State) (o : TileOp) (tenant : Nat) (ts : List (List Nat)) : List Nat :=
  (s.tileTargets o).flatMap (fun t => ts.flatMap (fun i => s.engBytes o.id ownCopy tenant t.1 t.2 o.dst (addCoords o.dstOrg i) (layElem o.dst)))

/-- The bytes of some elements of an entry of a tile operation. -/
def State.rawBytes (s : State) (o : TileOp) (tenant : Nat) (m : BitVec 512) (cs : List (List Nat)) : List Nat :=
  cs.flatMap (fun c => (s.rawAt o tenant m c).getD [])

/-- The bytes that a tile copy reads. -/
def State.tileReads (s : State) (o : TileOp) (tenant : Nat) : List Nat :=
  s.rawBytes o tenant o.src (((tuples o.counts).map (addCoords o.srcOrg)).filter (inExtents o.src))

/-- The bytes that a SCATB reads: its rows, indices and counters. -/
def State.scatReads (s : State) (o : TileOp) (tenant : Nat) (mi mc : BitVec 512) (i0 n r0 : Nat) : List Nat :=
  s.rawBytes o tenant o.src ((List.range n).flatMap (fun r => (List.range (layExt o.dst 0)).map (fun i => [i, r0 + r]))) ++
    s.rawBytes o tenant mi ((span i0 n).map (fun i => [i])) ++ s.rawBytes o tenant mc ((List.range (layExt o.dst 2)).map (fun i => [i]))

/-- R302: the bytes that a SCATB writes: those destination elements, its counters and its status words. -/
def State.scatBytes (s : State) (o : TileOp) (tenant : Nat) (mc mt : BitVec 512) (ov q : Nat) (cells : List (List Nat)) : List Nat :=
  s.rawBytes o tenant o.dst cells ++ s.rawBytes o tenant mc ((ov :: List.range (layExt o.dst 2)).map (fun x => [x])) ++
    s.rawBytes o tenant mt ((span q 4).map (fun i => [i]))

/-- R433: the damaged sectors that a SCATB replaces which writes those destination elements and its status words. -/
def State.scatClears (s : State) (o : TileOp) (tenant : Nat) (mi mc mt : BitVec 512) (i0 n r0 ov q : Nat) (cells : List (List Nat)) : List Nat :=
  s.coveredBad (s.scatBytes o tenant mc mt ov q cells) (s.scatReads o tenant mi mc i0 n r0)

/-- R292: the granule that a failed tile operation reports for its reason and entry. -/
def State.tileOffence (s : State) (o : TileOp) (reason entry granule : Nat) : Nat :=
  if reason = 4 then
    let core := granule / 4096
    (((o.homes.filter (fun h => h.1 = core)).flatMap (fun h =>
      granulesAt core (some h.2) o.dst ((tuples o.counts).map (addCoords o.dstOrg)))).min?).getD granule
  else if reason ≠ 1 then 0
  else s.lowestOffence ownCopy ((if entry = o.dstEntry then s.tileDstGranules o else []) ++ (if entry = o.srcEntry then s.tileSrcGranules o else [])) granule

/-- R291, R292, R294, R296, R302. TILE_OPERATION_COMPLETION: a tile operation performs its writes and reports; a missing page makes it wait. A failed one
still counts every unit that it would have written. -/
def execTileOperationCompletion (op : Nat) (s : State) : Out :=
  match findId TileOp.id op s.tileOps with
  | none => .next s
  | some o =>
    let tenant := ((s.block? o.block).bind (fun b => s.launch? b.launch)).elim 0 (·.tenant)
    let failed := fun (s : State) (reason entry granule units : Nat) =>
      Host.Outcome.next ((s.engineFault o.group o.lanes 1 reason entry granule).tileReport o units)
    match o.kind with
    | .scatter mi mc mt ks i0 n r0 ov q =>
      let cells := s.scatCells o tenant mi mc i0 n ov
      let clears := s.scatClears o tenant mi mc mt i0 n r0 ov q
      let a := (s.clearBad (clears cells)).scatter o tenant mi mc mt ks i0 n r0 ov q
      let units := fun (cells : List (List Nat)) => unitCount o.dst cells + unitCount mt ((span q 4).map (fun i => [i]))
      match a.stop, a.wait, a.bad with
      | some p, _, _ => .fault (.noSuchMemory p)
      | none, some (va, l, r, k), _ => .next (s.engWait op tenant va l r k)
      | none, none, some (reason, k, g) =>
        failed { a.s with bad := (s.clearBad (clears a.cells)).bad } reason k
          (if reason = 1 then s.lowestOffence ownCopy (s.scatGranules o mi mc mt cells i0 n r0 q k ks) g else 0) (units cells)
      | none, none, none => .next (a.s.tileReport o (units a.cells))
    | kind =>
      let z := match kind with
        | .copy z => z
        | .multicast z _ _ => z
        | _ => false
      let ts := s.tileOrder o tenant (tuples o.counts)
      let units := unitCount o.dst (ts.map (addCoords o.dstOrg))
      let clear := s.coveredBad (s.tileBytes o tenant ts) (s.tileReads o tenant)
      match (s.clearBad clear).tileCopy o tenant z ts with
      | .done s => .next (s.tileReport o units)
      | .failed t left reason k g =>
        let kept := s.coveredBad (s.tileBytes o tenant (ts.take (ts.length - left))) (s.tileReads o tenant)
        failed { t with bad := (s.clearBad kept).bad } reason k (s.tileOffence o reason k g) units
      | .wait va l r k => .next (s.engWait op tenant va l r k)
      | .stop a => .fault (.noSuchMemory a)

/-! ### LNEST (R298 to R300) -/

/-- The stride of an operand at a level, signed. -/
def nestStride (x : NestOpnd) (m : Nat) : Int := (x.stride m).toInt

/-- The position of an operand's element for an index tuple (R298). -/
def nestPos (x : NestOpnd) (b : Int) (is : List Nat) : Int := b + (is.zipIdx.map (fun c => (c.1 : Int) * nestStride x c.2)).foldl (· + ·) 0

/-- The least and the greatest position of an operand over the nest (R298). -/
def nestRange (n : NestForm) (x : NestOpnd) (b : Int) : Int × Int :=
  (List.range 5).foldl (fun (lh : Int × Int) m =>
    let d := ((n.count m : Int) - 1) * nestStride x m
    if d < 0 then (lh.1 + d, lh.2) else (lh.1, lh.2 + d)) (b, b)

/-- The element size of a data type in bytes (R299). -/
def nestBytes (t : Nat) : Nat := if t = 7 then 1 else if t = 9 ∨ t = 11 then 4 else 2

/-- Does the nest use operand 2 (R299)? -/
def nestBinary (n : NestForm) : Bool := n.op ≠ 0 && n.red = 0

/-- R298's checks of one operand, by their place in the order in which it states them (R76, item 5): the range, the space, the shape, and then the permit.
DESIGN CHOICE (assumption 27): a rank other than 1, for which R298 names no cause, is BOUNDS with Dimension 7 as an element size is. -/
def nestFault (n : NestForm) (x : NestOpnd) (m : BitVec 512) (b : Int) (kind place : Nat) : Option (Nat × Word) :=
  let k := x.layout.toNat
  let r := nestRange n x b
  match place with
  | 0 => if !layValid m then some (Cause.bounds, boundsInfo kind true 0 k)
    else if r.1 < 0 || r.2 ≥ layExt m 0 then some (Cause.bounds, boundsInfo kind false 0 k) else none
  | 1 => if laySpace m ≠ spScratch then some (Cause.permission, boundsInfo kind false 0 k) else none
  | 2 => if layRank m ≠ 1 || layElem m ≠ nestBytes n.dtype.toNat then some (Cause.bounds, boundsInfo kind false 7 k) else none
  | _ => if !(if kind = 0 then layR m else layW m) then some (Cause.permission, boundsInfo kind false 0 k) else none

/-- The first check that one operand fails. -/
def nestCheck (n : NestForm) (x : NestOpnd) (m : BitVec 512) (b : Int) (kind : Nat) : Option (Nat × Word) :=
  (List.range 4).findSome? (nestFault n x m b kind)

/-- R299: one operation on two element codes. DESIGN CHOICE (assumption 66): MOVE copies the code of x1 as it stands, a NaN that is not canonical too. -/
def nestOp (n : NestForm) (a b : Nat) : Nat :=
  let t := n.dtype.toNat
  let w := 8 * nestBytes t
  if nestFloat t then
    let F := (Fmt.ofCode t).getD .fp32
    let mode := Rnd.ofCode n.rnd.toNat
    let x := F.value a
    let y := F.value b
    let pick := fun (lesser : Bool) =>
      if x.isNan && y.isNan then F.nanCode else if x.isNan then b else if y.isNan then a
      else
        let below := fun (p q : Val) => p.lt q || (p.eqv q && p.isNeg && !q.isNeg)
        if lesser then (if below y x then b else a) else (if below x y then b else a)
    match n.op.toNat with
    | 0 => a
    | 1 => F.round mode (Val.add (mode = .d) x y)
    | 2 => F.round mode (Val.add (mode = .d) x y.neg)
    | 3 => F.round mode (Val.mul x y)
    | 4 => pick true
    | _ => pick false
  else
    let sg := fun (y : Nat) => (BitVec.ofNat w y).toInt
    match n.op.toNat with
    | 0 => a
    | 1 => (a + b) % 2 ^ w
    | 2 => (a + 2 ^ w - b) % 2 ^ w
    | 3 => a * b % 2 ^ w
    | 4 => if sg b < sg a then b else a
    | 5 => if sg a < sg b then b else a
    | 6 => a &&& b
    | 7 => a ||| b
    | _ => a ^^^ b

/-- The environment of LNEST, which carries no guard: X is the whole path (R298). -/
def nestForm (n : NestForm) : Form :=
  { mod := 0, guard := Guard.always, dst := .none, a := .field 0, b := .field 0, c := .field 0, lw := none, fsel := n.fsel }

/-- R298. LNEST acts once per execution by a path. -/
def execLnest (n : NestForm) (s : State) : Out :=
  match s.env Guard.always with
  | none => .next s
  | some e =>
    let f := nestForm n
    let base := fun (x : NestOpnd) => ((e.g.g.get x.base.toNat).toNat : Int)
    let lay := fun (x : NestOpnd) => e.layout x.layout.toNat
    let opnds := [(n.x0, 1), (n.x1, 0)] ++ (if nestBinary n then [(n.x2, 0)] else [])
    let bad := (List.range 4).findSome? (fun place => opnds.findSome? (fun x => nestFault n x.1 (lay x.1) (base x.1) x.2 place))
    let trap := fun (c : Nat × Word) => Host.Outcome.next (s.trapAt e.gid c.1 c.2 e.x)
    if e.x = 0 then .next (retireNest s e n)
    else if (e.r.flagOf n.fsel).isNone then trap (Cause.illegalForm, 0)
    else match bad with
    | some c => trap c
    | none =>
      let (k, s) := s.addOp e f .completed (fun _ _ => (.engine, []))
      let home := e.b
      let used := fun (x : NestOpnd) => (tuples ((List.range 5).map n.count)).map (fun is => [(nestPos x (base x) is).toNat])
      let on := fun (x : NestOpnd) => granulesAt e.g.core (s.allocOn home e.g.core) (lay x) (used x)
      let gs := s.heldBy_ ownElement (dedup (on n.x0 ++ on n.x1 ++ (if nestBinary n then on n.x2 else [])))
      let s := s.holdGranules gs
      let o : NestOp :=
        { id := k, op := k, group := e.gid, block := home.id, core := e.g.core, lanes := e.r.lanes, form := n
          lay0 := lay n.x0, lay1 := lay n.x1, lay2 := lay n.x2, base0 := base n.x0, base1 := base n.x1, base2 := base n.x2, granules := gs }
      .next (retireNest { s with nests := s.nests ++ [o] } e n)
where
  /-- The instruction has issued: its counts are its own (R23). -/
  retireNest (s : State) (e : Env) (n : NestForm) : State := s.updGroup e.gid (fun g => g.settle e.r n.fsel e.x)

/-- The progress of a nest: the state, and where it failed. -/
abbrev NestEnd := State × Option (Nat × Nat × Nat)

/-- An element of an operand of a nest: an access of the streaming element unit. -/
def State.nestAt (s : State) (o : NestOp) (m : BitVec 512) (p : Int) (write : Bool) : EngAt :=
  s.engAt o.id ownElement 0 o.core ((s.block? o.block).bind (fun b => s.allocOn b o.core)) m [p.toNat] (layElem m) write false

/-- Reads an element. -/
def State.nestRead (s : State) (o : NestOp) (m : BitVec 512) (k : Nat) (p : Int) : Except (Nat × Nat × Nat) Nat :=
  match s.nestAt o m p false with
  | .ok as => .ok (s.load as)
  | .fail r g => .error (r, k, g)
  | _ => .error (1, k, 0)
/-- Writes an element. -/
def State.nestWrite (s : State) (o : NestOp) (p : Int) (x : Nat) : NestEnd :=
  match s.nestAt o o.lay0 p true with
  | .ok as => (s.store as x, none)
  | .fail r g => (s, some (r, o.form.x0.layout.toNat, g))
  | _ => (s, some (1, o.form.x0.layout.toNat, 0))

/-- R300: one element-wise step. -/
def State.nestStep (s : State) (o : NestOp) (is : List Nat) : NestEnd :=
  let n := o.form
  match s.nestRead o o.lay1 n.x1.layout.toNat (nestPos n.x1 o.base1 is) with
  | .error e => (s, some e)
  | .ok a =>
    match (if nestBinary n then s.nestRead o o.lay2 n.x2.layout.toNat (nestPos n.x2 o.base2 is) else .ok 0) with
    | .error e => (s, some e)
    | .ok b => s.nestWrite o (nestPos n.x0 o.base0 is) (nestOp n a b)

/-- R37: what a fold leaves: a NaN of a floating-point type is the canonical one, also where the fold has one element. -/
def nestCanon (n : NestForm) (x : Nat) : Nat :=
  let F := (Fmt.ofCode n.dtype.toNat).getD .fp32
  if nestFloat n.dtype.toNat && (F.value x).isNan then F.nanCode else x

/-- R300, R55: one tuple of the levels that are not reduced, folded over the others; the first element starts the fold. -/
def State.nestFold (s : State) (o : NestOp) (outer : List Nat) (inner : List (List Nat)) : NestEnd :=
  let n := o.form
  let r := inner.foldl (fun (acc : Except (Nat × Nat × Nat) (Option Nat)) is =>
    match acc with
    | .error e => .error e
    | .ok a => match s.nestRead o o.lay1 n.x1.layout.toNat (nestPos n.x1 o.base1 (addCoords outer is)) with
      | .error e => .error e
      | .ok x => .ok (some (match a with
        | none => x
        | some y => nestOp n y x))) (.ok none)
  match r with
  | .error e => (s, some e)
  | .ok none => (s, none)
  | .ok (some x) => s.nestWrite o (nestPos n.x0 o.base0 outer) (nestCanon n x)

/-- R298: the index tuples of a nest. -/
def nestTuples (n : NestForm) : List (List Nat) := tuples ((List.range 5).map n.count)
/-- R300: the index tuples of the elements that a nest writes: those of the levels that are not reduced. -/
def nestOuts (n : NestForm) : List (List Nat) := tuples ((List.range 5).map (fun m => if n.red.getLsbD m then 1 else n.count m))
/-- R300: the index tuples that a fold of the nest runs over. -/
def nestInner (n : NestForm) : List (List Nat) := tuples ((List.range 5).map (fun m => if n.red.getLsbD m then n.count m else 1))

/-- R300: what a nest does for each of some elements that it writes, in order; where it fails, and how many elements had not been written then. -/
def State.nestSteps (s : State) (o : NestOp) : List (List Nat) → NestEnd × Nat
  | [] => ((s, none), 0)
  | is :: rest =>
    match (if o.form.red = 0 then s.nestStep o is else s.nestFold o is (nestInner o.form)) with
    | (s, none) => s.nestSteps o rest
    | bad => (bad, rest.length + 1)

/-- The bytes of an element of an operand of a nest. -/
def State.nestPlaces (s : State) (o : NestOp) (m : BitVec 512) (p : Int) : List Nat :=
  ((s.block? o.block).bind (fun b => s.allocOn b o.core)).elim [] (fun base =>
    (List.range (layElem m)).map (fun t => scratchByte o.core base (laySwizzled m (layAddr m [p.toNat]).toNat t)))

/-- R433: the damaged sectors that a nest replaces which writes some of its elements. -/
def State.nestClears (s : State) (o : NestOp) (outs : List (List Nat)) : List Nat :=
  let n := o.form
  s.coveredBad (outs.flatMap (fun is => s.nestPlaces o o.lay0 (nestPos n.x0 o.base0 is)))
    ((nestTuples n).flatMap (fun is => s.nestPlaces o o.lay1 (nestPos n.x1 o.base1 is) ++
      (if nestBinary n then s.nestPlaces o o.lay2 (nestPos n.x2 o.base2 is) else [])))

/-- R300: the whole nest, in its order; it stops where it fails. A damaged sector that it writes wholly is replaced (R433). -/
def State.nestRun (s : State) (o : NestOp) : NestEnd :=
  let outs := nestOuts o.form
  match (s.clearBad (s.nestClears o outs)).nestSteps o outs with
  | ((t, none), _) => (t, none)
  | ((t, bad), left) => ({ t with bad := (s.clearBad (s.nestClears o (outs.take (outs.length - left)))).bad }, bad)

/-- The granules that a nest's operands of an entry touch. -/
def State.nestGranules (s : State) (o : NestOp) (entry : Nat) : List Nat :=
  let n := o.form
  let base := (s.block? o.block).bind (fun b => s.allocOn b o.core)
  let on := fun (x : NestOpnd) (m : BitVec 512) (b : Int) =>
    if x.layout.toNat = entry then granulesAt o.core base m ((tuples ((List.range 5).map n.count)).map (fun is => [(nestPos x b is).toNat])) else []
  on n.x0 o.lay0 o.base0 ++ on n.x1 o.lay1 o.base1 ++ (if nestBinary n then on n.x2 o.lay2 o.base2 else [])

/-- R298 to R300. LNEST_COMPLETION: the unit performs the nest, gives its granules back, and the instruction's lanes may complete. -/
def execLnestCompletion (op : Nat) (s : State) : Out :=
  match findId NestOp.id op s.nests with
  | none => .next s
  | some o =>
    let (s, bad) := s.nestRun o
    let s := match bad with
      | none => s
      | some (r, k, g) => s.engineFault o.group o.lanes 2 r k (if r = 1 then s.lowestOffence ownElement (s.nestGranules o k) g else 0)
    let s := (s.handBack o.granules).engineDone o.op
    .next { s with nests := delId NestOp.id op s.nests }

end Sys2Proof.Machine
end

