-- ==== Sys2Proof/Machine/Matrix.lean ====
section
/-!
DEFINITION. The matrix engine (R310 to R330): accumulator tiles, the matrix queues, MMA, QUANT and HAD in bands of 64 rows, and the ACC
instructions. An entry that touches both cores of a split tile stands in both queues and runs when it heads both (assumption 20).
-/
namespace Sys2Proof.Machine

/-! ### What an engine's access may meet -/

/-- An access that an engine cannot make. -/
inductive EngBad where
  /-- R292: reason, layout entry, granule. -/
  | fail (reason layout granule : Nat)
  | wait (va level reason layout : Nat)
  | stop (a : Nat)
  deriving DecidableEq, Repr

/-- An access as a value or as what is wrong with it. -/
def EngAt.toExcept (k : Nat) : EngAt → Except EngBad (List Nat)
  | .ok as => .ok as
  | .fail r g => .error (.fail r k g)
  | .wait va l r => .error (.wait va l r k)
  | .stop a => .error (.stop a)

/-- Does a function on each element of a list, in order, up to the first that fails. -/
def eachOf (f : α → Except EngBad β) : List α → Except EngBad (List β)
  | [] => .ok []
  | x :: xs => match f x with
    | .error e => .error e
    | .ok y => match eachOf f xs with
      | .error e => .error e
      | .ok ys => .ok (y :: ys)

/-! ### Tiles (R310 to R312) -/

/-- The cores that hold a tile: its home, and its partner where it is split (R310). -/
def tileCores (b : Block) (t : TileDesc) : List Nat :=
  let at_ := fun (p : Nat) => (b.cores[p]?).toList
  if t.split then at_ t.home ++ at_ (t.home ^^^ 1) else at_ t.home

/-- R312: the tile that an instruction names, with the block it belongs to; `none` raises PERMISSION. -/
def State.tileOf (_s : State) (e : Env) (k : Nat) : Option (TileDesc × Block) :=
  let b := e.b
  match e.rcd.tiles[k]? with
  | none => none
  | some t =>
    if t.format = 0 || e.rcd.tileLevel ≠ some b.level || !(tileCores b t).contains e.g.core then none else some (t, b)

/-- The word of PERMISSION for a tile (R312). -/
def tileInfo (k : Nat) : Word := resourceInfo 1 (0x100 + k)

/-- The columns of a tile that a core holds: first, and one past the last (R310). -/
def tileColumns (b : Block) (t : TileDesc) (core : Nat) : Nat × Nat :=
  if t.split then (if b.cores[t.home]? = some core then (0, t.cols / 2) else (t.cols / 2, t.cols)) else (0, t.cols)

/-- The key of an accumulator element. -/
def accKey (block tile row col : Nat) : Nat := block * 2 ^ 24 + tile * 2 ^ 20 + row * 2 ^ 10 + col

/-- The format of a tile's elements, where it is a floating-point one. -/
def accFmt (format : Nat) : Fmt := if format = 9 then .fp32 else .tx48

/-! ### The matrix queue (R313) -/

/-- The entries of a core's queue, in order. -/
def State.matrixQueue (s : State) (core : Nat) : List MatEntry := s.matrix.filter (fun m => m.cores.contains core)

/-- The queue has no room (R313). Suspended entries are not in it: firmware holds them (R330). -/
def State.matrixFull (s : State) (core : Nat) : Bool := decide (16 ≤ ((s.matrixQueue core).filter (fun m => !m.suspended)).length)

/-- R345: the integration entries that may enter a core's queue. -/
def State.placeIntegrations (s : State) (core : Nat) : State :=
  s.chains.foldl (fun (s : State) c =>
    match c.waiter with
    | none => s
    | some op =>
      if c.core = core && c.isOpen && !c.placed && !c.suspended && !c.held && c.count ≤ c.landed && !s.matrixFull core then
        let m : MatEntry :=
          { id := s.nextId, op, group := ((s.op? op).map (·.group)).getD 0, block := c.block, launch := c.launch, cores := [core], core
            lanes := 0, tile := c.tile, kind := .integrate c.slot, lays := [], started := false, row := 0
            suspended := s.matrix.any (fun m => m.block = c.block && m.suspended), granules := [] }
        { s with
          nextId := s.nextId + 1, matrix := s.matrix ++ [m]
          chains := s.chains.map (fun x => if x.core = core ∧ x.slot = c.slot then { x with placed := true } else x) }
      else s) s

/-- Do tile saves and loads pass suspended entries (R330)? -/
def MatKind.passes : MatKind → Bool
  | .save _ _ _ | .load _ _ _ => true
  | _ => false

/-- Is an entry that of a send? -/
def MatKind.isSend : MatKind → Bool
  | .send _ _ _ _ _ => true
  | _ => false

/-- Of entries in order: those that are a send or stand ahead, in a queue, of one that is kept; and the cores of their queues. -/
def feeding (ms : List MatEntry) : List Nat × List Nat :=
  ms.foldr (fun m a => if m.kind.isSend || m.cores.any a.2.contains then (m.id :: a.1, m.cores ++ a.2) else a) ([], [])

/-- R339, R354, R313, DEDUCED (assumption 53): the entries of a launch that must still run for the sake of a send that has been issued, since a queue runs
in order. -/
def State.feeds (s : State) (launch : Nat) : List Nat :=
  (feeding (s.matrix.filter (fun m => m.launch = launch && (s.block? m.block).elim false (fun b => b.st = .admitted)))).1

/-- Those of them that were suspended go on. -/
def State.releaseFeeds (s : State) (launch : Nat) : State :=
  let go := s.feeds launch
  { s with matrix := s.matrix.map (fun m => if go.contains m.id then { m with suspended := false } else m) }

/-- R330, R353, DEDUCED (assumption 53): the suspended entries of a launch, and its saved CHAIN.WAITs, enter the queues again, in order and behind what has
passed them, as a group of it comes to a matrix instruction or to a wait. Those of blocks that are being pre-empted, or are saved, stay. -/
def State.reenter (s : State) (launch : Nat) : State :=
  let runs := fun (k : Nat) => (s.block? k).elim false (fun b => b.launch = launch && b.st = .admitted && b.preemptAt.isNone)
  let cores := (s.chains.filter (fun c => c.held && runs c.block)).map (·.core)
  let back := fun (m : MatEntry) => m.suspended && runs m.block
  let s := { s with
    matrix := s.matrix.filter (fun m => !back m) ++ (s.matrix.filter back).map (fun (m : MatEntry) => { m with suspended := false })
    chains := s.chains.map (fun (c : Chain) => if runs c.block then { c with held := false } else c) }
  cores.foldl (fun (s : State) c => s.placeIntegrations c) s

/-- Is the block of a group one that is not being pre-empted? -/
def Env.free (e : Env) : Bool := e.b.preemptAt.isNone

/-- What re-enters the queues ahead of an instruction (R330). -/
def State.reenterAt (s : State) (e : Env) (kind : MatKind) : State := if kind.passes || !e.free then s else s.reenter e.la.id

/-- Adds an entry to the queues of its cores, with its hold on granules (R290), behind a long-latency instruction that completes with it. While entries of
its block are suspended it is too, but for tile saves and loads, and for sends, which take what they need with them (R354). -/
def State.enqueue (s : State) (e : Env) (f : Form) (block tile : Nat) (cores : List Nat) (kind : MatKind) (lays : List (Nat × BitVec 512))
    (granules : List Nat) : State :=
  let (k, s) := s.addOp e f .saved (fun _ _ => (.engine, []))
  let gs := s.heldBy_ ownMatrix (dedup granules)
  let s := s.holdGranules gs
  let held := !kind.passes && !kind.isSend && s.matrix.any (fun m => m.block = block && m.suspended)
  let s := { s with matrix := s.matrix ++ [{ id := k, op := k, group := e.gid, block, launch := e.la.id, cores, core := e.g.core, lanes := e.r.lanes
                                             tile, kind, lays, started := false, row := 0, suspended := held, granules := gs }] }
  if kind.isSend then s.releaseFeeds e.la.id else s

/-- Issues an entry, or waits where a queue is full (R313). -/
def matIssue (s : State) (e : Env) (f : Form) (block tile : Nat) (cores : List Nat) (kind : MatKind) (lays : List (Nat × BitVec 512))
    (granules : List Nat) : Res :=
  let s := s.reenterAt e kind
  if cores.any s.matrixFull then .stallIn s else .ok (s.enqueue e f block tile cores kind lays granules)

/-- R313: the entry that a core may start next: its first entry that is not suspended, where that heads the queues of all its cores and no other
entry has been started there. -/
def State.nextEntry (s : State) (core : Nat) : Option MatEntry :=
  let heads := fun (m : MatEntry) (c : Nat) =>
    (s.matrixQueue c).all (fun x => !x.started) && ((s.matrixQueue c).find? (fun x => !x.suspended)).map (·.id) = some m.id
  match (s.matrixQueue core).find? (fun x => !x.suspended) with
  | none => none
  | some m => if m.cores.all (heads m) then some m else none

/-- An entry leaves its queues: its granules go back, and its instruction completes (R290, R319). -/
def State.endEntry (s : State) (m : MatEntry) : State :=
  let s := ((s.handBack m.granules).engineDone m.op)
  let s := { s with matrix := delId MatEntry.id m.id s.matrix }
  m.cores.foldl (fun (s : State) c => s.placeIntegrations c) s

/-- The tenant of an entry, and where its scratchpad allocation lies on a core. -/
def State.entryTenant (s : State) (m : MatEntry) : Nat := (s.launch? m.launch).elim 0 (·.tenant)
def State.entryBase (s : State) (m : MatEntry) (lay : BitVec 512) : Nat × Option Nat :=
  let core := layCore lay m.core
  (core, (s.block? m.block).bind (fun b => s.allocOn b core))

/-- The matrix engine's access of one element of an entry. -/
def State.matAt (s : State) (m : MatEntry) (lay : BitVec 512) (k : Nat) (cs : List Nat) (w : Nat) (write atom : Bool) : Except EngBad (List Nat) :=
  let (core, base) := s.entryBase m lay
  (s.engAt m.id ownMatrix (s.entryTenant m) core base lay cs w write atom).toExcept k

/-- The places that its write of one element of `w` bytes goes to. -/
def State.matBytes (s : State) (m : MatEntry) (lay : BitVec 512) (cs : List Nat) (w : Nat) : List Nat :=
  let (core, base) := s.entryBase m lay
  s.engBytes m.id ownMatrix (s.entryTenant m) core base lay cs w

/-- The places of `n` bytes of a row of a byte layout. -/
def State.matRow (s : State) (m : MatEntry) (lay : Nat × BitVec 512) (row c0 n : Nat) (write : Bool) : Except EngBad (List Nat) :=
  match eachOf (fun c => s.matAt m lay.2 lay.1 [c, row] 1 write false) (span c0 n) with
  | .error e => .error e
  | .ok as => .ok as.flatten

/-! ### The format word and the parameter block (R314 to R318) -/

/-- R315: K_g of a valid format word: 0 MMA, 1 QUANT, 2 HAD. -/
def kGranule (which : Nat) (w : Word) : Option Nat :=
  let x := w.toNat
  let a := bitsOf x 31 28
  let b := bitsOf x 27 24
  let acc := bitsOf x 23 20
  let scale := bitsOf x 19 18
  let had := bitsOf x 17 16
  let rnd := bitsOf x 15 12
  let narrow := fun (t : Nat) => 2 ≤ t && t ≤ 6
  let wide := fun (t : Nat) => t = 0 || t = 1 || t = 9
  if bitsOf x 11 0 ≠ 0 then none
  else match which with
  | 0 =>
    if had ≠ 0 || rnd ≠ 0 then none
    else if a ≤ 1 && b = a && (acc = 9 || acc = 12) && scale = 0 then some 16
    else if narrow a && narrow b && (acc = 9 || acc = 12) && scale = 1 then some 192
    else if (a = 7 || a = 8) && b = 7 && acc = 11 && scale = 0 then some 32
    else none
  | 1 => if wide a && narrow b && acc = 0 && scale = 1 && (rnd = 0 || rnd = 4) then some 192 else none
  | _ => if wide a && wide b && acc = 0 && scale = 0 && had ≠ 0 && rnd = 0 then some (8 * 2 ^ had) else none

/-- A field of the parameter block (R317). -/
def pbField (pb : BitVec 512) (hi lo : Nat) : Nat := bitsOf pb.toNat hi lo
def pbK (pb : BitVec 512) : Nat := pbField pb 127 96
def pbM (pb : BitVec 512) : Nat := pbField pb 95 80
def pbN (pb : BitVec 512) : Nat := pbField pb 79 64
def pbTile (pb : BitVec 512) : Nat := pbField pb 415 412
def pbR0 (pb : BitVec 512) : Nat := 64 * pbField pb 411 409
def pbC0 (pb : BitVec 512) : Nat := 64 * pbField pb 408 405
def pbZeroFirst (pb : BitVec 512) : Bool := pb.getLsbD 404
def pbDone (pb : BitVec 512) : Bool := pb.getLsbD 447
def pbRows (pb : BitVec 512) : Nat := pbField pb 431 416

/-- The Seed word of a parameter block, and the block with another. -/
def pbSeed (pb : BitVec 512) : Word := pb.extractLsb' 32 32
def pbReseed (pb : BitVec 512) (x : Word) : BitVec 512 := pb.extractLsb' 64 448 ++ x ++ pb.extractLsb' 0 32

/-- Bytes of `n` elements of a format. -/
def fmtBytes (t n : Nat) : Nat := elemBits t * n / 8

/-- R317, R320 step 5: are the fields of a parameter block in order for an instruction and its format word? -/
def pbOk (which : Nat) (w : Word) (kg : Nat) (tile : Option TileDesc) (pb : BitVec 512) : Bool :=
  let z := fun (hi lo : Nat) => pbField pb hi lo = 0
  let scaled := which = 0 && bitsOf w.toNat 19 18 = 1
  let common := z 511 480 && z 479 452 && z 446 432 && z 403 384 && pbK pb % kg = 0 && kg ≤ pbK pb && pbField pb 159 128 % kg = 0 &&
    pbField pb 223 192 % kg = 0 && pbM pb % 64 = 0 && 64 ≤ pbM pb && pbRows pb % 64 = 0 && (pbDone pb || pbRows pb ≤ pbM pb)
  match which with
  | 0 =>
    common && z 63 32 && pbN pb % 64 = 0 && 64 ≤ pbN pb && (scaled || (z 383 256 && z 15 0)) &&
    (match tile with
     | some t => decide (pbR0 pb + pbM pb ≤ t.rows) && decide (pbC0 pb + pbN pb ≤ t.cols)
     | none => false)
  | 1 => common && z 415 404 && z 79 64 && z 319 256 && z 15 8 && (z 63 32 || bitsOf w.toNat 15 12 = 4)
  | _ => common && z 415 404 && z 79 64 && z 383 256 && z 15 0 && z 63 32

/-- An operand of MMA, QUANT or HAD: its layout entry, kind (0 read, 1 write), first row and rows, first byte and bytes. -/
structure MatOpnd where
  entry : Nat
  kind : Nat
  row : Nat
  rows : Nat
  byte : Nat
  bytes : Nat
  deriving DecidableEq, Repr

/-- R317, R318: the operands that an instruction uses, in the order A, B, SA, SB. -/
def matOpnds (which : Nat) (w : Word) (pb : BitVec 512) : List MatOpnd :=
  let fa := bitsOf w.toNat 31 28
  let fb := bitsOf w.toNat 27 24
  let k := pbK pb
  let a : MatOpnd := { entry := pbField pb 31 24, kind := 0, row := pbField pb 191 160, rows := pbM pb
                       byte := fmtBytes fa (pbField pb 159 128), bytes := fmtBytes fa k }
  let b : MatOpnd := { entry := pbField pb 23 16, kind := if which = 0 then 0 else 1, row := pbField pb 255 224
                       rows := if which = 0 then pbN pb else pbM pb, byte := fmtBytes fb (pbField pb 223 192), bytes := fmtBytes fb k }
  let sa : MatOpnd := { entry := pbField pb 15 8, kind := 0, row := pbField pb 319 288, rows := pbM pb, byte := pbField pb 287 256, bytes := k / 48 }
  let sb : MatOpnd := { entry := pbField pb 7 0, kind := if which = 0 then 0 else 1, row := pbField pb 383 352
                        rows := if which = 0 then pbN pb else pbM pb, byte := pbField pb 351 320, bytes := k / 48 }
  match which with
  | 0 => if bitsOf w.toNat 19 18 = 1 then [a, b, sa, sb] else [a, b]
  | 1 => [a, b, sb]
  | _ => [a, b]

/-- R320 step 6: the check of one operand over its whole extent. -/
def matOpndCheck (s : State) (e : Env) (o : MatOpnd) : Option (Nat × Word) :=
  let m := e.layout o.entry
  let bounds := fun (d : Nat) => some (Cause.bounds, boundsInfo o.kind false d o.entry)
  if !layValid m then some (Cause.bounds, boundsInfo o.kind true 0 o.entry)
  else if layRank m ≠ 2 || layElem m ≠ 1 || layStride m 0 ≠ 1 then bounds 7
  else if layOnChip m && (s.allocOn e.b (layCore m e.g.core)).isNone then bounds 6
  else if o.byte + o.bytes > layExt m 0 then bounds 0
  else if o.row + o.rows > layExt m 1 then bounds 1
  else if !(if o.kind = 0 then layR m else layW m) || (o.kind = 1 && laySpace m = spTexture) then
    some (Cause.permission, boundsInfo o.kind false 0 o.entry)
  else none

/-- R318, R290: the granules that an operand touches. -/
def matOpndGranules (s : State) (e : Env) (o : MatOpnd) : List Nat :=
  let m := e.layout o.entry
  if layOnChip m then
    granulesAt (layCore m e.g.core) (s.allocOn e.b (layCore m e.g.core)) m
      ((span o.row o.rows).flatMap (fun r => (span o.byte o.bytes).map (fun c => [c, r])))
  else []

/-- R317, R320 step 3: the places of the parameter block's bytes, or what the access raises. -/
def paramBlock (s : State) (e : Env) (k b : Nat) : Except (Nat × Word) (List Nat) :=
  let m := e.layout k
  let el := layElem m
  let a := layAddr m [b]
  if !layValid m then .error (Cause.bounds, boundsInfo 0 true 0 k)
  else if laySpace m ≠ spScratch then .error (Cause.permission, boundsInfo 0 false 0 k)
  else if layRank m ≠ 1 || (el < 64 && layStride m 0 ≠ el) then .error (Cause.bounds, boundsInfo 0 false 7 k)
  else if b + (63 / el + 1) > layExt m 0 then .error (Cause.bounds, boundsInfo 0 false 0 k)
  else if a % 64 ≠ 0 then .error (Cause.alignment, boundsInfo 0 false 0 k)
  else match s.allocOn e.b e.g.core with
    | none => .error (Cause.bounds, boundsInfo 0 false 6 k)
    | some base =>
      let as := (List.range 64).map (fun t => scratchByte e.g.core base (laySwizzled m a.toNat t))
      match as.find? (fun p => (s.owners.get (granuleOf p)).toNat ≠ ownMatrix) with
      | some p => .error (Cause.ownerViolation, ownerInfo true (s.owners.get (granuleOf p)).toNat (granuleOf p % 4096))
      | none => .ok as

/-- The word of FORMAT_DIVERGENCE (R316). -/
def divergeInfo (reason lane : Nat) : Word := BitVec.ofNat 32 (reason * 2 ^ 30 + lane % 64)

/-- R316: reasons 0 and 1; `none` where the format words agree and are valid. -/
def formatFault (s : State) (e : Env) (f : Form) (which : Nat) : Option Word :=
  let w := s.lowSrc e f.a
  match e.lanes.find? (fun c => s.src e .int c.1 c.2 f.a ≠ w) with
  | some c => some (divergeInfo 0 c.1)
  | none => if (kGranule which w).isNone then some (divergeInfo 1 0) else none

/-- R32, R48, DEDUCED (assumption 68): does a format word hold a type or rounding code that no row of R315 accepts in that field (R32 lists those of
MMA)? ILLEGAL_FORM, before R316. The Accumulate field of QUANT and HAD, which holds no code at all, is left to R316 where it is not zero. -/
def formatForm (which : Nat) (w : Word) : Bool :=
  let x := w.toNat
  let types := fun (t : Nat) (l : List Nat) => !l.contains t
  4 < bitsOf x 15 12 || (match which with
    | 0 => types (bitsOf x 31 28) [0, 1, 2, 3, 4, 5, 6, 7, 8] || types (bitsOf x 27 24) [0, 1, 2, 3, 4, 5, 6, 7, 8] || types (bitsOf x 23 20) [9, 11, 12]
    | 1 => types (bitsOf x 31 28) [0, 1, 9] || types (bitsOf x 27 24) [2, 3, 4, 5, 6]
    | _ => types (bitsOf x 31 28) [0, 1, 9] || types (bitsOf x 27 24) [0, 1, 9])

/-- R320, R292, R433, DEDUCED (assumption 74): the engine's read of the parameter block at issue meets an uncorrectable error: the operation fails and completes
for counting, and the granules of the block, which is all that is known of its footprint, go back (R290). -/
def State.failParam (s : State) (e : Env) (f : Form) (which : Nat) (w : Word) (as : List Nat) (kp : Nat) : State :=
  let (_, s) := (s.reenterAt e (.compute which w as 0)).addOp e f .saved (fun _ _ => (.ready, []))
  let gs := dedup (as.map granuleOf)
  ((s.holdGranules gs).handBack gs).engineFault e.gid e.r.lanes 3 3 kp 0

/-- R320: MMA (0), QUANT (1) and HAD (2): the checks at issue, in their order, and the entry, whose last layout is the parameter block's. -/
def matCompute (op : Op) (which : Nat) (f : Form) (s : State) : Out :=
  runOp op f s (fun e =>
    let w := s.lowSrc e f.a
    let kp := layC f
    match formatFault s e f which with
    | some info => .trap Cause.formatDivergence info e.x
    | none =>
    match paramBlock s e kp (s.lowSrc e f.b).toNat with
    | .error (cause, info) => .trap cause info e.x
    | .ok as =>
      if s.damaged as then .ok (s.failParam e f which w as kp) else
      let pb : BitVec 512 := BitVec.ofNat 512 (s.load as)
      let tile := if which = 0 then s.tileOf e (pbTile pb) else none
      if which = 0 && tile.isNone then .trap Cause.permission (tileInfo (pbTile pb)) e.x
      else if which = 0 && (tile.map (·.1.format)) ≠ some (bitsOf w.toNat 23 20) then .trap Cause.formatDivergence (divergeInfo 2 0) e.x
      else if !pbOk which w ((kGranule which w).getD 1) (tile.map (·.1)) pb then .trap Cause.bounds (boundsInfo 0 false 7 kp) e.x
      else
        let os := matOpnds which w pb
        match os.findSome? (matOpndCheck s e) with
        | some (cause, info) => .trap cause info e.x
        | none =>
          let cores := match tile with
            | some t => tileCores t.2 t.1
            | none => [e.g.core]
          matIssue s e f e.b.id (pbTile pb) cores (.compute which w as pb) (os.map (fun o => (o.entry, e.layout o.entry)) ++ [(kp, e.layout kp)])
            (as.map granuleOf ++ os.flatMap (matOpndGranules s e)))
    (ownForm 0 (fun e => e.lanes.any (fun c => s.readable e c.2 f.a && formatForm which (s.src e .int c.1 c.2 f.a))))

/-- R321 to R323. MMA. -/
def execMma (f : Form) (s : State) : Out := matCompute .mma 0 f s
/-- R325. QUANT. -/
def execQuant (f : Form) (s : State) : Out := matCompute .quant 1 f s
/-- R325. HAD. -/
def execHad (f : Form) (s : State) : Out := matCompute .had 2 f s

/-! ### Bands (R321 to R325) -/

/-- The codes of `n` elements of a row's bytes (R41). -/
def rowCodes (t n : Nat) (bs : List Byte) : List Nat :=
  let x := leNat bs
  (List.range n).map (fun i => x / 2 ^ (elemBits t * i) % 2 ^ elemBits t)

/-- A value times 2^k, exactly. -/
def timesPow (k : Int) : Val → Val
  | .fin n m x => .fin n m (x + k)
  | v => v

/-- R43: a scaled element; the scale 127 leaves a value as it is. -/
def scaledElem (t code e : Nat) : Val :=
  if e = 255 then .nan
  else match Fmt.ofCode t with
    | some F => timesPow ((e : Int) - 127) (F.value code)
    | none => .int (if t = 8 then tern2 code else (BitVec.ofNat 8 code).toInt)

/-- Status bits (R317). -/
def stTern : Nat := 1
def stNan : Nat := 2
def stOverflow : Nat := 4
def stFault : Nat := 8

/-- R54: one group's sum added into an accumulator element, and its status bits (R322). -/
def accGroup (F : Fmt) (acc : Nat) (products : List Val) : Nat × Nat :=
  let s := Fp.exactSum products
  let t := Fmt.tx48.value (Fmt.tx48.round .ne s)
  let a := F.value acc
  let out := F.round .ne (Val.add false a t)
  let r := F.value out
  let finite := fun (v : Val) => !v.isNan && !v.isInf
  (out, (if t.isNan || r.isNan then stNan else 0) ||| (if (finite s && t.isInf) || (finite a && finite t && r.isInf) then stOverflow else 0))

/-- The products of one group, element by element. -/
def groupProducts (fa fb : Nat) (a b : List Nat) (ea eb : Nat) : List Val :=
  List.zipWith (fun x y => Val.mul (scaledElem fa x ea) (scaledElem fb y eb)) a b

/-- R321: one element of a band: the groups of K in ascending order. -/
def mmaElem (fa fb : Nat) (F : Fmt) (g : Nat) (acc : Nat) (a b sa sb : List Nat) : Nat × Nat :=
  (List.range (a.length / g)).foldl (fun (x : Nat × Nat) i =>
    let cut := fun (l : List Nat) => (l.drop (i * g)).take g
    let r := accGroup F x.1 (groupProducts fa fb (cut a) (cut b) (sa.getD i 127) (sb.getD i 127))
    (r.1, x.2 ||| r.2)) (acc, 0)

/-- R321: the integer case: exact, into INT32 with wrap. -/
def mmaInt (fa : Nat) (acc : Nat) (a b : List Nat) : Nat :=
  let x := List.zipWith (fun x y => (if fa = 8 then tern2 x else (BitVec.ofNat 8 x).toInt) * (BitVec.ofNat 8 y).toInt) a b
  (wrap 32 ((BitVec.ofNat 32 acc).toInt + x.foldl (· + ·) 0)).toNat

/-- What a band does when it commits: accumulator elements, cells of memory, the generator, status bits. -/
structure Band where
  acc : List (Nat × BitVec 48)
  cells : List Host.Cell
  seed : Option Word
  status : Nat

/-- The rows of an operand as element codes. -/
def State.bandRows (s : State) (m : MatEntry) (lay : Nat × BitVec 512) (t row c0 n : Nat) (rows : Nat) : Except EngBad (List (List Nat)) :=
  eachOf (fun r => match s.matRow m lay (row + r) c0 (fmtBytes t n) false with
    | .error e => .error e
    | .ok as => .ok (rowCodes t n (s.bytes as))) (List.range rows)

/-- R321: a band of MMA, from its first row. -/
def State.mmaBand (s : State) (m : MatEntry) (format : Nat) (w : Word) (pb : BitVec 512) (r : Nat) : Except EngBad Band :=
  let fa := bitsOf w.toNat 31 28
  let fb := bitsOf w.toNat 27 24
  let scaled := bitsOf w.toNat 19 18 = 1
  let os := matOpnds 0 w pb
  let lay := fun (i : Nat) => m.lays.getD i (0, 0)
  let opnd := fun (i : Nat) => os.getD i { entry := 0, kind := 0, row := 0, rows := 0, byte := 0, bytes := 0 }
  let k := pbK pb
  let get := fun (i t first n rows : Nat) => s.bandRows m (lay i) t ((opnd i).row + first) (opnd i).byte n rows
  match get 0 fa r k 64, get 1 fb 0 k (pbN pb) with
  | .error e, _ => .error e
  | _, .error e => .error e
  | .ok as, .ok bs =>
    match (if scaled then get 2 2 r (k / 48) 64 else .ok []), (if scaled then get 3 2 0 (k / 48) (pbN pb) else .ok []) with
    | .error e, _ => .error e
    | _, .error e => .error e
    | .ok sas, .ok sbs =>
      let g := if scaled then 48 else 16
      let one := fun (i j : Nat) =>
        let key := accKey m.block m.tile (pbR0 pb + r + i) (pbC0 pb + j)
        let acc := if pbZeroFirst pb then 0 else (s.acc.get key).toNat
        let x := if format = 11 then (mmaInt fa acc (as.getD i []) (bs.getD j []), 0)
          else mmaElem fa fb (accFmt format) g acc (as.getD i []) (bs.getD j []) (sas.getD i []) (sbs.getD j [])
        (key, x)
      let all := (List.range 64).flatMap (fun i => (List.range (pbN pb)).map (one i))
      let tern := if fa = 8 && as.any (fun l => l.contains 2) then stTern else 0
      .ok { acc := all.map (fun x => (x.1, BitVec.ofNat 48 x.2.1)), cells := [], seed := none
            status := all.foldl (fun st x => st ||| x.2.2) tern }

/-- R324: c_n. -/
def rotScale (n : Nat) : Val := Fp.val (if n = 16 then 0x3E800000 else if n = 32 then 0x3E3504F3 else 0x3E000000)

/-- R324: does an index pair count a negative sign: is popcount (i AND j) odd? -/
def oddOverlap (i j : Nat) : Bool := ((List.range 8).filter (fun b => (i &&& j).testBit b)).length % 2 = 1

/-- A value with the sign of zero dropped: an exact zero is +0. -/
def plainZero (v : Val) : Val := if v.isZero then .fin false 0 0 else v

/-- R324: one rotated run, as codes of a format, and whether it is NaN. -/
def rotate (F : Fmt) (xs : List Val) : List Nat × Bool :=
  let n := xs.length
  if xs.any (fun v => v.isNan || v.isInf) then (xs.map (fun _ => F.nanCode), true)
  else ((List.range n).map (fun i =>
    let sum := xs.zipIdx.foldl (fun a c => Val.add false a (if oddOverlap i c.2 then c.1.neg else c.1)) (.fin false 0 0)
    F.round .ne (plainZero (Val.mul (rotScale n) sum))), false)

/-- Pieces of `g` of a list; the fuel bounds their number. -/
def piecesOf (g : Nat) : Nat → List α → List (List α)
  | 0, _ => []
  | _ + 1, [] => []
  | k + 1, l => l.take g :: piecesOf g k (l.drop g)

/-- R44: a quantised block: scale, codes, generator, status bits. `rs` says that every element advances the generator. -/
def quantBlock (F : Fmt) (rs : Bool) (xs : List Val) (seed : Word) : Nat × List Nat × Word × Nat :=
  let draw := fun (sd : Word) => if rs then drawRnd 4 sd else (Rnd.ne, sd)
  if xs.any (fun v => v.isNan || v.isInf) then (255, xs.map (fun _ => 0), xs.foldl (fun sd _ => (draw sd).2) seed, stNan)
  else
    let fmax := match F.value F.maxCode with
      | .fin _ k x => (k, x)
      | _ => (1, 0)
    let scale := fun (v : Val) => match v with
      | .fin _ k x => if k = 0 then (0 : Int) else ceilLog2 k fmax.1 (x - fmax.2) + 127
      | _ => 0
    let top := xs.foldl (fun (b : Val) v => if b.isZero then v else if v.isZero then b
      else if (Val.lt (if b.isNeg then b.neg else b) (if v.isNeg then v.neg else v)) then v else b) (.fin false 0 0)
    let e : Int := if top.isZero then 0 else satInt (scale top) 1 254
    let tooMany := !top.isZero && scale top > 254
    let r := xs.foldl (fun (a : List Nat × Word) v =>
      let (mode, sd) := draw a.2
      let c := match v with
        | .fin n k x => if k = 0 then 0 else F.signed n (Nat.min (F.roundQ mode n k 1 (x - (e - 127)) % F.signBit) F.maxCode)
        | _ => 0
      (a.1 ++ [c], sd)) ([], seed)
    (e.toNat, r.1, r.2, if tooMany then stOverflow else 0)

/-- R325: a row of QUANT or HAD: codes of the row, scales, generator, status. -/
def quantRow (which : Nat) (w : Word) (codes : List Nat) (seed : Word) : List Nat × List Nat × Word × Nat :=
  let fa := (Fmt.ofCode (bitsOf w.toNat 31 28)).getD .fp32
  let fb := (Fmt.ofCode (bitsOf w.toNat 27 24)).getD .fp32
  let had := bitsOf w.toNat 17 16
  let xs := codes.map fa.value
  if which = 2 then
    let rs := (piecesOf (8 * 2 ^ had) xs.length xs).map (rotate fb)
    (rs.flatMap (·.1), [], seed, if rs.any (·.2) then stNan else 0)
  else
    let rs := if had = 0 then [] else (piecesOf (8 * 2 ^ had) xs.length xs).map (rotate .fp32)
    let ys := if had = 0 then xs else (rs.flatMap (·.1)).map Fmt.fp32.value
    (piecesOf 48 ys.length ys).foldl (fun (a : List Nat × List Nat × Word × Nat) b =>
      let q := quantBlock fb (bitsOf w.toNat 15 12 = 4) b a.2.2.1
      (a.1 ++ q.2.1, a.2.1 ++ [q.1], q.2.2.1, a.2.2.2 ||| q.2.2.2)) ([], [], seed, if rs.any (·.2) then stNan else 0)

/-- R325: a band of QUANT (1) or HAD (2): every source row is read before any row is written; a damaged sector that the band covers is no obstacle to its
writes (R433). -/
def State.quantBand (s : State) (m : MatEntry) (which : Nat) (w : Word) (pb : BitVec 512) (seed : Word) (r : Nat) : Except EngBad Band :=
  let fa := bitsOf w.toNat 31 28
  let fb := bitsOf w.toNat 27 24
  let k := pbK pb
  let os := matOpnds which w pb
  let lay := fun (i : Nat) => m.lays.getD i (0, 0)
  let opnd := fun (i : Nat) => os.getD i { entry := 0, kind := 0, row := 0, rows := 0, byte := 0, bytes := 0 }
  let row := fun (o n : Nat) => (List.range 64).flatMap (fun i => (span (opnd o).byte n).flatMap (fun c => s.matBytes m (lay o).2 [c, (opnd o).row + r + i] 1))
  let sure := s.clearBad (s.coveredBad (row 1 (fmtBytes fb k) ++ (if which = 2 then [] else row 2 (k / 48))) [])
  match s.bandRows m (lay 0) fa ((opnd 0).row + r) (opnd 0).byte k 64 with
  | .error e => .error e
  | .ok rows =>
    let done := rows.foldl (fun (a : List (List Nat × List Nat) × Word × Nat) codes =>
      let q := quantRow which w codes a.2.1
      (a.1 ++ [(q.1, q.2.1)], q.2.2.1, a.2.2 ||| q.2.2.2)) ([], seed, 0)
    let put := fun (i : Nat) (o : Nat) (n : Nat) (x : Nat) => match sure.matRow m (lay o) ((opnd o).row + r + i) (opnd o).byte n true with
      | .error e => Except.error e
      | .ok as => .ok (as.zip (leBytes n x))
    match eachOf (fun (c : (List Nat × List Nat) × Nat) =>
        match put c.2 1 (fmtBytes fb k) (packStream (elemBits fb) c.1.1) with
        | .error e => Except.error e
        | .ok cs => if which = 2 then .ok cs else match put c.2 2 (k / 48) (packStream 8 c.1.2) with
          | .error e => .error e
          | .ok ss => .ok (cs ++ ss)) done.1.zipIdx with
    | .error e => .error e
    | .ok cells => .ok { acc := [], cells := cells.flatten, seed := if which = 1 && bitsOf w.toNat 15 12 = 4 then some done.2.1 else none
                         status := done.2.2 }

/-- Word `i` of the parameter block in memory. -/
def State.paramWord (s : State) (as : List Nat) (i : Nat) : Nat := s.load ((as.drop (4 * i)).take 4)
/-- Writes word `i` of the parameter block. -/
def State.setParam (s : State) (as : List Nat) (i x : Nat) : State := s.store ((as.drop (4 * i)).take 4) x

/-- R433: do those words of the parameter block lie in a damaged sector? A write of them, which is a part of it only, then fails. -/
def State.paramLost (s : State) (as : List Nat) (words : List Nat) : Bool := s.damaged (words.flatMap (fun i => (as.drop (4 * i)).take 4))
/-- R322: FAULT is set, where Status can be written. -/
def State.setFault (s : State) (as : List Nat) : State := if s.paramLost as [14] then s else s.setParam as 14 (s.paramWord as 14 ||| stFault)

/-- The layout entry of an entry's parameter block. -/
def MatEntry.paramEntry (m : MatEntry) : Nat := (m.lays.getLast?).elim 0 (·.1)

/-- The tile of an entry, as the record describes it. -/
def State.entryTile (s : State) (m : MatEntry) : TileDesc :=
  (((s.launch? m.launch).bind (fun la => la.rcd.tiles[m.tile]?))).getD { format := 0, rows := 0, cols := 0, split := false, home := 0 }

/-- Bytes of an element of a tile's image (R329). -/
def imageBytes (format : Nat) : Nat := if format = 12 then 8 else 4

/-- The granules that an entry reaches through a layout entry, over its whole operands (R290, R318, R327, R329). -/
def State.entryGranules (s : State) (m : MatEntry) (k : Nat) : List Nat :=
  let at_ := fun (lay : BitVec 512) (cs : List (List Nat)) => granulesAt (s.entryBase m lay).1 (s.entryBase m lay).2 lay cs
  let t := s.entryTile m
  let image := t.rows * t.cols * imageBytes t.format
  match m.kind with
  | .compute which w _ pb => ((matOpnds which w pb).filter (fun o => o.entry = k)).flatMap (fun o =>
      at_ (((m.lays.find? (fun l => l.1 = k)).map (·.2)).getD 0)
        ((span o.row o.rows).flatMap (fun r => (span o.byte o.bytes).map (fun c => [c, r]))))
  | .drain lay _ d0 d1 _ _ _ => at_ lay ((span d1 t.rows).flatMap (fun i => (span d0 t.cols).map (fun j => [j, i])))
  | .save lay _ c0 | .load lay _ c0 => at_ lay ((span c0 image).map (fun c => [c]))
  | _ => []

/-- R292, R322: an entry fails: its ENGINE_FAULT names the lowest offending granule, for reason 1. -/
def State.entryFault (s : State) (m : MatEntry) (reason k g : Nat) : State :=
  s.engineFault m.group m.lanes 3 reason k (if reason = 1 then s.lowestOffence ownMatrix (s.entryGranules m k) g else g)

/-- R44, R322: a computation goes on from another generator state. -/
def MatKind.reseed (x : Option Word) : MatKind → MatKind
  | .compute which w as pb => .compute which w as (x.elim pb (pbReseed pb))
  | k => k

/-- The format of a tile of an entry. -/
def State.entryFormat (s : State) (m : MatEntry) : Nat := (((s.launch? m.launch).bind (fun la => la.rcd.tiles[m.tile]?)).map (·.format)).getD 0

/-- R433: a band whose progress, status or seed cannot be written fails. -/
def State.commits (s : State) (m : MatEntry) (as : List Nat) : Except EngBad Band → Except EngBad Band
  | .ok b => if s.paramLost as (13 :: 14 :: (if b.seed.isSome then [1] else [])) then .error (.fail 3 m.paramEntry 0) else .ok b
  | x => x

/-- R321, R322. BAND_COMMIT: the band of the entry that a core runs is committed as one unit, or fails as one; after the last the entry ends.
A suspended entry stops with its band (R330). What the parameter block gives was read at issue (R320); the generator goes on from band to band. -/
def execBandCommit (core : Nat) (s : State) : Out :=
  match (s.matrixQueue core).find? (·.started) with
  | none => .next s
  | some m => match m.kind with
    | .compute which w as pb =>
      let seed := pbSeed pb
      let band := if which = 0 then s.mmaBand m (s.entryFormat m) w pb m.row
        else s.quantBand m which w pb (if seed = 0 then 1 else seed) m.row
      match s.commits m as band with
      | .error (.stop a) => .fault (.noSuchMemory a)
      | .error (.wait va l r k) => .next (s.engWait m.id (s.entryTenant m) va l r k)
      | .error (.fail reason k g) =>
        .next (((s.setFault as).entryFault m reason k g).endEntry m)
      | .ok b =>
        let s := { (s.storeCells b.cells).clearBad (s.coveredBad (b.cells.map (·.1)) []) with acc := s.acc.setAll b.acc }
        let s := match b.seed with
          | some x => s.setParam as 1 x.toNat
          | none => s
        let last := m.row + 64
        let s := (s.setParam as 14 (s.paramWord as 14 ||| b.status)).setParam as 13 last
        if pbM pb ≤ last then .next ((s.setParam as 13 (2 ^ 31 + pbM pb)).endEntry m)
        else .next { s with matrix := updId MatEntry.id m.id (fun x => { x with row := last, started := !x.suspended, kind := x.kind.reseed b.seed })
                                s.matrix }
    | _ => .next s

/-! ### ACC.ZERO, ACC.DRAIN, ACC.SAVE and ACC.LOAD (R326 to R329) -/

/-- The tile that source b names, from the lowest lane. -/
def accTile (s : State) (e : Env) (f : Form) : Nat := (s.lowSrc e f.b).toNat % 16

/-- R326. ACC.ZERO. -/
def execAccZero (f : Form) (s : State) : Out :=
  runOp .accZero f s (fun e =>
    let k := accTile s e f
    match s.tileOf e k with
    | none => .trap Cause.permission (tileInfo k) e.x
    | some (t, b) => matIssue s e f b.id k (tileCores b t) .zero [] [])

/-- Bytes of a drained element (R327). -/
def drainBytes (dest : Nat) : Nat := if dest = 0 then 2 else if dest = 12 then 8 else 4

/-- R327: does a destination type suit a tile? -/
def drainSuits (format dest : Nat) : Bool :=
  if format = 12 then dest = 0 || dest = 9 || dest = 12 else if format = 9 then dest = 0 || dest = 9 else dest = 11

/-- R231 over a whole region: `n` elements from `o` in each dimension; `align` is what each address must be a multiple of, or for a byte layout the
coordinate (R329). -/
def regionCheck (s : State) (e : Env) (k kind rank elem align : Nat) (dims : List (Nat × Nat)) (bytes permit : Bool) : Option (Nat × Word) :=
  let m := e.layout k
  let bounds := fun (d : Nat) => some (Cause.bounds, boundsInfo kind false d k)
  if !layValid m then some (Cause.bounds, boundsInfo kind true 0 k)
  else if layRank m ≠ rank || layElem m ≠ elem || (bytes && layStride m 0 ≠ 1) then bounds 7
  else if layOnChip m && (s.allocOn e.b (layCore m e.g.core)).isNone then bounds 6
  else match dims.zipIdx.find? (fun c => c.1.1 + c.1.2 > layExt m c.2) with
    | some c => bounds c.2
    | none =>
      if !permit then some (Cause.permission, boundsInfo kind false 0 k)
      else if (if bytes then dims.any (fun c => c.1 % align ≠ 0) else decide (layAddr m (dims.map (·.1)) % (align : Int) ≠ 0)) ||
          (!bytes && dims.zipIdx.any (fun c => c.1.2 > 1 && layStride m c.2 % (align : Int) ≠ 0))
        then some (Cause.alignment, boundsInfo kind false 0 k)
      else none

/-- R327. ACC.DRAIN. -/
def execAccDrain (f : Form) (s : State) : Out :=
  runWith .accDrain f (fun _ => [(Opnd.first f.a, 2)]) s (fun e =>
    let k := accTile s e f
    let kd := f.dst.uimm
    let dest := f.c.uimm / 64
    let rnd := f.c.uimm / 4 % 16
    let add : Bool := f.mod = 1
    let d0 := s.lowAt e f 0
    let d1 := s.lowAt e f 1
    match s.tileOf e k with
    | none => .trap Cause.permission (tileInfo k) e.x
    | some (t, b) =>
      let m := e.layout kd
      let el := drainBytes dest
      if !drainSuits t.format dest then .trap Cause.formatDivergence (divergeInfo 2 0) e.x
      else if rnd ≠ 0 && (dest = 11 || dest = 12) then .trap Cause.formatDivergence (divergeInfo 1 0) e.x
      else match regionCheck s e kd (if add then 2 else 1) 2 el el [(d0, t.cols), (d1, t.rows)] false (layW m && (!add || layA m)) with
      | some (cause, info) => .trap cause info e.x
      | none =>
        let gs := granulesAt (layCore m e.g.core) (s.allocOn e.b (layCore m e.g.core)) m
          ((span d1 t.rows).flatMap (fun i => (span d0 t.cols).map (fun j => [j, i])))
        matIssue s e f b.id k (tileCores b t) (.drain m kd d0 d1 dest rnd add) [] gs)

/-- ACC.SAVE and ACC.LOAD: the checks and the entry (R329). -/
def accImage (op : Op) (load : Bool) (f : Form) (s : State) : Out :=
  runWith op f (fun _ => [(Opnd.first f.a, 1)]) s (fun e =>
    let k := accTile s e f
    let kd := f.dst.uimm
    let at_ := s.lowAt e f 0
    match s.tileOf e k with
    | none => .trap Cause.permission (tileInfo k) e.x
    | some (t, b) =>
      let m := e.layout kd
      let n := t.rows * t.cols * imageBytes t.format
      match regionCheck s e kd (if load then 0 else 1) 1 1 16 [(at_, n)] true (if load then layR m else layW m) with
      | some (cause, info) => .trap cause info e.x
      | none =>
        let gs := granulesAt (layCore m e.g.core) (s.allocOn e.b (layCore m e.g.core)) m ((span at_ n).map (fun c => [c]))
        matIssue s e f b.id k (tileCores b t) (if load then .load m kd at_ else .save m kd at_) [] gs)

/-- R329. ACC.SAVE. -/
def execAccSave (f : Form) (s : State) : Out := accImage .accSave false f s
/-- R329. ACC.LOAD. -/
def execAccLoad (f : Form) (s : State) : Out := accImage .accLoad true f s

/-- R327, R50: a tile element converted for a drain; INT32 as it stands, and a NaN becomes the canonical one. -/
def drainConvert (format dest rnd x : Nat) : Nat :=
  if dest = 11 then x
  else ((Fmt.ofCode dest).getD .fp32).round (Rnd.ofCode rnd) ((accFmt format).value x)

/-- R327: .ADDST: the old element and the drained one added. -/
def drainAdd (dest old x : Nat) : Nat :=
  if dest = 11 then (old + x) % 2 ^ 32
  else
    let F := (Fmt.ofCode dest).getD .fp32
    F.round .ne (Val.add false (F.value old) (F.value x))

/-- Does steps in order; the state so far, what stopped it, and how many steps were left then. -/
def stepsOf (f : State → α → Except EngBad State) : List α → State → State × Option (EngBad × Nat)
  | [], s => (s, none)
  | x :: xs, s => match f s x with
    | .ok s => stepsOf f xs s
    | .error e => (s, some (e, xs.length + 1))

/-- The elements of a tile, rows ascending, then columns. -/
def tileElems (t : TileDesc) : List (Nat × Nat) := (List.range t.rows).flatMap (fun i => (List.range t.cols).map (fun j => (i, j)))

/-- R327, R242: the elements that a drain writes, in its order: by address on an SC page. -/
def State.drainElems (s : State) (m : MatEntry) (lay : BitVec 512) (d0 d1 : Nat) : List (Nat × Nat) :=
  s.scOrder (s.entryTenant m) lay (fun ij => [d0 + ij.2, d1 + ij.1]) (tileElems (s.entryTile m))

/-- The bytes that each step of an entry writes without reading them (R327, R329). -/
def State.entryBytes (s : State) (m : MatEntry) : List (List Nat) :=
  let t := s.entryTile m
  match m.kind with
  | .drain lay _ d0 d1 _ _ add =>
    if add then [] else (s.drainElems m lay d0 d1).map (fun ij => s.matBytes m lay [d0 + ij.2, d1 + ij.1] (layElem lay))
  | .save lay _ at_ =>
    let n := t.cols * imageBytes t.format
    (List.range t.rows).map (fun i => (span (at_ + i * n) n).flatMap (fun c => s.matBytes m lay [c] 1))
  | _ => []

/-- What an entry that is no computation does when it runs, what stopped it, and the steps left. -/
def State.entryWork (s : State) (m : MatEntry) : State × Option (EngBad × Nat) :=
  let t := s.entryTile m
  let key := fun (i j : Nat) => accKey m.block m.tile i j
  match m.kind with
  | .zero => ({ s with acc := s.acc.keep (fun a => a / 2 ^ 20 ≠ accKey m.block m.tile 0 0 / 2 ^ 20) }, none)
  | .drain lay entry d0 d1 dest rnd add =>
    stepsOf (fun s ij =>
      let x := drainConvert t.format dest rnd (s.acc.get (key ij.1 ij.2)).toNat
      match s.matAt m lay entry [d0 + ij.2, d1 + ij.1] (layElem lay) true add with
      | .error e => .error e
      | .ok as => .ok (s.store as (if add then drainAdd dest (s.load as) x else x))) (s.drainElems m lay d0 d1) s
  | .save lay entry at_ =>
    let n := imageBytes t.format
    stepsOf (fun s i =>
      match eachOf (fun c => s.matAt m lay entry [c] 1 true false) (span (at_ + i * t.cols * n) (t.cols * n)) with
      | .error e => .error e
      | .ok as => .ok (s.store as.flatten (packStream (8 * n) ((List.range t.cols).map (fun j => (s.acc.get (key i j)).toNat))))) (List.range t.rows) s
  | .load lay entry at_ =>
    let n := imageBytes t.format
    stepsOf (fun s i =>
      match eachOf (fun c => s.matAt m lay entry [c] 1 false false) (span (at_ + i * t.cols * n) (t.cols * n)) with
      | .error e => .error e
      | .ok as => .ok { s with acc := s.acc.setAll ((List.range t.cols).map (fun j =>
          (key i j, BitVec.ofNat 48 (s.load ((as.flatten.drop (j * n)).take n))))) }) (List.range t.rows) s
  | .send k i0 j0 rows cols =>
    let F := accFmt t.format
    let vals := (List.range rows).flatMap (fun i => (List.range cols).map (fun j =>
      (i * 1024 + j, BitVec.ofNat 48 (Fmt.tx48.round .ne (F.value (s.acc.get (key (i0 + i) (j0 + j))).toNat)))))
    ({ s with contributions := updId Contribution.id k (fun c => { c with vals := some (SMap.setAll [] vals) }) s.contributions }, none)
  | _ => (s, none)

/-- R433: the same, where a damaged sector that the entry's writes cover wholly is replaced. -/
def State.runEntry (s : State) (m : MatEntry) : State × Option EngBad :=
  let steps := s.entryBytes m
  match (s.clearBad (s.coveredBad steps.flatten [])).entryWork m with
  | (t, none) => (t, none)
  | (t, some (e, left)) => ({ t with bad := (s.clearBad (s.coveredBad (steps.take (steps.length - left)).flatten [])).bad }, some e)

/-- Does the instruction of an entry complete when the entry ends? That of a send completes when its contribution has landed (R341). -/
def MatKind.completes : MatKind → Bool
  | .send _ _ _ _ _ => false
  | _ => true

/-- An entry ends (R290, R319); a send's instruction goes on to its landing. -/
def State.finishEntry (s : State) (m : MatEntry) : State :=
  if m.kind.completes then s.endEntry m
  else m.cores.foldl (fun (s : State) c => s.placeIntegrations c) { s.handBack m.granules with matrix := delId MatEntry.id m.id s.matrix }

/-- R313, R321. MATRIX_QUEUE_ENTRY_START: the next entry of a core's queue starts. A computation clears Done and goes on in bands; where its
parameter block says that every row is done, it completes at once (R322). Any other entry performs its work. -/
def execMatrixQueueEntryStart (core : Nat) (s : State) : Out :=
  match s.nextEntry core with
  | none => .next s
  | some m => match m.kind with
    | .integrate _ => .next s
    | .compute _ _ as pb =>
      let rows := s.paramWord as 13 % 65536
      let first := if pbDone pb && m.row = 0 then 0 else if m.row = 0 then pbRows pb else m.row
      if s.paramLost as [13] then .next ((s.entryFault m 3 m.paramEntry 0).finishEntry m) else
      let s := s.setParam as 13 rows
      if pbM pb ≤ first then .next ((s.setParam as 13 (2 ^ 31 + rows)).finishEntry m)
      else .next { s with matrix := updId MatEntry.id m.id (fun x => { x with started := true, row := first }) s.matrix }
    | _ =>
      match s.runEntry m with
      | (s, none) => .next (s.finishEntry m)
      | (s, some (.fail reason k g)) => .next ((s.entryFault m reason k g).finishEntry m)
      | (_, some (.wait va l r k)) => .next (s.engWait m.id (s.entryTenant m) va l r k)
      | (_, some (.stop a)) => .fault (.noSuchMemory a)

end Sys2Proof.Machine
end

