-- ==== Sys2Proof/Machine/Shelf.lean ====
section
/-!
DEFINITION. EMIT, SPAWN, EBB and HLERP (R176 to R182), and the end of claims (R171, R172).
-/
namespace Sys2Proof.Machine

/-- R168: is a level memory-resident: has it, or a finer level, a domain wider than CORE? -/
def LaunchRec.memResident (r : LaunchRec) (m : Nat) : Bool :=
  (List.range 8).any (fun n => m ≤ n && (r.level n).present && (r.level n).domain ≤ 2)

/-- R171, R172: one claim on a holder's slot ends; the ending of a claim on a memory-resident slot travels, and counts as held meanwhile. -/
def State.endClaim (s : State) (holder : Nat) : State :=
  match s.slot? holder with
  | none => s
  | some sl =>
    if sl.core = 0x7F then
      let (k, s) := s.fresh
      { s with endings := s.endings ++ [{ id := k, holder }] }
    else s.updSlot holder (fun sl => { sl with holds := sl.holds - 1 })

/-- Several claims end. -/
def State.endClaims (s : State) (hs : List Nat) : State := hs.foldl (fun (s : State) h => s.endClaim h) s

/-- R171: slots whose holder has finished and whose count is zero are freed. -/
def State.freeSlots (s : State) : State :=
  { s with slots := s.slots.filter (fun sl => !(sl.holds = 0 && (match s.elem? sl.elem with
      | some e => e.st = .finished
      | none => true))) }

/-- The element of a lane. -/
def State.laneElem (s : State) (ln : Lane) : Option Elem := s.elem? ln.elem

/-- R177: is there no EMITTED level next? -/
def noEmitted (e : Env) : Bool :=
  decide (e.g.level + 1 ≥ 8) || !(e.rcd.level (e.g.level + 1)).present || decide ((e.rcd.level (e.g.level + 1)).gen ≠ 1)

/-- R177. EMIT: the children of one execution form groups in order of ascending lane, then index. -/
def execEmit (f : Form) (s : State) : Out :=
  runOp .emit f s (fun e =>
    let n := e.g.level + 1
    let lv := e.rcd.level n
    let counts := e.lanes.map (fun c => (c.1, c.2.elem, (s.src e .int c.1 c.2 f.a).toNat))
    let total := counts.foldl (fun t c => t + c.2.2) 0
    let word := BitVec.ofNat 32 total
    if lv.domain ≥ 2 && total > domainLimit lv.domain lv.width then .trap Cause.bounds word e.x
    else if total ≠ 0 && !e.rcd.fits n (e.rcd.groupsOf n total) then .trap Cause.bounds word e.x
    else
      let done := fun (el : Nat) => (s.elem? el).elim 0 (·.emitted)
      let bad := counts.filter (fun c => done c.2.1 + c.2.2 > 0xFFFFFFFF)
      let good := counts.filter (fun c => done c.2.1 + c.2.2 ≤ 0xFFFFFFFF)
      let births := good.flatMap (fun c => (List.range c.2.2).map (fun i =>
        ({ idx := BitVec.ofNat 32 (done c.2.1 + i), parents := [c.2.1], depth := 0, primId := 0, iw := [], init := [], claims := none } : Birth)))
      let (_, s) := s.create e.la n births none
      let s := good.foldl (fun (s : State) c => s.updElem c.2.1 (fun el => { el with emitted := el.emitted + c.2.2 })) s
      match bad with
      | [] => .ok s
      | c :: _ => .trapIn s (e.x &&& ~~~maskOf (bad.map (·.1))) Cause.bounds (BitVec.ofNat 32 c.2.2) (maskOf (bad.map (·.1))))
    (ownForm 1 noEmitted)

/-- R178: the depth of a child of an element. -/
def childDepth (same : Bool) (el : Elem) : Nat := if same then el.depth + 1 else 1

/-- R148, R178: how many elements of a level an element has spawned so far. -/
def Elem.spawned (el : Elem) (same : Bool) : Nat := if same then el.spawnedSame else el.spawnedNext
/-- One more child spawned. -/
def Elem.countSpawn (el : Elem) (same : Bool) : Elem :=
  if same then { el with spawnedSame := el.spawnedSame + 1 } else { el with spawnedNext := el.spawnedNext + 1 }

/-- R178: the level that SPAWN creates at. -/
def spawnLevel (f : Form) (e : Env) : Nat := if f.mod = 1 then e.g.level else e.g.level + 1
/-- R178, R399: is a level not a SPAWNED level that is present? -/
def Env.notSpawned (e : Env) (n : Nat) : Bool := decide (n ≥ 8) || !(e.rcd.level n).present || decide ((e.rcd.level n).gen ≠ 3)

/-- R178. SPAWN: one element on each active lane whose child's depth does not pass 8. -/
def execSpawn (f : Form) (s : State) : Out :=
  runOp .spawn f s (fun e =>
    let same : Bool := f.mod = 1
    let n := spawnLevel f e
    let birth := fun (c : Nat × Lane) => match s.laneElem c.2 with
      | none => none
      | some el =>
        if childDepth same el > 8 then none
        else some (c.1, el.id, ({ idx := BitVec.ofNat 32 (el.spawned same), parents := [el.id], depth := childDepth same el, primId := 0
                                  iw := [], init := (List.range 4).map (fun k => (k, s.srcAt e .int c.1 c.2 k f.a)), claims := none } : Birth))
    let bs := e.lanes.filterMap birth
    let (ids, s) := s.create e.la n (bs.map (·.2.2)) (some e.g.core)
    let s := bs.foldl (fun (s : State) b => s.updElem b.2.1 (·.countSpawn same)) s
    let child := fun (l : Nat) => ((bs.map (·.1)).zip ids).find? (fun c => c.1 = l)
    let s := s.writeRegs e.gid (e.writes f (fun l _ => .pred (child l).isSome))
    let (k, s) := s.addOp e f .held (fun l _ => (match child l with
      | some c => .child c.2
      | none => .ready, []))
    let s := s.updOp k (fun o => { o with run := Opnd.first f.c, dst := none })
    .ok (s.doneAtIssue e f k (e.where_ (fun l _ => (child l).isNone))))
    (ownForm 2 (fun e => e.notSpawned (spawnLevel f e)))

/-- R180. EBB: the thread gives up its claim on its ancestor's slot at a level. -/
def execEbb (f : Form) (s : State) : Out :=
  runOp .ebb f s (fun e =>
    let m := f.mod.toNat
    .ok ((e.lanes.foldl (fun (s : State) c => match s.laneElem c.2 with
      | none => s
      | some el =>
        let hs := el.claims.filter (fun h => match s.elem? h with
          | some a => a.level = m
          | none => false)
        (s.endClaims hs).updElem el.id (fun el => { el with claims := el.claims.filter (fun h => !hs.contains h) })) s).freeSlots))
    (ownForm 0 (fun e => decide (f.mod.toNat ≥ e.g.level)))

/-- R181: the nearest SPANS level at or above a level whose parents are of level m. -/
def spansLevel (r : LaunchRec) (level m : Nat) : Option Nat :=
  if m + 1 ≤ level ∧ (r.level (m + 1)).spans then some (m + 1) else none

/-- R181: the three values that HLERP interpolates, and the weights of the primitive, or the word of HELD_READ. -/
def State.heldThree (s : State) (r : LaunchRec) (el : Elem) (n : Nat) : Except Word (List Word × List Word) :=
  let m := r.heldLevel el.level n
  if m = 15 then .error (heldInfo 9 0 n)
  else match spansLevel r el.level m with
    | none => .error (heldInfo 12 m n)
    | some sp => match s.ancestor el sp with
      | none => .error (heldInfo 12 m n)
      | some a =>
        if !a.parents.all (fun p => el.claims.contains p) then .error (heldInfo 11 m n)
        else .ok (a.parents.map (fun p => (s.slot? p).elim 0 (fun sl => sl.h.get n)), a.iw)

/-- R181, R182: HLERP's steps, in FP32: 0 .FLAT, 1 .SCREEN, 2 .PERSP; a NaN gives the canonical one (R37). -/
def hlerp (mode : Nat) (v iw : List Word) (b1 b2 : Word) : Word :=
  let at_ := fun (l : List Word) (i : Nat) => l.getD i 0
  if mode = 0 then (if (Fp.val (at_ v 0)).isNan then Fp.qnan else at_ v 0)
  else
    let (b1, b2) := if mode = 2 then
        let c0 := Fp.sub .ne (Fp.sub .ne 0x3F800000 b1) b2
        let t0 := Fp.mul .ne c0 (at_ iw 0)
        let t1 := Fp.mul .ne b1 (at_ iw 1)
        let t2 := Fp.mul .ne b2 (at_ iw 2)
        let q := Fp.rcp .ne (Fp.add .ne (Fp.add .ne t0 t1) t2)
        (Fp.mul .ne t1 q, Fp.mul .ne t2 q)
      else (b1, b2)
    let x := Fp.fma .ne b1 (Fp.sub .ne (at_ v 1) (at_ v 0)) (at_ v 0)
    Fp.fma .ne b2 (Fp.sub .ne (at_ v 2) (at_ v 0)) x

/-- The held register that HLERP names. -/
def heldIndex (o : Opnd) : Nat :=
  match o with
  | .h i => i.toNat
  | _ => 0
/-- R181. HLERP. -/
def execHlerp (f : Form) (s : State) : Out :=
  runOp .hlerp f s (fun e =>
    let n := heldIndex f.a
    let read := fun (ln : Lane) => match s.laneElem ln with
      | none => Except.ok ([], [])
      | some el => s.heldThree e.rcd el n
    let bad := e.lanes.filterMap (fun c => match read c.2 with
      | .error w => some (c.1, w)
      | .ok _ => none)
    match bad with
    | (_, w) :: _ => .trap Cause.heldRead w (maskOf (bad.map (·.1)))
    | [] => .ok (s.writeRegs e.gid (e.writes f (fun l ln => match read ln with
        | .ok (v, iw) => .of [hlerp f.mod.toNat v iw (s.srcAt e .fp l ln 0 f.b) (s.srcAt e .fp l ln 1 f.b)]
        | .error _ => .of [])))
  )

end Sys2Proof.Machine
end

