-- ==== Sys2Proof/Machine/Work.lean ====
section
/-!
DEFINITION. The work distributor (R304 to R309, R443): queries, core queues, the spill pool, and the end of work.
The order in which the events of this file are executed is the order in which requests arrive at the distributor (R305, R263).
-/
namespace Sys2Proof.Machine

/-- The end-of-work token (R304). -/
def workToken : Word := 0xFFFFFFFF

/-! ### The two sources (R305) -/

/-- Has a launch an item to hand out? -/
def Launch.hasItem (la : Launch) : Bool := !la.dist.spill.isEmpty || decide (la.dist.handed < la.rcd.work.count)

/-- R309: has the end of work been declared? -/
def Launch.workOver (la : Launch) : Bool := la.dist.declared

/-- R309, R443: with Dynamic = 0 the end is declared once the last static item has been handed out, and while no block of the launch is saved. -/
def Launch.declareStatic (la : Launch) (saved : Bool) : Launch :=
  if la.st = .running && !la.rcd.work.dynamic && decide (la.rcd.work.count ≤ la.dist.handed) && !saved && !la.dist.declared then
    { la with dist := { la.dist with declared := true } }
  else la

/-- The same for every launch. -/
def State.declareWork (s : State) : State :=
  { s with launches := s.launches.map (fun la => la.declareStatic (s.blocks.any (fun b => b.launch = la.id && b.st = .saved))) }

/-- R306: does a query receive an answer now? With Dynamic = 0 it receives one at once; so do those of a launch that has ended, the token. -/
def Launch.answers (la : Launch) : Bool := la.hasItem || la.workOver || !la.rcd.work.dynamic || la.st = .ended

/-- R305: the next item, from the spill pool first and then from the static range. -/
def Launch.giveItem (la : Launch) : Word × Launch :=
  match la.dist.spill with
  | x :: rest => (x, { la with dist := { la.dist with spill := rest } })
  | [] =>
    if la.dist.handed < la.rcd.work.count then
      (BitVec.ofNat 32 (la.rcd.work.first + la.dist.handed), { la with dist := { la.dist with handed := la.dist.handed + 1 } })
    else (workToken, la)
/-- R305: a request arrives at the distributor. -/
def Launch.countRequest (la : Launch) : Launch := { la with dist := { la.dist with sequence := la.dist.sequence + 1 } }
/-- R305: a request that arrives and is served at once. -/
def Launch.nextItem (la : Launch) : Word × Launch := la.countRequest.giveItem

/-! ### Core queues (R307) -/

/-- The queue of a core. -/
def Launch.queueOf (la : Launch) (core : Nat) : List Word := ((la.dist.queues.find? (fun q => q.1 = core)).map (·.2)).getD []
/-- Does a core run the launch? -/
def Launch.runsOn (la : Launch) (core : Nat) : Bool := la.dist.queues.any (fun q => q.1 = core)
/-- A core's queue changed. -/
def Launch.setQueue (la : Launch) (core : Nat) (l : List Word) : Launch :=
  { la with dist := { la.dist with queues := la.dist.queues.map (fun q => if q.1 = core then (core, l) else q) } }

/-- The lanes that wait for work on a core, as operation and lane, in the order in which they are served (R307). -/
def State.workWaiters (s : State) (launch core : Nat) : List (Nat × Nat) :=
  (s.ops.filter (fun o => match s.group? o.group with
    | some g => g.launch = launch && g.core = core
    | none => false)).flatMap (fun o => (o.lanes.filter (fun l => l.cond = .work)).map (fun l => (o.id, l.lane)))

/-- R307, R308: an item reaches a core: its queue, where that has room once the waiting lanes have been served, else the spill pool, which is
a request at the distributor (R305). -/
def State.deliver (s : State) (launch core : Nat) (x : Word) : State :=
  match s.launch? launch with
  | none => s
  | some la =>
    let q := la.queueOf core
    if la.runsOn core && q.length < 64 + (s.workWaiters launch core).length then s.updLaunch launch (fun la => la.setQueue core (q ++ [x]))
    else s.updLaunch launch (fun la =>
      { la with dist := { la.dist with spill := la.dist.spill ++ [x], sequence := la.dist.sequence + 1 } })

/-- R306: the queries of a launch that have arrived and are held, the first to arrive first. -/
def State.heldAsks (s : State) (launch : Nat) : List Ask :=
  sortBy (fun (a b : Ask) => decide (a.seq.getD 0 < b.seq.getD 0)) (s.asks.filter (fun a => a.launch = launch && a.seq.isSome))

/-- R305. QUEUE_REFILL: one item more for a core's queue, up to the prefetch depth; a query that is held has arrived before. -/
def execQueueRefill (launch core : Nat) (s : State) : Out :=
  match s.launch? launch with
  | none => .next s
  | some la =>
    let q := la.queueOf core
    if la.st = .running && la.runsOn core && q.length < la.rcd.work.depth && la.hasItem && (s.heldAsks launch).isEmpty then
      let (x, la) := la.nextItem
      .next (s.updLaunch launch (fun _ => la.setQueue core (q ++ [x])))
    else .next s

/-- R307. WQ.TAKE: every lane waits for an item, or for the end of work. -/
def execWqTake (f : Form) (s : State) : Out :=
  runOp .wqTake f s (fun e =>
    let (k, s) := s.addOp e f .cancelled (fun _ _ => (.work, []))
    let pd := match f.c with
      | .field x => (parseDst x).bind (·.ref 0)
      | _ => none
    .ok (s.updOp k (fun o => { o with pdst := pd })))

/-- R307, R309, R443: what a waiting lane receives now: an item or the token, and the launch after it. -/
def State.takeWork (s : State) (launch core op lane : Nat) : Option (Word × Bool × State) :=
  match s.launch? launch with
  | none => none
  | some la =>
    if (s.workWaiters launch core).head? ≠ some (op, lane) then none
    else match la.queueOf core with
      | x :: rest => some (x, true, s.updLaunch launch (fun la => la.setQueue core rest))
      | [] =>
        if !la.workOver then none
        else if la.dist.spill.isEmpty then some (workToken, false, s)
        else
          let (x, la) := la.nextItem
          some (x, true, s.updLaunch launch (fun _ => la))

/-- R308. WQ.ADD: sub-operation 0 .LOCAL, 1 .CORE. -/
def execWqAdd (f : Form) (s : State) : Out :=
  runOp .wqAdd f s (fun e =>
    let far : Bool := f.mod = 1
    let adds := e.lanes.map (fun c => (c.1, s.src e .int c.1 c.2 f.a, if far then (s.src e .int c.1 c.2 f.b).toNat else e.g.core))
    let bad := adds.filterMap (fun a =>
      if a.2.1 = workToken then some (a.1, 0) else if !e.la.runsOn a.2.2 then some (a.1, a.2.2) else none)
    if !e.rcd.work.dynamic then .trap Cause.permission (resourceInfo 1 0) e.x
    else match bad with
    | a :: _ => .trap Cause.bounds (BitVec.ofNat 32 a.2) (maskOf (bad.map (·.1)))
    | [] =>
      let first := s.nextId
      .ok (adds.foldl (fun (s : State) a =>
        if far then
          let (k, s) := s.fresh
          let s := { s with items := s.items ++ [{ id := k, sender := e.g.core, launch := e.la.id, core := a.2.2, value := a.2.1, first }] }
          if a.2.2 < e.g.core then s.updLaunch e.la.id (fun la =>
            { la with dist := { la.dist with black := if la.dist.black.contains e.g.core then la.dist.black else e.g.core :: la.dist.black } })
          else s
        else s.deliver e.la.id e.g.core a.2.1) s))

/-- R308: has every item that a lower lane of the same WQ.ADD sent to an item's core reached it? -/
def State.itemDue (s : State) (i : Item) : Bool := s.items.all (fun j => j.first ≠ i.first || j.core ≠ i.core || decide (i.id ≤ j.id))

/-- R307, R308. ITEM_ARRIVAL: an item that WQ.ADD.CORE sent reaches its core, once those of lower lanes have. -/
def execItemArrival (item : Nat) (s : State) : Out :=
  match findId Item.id item s.items with
  | none => .next s
  | some i => .next (if s.itemDue i then { s with items := delId Item.id item s.items }.deliver i.launch i.core i.value else s)

/-! ### Queries (R306) -/

/-- R306: the shape checks of the layout of a query. -/
def askCheck (s : State) (e : Env) (k : Nat) : Option (Nat × Word) :=
  let m := e.layout k
  if !layValid m then some (Cause.bounds, boundsInfo 1 true 0 k)
  else if laySpace m ≠ spScratch || (layElem m < 16 && layStride m 0 ≠ layElem m) then some (Cause.bounds, boundsInfo 1 false 7 k)
  else if layExt m 0 * layElem m < 16 then some (Cause.bounds, boundsInfo 1 false 0 k)
  else if (s.allocOn e.b e.g.core).isNone then some (Cause.bounds, boundsInfo 1 false 6 k)
  else if !layW m then some (Cause.permission, boundsInfo 1 false 0 k)
  else if layBase m % 16 ≠ 0 then some (Cause.alignment, boundsInfo 1 false 0 k)
  else none

/-- R306. WQ.ASK: one query for the path. -/
def execWqAsk (f : Form) (s : State) : Out :=
  runOp .wqAsk f s (fun e =>
    let k := f.dst.uimm
    match askCheck s e k with
    | some (cause, info) => .trap cause info e.x
    | none => match s.reportOf e (s.lowSrc e f.b) with
      | .error info => .trap Cause.permission info e.x
      | .ok r =>
        if (match r.tag with
            | some t => s.tagFull e.g.core t 1
            | none => false) then .stall
        else
          let base := (s.allocOn e.b e.g.core).getD 0
          let as := (List.range 16).map (fun t => scratchByte e.g.core base (laySwizzled (e.layout k) (layBase (e.layout k)) t))
          let gs := s.heldBy_ ownCopy (dedup (as.map granuleOf))
          let (id, s) := s.fresh
          let mark := match r.mark with
            | some off => some (scratchByte e.g.core base off)
            | none => none
          let home := e.b.id
          let s := (s.holdGranules gs).tagIssue e.g.core r.tag
          .ok { s with asks := s.asks ++ [{ id, launch := e.la.id, core := e.g.core, group := e.gid, groupNum := e.g.num, block := home
                                            lanes := e.r.lanes, addrs := as, entry := k, tag := r.tag, mark, granules := gs, seq := none }] })

/-- R306, R292: a query is answered, as a write by the COPY engine; a granule that COPY does not own fails it. -/
def State.answerAsk (s : State) (la : Launch) (a : Ask) (n : Nat) : State :=
  let (x, la) := la.giveItem
  let s := s.updLaunch a.launch (fun _ => la)
  let answer := x.toNat + 2 ^ 32 * (n % 2 ^ 32) + 2 ^ 64 * (la.rcd.work.count - la.dist.handed)
  let s := match a.addrs.find? (fun p => (s.owners.get (granuleOf p)).toNat ≠ ownCopy) with
    | some p => s.engineFault a.group a.lanes 1 1 a.entry (s.lowestOffence ownCopy (a.addrs.map granuleOf) (granuleOf p))
    | none => if s.damaged a.addrs then s.engineFault a.group a.lanes 1 3 a.entry 0 else s.store a.addrs answer
  let s := s.handBack a.granules
  let s := match a.mark with
    | some p => s.landToward a.group a.lanes a.entry p 1
    | none => s
  let s := s.tagLand a.block a.core a.tag
  { s with asks := delId Ask.id a.id s.asks }

/-- R305, R306. WQ_ASK_ANSWER: a query arrives at the distributor, where it takes its number, and is answered or held; a held one is answered in its turn, once
there is an item or the token for it. -/
def execWqAskAnswer (ask : Nat) (s : State) : Out :=
  match findId Ask.id ask s.asks with
  | none => .next s
  | some a => match s.launch? a.launch with
    | none => .next s
    | some la =>
      let first := fun (l : List Ask) => (l.head?).elim true (fun h => h.id = ask)
      match a.seq with
      | none =>
        let n := la.dist.sequence
        let la := la.countRequest
        let s := { s.updLaunch a.launch (fun _ => la) with asks := updId Ask.id ask (fun a => { a with seq := some n }) s.asks }
        .next (if la.answers && first (s.heldAsks a.launch) then s.answerAsk la a n else s)
      | some n => .next (if la.answers && first (s.heldAsks a.launch) then s.answerAsk la a n else s)

/-! ### The end of work (R309) -/

/-- The header at a code offset: the wait mask of the clause there. -/
def State.waitsAt (s : State) (code off : Nat) : Option (List Nat) :=
  match s.code? code with
  | none => none
  | some c => match s.fetchCode c off 8 false with
    | .bytes bs =>
      let w : BitVec 64 := BitVec.ofNat 64 (parcelsWord bs)
      if isHeader w then some (Header.ofWord w).waits else none
    | _ => none

/-- R309: does a lane's wait hold out only for WQ.TAKE or for queries that wait for work: a tag, a tidemark or granules on which nothing but
such queries are outstanding? -/
def State.waitsForWork (s : State) (la : Launch) (c : Cond) : Bool :=
  let held := if la.answers then [] else s.asks.filter (fun a => a.launch = la.id)
  match c with
  | .work => true
  | .tags core any mask =>
    let only := fun (t : Nat) => (s.tagCounts.get (tagKey core t)).toNat = (held.filter (fun a => a.core = core && a.tag = some t)).length
    let set := fun (t : Nat) => s.tagCounts.get (tagKey core t) = 0
    let ts := lanesOf mask
    if any then !ts.isEmpty && ts.all (fun t => only t && !set t) else ts.any (fun t => !set t) && ts.all only
  | .tidemark a _ =>
    let t := s.tidemark a
    let n := (held.filter (fun q => q.mark = some a)).length
    n ≠ 0 && t.arrivals = 0 && t.sectors = n
  | .owned gs => gs.all (fun g => s.owners.get g = 0 || (s.engineCounts.get g).toNat = (held.filter (fun a => a.granules.contains g)).length)
  | _ => false

/-- R309: is a group blocked at a header, held up only by requests that wait for work? -/
def State.blockedForWork (s : State) (la : Launch) (g : Group) : Bool :=
  let ops := s.ops.filter (fun o => o.group = g.id)
  let flagOk := fun (i : Nat) => ops.all (fun o => o.flag ≠ some i || o.lanes.all (fun l => s.waitsForWork la l.cond))
  g.run.isNone && g.lanes.all (fun ln => match ln.st with
    | .missing | .exited | .pending | .held _ => true
    | .free => (match s.waitsAt la.code ln.pc with
      | some ws => ws.any (fun i => g.flag i ≠ 0) && ws.all flagOk
      | none => false)
    | _ => false)

/-- R309: is a core passive? -/
def State.passive (s : State) (la : Launch) (core : Nat) : Bool :=
  (la.queueOf core).isEmpty && s.items.all (fun i => i.launch ≠ la.id || (i.core ≠ core && i.sender ≠ core)) &&
  (s.groups.filter (fun g => g.launch = la.id && g.core = core && g.lanes.any (·.unexited))).all (s.blockedForWork la)

/-- R309, R443: the cores of the token's circuit, in ascending order: those with an admitted block of the launch. -/
def State.circuit (s : State) (la : Launch) : List Nat :=
  (List.range Config.cores).filter (fun c => la.runsOn c &&
    s.blocks.any (fun b => b.launch = la.id && b.st = .admitted && b.cores.contains c))

/-- The core after `c` in a circuit: the next higher one, or the lowest. -/
def nextCore (cs : List Nat) (c : Nat) : Nat := ((cs.find? (fun d => c < d)).orElse (fun _ => cs.head?)).getD 0

/-- R309: a core turns white. -/
def Distributor.whiten (d : Distributor) (c : Nat) : Distributor := { d with black := d.black.filter (fun x => x ≠ c) }

/-- R309. TOKEN_PASS: the core that holds the token passes it on, where it is passive; at the lowest core the end of work is declared, or a
new round starts with a white token. -/
def execTokenPass (launch : Nat) (s : State) : Out :=
  match s.launch? launch with
  | none => .next s
  | some la =>
    let cs := s.circuit la
    match cs with
    | [] => .next s
    | low :: _ =>
      let d := la.dist
      let saved := s.blocks.any (fun b => b.launch = launch && b.st = .saved) || !d.leaving.isEmpty
      if !la.rcd.work.dynamic || d.declared || la.st ≠ .running || saved then .next s
      else
        let at_ := if d.circulating && cs.contains d.token then d.token else low
        let round := d.circulating && cs.contains d.token
        if !s.passive la at_ then .next s
        else
          let start := { d.whiten low with tokenBlack := false, token := nextCore cs low, circulating := true }
          let d' :=
            if !round then start
            else if at_ = low then
              if !d.tokenBlack && !d.black.contains low && !la.hasItem then { d with declared := true, circulating := false } else start
            else { d.whiten at_ with tokenBlack := d.tokenBlack || d.black.contains at_, token := nextCore cs at_ }
          .next (s.updLaunch launch (fun la => { la with dist := d' }))

end Sys2Proof.Machine
end

