-- ==== Sys2Proof/Machine/Admission.lean ====
section
/-!
DEFINITION. Admission (R408, R409, R468): what each core has free, the plan of a block, taking it all in one step; and the admission of
elements to slots of the Shelf (R167 to R169). BLOCK_ADMISSION and ELEMENT_ADMISSION are the two steps.
-/
namespace Sys2Proof.Machine

/-! ### What stands on a core -/

/-- Is data addressed to a block's allocation still to land (R241), or an operation of the block under way that reaches or reports to it? -/
def State.landingDue (s : State) (b : Block) : Bool :=
  b.addressed ≠ 0 || s.asks.any (fun a => a.block = b.id) || s.tileOps.any (fun o => o.block = b.id) || s.contributions.any (fun c => c.block = b.id)

/-- The granules of a block's allocation, as tests on a key of the owner map. -/
def Block.ownsGranule (b : Block) (r : LaunchRec) (k : Nat) : Bool :=
  (b.cores.zip b.base).any (fun x => decide (granuleKey x.1 x.2 ≤ k) && decide (k < granuleKey x.1 x.2 + r.scratch))

/-- Is a granule of a block's allocation owned by an engine (R241)? -/
def State.engineOwned (s : State) (b : Block) : Bool :=
  match s.launch? b.launch with
  | none => false
  | some la => s.owners.any (fun o => o.2 ≠ 0 && b.ownsGranule la.rcd o.1)

/-- R445, R474: has firmware ended a launch by a hard stop, or for heat, so that the timeout bit of its end word is set? -/
def State.stoppedHard (s : State) (launch : Nat) : Bool := (s.launch? launch).elim true (fun la => la.st = .ended && la.endWord.getLsbD 9)

/-- R241: does a block occupy its allocation? One that has ended keeps it until everything addressed to it has landed and every granule of it is
owned by THREADS again; a hard stop frees the engines' granules too (R445). -/
def State.holdsSpace (s : State) (b : Block) : Bool :=
  match b.st with
  | .admitted => true
  | .ended => !b.cores.isEmpty && (s.landingDue b || (s.engineOwned b && !s.stoppedHard b.launch))
  | _ => false

/-- The record of a launch, by identifier. -/
def State.recOf (s : State) (launch : Nat) : Option LaunchRec := (s.launch? launch).map (·.rcd)

/-- Slots and register bytes in use on a partition (R158, R408). -/
def State.partUse (s : State) (core part : Nat) : Nat × Nat :=
  let gs := s.groups.filter (fun g => g.core = core && g.part = part && (match s.block? g.block with
    | some b => b.st = .admitted
    | none => false))
  (gs.length, (gs.map (fun g => (s.recOf g.launch).elim 0 (fun r => r.groupBytes g.level g.role))).sum)

/-- The allocations on a core, as first granule and length. -/
def State.allocs (s : State) (core : Nat) : List (Nat × Nat) :=
  s.blocks.flatMap (fun b => if s.holdsSpace b then
      ((b.cores.zip b.base).filter (fun x => x.1 = core)).map (fun x => (x.2, (s.recOf b.launch).elim 0 (·.scratch)))
    else [])

/-- The lowest free run of `n` granules beside these allocations. -/
def lowestRun (allocs : List (Nat × Nat)) (n : Nat) : Option Nat :=
  let ok := fun (g : Nat) => g + n ≤ Config.granules && allocs.all (fun a => g + n ≤ a.1 || a.1 + a.2 ≤ g || a.2 = 0)
  if n = 0 then some 0 else ((0 :: allocs.map (fun a => a.1 + a.2)).filter ok).min?

/-- Is a launch's tag range free on a core (R408)? -/
def State.tagsFree (s : State) (r : LaunchRec) (core : Nat) : Bool :=
  r.tagCount = 0 || s.blocks.all (fun b => !(s.holdsSpace b && b.cores.contains core) || (match s.recOf b.launch with
    | none => true
    | some q => q.tagCount = 0 || q.tagBase + q.tagCount ≤ r.tagBase || r.tagBase + r.tagCount ≤ q.tagBase))

/-- Accumulator bytes that a block's tiles take on a core (R310, R311). -/
def tileBytesOn (r : LaunchRec) (b : Block) (core : Nat) : Nat :=
  if r.tileLevel ≠ some b.level then 0
  else (r.tiles.map (fun t => if t.format = 0 || !(tileCores b t).contains core then 0
    else t.rows * (if t.split then t.cols / 2 else t.cols) * (if t.format = 12 then 6 else 4))).sum

/-- Is there accumulator space for a block on a core? -/
def State.tilesFit (s : State) (r : LaunchRec) (b : Block) (core : Nat) : Bool :=
  tileBytesOn r b core +
    (s.blocks.map (fun x => if x.st = .admitted && x.cores.contains core then
      (s.recOf x.launch).elim 0 (fun q => tileBytesOn q x core) else 0)).sum ≤ Config.accBytes

/-! ### The Shelf's space (R167 to R169, R175) -/

/-- R167: bytes of a slot of a level. -/
def LaunchRec.slotBytes (r : LaunchRec) (level : Nat) : Nat := 16 * (((r.level level).held + 3) / 4)

/-- R168: bytes that a launch's core-resident pools take on a core. -/
def LaunchRec.poolBytes (r : LaunchRec) : Nat :=
  ((List.range 8).map (fun n => if (r.level n).present && (r.level n).held ≠ 0 && !r.memResident n then
    ((r.shelf[n]?).elim 0 (·.slots)) * r.slotBytes n else 0)).sum

/-- R169, R175: do a launch's core-resident pools stand on a core? DESIGN CHOICE (assumption 33): for R169 the launch has ended there once no block of it is
admitted on the core and no slot of them is in use, though blocks may still come, whose first reserves them again. -/
def State.poolHere (s : State) (launch core : Nat) : Bool :=
  let on := fun (st : BlockSt) => s.blocks.any (fun b => b.launch = launch && b.st = st && b.cores.contains core)
  on .admitted || (s.slots.any (fun sl => sl.launch = launch && sl.core = core) && !on .saved)

/-- Is there Shelf space for a launch's pools on a core? -/
def State.shelfFits (s : State) (la : Launch) (core : Nat) : Bool :=
  s.poolHere la.id core ||
  la.rcd.poolBytes + (s.launches.map (fun x => if x.st = .running && s.poolHere x.id core then x.rcd.poolBytes else 0)).sum
    ≤ Config.shelfBytes

/-! ### Dictionaries (R67, R468) -/

/-- Which object a dictionary slot holds, as handle + 1; a slot whose object has no admitted block on the core counts as free (0). -/
def State.dictHeld (s : State) (core slot : Nat) : Nat :=
  let h := (s.dict.get (core * 4 + slot)).toNat
  if h ≠ 0 && s.blocks.any (fun b => b.st = .admitted && b.cores.contains core && (match s.launch? b.launch with
      | some la => la.code + 1 = h
      | none => false)) then h else 0

/-- How many banks a code object has. -/
def State.banksOf (s : State) (handle : Nat) : Nat := (s.code? handle).elim 1 (fun c => c.banks.length)

/-- R468: does a core hold a code object, or has it slots for all its banks? -/
def State.dictFits (s : State) (handle core : Nat) : Bool :=
  (List.range 4).any (fun i => s.dictHeld core i = handle + 1) ||
  s.banksOf handle ≤ ((List.range 4).filter (fun i => s.dictHeld core i = 0)).length

/-- R67, R468: loads a code object's banks into free slots of a core, DESIGN CHOICE (assumption 33): the lowest; an object that loses a slot loses all of its,
and what still stands of the object itself goes. -/
def State.loadDict (s : State) (handle core : Nat) : State :=
  if (List.range 4).any (fun i => s.dictHeld core i = handle + 1) then s
  else
    let free := (List.range 4).filter (fun i => s.dictHeld core i = 0)
    let into := free.take (s.banksOf handle)
    let lost := BitVec.ofNat 32 (handle + 1) :: into.map (fun i => s.dict.get (core * 4 + i))
    let d := free.foldl (fun (d : SMap 32) i => if lost.contains (d.get (core * 4 + i)) then d.set (core * 4 + i) 0 else d) s.dict
    { s with dict := into.foldl (fun (d : SMap 32) i => d.set (core * 4 + i) (BitVec.ofNat 32 (handle + 1))) d }

/-! ### The plan of a block -/

/-- Where a block goes: its cores by position, the first granule on each, and each group's partition. -/
structure Plan where
  cores : List Nat
  base : List Nat
  parts : List Nat
  deriving DecidableEq, Repr

/-- The cores of a block that a core stands for: those that it spans in the core's reef, or the core (R408). -/
def LaunchRec.coresAt (r : LaunchRec) (b : Block) (core : Nat) : List Nat :=
  if (r.level b.level).domain = 2 then (List.range (r.spanned b.level b.members.length)).map (fun p => core / 4 * 4 + p) else [core]

/-- The parents of a block's elements. -/
def State.parentsOf (s : State) (b : Block) : List Elem :=
  (b.members.flatten.filterMap s.elem?).flatMap (fun e => e.parents.filterMap s.elem?)

/-- R146: the die that a block of domain DIE must take: the one that holds the other children of its elements' parents. DESIGN CHOICE (assumption 60): the
model keeps the DIE-domain children of all elements of one block on one die, so that a group of several parents' children always has a place. -/
def State.dieOf (s : State) (la : Launch) (b : Block) : Option Nat :=
  if b.level = 0 then la.die else (s.parentsOf b).findSome? (fun p => (s.block? p.block).bind (·.kidsDie))

/-- R172, R400: the core of a running or finished element that a block is tied to: a holder whose slot an element of it claims, or its spawner; or that is
tied to it so. A block that is saved ties nobody. -/
def State.tiedCore (s : State) (la : Launch) (b : Block) : Option Nat :=
  let r := la.rcd
  let mine := s.elems.filter (fun e => e.block = b.id && e.st ≠ .finished)
  let stands := fun (e : Elem) => e.st = .finished || (s.block? e.block).elim false (fun x => x.st = .admitted)
  let kids := s.elems.filter (fun e => e.launch = b.launch && e.block ≠ b.id && e.st ≠ .finished && stands e)
  let spawned := fun (e : Elem) => (r.level e.level).gen = 3 && decide (3 ≤ (r.level e.level).domain)
  let up := mine.findSome? (fun e => match s.claimedCore r e stands with
    | some c => some c
    | none => if spawned e then e.parents.findSome? (fun p => (s.elem? p).bind (fun q => if stands q then q.core else none)) else none)
  match up with
  | some c => some c
  | none => kids.findSome? (fun e =>
    if mine.any (fun a => (e.claims.contains a.id && r.sameCore a.level e.level) || (spawned e && e.parents.contains a.id)) then e.core else none)

/-- R172, R400: the reef that a block is tied to: that of a spawner whose children of a REEF domain it holds, or of such children of its own elements. -/
def State.tiedReef (s : State) (la : Launch) (b : Block) : Option Nat :=
  let stands := fun (e : Elem) => e.st = .finished || (s.block? e.block).elim false (fun x => x.st = .admitted)
  let spawned := fun (e : Elem) => (la.rcd.level e.level).gen = 3 && (la.rcd.level e.level).domain = 2
  let reefOf := fun (e : Elem) => if stands e then e.core.map (· / 4) else none
  let mine := s.elems.filter (fun e => e.block = b.id && e.st ≠ .finished)
  let kids := s.elems.filter (fun e => e.launch = b.launch && e.block ≠ b.id && e.st ≠ .finished && spawned e)
  (mine.findSome? (fun e => if spawned e then e.parents.findSome? (fun p => (s.elem? p).bind reefOf) else none)).orElse (fun _ =>
    kids.findSome? (fun e => if mine.any (fun a => e.parents.contains a.id) then reefOf e else none))

/-- May a block go there, by what binds it (R381, then R172, then R175 and R353; R146)? -/
def State.mayGo (s : State) (la : Launch) (b : Block) (core : Nat) : Bool :=
  let dom := (la.rcd.level b.level).domain
  core < Config.cores &&
  (match (la.rcd.homeOf b.level).orElse (fun _ => (s.tiedCore la b).orElse (fun _ => b.bound)) with
   | none => true
   | some c => if dom = 2 then core / 4 = c / 4 else core = c) &&
  (s.tiedReef la b).elim true (fun r => core / 4 = r) &&
  (dom ≠ 1 || (s.dieOf la b).elim true (fun d => d = core / 24))

/-- R408: the plan of a block at a core, where everything that it needs is free there at once. `gs` gives number and role of the groups that run. -/
def State.plan (s : State) (la : Launch) (b : Block) (core : Nat) (gs : List (Nat × Nat)) : Option Plan :=
  let r := la.rcd
  let cores := r.coresAt b core
  let pos := r.positions b.level b.members.length
  let places := gs.map (fun g => (cores.getD (pos.getD g.1 0) core, r.groupBytes b.level g.2))
  let fine := fun (c : Nat) => s.tagsFree r c && s.tilesFit r { b with cores } c && s.shelfFits la c && s.dictFits la.code c
  let runs := cores.filterMap (fun c => lowestRun (s.allocs c) r.scratch)
  match placeGroups s.partUse ((r.level b.level).domain = 4) none places [] with
  | none => none
  | some parts =>
    if s.mayGo la b core && cores.all fine && runs.length = cores.length then some { cores, base := runs, parts } else none

/-! ### Taking it -/

/-- Does an address of the map lie in these allocations of `n` granules? -/
def inRuns (cores base : List Nat) (n a : Nat) : Bool :=
  (cores.zip base).any (fun x => decide (scratchByte x.1 x.2 0 ≤ a) && decide (a < scratchByte x.1 x.2 0 + n * 512))

/-- The granules of these allocations. -/
def runGranules (cores base : List Nat) (n : Nat) : List Nat :=
  (cores.zip base).flatMap (fun x => (List.range n).map (fun i => granuleKey x.1 (x.2 + i)))

/-- R237, R244, R281, R312: a new allocation is zero and THREADS-owned, its tags are all set, and the block's tiles are zero. -/
def State.clearSpace (s : State) (r : LaunchRec) (b : Block) (p : Plan) : State :=
  let gs := runGranules p.cores p.base r.scratch
  let tags := p.cores.flatMap (fun c => (List.range r.tagCount).map (fun i => c * 64 + r.tagBase + i))
  { s with
    mem := s.mem.keep (fun a => !inRuns p.cores p.base r.scratch a)
    bad := s.bad.filter (fun k => !inRuns p.cores p.base r.scratch (k * 32))
    owners := s.owners.keep (fun g => !gs.contains g)
    tagErrs := s.tagErrs.filter (fun k => !tags.contains k)
    tagCounts := s.tagCounts.keep (fun k => !tags.contains k)
    engineCounts := s.engineCounts.keep (fun g => !gs.contains g)
    acc := s.acc.keep (fun k => k / 2 ^ 24 ≠ b.id) }

/-- A core that runs the launch has a queue of work items (R304). DESIGN CHOICE (assumption 82): a core runs the launch (R308) from its first block of it on,
also when its last block there has ended; where a block was saved there, until the queue has gone to the spill pool (R443). -/
def Launch.addQueues (la : Launch) (cores : List Nat) : Launch :=
  { la with dist := { la.dist with queues := la.dist.queues ++ (cores.filter (fun c => !la.runsOn c)).map (·, []) } }

/-- The block stands on the cores of its plan, with everything that admission takes. -/
def State.takeSpace (s : State) (la : Launch) (b : Block) (p : Plan) : State :=
  let s := s.clearSpace la.rcd b p
  let s := p.cores.foldl (fun (s : State) c => s.loadDict la.code c) s
  let s := s.updBlock b.id (fun b => { b with st := .admitted, cores := p.cores, base := p.base })
  s.updLaunch la.id (fun la => la.addQueues p.cores)

/-- R12, R18, R153: the lane of an element at its start; a lane without one is missing (R152). -/
def State.newLane (s : State) (r : LaunchRec) (pc : Nat) (k : Option Nat) : Lane :=
  let blank : Lane :=
    { st := .missing, elem := 0, pc, v := [], o := [], l := [], lValid := 0, lHidden := 0, lKept := [], p := 0, seed := 1, clockHi := 0, wait := 0
      info := 0, retPc := 0, restoring := false, late := [] }
  match k.bind s.elem? with
  | none => blank
  | some e => { blank with st := .free, elem := e.id, v := SMap.setAll [] e.init, seed := s.seedOf r e }

/-- Elements run on a core from now on. -/
def State.runsAt (s : State) (ids : List Nat) (core : Nat) : State :=
  { s with elems := s.elems.map (fun e => if ids.contains e.id then { e with core := some core } else e) }

/-- A group with the registers, seams and flags of its start (R12, R156, R189). -/
def State.newGroup (s : State) (la : Launch) (b : Block) (num role : Nat) (members : List Nat) (core part pc : Nat) : State :=
  let (k, s) := s.fresh
  let w := (la.rcd.level b.level).width
  { s.runsAt members core with groups := s.groups ++ [
      { id := k, block := b.id, launch := la.id, level := b.level, num, role, width := w, core, part
        lanes := (List.range w).map (fun l => s.newLane la.rcd pc members[l]?)
        g := la.rcd.gImage b.level, flags := [], seams := [], serial := none, run := none, handler := none, budgetPending := false
        preemptPending := false, faults := [], resumeOn := false, resume := 0, resumeAt := 0, derived := [], bindings := [], lastIssue := none, passed := 0
        passedAt := 0, yielded := false, tagErrors := [], hold := none, admitted := s.clock, done := false }] }

/-- The groups of a block, in order, each on its core and partition. -/
def State.startGroups (s : State) (la : Launch) (b : Block) (p : Plan) : State :=
  let pos := la.rcd.positions b.level b.members.length
  (b.members.zipIdx).foldl (fun (s : State) m =>
    let role := b.roles.getD m.2 3
    s.newGroup la b m.2 role m.1 (p.cores.getD (pos.getD m.2 0) 0) (p.parts.getD m.2 0) (la.rcd.entryOf b.level role)) s

/-- R153: gives a block its number. DESIGN CHOICE (assumption 61): where record counts give none, the numbers rise by 1 in admission order, from the first
that no block of the launch has by its counts. -/
def State.numberBlock (s : State) (la : Launch) (b : Block) : State :=
  if la.rcd.allFixed b.level then s.updBlock b.id (fun x => { x with num := s.fixedBlockNum la b })
  else (s.updBlock b.id (fun x => { x with num := BitVec.ofNat 32 (la.rcd.countedBlocks + la.blockSeq) })).updLaunch la.id
    (fun la => { la with blockSeq := la.blockSeq + 1 })

/-- R146: a block of domain DIE fixes the die of the other children of its elements' parents. -/
def State.fixDie (s : State) (la : Launch) (b : Block) (core : Nat) : State :=
  if (la.rcd.level b.level).domain ≠ 1 then s
  else if b.level = 0 then s.updLaunch la.id (fun la => { la with die := some (core / 24) })
  else
    let ps := (s.parentsOf b).map (·.block)
    { s with blocks := s.blocks.map (fun x => if ps.contains x.id then { x with kidsDie := some (core / 24) } else x) }

/-- The groups of a block that has not started yet, as number and role. -/
def Block.groupList (b : Block) : List (Nat × Nat) := (List.range b.members.length).map (fun i => (i, b.roles.getD i 3))

/-! ### Where a saved block may return (R175, R353, R370, R446) -/

/-- Does an element use the core-resident pools of its core: does it hold, claim or await a slot of one (R175)? -/
def State.usesPool (s : State) (la : Launch) (e : Elem) : Bool :=
  let keys := e.id :: e.claims
  (e.st = .waiting && !la.rcd.memResident e.level) || s.slots.any (fun sl => sl.launch = la.id && sl.core ≠ 0x7F && keys.contains sl.elem)

/-- Does a block have an unfinished element that does? -/
def State.blockUsesPool (s : State) (la : Launch) (b : Block) : Bool := s.elems.any (fun e => e.block = b.id && e.st ≠ .finished && s.usesPool la e)

/-- R175: the core of the core-resident pools that a saved block uses: where they have been restored to, or else the core that it held. -/
def State.poolCore (s : State) (la : Launch) (b : Block) : Option Nat :=
  if s.blockUsesPool la b then b.bound.orElse (fun _ => b.cores.head?) else none

/-- R353, R370: must a block return to the cores it held? -/
def State.returns (s : State) (b : Block) : Bool :=
  s.chains.any (fun c => c.block = b.id && c.isOpen) || s.streams.any (fun t => t.block = b.id)

/-- The saved blocks of a launch whose pools lie on a core. -/
def State.poolSharers (s : State) (la : Launch) (core : Nat) : List Block :=
  s.blocks.filter (fun b => b.launch = la.id && b.st = .saved && s.poolCore la b = some core)

/-- R175: may a block that uses the pools of a core be restored on another? Only where no block of the launch is admitted on the pools' core, no block
that uses them must return to it (R353, R370) or stands at home (R381), and the other core has none of the launch's pools, in use or saved. -/
def State.poolMay (s : State) (la : Launch) (from_ to_ : Nat) : Bool :=
  from_ = to_ || (!s.blocks.any (fun b => b.launch = la.id && b.st = .admitted && b.cores.contains from_) && !s.poolHere la.id to_ &&
    !(s.poolSharers la from_).any (fun b => s.returns b || (la.rcd.homeOf b.level).isSome) &&
    !s.slots.any (fun sl => sl.launch = la.id && sl.core = to_) && (s.poolSharers la to_).isEmpty)

/-- R175: saved pools stand on another core from now on, for every block that uses them. -/
def State.movePool (s : State) (la : Launch) (from_ to_ : Nat) : State :=
  if from_ = to_ then s
  else
    let sharers := (s.poolSharers la from_).map (·.id)
    let holders := (s.slots.filter (fun sl => sl.launch = la.id && sl.core = from_)).map (·.elem)
    { s with
      slots := s.slots.map (fun (sl : Slot) => if sl.launch = la.id && sl.core = from_ then { sl with core := to_ } else sl)
      elems := s.elems.map (fun (e : Elem) => if holders.contains e.id then { e with core := some to_ } else e)
      blocks := s.blocks.map (fun (b : Block) =>
        if sharers.contains b.id || (b.launch = la.id && b.st = .waiting && b.bound = some from_) then { b with bound := some to_ } else b) }

/-- R365: the partitions of the batch groups of a block, each on its core and its fixed partition, beside what is placed. -/
def State.batchParts (s : State) (r : LaunchRec) : List Group → List (Nat × Nat × Nat) → Option (List (Nat × Nat × Nat))
  | [], _ => some []
  | g :: gs, placed =>
    let bytes := r.groupBytes g.level g.role
    match partFor s.partUse placed g.core bytes (some (g.num % 16)) with
    | none => none
    | some p => (s.batchParts r gs ((g.core, p, bytes) :: placed)).map ((g.id, g.core, p) :: ·)

/-- Where a saved block's groups go: each group's identifier, core and partition. A batch group returns to the core of its stream (R370). -/
def State.restorePlaces (s : State) (la : Launch) (b : Block) (p : Plan) (own batch : List Group) : Option (List (Nat × Nat × Nat)) :=
  let pos := la.rcd.positions b.level b.members.length
  let coreOf := fun (g : Group) => p.cores.getD (pos.getD g.num 0) 0
  let first := (own.zip p.parts).map (fun x => (x.1.id, coreOf x.1, x.2))
  let placed := (own.zip p.parts).map (fun x => (coreOf x.1, x.2, la.rcd.groupBytes x.1.level x.1.role))
  (s.batchParts la.rcd batch placed).map (first ++ ·)

/-- R446: how a saved block may be admitted again at a core: the state with its pools moved there, where the Shelf has space for them (R169, R175), its
plan, and the places of its groups. -/
def State.restorePlan (s : State) (la : Launch) (b : Block) (core : Nat) : Option (State × Plan × List (Nat × Nat × Nat)) :=
  let pool := s.poolCore la b
  let fits := (pool.elim true (fun c => c = core || (s.poolMay la c core && s.shelfFits la core))) && (!s.returns b || la.rcd.coresAt b core = b.cores)
  if !fits then none
  else
    let s' := pool.elim s (fun c => s.movePool la c core)
    let own := s.groups.filter (fun g => g.block = b.id && g.level = b.level)
    let batch := s.groups.filter (fun g => g.block = b.id && g.level ≠ b.level)
    match s'.plan la { b with bound := pool.map (fun _ => core) } core (own.map (fun g => (g.num, g.role))) with
    | none => none
    | some p => (s'.restorePlaces la b p own batch).map (fun x => (s', p, x))

/-! ### The choice among blocks (R409, R411) -/

/-- R411: is a deadline earlier than another? None is the latest. -/
def earlier (a b : Option Nat) : Bool :=
  match a, b with
  | some x, some y => decide (x < y)
  | some _, none => true
  | none, _ => false

/-- Could a block that waits, or is saved, be admitted at a core now (R408, R446)? -/
def State.couldAdmit (s : State) (w : Block) (core : Nat) : Bool :=
  match s.launch? w.launch with
  | none => false
  | some la => la.st = .running && !la.preempted && !s.stopped &&
    (if w.st = .saved then w.saved.isSome && (s.restorePlan la w core).isSome else w.st = .waiting && (s.plan la w core w.groupList).isSome)

/-- The cores that a block takes when it is admitted at one (R408). -/
def State.coresOf (s : State) (b : Block) (core : Nat) : List Nat := (s.recOf b.launch).elim [core] (fun r => r.coresAt b core)

/-- R409: does another block with an earlier deadline wait for a core that this one would take, and would it be admitted there now? -/
def State.outranked (s : State) (b : Block) (core : Nat) : Bool :=
  (s.coresOf b core).any (fun c => s.blocks.any (fun w => w.id ≠ b.id && (w.st = .waiting || w.st = .saved) && earlier w.deadline b.deadline &&
    (s.coresOf w c).contains c && s.couldAdmit w c))

/-- R408, R412. BLOCK_ADMISSION: a waiting block is admitted to a core, or to the cores of the core's reef, where all that it needs is free;
otherwise, and where a block with an earlier deadline would be admitted there (R409), it waits on. The order at equal deadlines is the order of these
steps. -/
def execBlockAdmission (block core : Nat) (s : State) : Out :=
  match s.block? block with
  | none => .next s
  | some b => match s.launch? b.launch with
    | none => .next s
    | some la =>
      if b.st ≠ .waiting || la.st ≠ .running || la.preempted || s.stopped || s.outranked b core then .next s
      else match s.plan la b core b.groupList with
        | none => .next s
        | some p =>
          let s := ((s.takeSpace la b p).numberBlock la b).fixDie la b core
          .next (s.startGroups la b p)

/-! ### Elements and their slots (R169) -/

/-- The pool in which an element of a level that holds registers has its slot: 0x7F for the launch's memory-resident pool, else a core; `none`
while no core has been chosen for it (R168). -/
def State.poolOf (s : State) (e : Elem) : Option Nat :=
  match s.launch? e.launch with
  | none => none
  | some la =>
    if la.rcd.memResident e.level then some 0x7F
    else (s.block? e.block).bind (fun b => if b.st = .saved then b.bound.orElse (fun _ => b.cores.head?) else b.cores.head?.orElse (fun _ => b.bound))

/-- The slots in use of a pool. -/
def State.pool (s : State) (launch level core : Nat) : List Slot :=
  s.slots.filter (fun sl => sl.launch = launch && sl.level = level && sl.core = core)

/-- R167: the slots of a pool: those of the Shelf, then those of the backing layout. -/
def LaunchRec.poolSize (r : LaunchRec) (level : Nat) : Nat :=
  (r.shelf[level]?).elim 0 (fun t => t.slots + (if t.backing.isSome then t.backSlots else 0))

/-- The elements that await a slot of a pool, in the order of their creation. -/
def State.awaiting (s : State) (launch level core : Nat) : List Elem :=
  s.elems.filter (fun e => e.launch = launch && e.level = level && e.st = .waiting && s.poolOf e = some core)

/-- R170: the claims made on a slot before its holder has it: of elements, of pending primitives, of constraints and of rays. -/
def State.claimsOn (s : State) (elem : Nat) : Nat :=
  let count := fun (l : List (List Nat)) => (l.filter (fun c => c.contains elem)).length
  count ((s.elems.filter (fun e => e.st ≠ .finished)).map (·.claims)) + count (s.prims.map (·.claims)) +
  count (s.streams.flatMap (fun t => t.window.map (·.claims) ++ t.pushes.map (·.claims))) + count (s.raySets.flatMap (fun r => r.rays.map (·.claims)))

/-- R161, R169. ELEMENT_ADMISSION: the first element that awaits a pool takes its lowest free slot, with every held register zero. -/
def execElementAdmission (elem : Nat) (s : State) : Out :=
  match s.elem? elem with
  | none => .next s
  | some e => match s.launch? e.launch, s.poolOf e with
    | some la, some core =>
      let used := (s.pool e.launch e.level core).map (·.index)
      if e.st ≠ .waiting || la.st ≠ .running || (core ≠ 0x7F && !s.poolHere la.id core) ||
         ((s.awaiting e.launch e.level core).head?).map (·.id) ≠ some elem then .next s
      else match (List.range (used.length + 1)).find? (fun i => !used.contains i && decide (i < la.rcd.poolSize e.level)) with
        | none => .next s
        | some i =>
          .next { s.updElem elem (fun e => { e with st := .admitted }) with
                  slots := s.slots ++ [{ elem, launch := e.launch, level := e.level, core, index := i, h := [], holds := s.claimsOn elem }] }
    | _, _ => .next s

/-- R172. CLAIM_ENDING_ARRIVAL: the ending of a claim reaches its slot, which may then be freed. -/
def execClaimEndingArrival (ending : Nat) (s : State) : Out :=
  match findId Ending.id ending s.endings with
  | none => .next s
  | some d =>
    let s := { s with endings := delId Ending.id ending s.endings }
    .next (s.updSlot d.holder (fun sl => { sl with holds := sl.holds - 1 })).freeSlots

end Sys2Proof.Machine
end

