-- ==== Sys2Proof/Machine/Batcher.lean ====
section
/-!
DEFINITION. The constraint batcher (R358 to R378): streams, the window, the cutting of batches, body claims, and batch groups.
-/
namespace Sys2Proof.Machine

/-! ### Streams (R358, R361) -/

/-- The stream of a core's batcher. -/
def State.stream? (s : State) (core : Nat) : Option Stream := findId Stream.core core s.streams
/-- A core's stream changed. -/
def State.updStream (s : State) (core : Nat) (f : Stream → Stream) : State := { s with streams := updId Stream.core core f s.streams }

/-- The stream of the executing block at its level on its core (R358). -/
def State.ownStream (s : State) (e : Env) : Option Stream :=
  match s.stream? e.g.core with
  | none => none
  | some t => if t.block = e.b.id ∧ t.level = e.g.level then some t else none

/-- One lane of an instruction may complete. -/
def State.readyLane (s : State) (op lane : Nat) (writes : List (RegRef × Word)) : State :=
  s.updOp op (fun o => { o with lanes := o.lanes.map (fun l => if l.lane = lane then { l with cond := .ready, writes } else l) })

/-- R359: the body set of a constraint. -/
def Constraint.bodySet (c : Constraint) : List Nat := dedup ((c.bodies.filter (fun x => x ≠ 0xFFFFFFFF)).map (·.toNat))

/-- One lane of an instruction completes, with nothing to write. -/
def State.laneDone (s : State) (op lane : Nat) : State :=
  match s.op? op with
  | none => s
  | some o => (o.lanes.find? (fun l => l.lane = lane)).elim s (fun l => s.completeLane o l [])

/-- The first pushed constraint enters the window, with the next sequence number, and its lane completes (R361, R373). -/
def State.enterOne (s : State) (t : Stream) (p : Push) (rest : List Push) : State :=
  (s.updStream t.core (fun t => { t with
    pushes := rest, seq := t.seq + 1
    window := t.window ++ [{ seq := t.seq, key := p.key, bodies := p.bodies, pusher := p.pusher, claims := p.claims }] })).laneDone p.op p.lane

/-- R362: constraints enter while the window has room. -/
def State.feed (core : Nat) : Nat → State → State
  | 0, s => s
  | k + 1, s => match s.stream? core with
    | none => s
    | some t => match t.pushes with
      | [] => s
      | p :: rest => if t.window.length < t.depth then State.feed core k (s.enterOne t p rest) else s

/-- R364: the claims that a stream holds in the claim table. -/
def Stream.claimCount (t : Stream) : Nat :=
  (t.batches.map (fun b => ((b.members.zip b.claims).map (fun x => if x.2 = .ended then 0 else x.1.bodySet.length)).sum)).sum

/-- Does the block of a stream run, with no PREEMPT pending or taken (R370)? -/
def State.streamRuns (s : State) (t : Stream) : Bool := (s.block? t.block).elim false (fun b => b.st = .admitted && b.preemptAt.isNone)

/-- R368: a closed stream ends once everything has been batched, and every batch has ended with its claims released; not while its block is pre-empted
(R370). -/
def State.endStream (s : State) (core : Nat) : State :=
  match s.stream? core with
  | none => s
  | some t =>
    if s.streamRuns t && t.closed && t.pushes.isEmpty && t.window.isEmpty &&
       t.batches.all (fun b => b.ended && b.claims.all (fun c => c = .ended)) then
      let s := { s with streams := delId Stream.core core s.streams }
      match t.closeOp with
      | some op => s.engineDone op
      | none => s
    else s

/-! ### The instructions (R371 to R377) -/

/-- The word of BATCH_PROTOCOL (R377). -/
def batchInfo (reason : Nat) : Word := BitVec.ofNat 32 reason

/-- R372. BAT.OPEN. -/
def execBatOpen (f : Form) (s : State) : Out :=
  runOp .batOpen f s (fun e =>
    let d := (s.lowSrc e f.a).toNat
    if bitsOf d 31 12 ≠ 0 || bitsOf d 3 2 ≠ 0 then .trap Cause.batchProtocol (batchInfo 3) e.x
    else
      let free := (s.stream? e.g.core).isNone
      let s := s.writeRegs e.gid (e.writes f (fun _ _ => .pred free))
      if free then
        .ok { s with streams := s.streams ++ [{ core := e.g.core, launch := e.la.id, block := e.b.id, level := e.g.level, depth := bitsOf d 11 4 + 1
                                                bodies := bitsOf d 1 0 + 1, closed := false, closeOp := none, seq := 0, formed := 0
                                                window := [], pushes := [], batches := [] }] }
      else .ok s)
    (ownForm 3 (fun e => e.g.level ≥ 7 || !(e.rcd.level (e.g.level + 1)).present || (e.rcd.level (e.g.level + 1)).gen ≠ 4))

/-- R373: the run of BAT.PUSH, once the stream's body count is known. -/
def pushRunFault (e : Env) (f : Form) (bodies : Nat) : Option (Nat × Word) :=
  let a := Opnd.first f.a
  let budget := 8 * e.rcd.budgetOf e.g.level e.g.role
  if a + 1 + bodies > 256 then some (Cause.illegalForm, 0)
  else if a + 1 + bodies > budget then some (Cause.regBudget, BitVec.ofNat 32 (budget / 8 * 256 + max a budget))
  else none

/-- R373. BAT.PUSH: each lane's constraint is to enter the window, in ascending order. -/
def execBatPush (f : Form) (s : State) : Out :=
  runOp .batPush f s (fun e =>
    match s.ownStream e with
    | none => .trap Cause.batchProtocol (batchInfo 1) e.x
    | some t => match pushRunFault e f t.bodies with
      | some (cause, info) => .trap cause info e.x
      | none =>
        if t.closed then .trap Cause.batchProtocol (batchInfo 2) e.x
        else
          let (op, s) := s.addOp e f .saved (fun _ _ => (.engine, []))
          let ps := e.lanes.map (fun c =>
            ({ op, lane := c.1, key := s.srcAt e .int c.1 c.2 0 f.a, bodies := (List.range t.bodies).map (fun k => s.srcAt e .int c.1 c.2 (k + 1) f.a)
               pusher := c.2.elem, claims := s.claimsOf [c.2.elem] } : Push))
          let s := s.addClaims (ps.flatMap (·.claims))
          let s := s.updStream t.core (fun t => { t with pushes := t.pushes ++ ps })
          .ok (State.feed t.core ps.length s))

/-- R374. BAT.CLOSE. -/
def execBatClose (f : Form) (s : State) : Out :=
  runOp .batClose f s (fun e =>
    match s.ownStream e with
    | none => .trap Cause.batchProtocol (batchInfo 1) e.x
    | some t =>
      if t.closed then .trap Cause.batchProtocol (batchInfo 2) e.x
      else
        let (op, s) := s.addOp e f .saved (fun _ _ => (.engine, []))
        .ok ((s.updStream t.core (fun t => { t with closed := true, closeOp := some op })).endStream t.core))

/-- Some lanes of a batch give up their claims, once their accesses have been performed (R366). -/
def Batch.leave (b : Batch) (lanes : Nat → Bool) : Batch :=
  { b with claims := b.claims.zipIdx.map (fun c => if c.1 = .held ∧ lanes c.2 then .leaving else c.1) }

/-- R366, R375. BAT.DONE. -/
def execBatDone (f : Form) (s : State) : Out :=
  runOp .batDone f s (fun e =>
    if (e.rcd.level e.g.level).gen ≠ 4 then .trap Cause.batchProtocol (batchInfo 4) e.x
    else
      let els := e.lanes.map (fun c => c.2.elem)
      .ok { s with streams := s.streams.map (fun t => { t with
              batches := t.batches.map (fun b => b.leave (fun i => match b.elems[i]? with
                | some k => els.contains k
                | none => false)) }) })

/-- R376: the batcher's status word. -/
def State.batcherWord (s : State) (e : Env) : Word :=
  match s.stream? e.g.core with
  | none => 0
  | some t =>
    if (s.ownStream e).isSome then
      BitVec.ofNat 32 (2 ^ 31 + (if t.closed then 2 ^ 30 else 0) + t.window.length * 2 ^ 20 + t.claimCount * 32)
    else BitVec.ofNat 32 (2 ^ 29)

/-- R376. BAT.STAT. -/
def execBatStat (f : Form) (s : State) : Out :=
  runOp .batStat f s (fun e => .ok (s.writeRegs e.gid (e.writes f (fun _ _ => .of [s.batcherWord e]))))

/-! ### Formation, admission and release (R362 to R366) -/

/-- R362: the batch that a window gives for a width, and what it leaves; `claimed` are the bodies taken so far. -/
def cutBatch (w : Nat) (claimed : List Nat) (taken : List Constraint) : List Constraint → List Constraint × List Constraint
  | [] => (taken.reverse, [])
  | c :: cs =>
    if taken.length = w then (taken.reverse, c :: cs)
    else if c.bodySet.all (fun x => !claimed.contains x) then cutBatch w (claimed ++ c.bodySet) (c :: taken) cs
    else
      let r := cutBatch w claimed taken cs
      (r.1, c :: r.2)

/-- R362: is a batch to be formed now? -/
def Stream.due (t : Stream) : Bool :=
  t.window.length = t.depth || (t.closed && t.pushes.isEmpty && !t.window.isEmpty)

/-- R367: the element of a constraint at its start. -/
def Constraint.birth (c : Constraint) : Birth :=
  { idx := BitVec.ofNat 32 c.seq, parents := [c.pusher], depth := 0, primId := 0, iw := []
    init := (0, c.key) :: c.bodies.zipIdx.map (fun x => (x.2 + 1, x.1)), claims := some c.claims }

/-- R170: the claims of a deferred creation pass to the element that it creates. -/
def State.passClaims (s : State) (hs : List Nat) : State :=
  hs.foldl (fun (s : State) h => s.updSlot h (fun sl => { sl with holds := sl.holds - 1 })) s

/-- R362, R364, R367. BATCH_FORMATION: one batch is cut from the window, where one is due and the claim table has room; its elements come into
being, and more constraints enter. -/
def execBatchFormation (core : Nat) (s : State) : Out :=
  match s.stream? core with
  | none => .next s
  | some t =>
    match s.launch? t.launch with
    | none => .next s
    | some la =>
      let (batch, left) := cutBatch (la.rcd.level (t.level + 1)).width [] [] t.window
      let need := (batch.map (·.bodySet.length)).sum
      if !s.streamRuns t || !t.due || t.claimCount + need > Config.claimTable then .next s
      else
        let (ids, s) := s.createElems t.launch (t.level + 1) (batch.map (·.birth))
        let s := s.passClaims (batch.flatMap (·.claims))
        let s := s.placeElems ids t.block
        let b : Batch := { num := t.formed, members := batch, elems := ids, claims := batch.map (fun _ => .held), group := none, ended := false }
        let s := s.updStream core (fun t => { t with window := left, formed := t.formed + 1, batches := t.batches ++ [b] })
        .next (State.feed core t.pushes.length s)

/-- Does a batch still hold a claim on one of some bodies (R365)? -/
def Batch.claimsAny (b : Batch) (bodies : List Nat) : Bool :=
  (b.members.zip b.claims).any (fun x => x.2 ≠ .ended && x.1.bodySet.any (fun y => bodies.contains y))

/-- R365: where a batch may be admitted now: its partition, if it is free. -/
def State.batchPlace (s : State) (t : Stream) (b : Batch) : Option Nat :=
  match s.launch? t.launch, s.block? t.block with
  | some la, some _ =>
    let bodies := b.members.flatMap (·.bodySet)
    if !s.streamRuns t || b.group.isSome || b.ended ||
       t.batches.any (fun x => x.num < b.num && x.claimsAny bodies) then none
    else partFor s.partUse [] t.core (la.rcd.groupBytes (t.level + 1) 3) (some (b.num % 16))
  | _, _ => none

/-- R365, R367. BATCH_ADMISSION: a batch's group is admitted on partition b mod 16, the first of those that can be. -/
def execBatchAdmission (core batch : Nat) (s : State) : Out :=
  match s.stream? core with
  | none => .next s
  | some t =>
    match t.batches.find? (fun b => b.num = batch), s.launch? t.launch, s.block? t.block with
    | some b, some la, some bk =>
      if t.batches.any (fun x => x.num < batch && (s.batchPlace t x).isSome) then .next s
      else match s.batchPlace t b with
        | none => .next s
        | some p =>
          let n := t.level + 1
          let gid := s.nextId
          let s := s.newGroup la { bk with level := n } batch 3 b.elems core p (la.rcd.entryOf n 3)
          .next (s.updStream core (fun t => { t with batches := t.batches.map (fun x => if x.num = batch then { x with group := some gid } else x) }))
    | _, _, _ => .next s

/-- R366. BODY_CLAIM_RELEASE: a lane's body claims end, where they are to end and its accesses have been performed. -/
def execBodyClaimRelease (core batch lane : Nat) (s : State) : Out :=
  .next ((s.updStream core (fun t => { t with batches := t.batches.map (fun b =>
    if b.num = batch then { b with claims := b.claims.zipIdx.map (fun c =>
      if c.1 = .leaving ∧ c.2 = lane then .ended else c.1) } else b) })).endStream core)

end Sys2Proof.Machine
end

