-- ==== Sys2Proof/Machine/Hash.lean ====
section
/-!
DEFINITION. SHA-512 (R5, R471, R473), as FIPS 180-4 gives it; that standard is outside the spec, which names the function only (PRESUMED, assumption 1).
The hash stands here as two shift registers of four words, the newest word first, and the constants as the roots that define them.
-/
namespace Sys2Proof.Machine

/-- The largest `r` above `r0` by less than `2 ^ bits` whose `k`-th power is at most `x`. -/
def rootFrom (k x : Nat) : Nat → Nat → Nat
  | 0, r => r
  | bits + 1, r => rootFrom k x bits (if (r + 2 ^ bits) ^ k ≤ x then r + 2 ^ bits else r)

/-- The first 64 bits of the fraction of the `k`-th root of a number below `8 ^ k`. -/
def rootFraction (k p : Nat) : BitVec 64 := BitVec.ofNat 64 (rootFrom k (p * 2 ^ (64 * k)) 67 0)

/-- The primes below 410: the first eighty. -/
def firstPrimes : List Nat :=
  (List.range 410).filter (fun p => 2 ≤ p && (List.range 21).all (fun d => decide (d < 2) || decide (p < d * d) || p % d ≠ 0))

/-- A hash on its way: both registers. -/
abbrev ShiftPair := List (BitVec 64) × List (BitVec 64)

/-- The exclusive or of three rotations of a word. -/
def rotations (x : BitVec 64) (by_ : List Nat) : BitVec 64 := by_.foldl (fun acc n => acc ^^^ x.rotateRight n) 0

/-- One step, with the sum of its constant and its message word: the oldest word of each register is spent, and a new one comes in front. -/
def hashStep (st : ShiftPair) (input : BitVec 64) : ShiftPair :=
  let up := fun i => st.1.getD i 0
  let low := fun i => st.2.getD i 0
  let choice := low 2 ^^^ (low 0 &&& (low 1 ^^^ low 2))
  let majority := (up 0 &&& (up 1 ||| up 2)) ||| (up 1 &&& up 2)
  let spent := input + choice + rotations (low 0) [14, 18, 41] + low 3
  ((rotations (up 0) [28, 34, 39] + majority + spent) :: st.1.take 3, (up 3 + spent) :: st.2.take 3)

/-- The message words, the newest first, so many longer. -/
def lengthen : Nat → List (BitVec 64) → List (BitVec 64)
  | 0, ws => ws
  | n + 1, ws =>
    let back := fun i => ws.getD (i - 1) 0
    let small := fun (x : BitVec 64) (rs : List Nat) (shift : Nat) => rotations x rs ^^^ (x >>> shift)
    lengthen n ((back 16 + small (back 15) [1, 8] 7 + back 7 + small (back 2) [19, 61] 6) :: ws)

/-- The hash after a block of sixteen words. -/
def hashBlock (st : ShiftPair) (block : List (BitVec 64)) : ShiftPair :=
  let inputs := (firstPrimes.map (rootFraction 3)).zipWith (· + ·) (lengthen 64 block.reverse).reverse
  let new := inputs.foldl hashStep st
  (st.1.zipWith (· + ·) new.1, st.2.zipWith (· + ·) new.2)

/-- The hash after so many blocks of 128 bytes, each read as words with their highest byte first. -/
def hashBlocks : Nat → List Byte → ShiftPair → ShiftPair
  | 0, _, st => st
  | n + 1, data, st =>
    hashBlocks n (data.drop 128) (hashBlock st ((List.range 16).map (fun i => BitVec.ofNat 64 (leNat ((data.drop (8 * i)).take 8).reverse))))

/-- SHA-512: 64 bytes, the highest of the first word first. The message is followed by a 1 bit, zeros to the last 16 bytes of a block, and its length in
bits. -/
def sha512 (data : List Byte) : List Byte :=
  let blocks := (data.length + 144) / 128
  let tail := (leBytes (128 * blocks - data.length) (8 * data.length + 2 ^ (8 * (128 * blocks - data.length) - 1))).reverse
  let seeds := (firstPrimes.take 8).map (rootFraction 2)
  let out := hashBlocks blocks (data ++ tail) (seeds.take 4, seeds.drop 4)
  (out.1 ++ out.2).flatMap (fun w => (leBytes 8 w.toNat).reverse)

end Sys2Proof.Machine
end

