-- ==== Sys2Proof/Machine/Issue.lean ====
section
/-!
DEFINITION. The instruction that the clause in focus runs next: it is decoded from the clause's parcels (R58), and one that is no instruction
traps where its guard is true (R75, R76).
-/
namespace Sys2Proof.Machine

/-- The dictionary bank of a clause (R67). -/
def State.bankOf (s : State) (g : Group) (r : Run) : List (BitVec 64) :=
  (((s.launch? g.launch).bind (fun la => s.code? la.code)).bind (·.banks[r.bank]?)).getD []

/-- What stands next in the clause in focus. -/
inductive Upcoming where
  /-- No group is running a clause. -/
  | idle
  /-- The instruction, and the state with the clause moved past it. -/
  | instr (gid : Nat) (s : State) (i : Instr)
  /-- No instruction: the state after its trap, or after passing it on no lane. -/
  | passed (gid : Nat) (s : State)

/-- R75, R76: a word that is no instruction traps on the lanes whose guard is true; on none it has no effect but for its flag's counts. -/
def State.reject (s : State) (gid : Nat) (g : Group) (r : Run) (sc : Option Scan) (why : Reject) : State :=
  let act := fun (gd : Guard) (cause : Nat) (info : Word) =>
    let x := g.active r gd
    if x = 0 then (match sc.bind (·.long) with
      | some fsel => s.updGroup gid (fun g => g.settle r fsel 0)
      | none => s)
    else s.trapAt gid cause info x
  match why with
  | .illegalOpcode gd op => act gd Cause.illegalOpcode (op.setWidth 32)
  | .illegalForm gd => act gd Cause.illegalForm 0
  | .headerMarker => act Guard.always Cause.illegalForm 0
  | .pastEnd => act Guard.always Cause.illegalForm 0

/-- The clause moved past an instruction of `n` parcels. -/
def Run.advance (r : Run) (n : Nat) : Run := { r with cur := r.next, curBody := r.body, next := r.next + 2 * n, body := r.body.drop n }

/-- The next instruction of the clause in focus. -/
def State.upcoming (s : State) : Upcoming :=
  match s.focus with
  | none => .idle
  | some gid => match s.group? gid with
    | none => .idle
    | some g => match g.run with
      | none => .idle
      | some r =>
        let bank := s.bankOf g r
        match decodeParcels bank r.body with
        | .ok (i, n) => .instr gid (s.updGroup gid (fun g => { g with run := some (r.advance n) })) i
        | .error why =>
          let sc := scanOne bank r.body
          let r' := r.advance ((sc.map (·.len)).getD r.body.length)
          let g' := { g with run := some r' }
          .passed gid ((s.updGroup gid (fun _ => g')).reject gid g' r' sc why)

end Sys2Proof.Machine
end

