-- ==== Sys2Proof/Machine/Draw.lean ====
section
/-!
DEFINITION. Draws (R379 to R391): PRIM.EMIT, the binning of primitives, and the resolution of passes, with the coarse and sample elements that
it creates.
-/
namespace Sys2Proof.Machine

/-! ### The levels of a draw (R380) -/

/-- Level k: the first RASTER level. -/
def LaunchRec.rasterLevel (r : LaunchRec) : Nat := ((List.range 8).find? (fun n => (r.level n).present && (r.level n).gen = 2)).getD 8

/-- The pass of an element: its ancestor at the pass level (R384). -/
def State.passOf (s : State) (r : LaunchRec) (e : Elem) : Option Elem := s.ancestor e r.draw.pass

/-- (%elem.0, …, %elem.m) of an element (R384, R388). -/
def State.tuple (s : State) (e : Elem) (m : Nat) : List Nat := (List.range (m + 1)).map (fun i => (s.elemIdx e i).toNat)

/-- Lexicographic order. -/
def lexLt : List Nat → List Nat → Bool
  | [], [] => false
  | [], _ => true
  | _, [] => false
  | x :: xs, y :: ys => x < y || (x = y && lexLt xs ys)

/-! ### PRIM.EMIT (R382) -/

/-- The child of an element with an index at a level. -/
def State.childAt (s : State) (parent level idx : Nat) : Option Elem :=
  s.elems.find? (fun e => e.level = level && e.parents = [parent] && e.idx.toNat = idx)

/-- R382: PRIM.EMIT's own ILLEGAL_FORM: 5 where it does not stand two levels above the RASTER level of a draw, 6 where its position run is not held. -/
def primForm (f : Form) (e : Env) : Option (Word × LaneMask) :=
  let k := e.rcd.rasterLevel
  let n := heldIndex f.c
  if !e.rcd.draw.present || e.g.level + 2 ≠ k then some (5, e.x)
  else if n > 60 || n + 3 ≥ (e.rcd.level (k - 1)).held then some (6, e.x) else none

/-- R382. PRIM.EMIT: one pending primitive per lane; sub-operation 0, 1 .CULLB, 2 .CULLF. -/
def execPrimEmit (f : Form) (s : State) : Out :=
  runOp .primEmit f s (fun e =>
    let k := e.rcd.rasterLevel
    let n := heldIndex f.c
    let idxs := fun (c : Nat × Lane) => (List.range 3).map (fun i => (s.srcAt e .int c.1 c.2 i f.a).toNat)
    let emitted := fun (c : Nat × Lane) => (s.laneElem c.2).elim 0 (·.emitted)
    let have_ := (s.prims.filter (fun p => p.launch = e.la.id)).length
    let bad := e.lanes.zipIdx.filterMap (fun c => match (idxs c.1).find? (fun i => decide (emitted c.1 ≤ i)) with
      | some i => some (c.1.1, i)
      | none => if have_ + c.2 + 1 > e.rcd.draw.capacity then some (c.1.1, 0xFFFFFFFF) else none)
    match bad with
    | (_, w) :: _ => .trap Cause.bounds (BitVec.ofNat 32 w) (maskOf (bad.map (·.1)))
    | [] =>
      let first := s.nextId + 1
      let id := fun (l : Nat) => first + ((e.lanes.map (·.1)).idxOf l)
      let (op, s) := s.addOp e f .held (fun l _ => (.prim (id l), []))
      let s := { s with nextId := s.nextId + e.lanes.length }
      let prim := fun (c : Nat × Lane) =>
        let vs := (idxs c).map (fun i => ((s.childAt c.2.elem (k - 1) i).map (·.id)).getD 0)
        ({ id := id c.1, launch := e.la.id, op, lane := c.1, emitter := c.2.elem, verts := vs, primId := s.src e .int c.1 c.2 f.b
           cull := f.mod.toNat, reg := n, claims := dedup (vs ++ s.claimsOf vs), binned := false, resolved := false, pts := [], zs := [], ws := [] } : Prim)
      let ps := e.lanes.map prim
      .ok ({ s.addClaims (ps.flatMap (·.claims)) with prims := s.prims ++ ps }))
    (primForm f)

/-! ### Binning (R383) -/

/-- R383: a coordinate in units of 1/256 pixel; `none` where it is no number or too large. -/
def snap (x : Word) : Option Int :=
  match Fmt.fp32.value x.toNat with
  | .fin neg m e =>
    let big := scaleQuot m 1 e
    if 2 ^ 15 * big.2 ≤ big.1 then none
    else
      let q := scaleQuot m 1 (e + 8)
      let r : Int := roundQuot .ne neg q.1 q.2
      some (if neg then -r else r)
  | _ => none

/-- E_ij(Q) of R387, on points in snapped units. -/
def edge (p q at_ : Int × Int) : Int := (q.1 - p.1) * (at_.2 - p.2) - (q.2 - p.2) * (at_.1 - p.1)

/-- Vertex `i` of a primitive, snapped. -/
def Prim.pt (p : Prim) (i : Nat) : Int × Int := p.pts.getD i (0, 0)
/-- The three edge functions at a point: e0 = (1 → 2), e1 = (2 → 0), e2 = (0 → 1). -/
def Prim.edges (p : Prim) (at_ : Int × Int) : Int × Int × Int :=
  (edge (p.pt 1) (p.pt 2) at_, edge (p.pt 2) (p.pt 0) at_, edge (p.pt 0) (p.pt 1) at_)
/-- A := E_12(V0). -/
def Prim.area (p : Prim) : Int := (p.edges (p.pt 0)).1

/-- R381: the height of a tile, and the number of tiles across and down. -/
def DrawDesc.tileHeight (d : DrawDesc) : Nat := if d.samples = 8 then 32 else 64
def DrawDesc.across (d : DrawDesc) : Nat := (d.width + 63) / 64
def DrawDesc.down (d : DrawDesc) : Nat := (d.height + d.tileHeight - 1) / d.tileHeight

/-- Does the bounding box of a primitive meet tile `n` of the area (R383)? -/
def Prim.meets (p : Prim) (d : DrawDesc) (n : Nat) : Bool :=
  let x0 : Int := 256 * (d.x0 + 64 * (n % d.across))
  let y0 : Int := 256 * (d.y0 + d.tileHeight * (n / d.across))
  p.pts.any (fun q => x0 ≤ q.1) && p.pts.any (fun q => q.1 < x0 + 256 * 64) &&
  p.pts.any (fun q => y0 ≤ q.2) && p.pts.any (fun q => q.2 < y0 + 256 * d.tileHeight)

/-- The tiles of the area that a primitive touches, ascending (R381, R383). -/
def Prim.tiles (p : Prim) (d : DrawDesc) : List Nat := (List.range (d.across * d.down)).filter (p.meets d)

/-- Is w positive? -/
def wPositive (w : Word) : Bool :=
  match Fmt.fp32.value w.toNat with
  | .nan => false
  | .inf neg => !neg
  | .fin neg m _ => !neg && m ≠ 0

/-- R383: the primitive with its vertices read, or `none` where it is discarded. -/
def State.binned (s : State) (d : DrawDesc) (p : Prim) : Option Prim :=
  let pos := p.verts.map (fun v => (s.slot? v).elim [0, 0, 0, 0] (fun sl => (List.range 4).map (fun i => sl.h.get (p.reg + i))))
  let pts := pos.filterMap (fun q => match snap (q.getD 0 0), snap (q.getD 1 0) with
    | some x, some y => some (x, y)
    | _, _ => none)
  let q : Prim := { p with binned := true, pts, zs := pos.map (fun q => q.getD 2 0), ws := pos.map (fun q => q.getD 3 0) }
  let odd := fun (z : Word) => (Fmt.fp32.value z.toNat).isNan || (Fmt.fp32.value z.toNat).isInf
  if pts.length ≠ 3 || q.zs.any odd || !q.ws.all wPositive || q.area = 0 ||
    (p.cull = 1 && q.area < 0) || (p.cull = 2 && 0 < q.area) || (q.tiles d).isEmpty then none
  else some q

/-- R383. PRIMITIVE_BINNING: a primitive whose three vertices have finished is binned, or is discarded and ends its claims; its lane may
complete either way. -/
def execPrimitiveBinning (prim : Nat) (s : State) : Out :=
  match findId Prim.id prim s.prims with
  | none => .next s
  | some p => match s.launch? p.launch with
    | none => .next s
    | some la =>
      let done := fun (v : Nat) => match s.elem? v with
        | some e => e.st = .finished
        | none => false
      if p.binned || !p.verts.all done then .next s
      else
        let s' := s.readyLane p.op p.lane []
        match s.binned la.rcd.draw p with
        | some q => .next { s' with prims := updId Prim.id prim (fun _ => q) s'.prims }
        | none => .next (({ s' with prims := delId Prim.id prim s'.prims }.endClaims p.claims).freeSlots)

/-! ### Coverage and depth (R386 to R388) -/

/-- R386: the sample offsets, in sixteenths of a pixel. -/
def sampleOffsets (n : Nat) : List (Nat × Nat) :=
  match n with
  | 1 => [(8, 8)]
  | 2 => [(4, 4), (12, 12)]
  | 4 => [(6, 2), (14, 6), (2, 10), (10, 14)]
  | _ => [(9, 5), (7, 11), (13, 9), (5, 3), (3, 13), (1, 7), (11, 15), (15, 1)]

/-- R387: is a point covered? -/
def Prim.covers (p : Prim) (at_ : Int × Int) : Bool :=
  let sg : Int := if 0 < p.area then 1 else -1
  let one := fun (i j : Nat) =>
    let v := edge (p.pt i) (p.pt j) at_
    let dy := (p.pt j).2 - (p.pt i).2
    let dx := (p.pt j).1 - (p.pt i).1
    decide (0 < sg * v) || (v = 0 && (decide (sg * dy < 0) || (dy = 0 && decide (0 < sg * dx))))
  one 1 2 && one 2 0 && one 0 1

/-- An exact quotient of integers, rounded once to FP32. -/
def quotient (n d : Int) : Word :=
  Fp.w (Fmt.fp32.roundQ .ne (n ≠ 0 && (decide (n < 0) != decide (d < 0))) n.natAbs d.natAbs 0)

/-- R388: b1 and b2 at a point. -/
def Prim.weights (p : Prim) (at_ : Int × Int) : Word × Word :=
  let v := p.edges at_
  (quotient v.2.1 p.area, quotient v.2.2 p.area)

/-- R388: zq at a point, where it lies in [0, 1]. -/
def Prim.depth (p : Prim) (b : Word × Word) : Option Word :=
  let z := fun (i : Nat) => p.zs.getD i 0
  let q := Fp.fma .ne b.2 (Fp.sub .ne (z 2) (z 0)) (Fp.fma .ne b.1 (Fp.sub .ne (z 1) (z 0)) (z 0))
  let v := Fmt.fp32.value q.toNat
  if v.isNan || v.lt (.fin false 0 0) || (Val.fin false 1 0).lt v then none else some q

/-- zq as a value. -/
def depthVal (w : Word) : Val := Fmt.fp32.value w.toNat

/-! ### The resolution of a pass (R384, R385, R388, R389) -/

/-- A winning sample: the primitive's place in the order of R388, pixel column and row, sample, b1, b2 and zq. -/
structure Winner where
  order : Nat
  px : Nat
  py : Nat
  s : Nat
  b : Word × Word
  zq : Word
  deriving DecidableEq, Repr

/-- R388: does a primitive come before another at one depth: by id, then by the index tuple of its emitter, then by lane? -/
def State.primBefore (s : State) (p q : Prim) : Bool :=
  let tup := fun (x : Prim) => (s.elem? x.emitter).elim [] (fun e => s.tuple e e.level)
  p.primId.toNat < q.primId.toNat || (p.primId = q.primId && (lexLt (tup p) (tup q) || (tup p = tup q && decide (p.lane < q.lane))))

/-- R388: the candidate that a sample takes from the primitives in order: the least zq, the first of equals. -/
def candidate (ps : List Prim) (px py s : Nat) (off : Nat × Nat) : Option Winner :=
  let at_ : Int × Int := ((256 * px + 16 * off.1 : Nat), (256 * py + 16 * off.2 : Nat))
  ps.zipIdx.foldl (fun (best : Option Winner) p =>
    if !p.1.covers at_ then best
    else
      let b := p.1.weights at_
      match p.1.depth b with
      | none => best
      | some zq =>
        let w : Winner := { order := p.2, px, py, s, b, zq }
        match best with
        | none => some w
        | some x => if (depthVal zq).lt (depthVal x.zq) then some w else best) none

/-- The key of a sample in the store of a frame element (R385). -/
def storeKey (d : DrawDesc) (frame px py s : Nat) : Nat := ((frame * d.height + (py - d.y0)) * d.width + (px - d.x0)) * 8 + s

/-- R385: the depth that a sample holds. -/
def Launch.depthAt (la : Launch) (key : Nat) : Word :=
  let v := la.depths.get key
  if v = 0 then la.rcd.draw.clear else v.setWidth 32

/-- R385: the id that a sample holds. -/
def Launch.idAt (la : Launch) (key : Nat) : Word :=
  let v := la.ids.get key
  if v = 0 then 0xFFFFFFFF else v.setWidth 32

/-- The samples of a tile, row by row, then by column and sample index. -/
def tileSamples (d : DrawDesc) (n : Nat) : List (Nat × Nat × Nat × (Nat × Nat)) :=
  let c0 := 64 * (n % d.across)
  let r0 := d.tileHeight * (n / d.across)
  (List.range (min d.tileHeight (d.height - r0))).flatMap (fun r =>
    (List.range (min 64 (d.width - c0))).flatMap (fun c =>
      (sampleOffsets d.samples).zipIdx.map (fun o => (d.x0 + c0 + c, d.y0 + r0 + r, o.2, o.1))))

/-- R388: the winners of a tile, and the store with them. -/
def resolveTile (la : Launch) (frame : Nat) (ps : List Prim) (n : Nat) : List Winner × Launch :=
  let d := la.rcd.draw
  (tileSamples d n).foldl (fun (acc : List Winner × Launch) q =>
    let key := storeKey d frame q.1 q.2.1 q.2.2.1
    match candidate ps q.1 q.2.1 q.2.2.1 q.2.2.2 with
    | none => acc
    | some w =>
      if (depthVal w.zq).lt (depthVal (acc.2.depthAt key)) then
        (acc.1 ++ [w], { acc.2 with depths := acc.2.depths.set key (1#1 ++ w.zq)
                                    ids := acc.2.ids.set key (1#1 ++ ((ps[w.order]?).map (·.primId)).getD 0) })
      else acc) ([], la)

/-- The coarse pixel of a sample, as (row, column) counted from the area's origin (R389). -/
def coarseOf (d : DrawDesc) (w : Winner) : Nat × Nat := ((w.py - d.y0) / d.coarse, (w.px - d.x0) / d.coarse)

/-- R389: the pairs of primitive and coarse pixel that have a winner in a tile, in order, each with its winners. -/
def coarsePixels (d : DrawDesc) (np : Nat) (ws : List Winner) : List (Nat × (Nat × Nat) × List Winner) :=
  (List.range np).flatMap (fun i =>
    let mine := ws.filter (fun w => w.order = i)
    let cs := (sortBy (fun (a b : Nat × Nat) => a.1 < b.1 || (a.1 = b.1 && decide (a.2 < b.2))) (mine.map (coarseOf d))).eraseDups
    cs.map (fun c => (i, c, mine.filter (fun w => coarseOf d w = c))))

/-- R389: the element of a coarse pixel. -/
def coarseBirth (d : DrawDesc) (p : Prim) (c : Nat × Nat) : Birth :=
  let x := d.x0 + c.2 * d.coarse
  let y := d.y0 + c.1 * d.coarse
  let b := p.weights ((256 * x + 128 * d.coarse : Nat), (256 * y + 128 * d.coarse : Nat))
  { idx := BitVec.ofNat 32 (c.1 * ((d.width + d.coarse - 1) / d.coarse) + c.2), parents := p.verts, depth := 0, primId := p.primId
    iw := p.ws.map (Fp.rcp .ne)
    init := [(0, b.1), (1, b.2), (2, BitVec.ofNat 32 x), (3, BitVec.ofNat 32 y), (4, p.primId)], claims := some p.claims }

/-- R389: the element of a winning sample. -/
def sampleBirth (d : DrawDesc) (p : Prim) (c : Nat × Nat) (parent : Nat) (w : Winner) : Birth :=
  let x := d.x0 + c.2 * d.coarse
  let y := d.y0 + c.1 * d.coarse
  { idx := BitVec.ofNat 32 (((w.py - y) * d.coarse + (w.px - x)) * d.samples + w.s), parents := [parent], depth := 0, primId := p.primId, iw := []
    init := [(0, w.b.1), (1, w.b.2), (2, BitVec.ofNat 32 w.px), (3, BitVec.ofNat 32 w.py), (4, BitVec.ofNat 32 w.s), (5, w.zq)], claims := none }

/-- R381: the core on which tile `n` is resolved. -/
def LaunchRec.tileCore (r : LaunchRec) (n : Nat) : Nat :=
  if (r.level r.rasterLevel).domain = 2 then r.draw.home / 4 * 4 + n % 4 else r.draw.home

/-- The blocks of RASTER elements: as many elements to a block as the domain allows (R146; assumption 21). -/
def State.rasterBlocks (s : State) (la : Launch) (level : Nat) (ids : List Nat) (core : Nat) : State :=
  let lv := la.rcd.level level
  (chunk (domainLimit lv.domain lv.width) ids.length ids).foldl (fun (s : State) part => s.newBlocks la level part (some core)) s

/-- R384, R389: one tile of a pass: its winners, and the elements that they create. -/
def State.resolveOne (s : State) (launch frame : Nat) (ps : List Prim) (n : Nat) : State :=
  match s.launch? launch with
  | none => s
  | some la =>
    let d := la.rcd.draw
    let k := la.rcd.rasterLevel
    let (ws, la) := resolveTile la frame (ps.map (fun p => if p.meets d n then p else { p with pts := [] })) n
    let s := s.updLaunch launch (fun _ => la)
    let cs := (coarsePixels d ps.length ws).filterMap (fun c => (ps[c.1]?).map (fun p => (p, c.2.1, c.2.2)))
    let (ids, s) := s.createElems launch k (cs.map (fun c => coarseBirth d c.1 c.2.1))
    let births := (cs.zip ids).flatMap (fun x => x.1.2.2.map (sampleBirth d x.1.1 x.1.2.1 x.2))
    let (sids, s) := s.createElems launch (k + 1) births
    (s.rasterBlocks la k ids (la.rcd.tileCore n)).rasterBlocks la (k + 1) sids (la.rcd.tileCore n)

/-- What may still create elements: an element, or one that is still to come into being, by what it has created already. -/
structure Maker where
  level : Nat
  /-- Its indices, down to its own level. -/
  tuple : List Nat
  depth : Nat
  emitted : Nat
  spawnedSame : Nat
  /-- Once it has executed EXIT, its FIXED children alone are still to come, so many of them (R98, R149). -/
  exited : Option Nat
  deriving DecidableEq, Repr

/-- An element as a maker. -/
def State.maker (s : State) (e : Elem) : Maker :=
  { level := e.level, tuple := s.tuple e e.level, depth := e.depth, emitted := e.emitted, spawnedSame := e.spawnedSame
    exited := if e.exited then some e.count else none }

/-- The least tuples of what a maker may still create, by itself or through what it creates: children of the next level, which FIXED, and SPAWN through its
own SPAWN.SAME, number from 0 and EMIT from what has been emitted; and children of its own level, where it is SPAWNED, of which one of depth 8 is the
last (R148, R177, R178). -/
def Maker.creates (r : LaunchRec) (x : Maker) : List (List Nat) :=
  let next := r.level (x.level + 1)
  let live := x.exited.isNone
  (if (r.level x.level).gen = 3 && decide (x.depth < 8) && live then [x.tuple.take x.level ++ [if x.depth < 7 then 0 else x.spawnedSame]] else []) ++
  (if !next.present then [] else match next.gen with
    | 0 => if x.exited.elim (next.countSrc || next.count ≠ 0) (fun n => n ≠ 0) then [x.tuple ++ [0]] else []
    | 1 => if live then [x.tuple ++ [x.emitted]] else []
    | 2 => []
    | _ => if live then [x.tuple ++ [0]] else [])

/-- R384: could a maker at a level coarser than the pass level still create a pass before the one with this tuple? -/
def Maker.createsBefore (r : LaunchRec) (x : Maker) (tp : List Nat) : Bool :=
  (x.creates r).any (fun c => lexLt (c ++ List.replicate (tp.length - c.length) 0) tp)

/-- The elements of a launch that are still to come into being, with their parents: the rays of a TRACE that has not ended (R399), and constraints that have
been pushed (R367). -/
def State.comers (s : State) (launch : Nat) : List (Maker × Nat) :=
  let fresh := fun (level depth : Nat) (tuple : List Nat) => ({ level, tuple, depth, emitted := 0, spawnedSame := 0, exited := none } : Maker)
  let ray := fun (same : Bool) (x : Ray) => (s.elem? x.elem).bind (fun e =>
    let t := s.tuple e e.level
    if e.launch = launch then some (fresh (if same then e.level else e.level + 1) x.depth ((if same then t.take e.level else t) ++ [x.idx.toNat]), e.id) else none)
  let pushed := fun (level pusher seq : Nat) => (s.elem? pusher).map (fun e => (fresh (level + 1) 0 (s.tuple e level ++ [seq]), pusher))
  s.raySets.flatMap (fun rs => rs.rays.filterMap (ray rs.same)) ++
  (s.streams.filter (fun t => t.launch = launch)).flatMap (fun t => t.window.filterMap (fun c => pushed t.level c.pusher c.seq) ++
    t.pushes.zipIdx.filterMap (fun c => pushed t.level c.1.pusher (t.seq + c.2)))

/-- Is an element another, or a descendant of it? The fuel bounds the number of generations: 8 levels and 8 depths. -/
def State.descends (s : State) (k : Nat) : Nat → Nat → Bool
  | 0, _ => false
  | fuel + 1, e => e = k || (match s.elem? e with
    | some x => x.parents.any (s.descends k fuel)
    | none => false)

/-- Generations that an element can have. -/
def generations : Nat := 80

/-- R384: does what is not finished hold a pass back: as the pass or a descendant of it (`own`), down to the vertex level, or since it belongs to, or could
still create, an earlier pass? -/
def holdsPass (r : LaunchRec) (tp : List Nat) (x : Maker) (own : Bool) : Bool :=
  if r.draw.pass ≤ x.level then x.level < r.rasterLevel && (own || lexLt (x.tuple.take (r.draw.pass + 1)) tp) else x.createsBefore r tp

/-- R384: the unfinished elements that hold a pass back. -/
def State.passWaits (s : State) (la : Launch) (p : Elem) : List Elem :=
  s.elems.filter (fun e => e.launch = la.id && e.st ≠ .finished &&
    holdsPass la.rcd (s.tuple p la.rcd.draw.pass) (s.maker e) (s.descends p.id generations e.id))

/-- R384: the same of elements that are still to come. -/
def State.passAwaits (s : State) (la : Launch) (p : Elem) : Bool :=
  (s.comers la.id).any (fun x => holdsPass la.rcd (s.tuple p la.rcd.draw.pass) x.1 (s.descends p.id generations x.2))

/-- R384: the primitives of a pass. -/
def State.passPrims (s : State) (la : Launch) (pass : Nat) : List Prim :=
  s.prims.filter (fun q => q.launch = la.id && ((s.elem? q.emitter).bind (s.passOf la.rcd)).map (·.id) = some pass)

/-- R384: may a pass resolve? -/
def State.passReady (s : State) (la : Launch) (p : Elem) : Bool :=
  let lv := la.rcd.draw.pass
  p.level = lv && !la.passes.contains p.id && (s.passWaits la p).isEmpty && !s.passAwaits la p &&
  s.prims.all (fun q => q.launch ≠ la.id || q.binned || !s.descends p.id generations q.emitter) &&
  s.elems.all (fun q => !(q.launch = la.id && q.level = lv && lexLt (s.tuple q lv) (s.tuple p lv)) || la.passes.contains q.id)

/-- R384, R385, R389. PASS_RESOLUTION: a complete pass is resolved tile by tile, in tile order; its primitives are done, and their claims end. -/
def execPassResolution (launch pass : Nat) (s : State) : Out :=
  match s.launch? launch, s.elem? pass with
  | some la, some p =>
    if !la.rcd.draw.present || la.st ≠ .running || p.launch ≠ launch || !s.passReady la p then .next s
    else
      let ps := sortBy s.primBefore (s.passPrims la pass)
      let frame := ((s.ancestor p 0).map (·.id)).getD 0
      let tiles := (List.range (la.rcd.draw.across * la.rcd.draw.down)).filter (fun n => ps.any (fun q => q.meets la.rcd.draw n))
      let s := tiles.foldl (fun (s : State) n => s.resolveOne launch frame ps n) s
      let gone := ps.map (·.id)
      let s := { s with prims := s.prims.filter (fun q => !gone.contains q.id) }
      let s := ((s.endClaims (ps.flatMap (·.claims))).freeSlots)
      .next (s.updLaunch launch (fun la => { la with passes := la.passes ++ [pass] }))
  | _, _ => .next s

end Sys2Proof.Machine
end

