-- ==== Sys2Proof/Machine/Texture.lean ====
section
/-!
DEFINITION. Textures (R402, R403): TEX, TEXL and TEXF, and the filter that the alpha test of R396 shares.
-/
namespace Sys2Proof.Machine

/-! ### The sampler word and the handle (R402) -/

/-- R402: a sampler word without reserved bits and without reserved wrap codes. -/
def samplerOk (w : Word) : Bool := bitsOf w.toNat 31 8 = 0 && bitsOf w.toNat 3 2 ≤ 1 && bitsOf w.toNat 1 0 ≤ 1
/-- Its level count. -/
def samplerLevels (w : Word) : Nat := bitsOf w.toNat 7 4 + 1

/-- R402: the checks of a handle K over its `n` levels: cause and word. -/
def handleFault (lay : Nat → BitVec 512) (k n : Nat) : Option (Nat × Word) :=
  let odd := fun (i : Nat) =>
    let m := lay (k + i)
    !layValid m || layRank m ≠ 2 || layCode m < 2 || layCode m > 4 || layCode m ≠ layCode (lay k)
  let shut := fun (i : Nat) => laySpace (lay (k + i)) ≠ spTexture || !layR (lay (k + i))
  if k + n > 256 then some (Cause.bounds, boundsInfo 0 false 7 k)
  else match (List.range n).find? odd with
    | some i => some (Cause.bounds, boundsInfo 0 false 7 (k + i))
    | none => ((List.range n).find? shut).map (fun i => (Cause.permission, boundsInfo 0 false 0 (k + i)))

/-! ### Texels and the filter (R403) -/

/-- One texel that takes part: its level, its weight in units of 2^−24, its column and its row. -/
structure Tap where
  level : Nat
  weight : Nat
  i : Nat
  j : Nat
  deriving DecidableEq, Repr

/-- R403: channel `c` of a texel of element code `code`, times 255 where it is UNORM8. -/
def texChannel (code x c : Nat) : Val :=
  match code with
  | 2 => Val.int (x / 2 ^ (8 * c) % 256 : Nat)
  | 3 => Fmt.fp16.value (x / 2 ^ (16 * c) % 2 ^ 16)
  | _ => Fmt.fp32.value (x / 2 ^ (32 * c) % 2 ^ 32)

/-- A value times a natural. -/
def Val.times (n : Nat) : Val → Val
  | .fin s m e => .fin s (m * n) e
  | v => v

/-- R403: the exact weighted sum of texels, each with its weight, rounded once. -/
def texBlend (code c : Nat) (ts : List (Nat × Nat)) : Word :=
  if ts.isEmpty then 0
  else match Fp.exactSum (ts.map (fun t => Val.times t.1 (texChannel code t.2 c))) with
    | .fin s m e => Fp.w (Fmt.fp32.roundQ .ne s m (if code = 2 then 255 else 1) (e - 24))
    | v => Fp.rnd .ne v

/-- A finite coordinate as it is, and any other as 0, as a value (R403). -/
def texCoord (x : Word) : Val :=
  match Fp.val x with
  | .fin s m e => .fin s m e
  | _ => .fin false 0 0

/-- floor(x × n × 2^k) of a finite value. -/
def floorScaled (x : Val) (n k : Nat) : Int :=
  match x with
  | .fin s m e =>
    let q := scaleQuot (m * n) 1 (e + k)
    let t : Int := q.1
    (if s then -t else t) / (q.2 : Int)
  | _ => 0

/-- An index clamped, or reduced under repeat. -/
def texIndex (rep : Bool) (size : Nat) (i : Int) : Nat :=
  if rep then (i % (size : Int)).toNat else (satInt i 0 ((size : Int) - 1)).toNat

/-- R403: the two texels along one axis, each with its weight of 256. -/
def texAxis (rep : Bool) (size : Nat) (x : Word) : List (Nat × Nat) :=
  let f := floorScaled (texCoord x) size 8 - 128
  let a := (f % 256).toNat
  let i := f / 256
  [(texIndex rep size i, 256 - a), (texIndex rep size (i + 1), a)].filter (fun c => c.2 ≠ 0)

/-- R403: the texels of a level that take part at (u, v), the level itself weighing `g` of 256. -/
def texTaps (lay : BitVec 512) (sampler : Word) (level g : Nat) (u v : Word) : List Tap :=
  if g = 0 then []
  else
    let xs := texAxis (bitsOf sampler.toNat 1 0 = 1) (layExt lay 0) u
    let ys := texAxis (bitsOf sampler.toNat 3 2 = 1) (layExt lay 1) v
    ys.flatMap (fun y => xs.map (fun x => { level, weight := g * x.2 * y.2, i := x.1, j := y.1 }))

/-- R403: TEX's λ in units of 1/256, clamped to the levels. -/
def texLambda (levels : Nat) (x : Word) : Nat :=
  match Fp.val x with
  | .nan => 0
  | .inf s => if s then 0 else 256 * (levels - 1)
  | .fin s m e => (satInt (floorScaled (.fin s m e) 1 8) 0 (256 * (levels - 1) : Nat)).toNat

/-! ### The instructions -/

/-- A lane's texel reads, as checks. -/
def tapChecks (s : State) (e : Env) (k : Nat) (ts : List Tap) : List (Nat × Chk) :=
  ts.map (fun t => (t.weight, s.access e (k + t.level) [t.i, t.j] (layElem (e.layout k)) 0 false))

/-- A texture instruction: the sampler word, the handle, the coordinates by `taps` (a word of BOUNDS, or the texels), then the reads, all or
nothing (R402, R403). -/
def sampleOp (op : Op) (f : Form) (s : State) (taps : Env → Word → Nat → Lane → Except Word (List Tap)) : Out :=
  runOp op f s (fun e =>
    let k := layC f
    let sw := fun (c : Nat × Lane) => s.src e .int c.1 c.2 f.b
    let shape := e.lanes.map (fun c => (c.1, k, match handleFault e.layout k (samplerLevels (sw c)) with
      | some (cause, w) => Chk.bad cause w
      | none => match taps e (sw c) c.1 c.2 with
        | .error w => Chk.bad Cause.bounds w
        | .ok _ => Chk.skip))
    let mine := fun (l : Nat) (ln : Lane) => match taps e (sw (l, ln)) l ln with
      | .error _ => []
      | .ok ts => tapChecks s e k ts
    match verdict shape with
    | .trap cause info lanes => .trap cause info lanes
    | _ =>
      let cs := e.lanes.flatMap (fun c => (mine c.1 c.2).map (fun t => (c.1, k, t.2)))
      s.allOrNothing e cs (fun _ =>
        let code := layCode (e.layout k)
        .ok (s.addOp e f .completed (fun l ln =>
          let ts := (mine l ln).map (fun t => (t.1, s.chkLoad t.2))
          (.ready, (LaneRes.of ((List.range 4).map (fun c => texBlend code c ts))).writes f))).2))
    (laneForm (fun e l ln => s.readable e ln f.b && !samplerOk (s.src e .int l ln f.b)))

/-- R403. TEX: trilinear between the two levels that λ lies between. -/
def execTex (f : Form) (s : State) : Out :=
  sampleOp .tex f s (fun e w l ln =>
    let r := fun (i : Nat) => s.srcAt e .fp l ln i f.a
    let n := samplerLevels w
    let x := texLambda n (r 2)
    let l0 := x / 256
    let g := if l0 = n - 1 then 0 else x % 256
    .ok (texTaps (e.layout (layC f + l0)) w l0 (256 - g) (r 0) (r 1) ++ texTaps (e.layout (layC f + l0 + 1)) w (l0 + 1) g (r 0) (r 1)))

/-- R403. TEXL: one level, bilinear. -/
def execTexl (f : Form) (s : State) : Out :=
  sampleOp .texl f s (fun e w l ln =>
    let r := fun (i : Nat) => s.srcAt e .fp l ln i f.a
    let lv := (r 2).toNat
    if samplerLevels w ≤ lv then .error (boundsInfo 0 false 7 (layC f))
    else .ok (texTaps (e.layout (layC f + lv)) w lv 256 (r 0) (r 1)))

/-- R403. TEXF: one texel; with .Z, coordinates beyond the extent or the level count give 0.0. -/
def execTexf (f : Form) (s : State) : Out :=
  sampleOp .texf f s (fun e w l ln =>
    let r := fun (i : Nat) => (s.srcAt e .int l ln i f.a).toNat
    let k := layC f + r 2
    if samplerLevels w ≤ r 2 then (if f.mod.getLsbD 0 then .ok [] else .error (boundsInfo 0 false 7 (layC f)))
    else if r 0 ≥ layExt (e.layout k) 0 then (if f.mod.getLsbD 0 then .ok [] else .error (boundsInfo 0 false 0 k))
    else if r 1 ≥ layExt (e.layout k) 1 then (if f.mod.getLsbD 0 then .ok [] else .error (boundsInfo 0 false 1 k))
    else .ok [{ level := r 2, weight := 2 ^ 24, i := r 0, j := r 1 }])

end Sys2Proof.Machine
end

