-- ==== Sys2Proof/Machine/Rays.lean ====
section
/-!
DEFINITION. Rays (R392 to R401): TRACE, the traversal of a bounding-volume hierarchy by the traversal unit, and RETV. The tests are exact: a
finite FP32 value is the integer that it is a multiple of 2^−149 of.
-/
namespace Sys2Proof.Machine

/-! ### Exact values -/

/-- A finite FP32 value in units of 2^−149; 0 for any other. -/
def fixedOf (x : Word) : Int :=
  match Fp.val x with
  | .fin s m e => finAt s m e (-149)
  | _ => 0

/-- Is the value finite? -/
def isFin (x : Word) : Bool :=
  match Fp.val x with
  | .fin _ _ _ => true
  | _ => false

/-- A point on a ray: an exact quotient, or beyond every number. -/
inductive Dist where
  | below
  | at_ (n : Int) (d : Nat)
  | above
  deriving DecidableEq, Repr

/-- Strict order of distances. -/
def Dist.lt : Dist → Dist → Bool
  | .below, .below => false
  | .below, _ => true
  | _, .below => false
  | .above, _ => false
  | .at_ _ _, .above => true
  | .at_ n d, .at_ m c => decide (n * (c : Int) < m * (d : Int))

def Dist.max (a b : Dist) : Dist := if a.lt b then b else a
def Dist.min (a b : Dist) : Dist := if b.lt a then b else a

/-- An FP32 value as a distance; NaN does not occur. -/
def Dist.ofWord (x : Word) : Dist :=
  match Fp.val x with
  | .nan => .below
  | .inf s => if s then .below else .above
  | .fin s m e => .at_ (finAt s m e (-149)) (2 ^ 149)

/-- R394: (x − o) / d on one axis, for a bound x that may be infinite and d ≠ 0. -/
def Dist.slab (x : Word) (o d : Int) : Dist :=
  match Fp.val x with
  | .nan => .below
  | .inf s => if s = decide (d < 0) then .above else .below
  | .fin s m e =>
    let n := finAt s m e (-149) - o
    if d < 0 then .at_ (-n) d.natAbs else .at_ n d.natAbs

/-- The distance rounded to FP32. -/
def Dist.round : Dist → Val
  | .below => .inf true
  | .above => .inf false
  | .at_ n d => Fp.val (quotient n d)

/-! ### Rays and boxes (R394) -/

/-- A ray: origin and direction as given and in units of 2^−149, and its interval. -/
structure RayLine where
  raw : List Word
  o : List Int
  d : List Int
  lo : Word
  hi : Word
  deriving DecidableEq, Repr

/-- The ray of a run of ten registers. -/
def rayLine (r : List Word) : RayLine :=
  { raw := r.take 6, o := (List.range 3).map (fun i => fixedOf (r.getD i 0)), d := (List.range 3).map (fun i => fixedOf (r.getD (3 + i) 0))
    lo := r.getD 6 0, hi := r.getD 7 0 }

/-- R394: inputs that give a miss with no node read. -/
def rayMisses (r : List Word) : Bool :=
  (r.take 8).any (fun x => (Fp.val x).isNan) || ((r.drop 3).take 3).all (fun x => (Fp.val x).isZero) ||
  (Fp.val (r.getD 7 0)).lt (Fp.val (r.getD 6 0))

/-- Are the origin and the direction of a ray finite on an axis? -/
def RayLine.real (r : RayLine) (a : Nat) : Bool := isFin (r.raw.getD a 0) && isFin (r.raw.getD (3 + a) 0)

/-- Is an input of the ray infinite, other than an end of its interval? Such a ray has no real values to test a triangle with. -/
def rayInfinite (r : List Word) : Bool := (r.take 6).any (fun x => (Fp.val x).isInf)

/-- R394: the box test: the entry distance, exact, of a box that is hit. An axis with d = 0 is compared with the origin, an infinite one too. What the slab of
another axis gives where the ray is infinite there is free (assumption 10). -/
def RayLine.box (r : RayLine) (b : List Word) : Option Dist :=
  let mn := fun (a : Nat) => b.getD a 0
  let mx := fun (a : Nat) => b.getD (3 + a) 0
  let axes := [0, 1, 2]
  let bad := b.any (fun x => (Fp.val x).isNan) || axes.any (fun a => (Fp.val (mx a)).lt (Fp.val (mn a)))
  let flat := axes.filter (fun a => (Fp.val (r.raw.getD (3 + a) 0)).isZero)
  let outside := flat.any (fun a =>
    let o := Dist.ofWord (r.raw.getD a 0)
    o.lt (Dist.ofWord (mn a)) || (Dist.ofWord (mx a)).lt o)
  if bad || outside then none
  else
    let slabs := (axes.filter (fun a => !flat.contains a)).map (fun a =>
      if r.real a then
        let p := Dist.slab (mn a) (r.o.getD a 0) (r.d.getD a 0)
        let q := Dist.slab (mx a) (r.o.getD a 0) (r.d.getD a 0)
        (p.min q, p.max q)
      else
        let x := Config.looseSlab (r.raw.getD a 0) (r.raw.getD (3 + a) 0) (mn a) (mx a)
        (Dist.ofWord x.1, Dist.ofWord x.2))
    let near := slabs.foldl (fun (t : Dist) c => t.max c.1) (Dist.ofWord r.lo)
    let far := slabs.foldl (fun (t : Dist) c => t.min c.2) (Dist.ofWord r.hi)
    if far.lt near then none else some near

/-! ### Triangles (R393, R394) -/

def cross (a b : List Int) : List Int :=
  let x := fun (i : Nat) => a.getD i 0
  let y := fun (i : Nat) => b.getD i 0
  [x 1 * y 2 - x 2 * y 1, x 2 * y 0 - x 0 * y 2, x 0 * y 1 - x 1 * y 0]
def dot (a b : List Int) : Int := (List.zipWith (· * ·) a b).foldl (· + ·) 0
def minus (a b : List Int) : List Int := List.zipWith (· - ·) a b

/-- Lexicographic order of points. -/
def pointLt : List Int → List Int → Bool
  | x :: xs, y :: ys => decide (x < y) || (x = y && pointLt xs ys)
  | _, _ => false

/-- A leaf (R393), as one number. -/
abbrev Leaf := BitVec 512
/-- Word `i` of a leaf. -/
def Leaf.word (b : Leaf) (i : Nat) : Word := b.extractLsb' (32 * i) 32
/-- Vertex `i`. -/
def Leaf.vertex (b : Leaf) (i : Nat) : List Int := (List.range 3).map (fun a => fixedOf (Leaf.word b (3 * i + a)))
/-- Half `i` of the texture coordinates, as FP32. -/
def Leaf.half (b : Leaf) (lo : Nat) : Word := Fp.rnd .ne (Fmt.fp16.value (b.extractLsb' lo 16).toNat)
/-- Are all coordinates of the triangle finite? -/
def Leaf.finite (b : Leaf) : Bool := (List.range 9).all (fun i => isFin (Leaf.word b i))

/-- What a ray meets: t, b1, b2 and the sign of R394. -/
structure Meet where
  t : Word
  b1 : Word
  b2 : Word
  front : Bool
  deriving DecidableEq, Repr

/-- R394: does a distance lie in the interval of a ray? -/
def RayLine.within (r : RayLine) (t : Word) : Bool := !(Fp.val t).isNan && !(Fp.val t).lt (Fp.val r.lo) && !(Fp.val r.hi).lt (Fp.val t)

/-- R394: the triangle test. -/
def RayLine.triangle (r : RayLine) (b : Leaf) : Option Meet :=
  let v := Leaf.vertex b
  let e := fun (i j : Nat) => dot r.d (cross (minus (v i) r.o) (minus (v j) r.o))
  let edges := [(1, 2), (2, 0), (0, 1)]
  let es := edges.map (fun c => e c.1 c.2)
  let sum : Int := es.foldl (· + ·) 0
  let front := decide (0 < sum)
  let owned := edges.all (fun c => e c.1 c.2 ≠ 0 || (if front then pointLt (v c.1) (v c.2) else pointLt (v c.2) (v c.1)))
  let n := cross (minus (v 1) (v 0)) (minus (v 2) (v 0))
  let dn := dot r.d n
  if !(es.all (fun x => decide (0 ≤ x)) || es.all (fun x => decide (x ≤ 0))) || es.all (· = 0) || !owned || dn = 0 then none
  else
    let t := quotient (dot (minus (v 0) r.o) n) dn
    if (Fp.val t).lt (Fp.val r.lo) || (Fp.val r.hi).lt (Fp.val t) then none
    else some { t, b1 := quotient (e 2 0) sum, b2 := quotient (e 0 1) sum, front }

/-! ### Traversal (R395 to R397) -/

/-- A hit found so far: what is met, and the leaf's position. -/
structure RayHit where
  m : Meet
  leaf : Leaf
  at_ : Nat
  deriving DecidableEq, Repr

/-- How a traversal ends. -/
inductive Traversed where
  | done (hit : Option RayHit)
  /-- R397, R292: malformed, or a read that fails, with its reason. -/
  | failed (reason : Nat)
  /-- R431. -/
  | wait (va level reason layout : Nat)
  | stop (a : Nat)

/-- Does a new hit of .CLOSEST replace the one kept (R395)? -/
def RayHit.nearer (x y : RayHit) : Bool :=
  (Fp.val x.m.t).lt (Fp.val y.m.t) || ((Fp.val x.m.t).eqv (Fp.val y.m.t) && decide ((Leaf.word x.leaf 9).toNat < (Leaf.word y.leaf 9).toNat))

/-- What traversal reads with: the state, the ray and its group. -/
structure Walker where
  s : State
  la : Launch
  g : Group
  ray : Ray

/-- A read of `n` elements of the BVH from element `at_` up, as one number. -/
def Walker.read (w : Walker) (first n : Nat) : Except Traversed Nat :=
  let cs := (List.range n).map (fun i => w.s.engGlobal w.ray.op w.la.tenant w.ray.bvh
    (wrap 64 (layAddr w.ray.bvh [first + i])).toNat 16 false false)
  let failed := cs.findSome? (fun c => match c with
    | .ok _ => none
    | .fail reason _ => some (Traversed.failed reason)
    | .wait va level reason => some (Traversed.wait va level reason w.ray.entry)
    | .stop a => some (Traversed.stop a))
  match failed with
  | some t => .error t
  | none => .ok (w.s.load (cs.flatMap (fun c => match c with
      | .ok as => as
      | _ => [])))

/-- R396: the alpha test of a hit. -/
def Walker.alpha (w : Walker) (b : Leaf) (m : Meet) : Except Traversed Bool :=
  let k := (b.extractLsb' 320 8).toNat
  let lay := layoutOf w.la w.g k
  let at_ := fun (j : Nat) =>
    let v := fun (i : Nat) => Leaf.half b (368 + 32 * i + 16 * j)
    let x := Fp.fma .ne m.b1 (Fp.sub .ne (v 1) (v 0)) (v 0)
    Fp.fma .ne m.b2 (Fp.sub .ne (v 2) (v 0)) x
  match handleFault (layoutOf w.la w.g) k 1 with
  | some _ => .error (.failed 5)
  | none =>
    let ts := texTaps lay 0 0 256 (at_ 0) (at_ 1)
    let rs := ts.map (fun t => (t.weight, w.s.engGlobal w.ray.op w.la.tenant lay (wrap 64 (layAddr lay [t.i, t.j])).toNat (layElem lay) false false))
    let failed := rs.findSome? (fun c => match c.2 with
      | .ok _ => none
      | .fail reason _ => some (Traversed.failed reason)
      | .wait va level reason => some (Traversed.wait va level reason k)
      | .stop a => some (Traversed.stop a))
    match failed with
    | some t => .error t
    | none =>
      let a := texBlend (layCode lay) 3 (rs.map (fun c => (c.1, match c.2 with
        | .ok as => w.s.load as
        | _ => 0)))
      .ok (!(Fp.val a).isNan && !(Fp.val (Leaf.half b 352)).isNan && !(Fp.val a).lt (Fp.val (Leaf.half b 352)))

/-- The meeting of a ray with a leaf: where the ray or the triangle has no real values, whether it is met, and where in the ray's interval, is free
(assumption 10); it depends on the ray and the leaf only (R395). -/
def Walker.meet (w : Walker) (b : Leaf) : Option Meet :=
  let r := rayLine w.ray.inputs
  if Leaf.finite b && !rayInfinite w.ray.inputs then r.triangle b
  else (Config.looseMeet (w.ray.inputs.take 8) b).bind (fun x =>
    if r.within x.1 then some { t := x.1, b1 := x.2.1, b2 := x.2.2.1, front := x.2.2.2 } else none)

/-- A reference to be visited: itself, its entry distance (none for the root), and the inner nodes on the path to it. -/
structure Visit where
  ref : BitVec 64
  dist : Option Val
  depth : Nat
  deriving DecidableEq, Repr

/-- The hit children of an inner node that are not empty, nearest first, ties to the lower slot (R392, R395). -/
def nodeVisits (r : RayLine) (x depth : Nat) : List Visit :=
  let n : BitVec 1024 := BitVec.ofNat 1024 x
  let kids := (List.range 4).filterMap (fun i =>
    let ref := n.extractLsb' (768 + 64 * i) 64
    if ref.extractLsb' 62 2 = 0 then none
    else (r.box ((List.range 6).map (fun k => n.extractLsb' (192 * i + 32 * k) 32))).map (fun d => (ref, d.round)))
  (sortBy (fun (a b : BitVec 64 × Val) => a.2.lt b.2) kids).map (fun c => { ref := c.1, dist := some c.2, depth })

/-- R395: one leaf visited: the hit kept afterwards, and whether .FIRST ends here. -/
def Walker.leaf (w : Walker) (pos : Nat) (best : Option RayHit) : Except Traversed (Option RayHit × Bool) :=
  match w.read (4 * pos) 4 with
  | .error t => .error t
  | .ok x =>
    let b : Leaf := BitVec.ofNat 512 x
    match w.meet b with
    | none => .ok (best, false)
    | some m =>
      if b.getLsbD 465 && !m.front then .ok (best, false)
      else match (if b.getLsbD 464 then w.alpha b m else .ok true) with
        | .error t => .error t
        | .ok false => .ok (best, false)
        | .ok true =>
          let h : RayHit := { m, leaf := b, at_ := pos }
          if w.ray.first then .ok (some h, true)
          else .ok (match best with
            | none => some h
            | some y => if h.nearer y then some h else best, false)

/-- Is a child farther than the best hit of .CLOSEST (R395)? -/
def Visit.skipped (v : Visit) (best : Option RayHit) : Bool :=
  match v.dist, best with
  | some d, some h => (Fp.val h.m.t).lt d
  | _, _ => false

/-- R395, R397: traversal from a stack. -/
def Walker.go (w : Walker) : Nat → List Visit → Option RayHit → Traversed
  | 0, _, best => .done best
  | _ + 1, [], best => .done best
  | fuel + 1, v :: stack, best =>
    let kind := (v.ref.extractLsb' 62 2).toNat
    let pos := (v.ref.extractLsb' 0 62).toNat
    let ext := layExt w.ray.bvh 0
    if v.skipped best || kind = 0 then w.go fuel stack best
    else if kind = 3 || 4 * pos + (if kind = 1 then 8 else 4) > ext || (kind = 1 && v.depth ≥ 32) then .failed 5
    else if kind = 1 then
      match w.read (4 * pos) 8 with
      | .error t => t
      | .ok x => w.go fuel (nodeVisits (rayLine w.ray.inputs) x (v.depth + 1) ++ stack) best
    else match w.leaf pos best with
      | .error t => t
      | .ok (best, true) => .done best
      | .ok (best, false) => w.go fuel stack best

/-- R400: v0 to v6 of a ray element without a hit, of kind 0 (miss) or 2 (malformed). -/
def missRegs (kind : Word) (hi : Word) : List Word := [kind, hi, 0, 0, 0xFFFFFFFF, 0, 0]
/-- R400: v0 to v6 after a hit. -/
def hitRegs (h : RayHit) : List Word :=
  [1, h.m.t, h.m.b1, h.m.b2, Leaf.word h.leaf 9, BitVec.ofNat 32 h.at_, (h.leaf.extractLsb' 464 16).setWidth 32]

/-- The whole traversal of a ray, with fuel beyond the number of visits that 32 inner nodes of four children allow. -/
def Walker.traverse (w : Walker) : Traversed :=
  let r := w.ray.inputs
  if rayMisses r then .done none
  else w.go (2 ^ 70) [{ ref := r.getD 9 0 ++ r.getD 8 0, dist := none, depth := 0 }] none

/-! ### TRACE and the creation of ray elements (R399, R400) -/

/-- R399: the checks of the BVH's layout. -/
def bvhFault (m : BitVec 512) (k : Nat) : Option (Nat × Word) :=
  let sp := laySpace m
  if !layValid m then some (Cause.bounds, boundsInfo 0 true 0 k)
  else if layRank m ≠ 1 || layCode m ≠ 4 then some (Cause.bounds, boundsInfo 0 false 7 k)
  else if !(sp = spGlobal || sp = spTexture || sp = spPeer) || !layR m then some (Cause.permission, boundsInfo 0 false 0 k)
  else none

/-- R399. TRACE: one ray for each lane of X whose depth does not pass 8; sub-operation 0 .CLOSEST, 1 .FIRST. -/
def execTrace (f : Form) (s : State) : Out :=
  runOp .trace f s (fun e =>
    let same := decide ((e.rcd.level e.g.level).gen = 3)
    let k := layC f
    match bvhFault (e.layout k) k with
    | some (cause, w) => .trap cause w e.x
    | none =>
      let ok := fun (ln : Lane) => (s.laneElem ln).elim false (fun el => decide (childDepth same el ≤ 8))
      let s0 := s
      let s := s.writeRegs e.gid (e.writes f (fun _ ln => .pred (ok ln)))
      let (op, s) := s.addOp e f .held (fun _ ln => (if ok ln then .trace else .ready, []))
      let s := (s.updOp op (fun o => { o with run := Opnd.first f.b, dst := none })).doneAtIssue e f op (e.where_ (fun _ ln => !ok ln))
      let ray := fun (c : Nat × Lane) => match s0.laneElem c.2 with
        | none => none
        | some el =>
          if childDepth same el > 8 then none
          else some ({ op, lane := c.1, elem := el.id, bvh := e.layout k, entry := k, first := f.mod = 1
                       inputs := (List.range 10).map (fun i => s0.srcAt e .fp c.1 c.2 i f.a)
                       payload := (List.range 4).map (fun i => s0.srcAt e .int c.1 c.2 i f.b)
                       idx := BitVec.ofNat 32 (el.spawned same), depth := childDepth same el, claims := s0.claimsOf [el.id], result := none } : Ray)
      let rays := e.lanes.filterMap ray
      let s := rays.foldl (fun (s : State) r => (s.addClaims r.claims).updElem r.elem (·.countSpawn same)) s
      .ok (if rays.isEmpty then s else { s with raySets := s.raySets ++ [{ op, group := e.gid, lanes := e.r.lanes, same, rays }] }))
    (ownForm 4 (fun e => e.notSpawned (if (e.rcd.level e.g.level).gen = 3 then e.g.level else e.g.level + 1)))

/-- R400: the element of a traversed ray. -/
def Ray.birth (r : Ray) : Birth :=
  let regs := r.result.getD [] ++ [BitVec.ofNat 32 r.depth] ++ r.payload ++ r.inputs.take 8
  { idx := r.idx, parents := [r.elem], depth := r.depth, primId := 0, iw := [], init := regs.zipIdx.map (fun x => (x.2, x.1)), claims := some r.claims }

/-- R399, R400: once every ray of a TRACE has been traversed, their elements are created, in lane order, as one block. -/
def State.createRays (s : State) (la : Launch) (g : Group) (rs : RaySet) : State :=
  if rs.rays.all (fun r => r.result.isSome) then
    let (ids, s) := s.create la (if rs.same then g.level else g.level + 1) (rs.rays.map (·.birth)) (some g.core)
    let s := s.passClaims (rs.rays.flatMap (·.claims))
    let child := fun (l : Nat) => (((rs.rays.map (·.lane)).zip ids).find? (fun c => c.1 = l)).map (·.2)
    let s := s.updOp rs.op (fun o => { o with lanes := o.lanes.map (fun l => match child l.lane with
      | some k => { l with cond := .child k }
      | none => l) })
    { s with raySets := s.raySets.filter (fun (r : RaySet) => r.op ≠ rs.op) }
  else s

/-- One ray of a set has its result. -/
def RaySet.settle (rs : RaySet) (lane : Nat) (regs : List Word) : RaySet :=
  { rs with rays := rs.rays.map (fun r => if r.lane = lane then { r with result := some regs } else r) }

/-- The result of a ray, stored with its set. -/
def State.settleRay (s : State) (la : Launch) (g : Group) (rs : RaySet) (lane : Nat) (regs : List Word) : State :=
  let rs := rs.settle lane regs
  ({ s with raySets := s.raySets.map (fun (r : RaySet) => if r.op = rs.op then rs else r) }).createRays la g rs

/-- R395 to R397, R400. TRAVERSAL_COMPLETION: one ray's traversal ends, and the elements of its TRACE come into being once it was the last. -/
def execTraversalCompletion (op lane : Nat) (s : State) : Out :=
  match s.raySets.find? (fun r => r.op = op) with
  | none => .next s
  | some rs =>
    match rs.rays.find? (fun r => r.lane = lane && r.result.isNone), s.group? rs.group with
    | some ray, some g => match s.launch? g.launch with
      | none => .next s
      | some la =>
        let hi := ray.inputs.getD 7 0
        match (Walker.mk s la g ray).traverse with
        | .done none => .next (s.settleRay la g rs lane (missRegs 0 hi))
        | .done (some h) => .next (s.settleRay la g rs lane (hitRegs h))
        | .failed reason => .next ((s.engineFault g.id rs.lanes 5 reason ray.entry 0).settleRay la g rs lane (missRegs 2 hi))
        | .wait va level reason layout => .next (s.engWait op la.tenant va level reason layout)
        | .stop a => .fault (.noSuchMemory a)
    | _, _ => .next s

/-! ### RETV (R401) -/

/-- Return components recorded; a later one replaces an earlier one. -/
def Elem.setRets (el : Elem) (rs : List (Nat × Word)) : Elem :=
  { el with rets := el.rets.filter (fun c => !(rs.map (·.1)).contains c.1) ++ rs }

/-- R401. RETV. -/
def execRetv (f : Form) (s : State) : Out :=
  runOp .retv f s (fun e =>
    let rets := fun (c : Nat × Lane) => ((List.range 4).filter (fun k => (s.src e .int c.1 c.2 f.b).getLsbD k)).map
      (fun k => (k, s.srcAt e .int c.1 c.2 k f.a))
    .ok (e.lanes.foldl (fun (t : State) c => t.updElem c.2.elem (·.setRets (rets c))) s))
    (ownForm 7 (fun e => decide ((e.rcd.level e.g.level).gen ≠ 3)))

end Sys2Proof.Machine
end

