-- ==== Sys2Proof/Machine/Sched.lean ====
section
/-!
DEFINITION. The lives of elements, groups, blocks and launches (R98, R148, R171, R178, R241, R358, R366, R408, R410), the reorder point (R159, R160,
R223), the landing of copies (R281), the deadlock of a Shelf pool (R173, R174, R391), and what the machine settles by itself after every step.
-/
namespace Sys2Proof.Machine

/-! ### Descent and retirement (R178) -/

/-- R178: has an element retired: has it finished, with every descendant, and can none come any more? -/
def State.retired (s : State) (k : Nat) : Bool :=
  let under := s.descends k generations
  s.elems.all (fun e => e.st = .finished || !under e.id) && s.prims.all (fun p => !under p.emitter) &&
  s.streams.all (fun t => t.window.all (fun c => !under c.pusher) && t.pushes.all (fun p => !under p.pusher)) &&
  s.raySets.all (fun r => r.rays.all (fun x => !under x.elem))

/-! ### The return of a spawned element (R178, R401) -/

/-- R178, R399, R401. SPAWN_RETURN: once a spawned element and its descendants have retired, what it returned is written to the return run of its
spawner, whose lane completes. -/
def execSpawnReturn (op lane : Nat) (s : State) : Out :=
  match s.op? op with
  | none => .next s
  | some o => match o.lanes.find? (fun l => l.lane = lane) with
    | none => .next s
    | some l => match l.cond with
      | .child k =>
        if s.retired k then
          let rets := (s.elem? k).elim [] (·.rets)
          .next (s.completeLane o l (rets.map (fun r => (RegRef.v (o.run + r.1), r.2))))
        else .next s
      | _ => .next s

/-! ### The landing of a copy (R281, R282) -/

/-- R281, R282. COPY_LANDING: a copy lands. -/
def execCopyLanding (copy : Nat) (s : State) : Out :=
  match findId CopyOp.id copy s.copies with
  | none => .next s
  | some c => .next (s.landCopy c)

/-! ### The finish of an element (R98, R148, R171) -/

/-- R98: does an instruction of the element, other than SPAWN, TRACE and PRIM.EMIT, still have to complete? -/
def State.elemBusy (s : State) (e : Elem) : Bool :=
  s.groups.any (fun g => g.lanes.zipIdx.any (fun c => c.1.elem = e.id && c.1.st ≠ .missing &&
    s.ops.any (fun o => o.group = g.id && o.lanes.any (fun l => l.lane = c.2 && (match l.cond with
      | .child _ | .trace | .prim _ => false
      | _ => o.fate ≠ .held)))))

/-- R148, R149: the FIXED children of an element. -/
def State.createFixed (s : State) (la : Launch) (e : Elem) : State :=
  let n := e.level + 1
  let lv := la.rcd.level n
  if lv.present && lv.gen = 0 then
    (s.create la n ((List.range e.count).map (fun i =>
      { idx := BitVec.ofNat 32 i, parents := [e.id], depth := 0, primId := 0, iw := [], init := [], claims := none })) none).2
  else s

/-- R98, R148, R171. ELEMENT_FINISH: an element that has exited, and whose instructions have completed, finishes: its FIXED children come into being,
its claims end, and slots that nobody claims are freed. -/
def execElementFinish (elem : Nat) (s : State) : Out :=
  match s.elem? elem with
  | none => .next s
  | some e => match s.launch? e.launch with
    | none => .next s
    | some la =>
      if !e.exited || e.st = .finished || la.st ≠ .running || s.elemBusy e then .next s
      else
        let s := (s.createFixed la e).endClaims e.claims
        .next (s.updElem elem (fun e => { e with st := .finished })).freeSlots

/-! ### The reorder point (R159, R160, R223) -/

/-- The lanes that take part: group number, lane number, and the lane. -/
def participants (gs : List Group) : List (Nat × Nat × Lane) :=
  gs.flatMap (fun g => (g.lanes.zipIdx.filter (fun c => c.1.unexited)).map (fun c => (g.num, c.2, c.1)))

/-- The key of a regrouping lane. -/
def Lane.regroupKey (ln : Lane) : Nat := (ln.regroup?).elim 0 (fun r => r.2.2.toNat)

/-- R223: are all participants regrouping at one instruction, with every flag of their groups clear? -/
def reorderDue (gs : List Group) : Bool :=
  let ps := participants gs
  let sites := ps.map (fun p => (p.2.2.regroup?).map (·.2.1))
  !ps.isEmpty && sites.all (fun x => x.isSome && x = sites.headD none) &&
  gs.all (fun g => (List.range 12).all (fun i => g.flag i = 0) && g.run.isNone)

/-- R160: what a thread keeps across the reorder point. DESIGN CHOICE (assumption 76): %clockhi, which R160 does not list, travels with the thread. -/
def Lane.reordered (ln : Lane) : Lane :=
  { ln with st := .free, pc := (ln.regroup?).elim ln.pc (·.1), o := [], l := [], lValid := 0, lHidden := 0, lKept := [], wait := 0 }

/-- R159: the threads sorted by key, group and lane. -/
def reorderSort (ps : List (Nat × Nat × Lane)) : List Lane :=
  (sortBy (fun (a b : Nat × Nat × Lane) =>
    lexLt [a.2.2.regroupKey, a.1, a.2.1] [b.2.2.regroupKey, b.1, b.2.1]) ps).map (·.2.2)

/-- R156, R159, R160: new group `j` of the sorted threads, which takes the place of an old group. DESIGN CHOICE (assumption 77): a handler in which its
threads regrouped (R223) is over, and tag errors that a TWAIT has observed and no clause has reported (R282) are dropped. -/
def Group.reordered (g : Group) (uniform : Nat) (threads : List Lane) (blank : Lane) : Group :=
  { g with
    lanes := (List.range g.width).map (fun l => ((threads[l]?).map (·.reordered)).getD blank)
    g := g.g.keep (fun i => decide (i < uniform)), flags := [], seams := [], serial := none, resumeOn := false, resume := 0, resumeAt := 0, derived := []
    handler := none, lastIssue := none, passed := 0, passedAt := 0, yielded := false, tagErrors := [] }

/-- R159, R160: the groups after the reorder point; those that are left without threads are gone, and what they had to report passes to the first. -/
def reorderGroups (gs : List Group) (uniform : Nat) (blank : Lane) : List Group :=
  let gs := sortBy (fun (a b : Group) => decide (a.num < b.num)) gs
  let threads := reorderSort (participants gs)
  let w := (gs.head?).elim 8 (·.width)
  let news := (gs.take ((threads.length + w - 1) / w)).zipIdx.map (fun c => c.1.reordered uniform ((threads.drop (c.2 * w)).take w) blank)
  let lost := (gs.drop news.length).flatMap (·.faults)
  match news with
  | [] => []
  | g :: rest => { g with faults := g.faults ++ lost } :: rest

/-- The reorder point of one level of a block and role, where it is due: of the groups that have participants (R223). -/
def State.reorderAt (s : State) (block level role : Nat) : Option State :=
  let gs := (s.roleGroups block level role).filter (fun g => g.lanes.any (·.unexited))
  if !reorderDue gs then none
  else match (gs.head?).bind (fun g => s.launch? g.launch) with
    | none => none
    | some la =>
      let blank := s.newLane la.rcd 0 none
      let news := reorderGroups gs (la.rcd.level level).uniform blank
      let old := gs.map (·.id)
      let s := news.foldl (fun (s : State) g => s.runsAt (g.lanes.filterMap (fun ln => if ln.unexited then some ln.elem else none)) g.core) s
      some { s with groups := (s.groups.filter (fun g => !old.contains g.id || (news.map (·.id)).contains g.id)).map (fun g =>
               (findId Group.id g.id news).getD g) }

/-- R159, R160, R223, R225. REORDER_POINT: the threads of a block and role that regroup are sorted into new groups. -/
def execReorderPoint (block : Nat) (role : BitVec 2) (s : State) : Out :=
  .next (((List.range 8).findSome? (fun n => s.reorderAt block n role.toNat)).getD s)

/-! ### Groups, streams, blocks and launches that end -/

/-- R98: has a group ended: has every lane exited, with every flag count zero? -/
def Group.isOver (g : Group) : Bool :=
  g.run.isNone && g.lanes.all (fun ln => !ln.unexited) && (List.range 12).all (fun i => g.flag i = 0)

/-- R366: the claims of the lanes of a batch whose groups have ended are to end; the batch has ended where all have. `live` are the elements that stand in
a group: a reorder point (R159) may have moved a lane to another. -/
def Batch.groupsOver (b : Batch) (live : List Nat) : Batch :=
  if b.group.isNone || b.ended then b
  else { b.leave (fun i => !(b.elems[i]?.elim false live.contains)) with ended := !b.elems.any live.contains }

/-- R366: the same for every batch. -/
def State.endBatches (s : State) : State :=
  let live := fun (t : Stream) => (s.groups.filter (fun g => g.block = t.block)).flatMap (fun g =>
    g.lanes.filterMap (fun ln => if ln.st = .missing then none else some ln.elem))
  { s with streams := s.streams.map (fun t => let l := live t; { t with batches := t.batches.map (·.groupsOver l) }) }

/-- R98: groups that have ended are gone. -/
def State.endGroups (s : State) : State :=
  let ended := (s.groups.filter (·.isOver)).map (·.id)
  if ended.isEmpty then s
  else
    { s with
      groups := s.groups.filter (fun g => !ended.contains g.id)
      focus := match s.focus with
        | some f => if ended.contains f then none else some f
        | none => none }

/-- R358, R368: a stream whose opening groups have all exited is closed, and streams that are done end. -/
def State.endStreams (s : State) : State :=
  let left := fun (t : Stream) => s.groups.any (fun g => g.block = t.block && g.level = t.level && g.lanes.any (·.unexited))
  let s := { s with streams := s.streams.map (fun t => if left t then t else { t with closed := true }) }
  (s.streams.map (·.core)).foldl (fun (s : State) c => s.endStream c) s

/-- R408: blocks without a group, and without a stream, have ended. -/
def State.endBlocks (s : State) : State :=
  let live := fun (b : Block) => s.groups.any (fun g => g.block = b.id) || s.streams.any (fun t => t.block = b.id)
  { s with blocks := s.blocks.map (fun b => if b.st = .admitted && !live b then { b with st := .ended } else b) }

/-- R443: the queue of a core that its blocks leave goes to the front of the spill pool. -/
def Launch.leaveCore (la : Launch) (core : Nat) : Launch :=
  { la with dist := { la.dist with spill := la.queueOf core ++ la.dist.spill, queues := la.dist.queues.filter (fun q => q.1 ≠ core)
                                   leaving := la.dist.leaving.filter (fun c => c ≠ core) } }

/-- R443: the cores that every block of a launch has left, one of them saved, now or since a block of it last stood there. -/
def State.leftCores (s : State) (la : Launch) : List Nat :=
  let on := fun (st : BlockSt) (c : Nat) => s.blocks.any (fun b => b.launch = la.id && b.st = st && b.cores.contains c)
  (la.dist.queues.map (·.1)).filter (fun c => !on .admitted c && (on .saved c || la.dist.leaving.contains c))

/-- R443: such a core's queue goes once nothing is on its way there. -/
def State.leaveCore (s : State) (la : Launch) : Launch :=
  let left := s.leftCores la
  let due := left.filter (fun c => s.items.all (fun i => i.launch ≠ la.id || i.core ≠ c))
  due.foldl (fun (la : Launch) c => la.leaveCore c) { la with dist := { la.dist with leaving := left } }

/-- R443: the queues of cores that launches have left. -/
def State.leaveCores (s : State) : State := { s with launches := s.launches.map s.leaveCore }

/-- R241: a block that has ended has no allocation any more once it need not keep it. -/
def State.freeSpace (s : State) : State :=
  { s with blocks := s.blocks.map (fun b => if b.st = .ended && !b.cores.isEmpty && !s.holdsSpace b then { b with cores := [], base := [] } else b) }

/-- R410: has every element of a launch finished, and can none come any more? -/
def State.launchOver (s : State) (la : Launch) : Bool :=
  la.st = .running && s.elems.all (fun e => e.launch ≠ la.id || e.st = .finished) && s.prims.all (fun p => p.launch ≠ la.id) &&
  s.streams.all (fun t => t.launch ≠ la.id || (t.window.isEmpty && t.pushes.isEmpty)) &&
  s.raySets.all (fun r => r.rays.all (fun x => (s.elem? x.elem).elim true (fun e => e.launch ≠ la.id)))

/-- R410, R461: launches whose elements have all finished end normally. -/
def State.endLaunches (s : State) : State :=
  s.launches.foldl (fun (s : State) la =>
    if s.launchOver la then
      ((s.clearLaunch la.id).updLaunch la.id (fun la => { la with st := .ended, normal := true, endWord := 0 })).complete (endCompletion la 0 0 0 0)
    else s) s

/-! ### SHELF_DEADLOCK (R173, R174, R391) -/

/-- R173: does a SPAWN or TRACE hold up a lane of an instruction: a child that has not retired, or rays that are still traversed? -/
def State.childWait (s : State) (l : OpLane) : Bool :=
  match l.cond with
  | .child k => !s.retired k
  | .trace => true
  | _ => false

/-- R173, condition 2: is a lane blocked at a clause whose wait mask selects a flag that a SPAWN or TRACE holds up? -/
def State.flagBlocked (s : State) (la : Launch) (g : Group) (ln : Lane) : Bool :=
  let held := fun (i : Nat) => s.ops.any (fun o => o.group = g.id && o.flag = some i && o.lanes.any s.childWait)
  ln.isFree && g.handler.isNone && g.run.isNone && g.hold.isNone && !g.done && (s.block? g.block).elim false (fun b => b.st = .admitted) &&
  (match s.waitsAt la.code ln.pc with
    | some ws => ws.any (fun i => g.flag i ≠ 0 && held i)
    | none => false)

/-- The lane of an element, with its group. -/
def State.laneOf (s : State) (elem : Nat) : Option (Group × Nat × Lane) :=
  s.groups.findSome? (fun g => (g.lanes.zipIdx.find? (fun c => c.1.elem = elem && c.1.st ≠ .missing)).map (fun c => (g, c.2, c.1)))

/-- R390: the elements of the group of an element, whether it has started or not. -/
def State.mates (s : State) (e : Elem) : List Nat :=
  let lists := (s.block? e.block).elim [] (·.members) ++ s.streams.flatMap (fun t => t.batches.map (·.elems))
  (lists.find? (fun l => l.contains e.id)).getD []

/-- A pool of a launch: level and core (0x7F in memory). -/
structure Pool where
  level : Nat
  core : Nat
  deriving DecidableEq, Repr

/-- Does an element await a slot of a pool? -/
def State.awaits (s : State) (p : Pool) (e : Elem) : Bool := e.st = .waiting && e.level = p.level && s.poolOf e = some p.core

/-- R391: is an element admitted, while its group waits for one that awaits the pool? -/
def State.heldBack (s : State) (p : Pool) (e : Elem) : Bool :=
  e.st = .admitted && (s.mates e).any (fun k => (s.elem? k).elim false (s.awaits p))

/-- R173, R391: an unfinished element that counts as stuck. -/
def State.stuck (s : State) (la : Launch) (p : Pool) (e : Elem) : Bool :=
  s.heldBack p e || (s.laneOf e.id).elim false (fun c => s.flagBlocked la c.1 c.2.2)

/-- R391: a pending primitive whose pass waits for the pool; one that could be binned now, and so discarded, is not stuck. -/
def State.primStuck (s : State) (la : Launch) (p : Pool) (q : Prim) : Bool :=
  (q.binned || q.verts.any (fun v => (s.elem? v).elim false (fun e => e.st ≠ .finished))) &&
  (match (s.elem? q.emitter).bind (s.passOf la.rcd) with
    | some pass => (s.passWaits la pass).any (fun e => s.awaits p e || s.heldBack p e)
    | none => false)

/-- R173 with R391: does a pool hold up everything that could free a slot of it? -/
def State.poolDead (s : State) (la : Launch) (p : Pool) : Bool :=
  let slots := s.pool la.id p.level p.core
  let holders := slots.map (·.elem)
  let on := fun (cs : List Nat) => cs.any holders.contains
  (p.core = 0x7F || s.poolHere la.id p.core) && la.rcd.poolSize p.level ≤ slots.length &&
  !(s.awaiting la.id p.level p.core).isEmpty &&
  slots.all (fun sl => (s.elem? sl.elem).elim true (fun e => e.st = .finished || s.stuck la p e)) &&
  s.elems.all (fun e => e.st = .finished || !on e.claims || s.awaits p e || s.stuck la p e) &&
  s.prims.all (fun q => !on q.claims || s.primStuck la p q) &&
  s.streams.all (fun t => t.window.all (fun c => !on c.claims) && t.pushes.all (fun c => !on c.claims)) &&
  s.raySets.all (fun r => r.rays.all (fun x => !on x.claims)) &&
  s.endings.all (fun d => !holders.contains d.holder)

/-- The pools that elements of a launch await. -/
def State.awaitedPools (s : State) (la : Launch) : List Pool :=
  (s.elems.filterMap (fun e => if e.launch = la.id && e.st = .waiting then (s.poolOf e).map (fun c => { level := e.level, core := c }) else none)).eraseDups

/-- R174: the information word. -/
def State.deadlockInfo (s : State) (la : Launch) (p : Pool) : Word :=
  BitVec.ofNat 32 (p.level * 2 ^ 29 + p.core * 2 ^ 22 + min (s.awaiting la.id p.level p.core).length 0x3FFFFF)

/-- R174: the trap of one group that holds a slot of the pool and is blocked: at the header of its lowest such lane. -/
def State.deadlockTrap (s : State) (la : Launch) (p : Pool) (info : Word) (gid : Nat) : State :=
  match s.group? gid with
  | none => s
  | some g =>
    let holders := (s.pool la.id p.level p.core).map (·.elem)
    match g.lanes.find? (fun ln => holders.contains ln.elem && s.flagBlocked la g ln) with
    | none => s
    | some low => s.trapHeader gid Cause.shelfDeadlock info (g.lanesWhere (fun ln => ln.pc = low.pc && s.flagBlocked la g ln)) low.pc

/-- R174: SHELF_DEADLOCK in every blocked group that holds a slot; where there is none, firmware ends the launch. DESIGN CHOICE (assumption 72): the report
of such an end has pc 0 and lanes 0. -/
def State.breakPool (s : State) (la : Launch) (p : Pool) : State :=
  let holders := (s.pool la.id p.level p.core).map (·.elem)
  let info := s.deadlockInfo la p
  let gs := (s.groups.filter (fun g => g.launch = la.id && g.lanes.any (fun ln => holders.contains ln.elem && s.flagBlocked la g ln))).map (·.id)
  if gs.isEmpty then s.endLaunch la.id (BitVec.ofNat 32 Cause.shelfDeadlock) info 0 0
  else gs.foldl (fun (s : State) k => s.deadlockTrap la p info k) s

/-- R173: the first dead pool of each running launch is broken. -/
def State.breakDeadlocks (s : State) : State :=
  s.launches.foldl (fun (s : State) la =>
    if la.st ≠ .running then s
    else match (s.awaitedPools la).find? (s.poolDead la) with
      | some p => s.breakPool la p
      | none => s) s

/-! ### The start of launches (R148, R410) -/

/-- R427, R247: has every write of a launch been performed: has every copy landed, and is no tile operation, answer or contribution in flight? -/
def State.writesDone (s : State) (launch : Nat) : Bool :=
  let mine := fun (b : Nat) => (s.block? b).elim false (fun x => x.launch = launch)
  s.copies.all (fun c => !mine c.block) && s.tileOps.all (fun o => !mine o.block) && s.asks.all (fun a => a.launch ≠ launch) &&
  s.contributions.all (fun c => c.launch ≠ launch)
/-- Has a launch ended, with every write of it performed? -/
def State.launchDone (s : State) (la : Launch) : Bool := la.st = .ended && s.writesDone la.id

/-- R410: what a predecessor says of its successor's start. -/
inductive Pred where
  | go
  | wait
  | fail
  deriving DecidableEq, Repr

/-- R410, R247 (dep): FULL waits for the end and for the predecessor's writes, and fails where the end was not normal; EARLY waits for the hint or the
end. -/
def State.predSays (s : State) (p : Nat × Bool) : Pred :=
  match s.launch? p.1 with
  | none => .go
  | some q =>
    if p.2 then (if (if q.st = .ended then s.launchDone q else q.hinted) then .go else .wait)
    else if q.st = .ended && !q.normal then .fail else if s.launchDone q then .go else .wait

/-- R148: the elements of level 0 come into being at launch start. -/
def State.startLaunch (s : State) (la : Launch) : State :=
  let s := s.updLaunch la.id (fun la => { la with st := .running })
  (s.create la 0 ((List.range (la.rcd.level 0).count).map (fun i =>
    { idx := BitVec.ofNat 32 i, parents := [], depth := 0, primId := 0, iw := [], init := [], claims := none })) none).2

/-- R410, R461: a refused successor. -/
def dependenceFailed (la : Launch) : Completion :=
  { queue := la.queue, tag := la.tag, opcode := la.opcode, kind := 1, status := 9, value := BitVec.ofNat 64 la.id, detail := 0 }

/-- R410: queued launches whose predecessors let them start, or refuse them. -/
def State.startLaunches (s : State) : State :=
  s.launches.foldl (fun (s : State) la =>
    if la.st ≠ .queued || s.stopped then s
    else
      let told := la.preds.map s.predSays
      if told.contains .fail then (s.updLaunch la.id (fun la => { la with st := .ended, normal := false })).complete (dependenceFailed la)
      else if told.contains .wait then s
      else s.startLaunch la) s

/-! ### Groups that are done (R438, R440) -/

/-- R440: of a group that is done, waits are cancelled and complete for counting, and the other instructions outstanding are kept. -/
def State.cancelDone (s : State) : State :=
  let done := fun (o : LongOp) => (s.group? o.group).elim false (·.done)
  (s.ops.filter (fun o => done o)).foldl (fun (s : State) o =>
    if o.fate = .cancelled then
      { s.updGroup o.group (·.subFlag? o.flag o.lanes.length) with ops := delId LongOp.id o.id s.ops }
    else if o.fate = .completed then s
    else s.updOp o.id (fun o => { o with kept := true })) s

/-! ### PREEMPT commands (R434, R461) -/

/-- Has the launch of a PREEMPT command no admitted block any more? -/
def State.preemptOver (s : State) (c : PreemptCmd) : Bool := s.blocks.all (fun b => b.launch ≠ c.launch || b.st ≠ .admitted)

/-- The completion of a command that is done (R461). -/
def doneWith (queue : Nat) (tag : BitVec 16) (opcode : BitVec 8) (value : BitVec 64) (detail : BitVec 128) : Completion :=
  { queue, tag, opcode, kind := 0, status := 0, value, detail }

/-- R434, R461: a PREEMPT command completes when no block of its launch is admitted. -/
def State.completePreempts (s : State) : State :=
  let ended := s.preempts.filter s.preemptOver
  { s with
    preempts := s.preempts.filter (fun c => !s.preemptOver c)
    completions := s.completions ++ ended.map (fun c => doneWith c.queue c.tag 0x17 0 0) }

/-! ### Settling -/

/-- R345, R350: the integration entries of chains that are complete and waited on enter their queues, wherever there is room now. -/
def State.placeDue (s : State) : State := (s.chains.map (·.core)).foldl State.placeIntegrations s

/-- What follows of itself after a step: waits of done groups are cancelled; groups, streams, blocks and launches end; a dead pool is broken; launches
start; integrations that are due enter their queues. No byte of memory changes. -/
def State.settle (s : State) : State :=
  let s := s.endPeerFaults.cancelDone.endGroups.endBatches.endStreams.endBlocks.leaveCores.declareWork
  s.endLaunches.breakDeadlocks.freeSpace.startLaunches.completePreempts.placeDue

end Sys2Proof.Machine
end

