-- ==== Sys2Proof/Machine/Tideway.lean ====
section
/-!
DEFINITION. The Tideway (R331 to R357): chains and their slots, joins, sends, landing, integration, abort and suspension.
-/
namespace Sys2Proof.Machine

/-! ### Names and slots (R332 to R334) -/

/-- The word of the chain causes: the name, and the reason in [3:0] (R356). -/
def chainInfo (n : Word) (reason : Nat) : Word := BitVec.ofNat 32 (n.toNat / 65536 * 65536 + reason)

/-- The record of a slot: its open chain, or the last one it held. -/
def State.chainAt (s : State) (core slot : Nat) : Option Chain := s.chains.find? (fun c => c.core = core && c.slot = slot)
/-- Changes the record of a slot. -/
def State.updChain (s : State) (core slot : Nat) (f : Chain → Chain) : State :=
  { s with chains := s.chains.map (fun c => if c.core = core ∧ c.slot = slot then f c else c) }
/-- R334: the open chain of a slot, to a launch. -/
def State.openChain (s : State) (core slot launch : Nat) : Option Chain :=
  match s.chainAt core slot with
  | some c => if c.isOpen && c.launch = launch then some c else none
  | none => none

/-- R336: the bytes that an open chain reserves. -/
def Chain.bytes (c : Chain) : Nat := (if c.exact then 16 else 8) * c.rows * c.cols
/-- The free space of a core's landing buffer. -/
def State.landingFree (s : State) (core : Nat) : Nat :=
  Config.landingBytes - ((s.chains.filter (fun c => c.core = core && c.isOpen)).map Chain.bytes).foldl (· + ·) 0

/-- Every lane of an operation that waits for an engine completes with these writes. -/
def State.answerOp (s : State) (op : Nat) (writes : List (RegRef × Word)) : State :=
  s.updOp op (fun o => { o with lanes := o.lanes.map (fun l => match l.cond with
    | .engine => { l with cond := .joint, writes }
    | _ => l) })

/-! ### Opening (R335, R336) -/

/-- The fields of a chain descriptor (R335), as a chain of a core. -/
def Chain.ofDesc (d : DWord) (core launch block gen : Nat) : Chain :=
  let x := d.toNat
  { core, slot := bitsOf x 63 58, launch, block, isOpen := true, gen, exact := d.getLsbD 57, set := d.getLsbD 56, scale := d.extractLsb' 48 8
    count := bitsOf x 47 32, acked := 0, tile := bitsOf x 31 28, i0 := 64 * bitsOf x 27 25, j0 := 64 * bitsOf x 24 21
    rows := 64 * bitsOf x 20 18, cols := 64 * bitsOf x 17 14, landed := 0, sums := [], stat := [], aborted := false, waiter := none
    placed := false, suspended := false, saved := false, held := false, peers := [], awaited := [] }

/-- Does a region lie in a tile's rows, and in the columns that a core holds? -/
def regionHeld (b : Block) (t : TileDesc) (core i0 j0 rows cols : Nat) : Bool :=
  let c := tileColumns b t core
  decide (i0 + rows ≤ t.rows) && decide (c.1 ≤ j0) && decide (j0 + cols ≤ c.2)

/-- R336. CHAIN.OPEN. -/
def execChainOpen (f : Form) (s : State) : Out :=
  runOp .chainOpen f s (fun e =>
    let d := s.lowPair e f.a
    let gen := ((s.chainAt e.g.core (bitsOf d.toNat 63 58)).map (·.gen)).getD 0 + 1
    let c := Chain.ofDesc d e.g.core e.la.id e.b.id gen
    match s.tileOf e c.tile with
    | none => .trap Cause.permission (tileInfo c.tile) e.x
    | some (t, b) =>
      if bitsOf d.toNat 13 0 ≠ 0 || c.count = 0 || c.rows = 0 || c.rows > 384 || c.cols = 0 || c.cols > 640 || (!c.exact && c.scale ≠ 0) ||
          t.format = 11 || !regionHeld b t e.g.core c.i0 c.j0 c.rows c.cols then
        .trap Cause.chainProtocol (chainInfo (s.slotName e.g.core c.slot) 3) e.x
      else
        let taken := match s.chainAt e.g.core c.slot with
          | some old => old.isOpen
          | none => false
        let yes := !taken && decide (c.bytes ≤ s.landingFree e.g.core)
        let s := s.writeRegs e.gid (e.writes f (fun _ _ => .pred yes))
        let (k, s) := s.addOp e f .saved (fun _ _ => (.opened, (LaneRes.pred yes).writes f))
        let s := s.updOp k (fun o => { o with dst := none })
        .ok (if yes then { s with chains := s.chains.filter (fun x => !(x.core = c.core && x.slot = c.slot)) ++ [c] }
             else s.doneAtIssue e f k e.x))

/-! ### Joining (R337, R338) -/

/-- What a chain tells a join. -/
def Chain.shape (c : Chain) : ChainShape := { gen := c.gen, exact := c.exact, rows := c.rows, cols := c.cols }

/-- The binding of a group for a name. -/
def Group.binding? (g : Group) (n : Word) : Option Binding := g.bindings.find? (fun b => b.name = n)
/-- Changes a binding. -/
def Group.updBinding (g : Group) (n : Word) (f : Binding → Binding) : Group :=
  { g with bindings := g.bindings.map (fun b => if b.name = n then f b else b) }
/-- Removes a binding. -/
def Group.dropBinding (g : Group) (n : Word) : Group := { g with bindings := g.bindings.filter (fun b => b.name ≠ n) }

/-- R337, R450, R457: may a launch name chains of a device: its own, or a member of the peer group where a launch is linked with it? -/
def State.nameKnown (s : State) (la : Launch) (n : Word) : Bool :=
  bitsOf n.toNat 15 0 = 0 && nameCore n ≤ 95 && (nameDevice n = s.device || s.linkedAt la (nameDevice n))

/-- A pending binding (R337). -/
def Binding.fresh (n : Word) : Binding :=
  { name := n, gen := 0, exact := false, rows := 0, cols := 0, share := 0, pending := true, suspended := false }
/-- R337: a binding that a chain has acknowledged. -/
def Binding.bind (b : Binding) (c : ChainShape) (share : Nat) : Binding :=
  { b with gen := c.gen, exact := c.exact, rows := c.rows, cols := c.cols, share := b.share + share, pending := false }

/-- R337. CHAIN.JOIN. -/
def execChainJoin (f : Form) (s : State) : Out :=
  runOp .chainJoin f s (fun e =>
    let n := s.lowSrc e f.a
    let share := (s.lowSrc e f.b).toNat
    let old := e.g.binding? n
    if !s.nameKnown e.la n then .trap Cause.chainUnknown (chainInfo n 0) e.x
    else if share = 0 || share > 65535 then .trap Cause.chainProtocol (chainInfo n 3) e.x
    else if (match old with
        | some b => b.pending
        | none => false) then .trap Cause.chainProtocol (chainInfo n 1) e.x
    else if old.isNone && e.g.bindings.length ≥ 16 then .trap Cause.chainProtocol (chainInfo n 4) e.x
    else
      let s := s.updGroup e.gid (fun g => match old with
        | some _ => g.updBinding n (fun b => { b with pending := true })
        | none => { g with bindings := g.bindings ++ [Binding.fresh n] })
      let (k, s) := s.addOp e f .saved (fun _ _ => (.engine, []))
      let (id, s) := s.fresh
      .ok { s with joins := s.joins ++ [{ id, peer := none, op := k, group := e.gid, launch := e.la.id, name := n, share, parked := false }] })

/-- R337: the answer reaches a join of this device: every lane of it completes with pd written. -/
def State.tellJoin (s : State) (j : Join) (c : Option ChainShape) : State :=
  let s := s.updGroup j.group (fun g => match c with
    | some c => g.updBinding j.name (·.bind c j.share)
    | none => match g.binding? j.name with
      | some b => if b.share = 0 then g.dropBinding j.name else g.updBinding j.name (fun b => { b with pending := false })
      | none => g)
  let pd := match (s.op? j.op).bind (·.dst) with
    | some ref => [(ref, if c.isSome then (1 : Word) else 0)]
    | none => []
  s.answerOp j.op pd

/-- R337, R457: a join is answered, here or over the links. A chain that accepts a peer's join knows that the peer has a binding to it (R352). -/
def State.answerJoin (s : State) (j : Join) (c : Option Chain) : State :=
  let s := match c with
    | some c => s.updChain c.core c.slot (fun c => { c with
        acked := c.acked + j.share
        peers := match j.peer with
          | some p => if c.peers.contains p.1 then c.peers else c.peers ++ [p.1]
          | none => c.peers })
    | none => s
  let s := match j.peer with
    | some p => s.post p.1 (.joined p.2.1 (c.map Chain.shape))
    | none => s.tellJoin j (c.map Chain.shape)
  { s with joins := delId Join.id j.id s.joins }

/-- R337: a request at the slot that it names is acknowledged or refused by the chain that is open there for its launch, or parks. -/
def State.tryJoin (s : State) (j : Join) : State :=
  let park := { s with joins := updId Join.id j.id (fun j => { j with parked := true }) s.joins }
  match (s.joinLaunch j).bind (s.openChain (nameCore j.name) (nameSlot j.name)) with
  | none => park
  | some c => if c.suspended then park else s.answerJoin j (if c.acked + j.share ≤ c.count then some c else none)

/-- R337, R451. JOIN_REQUEST_ARRIVAL: a request reaches its slot, or leaves for the device that it names; a peer's request, or answer, arrives. -/
def execJoinRequestArrival (join : Arrival) (s : State) : Out :=
  match join with
  | .here k => match findId Join.id k s.joins with
    | none => .next s
    | some j =>
      let d := nameDevice j.name
      if d = s.device then .next (s.tryJoin j)
      else if s.peerCut d then .next (s.answerJoin j none)
      else if j.parked then .next s
      else .next (({ s with joins := updId Join.id k (fun j => { j with parked := true }) s.joins } : State).post d
        (.join k (s.linkOf j.launch) j.name j.share))
  | .peer d (.join id link name share) =>
    if nameDevice name ≠ s.device then .next s
    else
      let (k, s) := s.fresh
      let j : Join := { id := k, peer := some (d.toNat, id, link), op := 0, group := 0, launch := 0, name, share, parked := true }
      .next (({ s with joins := s.joins ++ [j] } : State).tryJoin j)
  | .peer d (.joined id c) => match findId Join.id id s.joins with
    | none => .next s
    | some j => if j.peer.isSome || nameDevice j.name ≠ d.toNat then .next s
      else .next { s.tellJoin j c with joins := delId Join.id id s.joins }
  | .peer _ _ => .next s

/-! ### Sending and landing (R339 to R344) -/

/-- R340: the shape that .SP needs. -/
def sendShape (m : BitVec 512) (b : Binding) : Bool :=
  laySpace m = spScratch && layRank m = 2 && layElem m = 4 && layExt m 0 = b.cols && layExt m 1 = b.rows

/-- The coordinates of a contribution's elements, rows ascending. -/
def sendElems (rows cols : Nat) : List (List Nat) := (List.range rows).flatMap (fun i => (List.range cols).map (fun j => [j, i]))

/-- R338: a send takes one from its binding's share. -/
def Group.takeShare (g : Group) (n : Word) : Group :=
  match g.binding? n with
  | some b => if b.share ≤ 1 then g.dropBinding n else g.updBinding n (fun b => { b with share := b.share - 1 })
  | none => g

/-- A contribution of a send of `e`. -/
def contributionOf (e : Env) (id op : Nat) (b : Binding) (lay : BitVec 512) (entry block : Nat) (gs : List Nat) : Contribution :=
  { id, op, group := e.gid, launch := e.la.id, name := b.name, gen := b.gen, rows := b.rows, cols := b.cols, vals := none, lay, entry
    block, core := e.g.core, lanes := e.r.lanes, granules := gs, away := false }

/-- R339, R340. CHAIN.SEND.ACC (0) and .SP (1). -/
def execChainSend (f : Form) (s : State) : Out :=
  runOp .chainSend f s (fun e =>
    let n := s.lowSrc e f.a
    match e.g.binding? n with
    | none => .trap Cause.chainUnknown (chainInfo n 0) e.x
    | some b =>
      if b.pending then .trap Cause.chainProtocol (chainInfo n 1) e.x
      else if b.suspended then .trap Cause.chainSuspended (chainInfo n 0) e.x
      else if f.mod = 0 then
        let w := (s.lowSrc e f.b).toNat
        let k := w % 16
        let i0 := 64 * bitsOf w 6 4
        let j0 := 64 * bitsOf w 10 7
        match s.tileOf e k with
        | none => .trap Cause.permission (tileInfo k) e.x
        | some (t, blk) =>
          if t.format = 11 || w / 2 ^ 11 ≠ 0 || !regionHeld blk t e.g.core i0 j0 b.rows b.cols then
            .trap Cause.chainProtocol (chainInfo n 3) e.x
          else
            let s := s.reenterAt e (.send 0 i0 j0 b.rows b.cols)
            if s.matrixFull e.g.core then .stallIn s
            else
            let (id, s) := s.fresh
            let op := s.nextId
            let s := s.enqueue e f blk.id k [e.g.core] (.send id i0 j0 b.rows b.cols) [] []
            let s := { s with contributions := s.contributions ++ [contributionOf e id op b 0 0 blk.id []] }
            .ok (s.updGroup e.gid (·.takeShare n))
      else
        let k := layC f
        let m := e.layout k
        let els := sendElems b.rows b.cols
        if !layValid m then .trap Cause.bounds (boundsInfo 0 true 0 k) e.x
        else if !sendShape m b then .trap Cause.chainProtocol (chainInfo n 3) e.x
        else if !layR m then .trap Cause.permission (boundsInfo 0 false 0 k) e.x
        else if els.any (fun c => layAddr m c % 4 ≠ 0) then .trap Cause.alignment (boundsInfo 0 false 0 k) e.x
        else
          let gs := (granulesAt e.g.core (s.allocOn e.b e.g.core) m els).filter (fun g => (s.owners.get g).toNat = ownTideway)
          let (op, s) := s.addOp e f .saved (fun _ _ => (.engine, []))
          let (id, s) := s.fresh
          let s := s.holdGranules gs
          let s := { s with contributions := s.contributions ++ [contributionOf e id op b m k e.b.id gs] }
          .ok (s.updGroup e.gid (·.takeShare n)))

/-- What reading a .SP contribution gives: its elements as TX48 values, or the reason and the granule of R341: a granule that it may not read comes
before a damaged sector. -/
def State.readSp (s : State) (c : Contribution) : Except (Nat × Nat) (SMap 48) :=
  let base := (s.block? c.block).bind (fun b => s.allocOn b c.core)
  let at_ := fun (x : List Nat) => s.engAt c.id ownTideway 0 c.core base c.lay x 4 false false
  let els := sendElems c.rows c.cols
  let bad := els.filterMap (fun x => match at_ x with
    | .fail r g => some (r, g)
    | _ => none)
  match ((bad.filter (fun x => x.1 = 1)).map (·.2)).min?, bad with
  | some g, _ => .error (1, g)
  | none, x :: _ => .error x
  | none, [] => .ok (SMap.setAll [] (els.filterMap (fun x => match at_ x with
      | .ok as => some (x.getD 1 0 * 1024 + x.getD 0 0, BitVec.ofNat 48 (Fmt.tx48.round .ne (Fmt.fp32.value (s.load as))))
      | _ => none)))

/-- R47: a contribution element as an integer multiple of 2^(E − 72), with its status: bit 0 OVERFLOW, bit 1 INVALID. -/
def fixIn (scale : Int) (v : Val) : Int × Nat :=
  let lo : Int := -(2 ^ 95 : Nat)
  let hi : Int := (2 ^ 95 : Nat) - 1
  match v with
  | .nan => (0, 2)
  | .inf n => (if n then lo else hi, 1)
  | .fin n m x =>
    let (a, b) := scaleQuot m 1 (x + 72 - scale)
    let k : Int := roundQuot .ne n a b
    let k := if n then -k else k
    (satInt k lo hi, if k < lo ∨ hi < k then 1 else 0)

/-- R342 to R344: an element that lands. -/
def Chain.landOne (c : Chain) (key code : Nat) : Chain :=
  let v := Fmt.tx48.value code
  if c.exact then
    let (k, st) := fixIn c.scale.toInt v
    { c with sums := c.sums.set key (c.sums.get key + BitVec.ofInt 128 k), stat := c.stat.set key (c.stat.get key ||| BitVec.ofNat 2 st) }
  else
    let x := if c.landed = 0 then code else Fmt.tx48.round .ne (Val.add false (Fmt.tx48.value (c.sums.get key).toNat) v)
    let st : BitVec 2 := match Fmt.tx48.value x with
      | .nan => 2
      | .inf _ => 1
      | _ => 0
    { c with sums := c.sums.set key (BitVec.ofNat 128 x), stat := c.stat.set key (c.stat.get key ||| st) }

/-- R342, R343: a whole contribution lands. -/
def Chain.land (c : Chain) (rows cols : Nat) (vals : SMap 48) : Chain :=
  let c' := (sendElems rows cols).foldl (fun (c : Chain) x =>
    let key := x.getD 1 0 * 1024 + x.getD 0 0
    c.landOne key (vals.get key).toNat) c
  { c' with landed := c.landed + 1 }

/-- A contribution whose every element is NaN (R341). -/
def nanVals (rows cols : Nat) : SMap 48 :=
  SMap.setAll [] ((sendElems rows cols).map (fun x => (x.getD 1 0 * 1024 + x.getD 0 0, BitVec.ofNat 48 Fmt.tx48.nanCode)))

/-- R334, R341: a contribution of a launch is accepted by the chain that its binding names, or discarded. -/
def State.landContribution (s : State) (launch : Nat) (name : Word) (gen rows cols : Nat) (vals : SMap 48) : State :=
  match s.openChain (nameCore name) (nameSlot name) launch with
  | none => s
  | some ch =>
    if ch.gen ≠ gen then s
    else (s.updChain ch.core ch.slot (fun ch => ch.land rows cols vals)).placeIntegrations ch.core

/-- R341: a contribution of this device has been accepted or discarded: its send completes. -/
def State.contributionOver (s : State) (c : Contribution) : State :=
  { s.answerOp c.op [] with contributions := delId Contribution.id c.id s.contributions }

/-- R341, R451, R457: a contribution that has been read lands in its chain here, or leaves for its chain's device; to a device that no link reaches, it
is discarded. -/
def State.deliverSend (s : State) (c : Contribution) (vals : SMap 48) : State :=
  let d := nameDevice c.name
  let s := s.handBack c.granules
  if d = s.device then (s.landContribution c.launch c.name c.gen c.rows c.cols vals).contributionOver c
  else if s.peerCut d then s.contributionOver c
  else (({ s with contributions := updId Contribution.id c.id (fun c => { c with away := true, granules := [], vals := some vals }) s.contributions } :
    State).post d (.send c.id (s.linkOf c.launch) c.name c.gen c.rows c.cols vals))

/-- R341 to R344. CONTRIBUTION_LANDING: one from a tile lands once its queue entry has read it; a peer's arrives, or its answer. -/
def execContributionLanding (contribution : Arrival) (s : State) : Out :=
  match contribution with
  | .here k => match findId Contribution.id k s.contributions with
    | none => .next s
    | some c =>
      if c.away then .next (if s.peerCut (nameDevice c.name) then s.contributionOver c else s)
      else match c.vals with
      | some v => .next (s.deliverSend c v)
      | none =>
        if !layValid c.lay then .next s
        else match s.readSp c with
          | .ok v => .next (s.deliverSend c v)
          | .error x => .next ((s.engineFault c.group c.lanes 4 x.1 c.entry x.2).deliverSend c (nanVals c.rows c.cols))
  | .peer d (.send id link name gen rows cols vals) =>
    let s' := match (if nameDevice name = s.device then s.linked link d.toNat else none) with
      | none => s
      | some la => s.landContribution la.id name gen rows cols (SMap.setAll [] vals)
    .next (s'.post d.toNat (.landed id))
  | .peer d (.landed id) => match findId Contribution.id id s.contributions with
    | none => .next s
    | some c => if c.away && nameDevice c.name = d.toNat then .next (s.contributionOver c) else .next s
  | .peer _ _ => .next s

/-! ### Waiting and integration (R345 to R347) -/

/-- The slot that an instruction names (R345). -/
def slotOf (s : State) (e : Env) (f : Form) : Nat := (s.lowSrc e f.a).toNat % 64

/-- R345, R349: the open chain of the slot, opened by the executing block. -/
def ownChain (s : State) (e : Env) (f : Form) : Option Chain :=
  match s.openChain e.g.core (slotOf s e f) e.la.id with
  | some c => if c.block = e.b.id then some c else none
  | none => none

/-- R345. CHAIN.WAIT. -/
def execChainWait (f : Form) (s : State) : Out :=
  runOp .chainWait f s (fun e =>
    let slot := slotOf s e f
    let refuse := Res.trap Cause.chainProtocol (chainInfo (s.slotName e.g.core slot) 2) e.x
    match ownChain s e f with
    | none => refuse
    | some c =>
      if c.waiter.isSome then refuse
      else
        let (k, s) := s.addOp e f .saved (fun _ _ => (.engine, []))
        .ok ((s.updChain e.g.core slot (fun c => { c with waiter := some k })).placeIntegrations e.g.core))

/-- R47, R346: the total of an element, and whether reading it out saturates. -/
def Chain.total (c : Chain) (key : Nat) : Val × Bool :=
  let st := c.stat.get key
  if !c.exact then (Fmt.tx48.value (c.sums.get key).toNat, false)
  else
    let g := (c.sums.get key).toInt
    let lo : Int := -(2 ^ 95 : Nat)
    let hi : Int := (2 ^ 95 : Nat) - 1
    let n := satInt g lo hi
    if st.getLsbD 1 then (.nan, decide (n ≠ g))
    else if st.getLsbD 0 || n ≠ g then (.inf (n < 0), decide (n ≠ g))
    else (.fin (n < 0) n.natAbs (c.scale.toInt - 72), false)

/-- R346: one element of the region. -/
def Chain.written (c : Chain) (format old key : Nat) : Nat :=
  let F := accFmt format
  let v := (c.total key).1
  F.round .ne (if c.set then v else Val.add false (F.value old) v)

/-- R346: a chain closes; its slot keeps its status and its landed count. -/
def State.closeChain (s : State) (core slot : Nat) : State :=
  s.updChain core slot Chain.closed

/-- R346. INTEGRATION_ENTRY: the entry, at the head of its queue, writes the region and closes the chain. -/
def execIntegrationEntry (core slot : Nat) (s : State) : Out :=
  match s.nextEntry core, s.chainAt core slot with
  | some m, some c =>
    if m.kind = .integrate slot && c.isOpen then
      let t := s.entryTile m
      let home := m.block
      let els := (sendElems c.rows c.cols).map (fun x =>
        let i := x.getD 1 0
        let j := x.getD 0 0
        let key := accKey home c.tile (c.i0 + i) (c.j0 + j)
        (key, BitVec.ofNat 48 (c.written t.format (s.acc.get key).toNat (i * 1024 + j)), i * 1024 + j, (c.total (i * 1024 + j)).2))
      let s := { s with acc := s.acc.setAll (els.map (fun (x : Nat × BitVec 48 × Nat × Bool) => (x.1, x.2.1))) }
      let s := s.updChain core slot (fun c => els.foldl (fun (c : Chain) (x : Nat × BitVec 48 × Nat × Bool) =>
        if x.2.2.2 then { c with stat := c.stat.set x.2.2.1 (c.stat.get x.2.2.1 ||| 1) } else c) c)
      .next (((s.answerOp m.op []).closeChain core slot).finishEntry m)
    else .next s
  | _, _ => .next s

/-! ### Status, abort, suspension (R348, R349, R352) -/

/-- R348: the status word of a slot's record. -/
def Chain.statusWord (c : Chain) : Word :=
  let bit := fun (b : Bool) (k : Nat) => if b then 2 ^ k else 0
  BitVec.ofNat 32 (bit c.isOpen 31 + bit c.waiter.isSome 30 + bit (c.stat.any (fun x => x.2.getLsbD 0)) 29 + bit (c.stat.any (fun x => x.2.getLsbD 1)) 28 +
    bit c.aborted 27 + bit c.exact 26 + c.landed % 65536)

/-- R348. CHAIN.STATUS. -/
def execChainStatus (f : Form) (s : State) : Out :=
  runOp .chainStatus f s (fun e =>
    let w := match s.chainAt e.g.core (slotOf s e f) with
      | some c => if c.launch = e.la.id then c.statusWord else 0
      | none => 0
    .ok (s.writeRegs e.gid (e.writes f (fun _ _ => .of [w]))))

/-- R349. CHAIN.ABORT. The marks of a suspended chain go with it: later sends are discarded (R334). -/
def execChainAbort (f : Form) (s : State) : Out :=
  runOp .chainAbort f s (fun e =>
    let slot := slotOf s e f
    match ownChain s e f with
    | none => .trap Cause.chainProtocol (chainInfo (s.slotName e.g.core slot) 2) e.x
    | some c =>
      let s := match c.waiter with
        | some op => s.answerOp op []
        | none => s
      let s := { s with matrix := s.matrix.filter (fun m => !(m.kind = MatKind.integrate slot && m.cores = [e.g.core])) }
      let s := if c.suspended then s.markChain c false else s
      let s := (s.updChain e.g.core slot (fun c => { c with aborted := true })).closeChain e.g.core slot
      let s := (s.parkedAt c).foldl (fun (s : State) j => s.answerJoin j none) s
      .ok (s.addOp e f .saved (fun _ _ => (.joint, []))).2)

/-- R352, step 1: the open chains of a block become suspending, and every core with a binding is told. -/
def State.suspendChains (s : State) (block : Nat) : State :=
  (s.chains.filter (fun c => c.block = block && c.isOpen && !c.suspended)).foldl (fun (s : State) c =>
    (s.updChain c.core c.slot (fun c => { c with suspended := true, awaited := c.peers })).markChain c true) s

/-- Is a send of a launch to one generation of a chain still to land? -/
def State.sendsTo (s : State) (launch : Nat) (name : Word) (gen : Nat) : Bool :=
  s.contributions.any (fun x => x.name = name && x.launch = launch && x.gen = gen)

/-- R352, R353. CHAIN_SUSPENSION of a named chain: a suspended one of this device is saved once every earlier send to it has landed, here and on its
peers; a peer acknowledges; a peer's chain is suspended, or goes on. A notice that cannot be acknowledged yet comes again. -/
def execChainSuspension (name : Word) (notice : ChainNotice) (s : State) : Out :=
  match notice with
  | .due => match (if nameDevice name = s.device then s.chainAt (nameCore name) (nameSlot name) else none) with
    | none => .next s
    | some c =>
      if !c.isOpen || !c.suspended || c.saved then .next s
      else if s.sendsTo c.launch name c.gen || !c.awaited.all s.peerCut then .next s
      else .next (s.updChain (nameCore name) (nameSlot name) (fun c => { c with saved := true }))
  | .acknowledged d gen =>
    if nameDevice name ≠ s.device then .next s
    else .next (s.updChain (nameCore name) (nameSlot name) (fun c =>
      if c.gen = gen then { c with awaited := c.awaited.filter (fun x => x ≠ d.toNat) } else c))
  | .told d link gen on =>
    match s.linked link d.toNat with
    | none => .next (if on then s.post d.toNat (.suspended name gen) else s)
    | some la =>
      let s := s.markBindings la.id name gen on
      if !on || s.sendsTo la.id name gen then .next s else .next (s.post d.toNat (.suspended name gen))

end Sys2Proof.Machine
end

