-- ==== Sys2Proof/Machine/Issuing.lean ====
section
/-!
DEFINITION. Issue (R183 to R188, R413, R414): the clause at a header and its checks at fetch (R21, R67, R75, R76), the paths of a group and the
choice among them, the choice among groups, the start of a clause (R23 to R25); the completion of long-latency instructions (R23); asynchronous
traps (R416, R418, R436, R437), slice budgets (R412), power windows (R414), offered faults (R431, R464) and instruction-cache fills (R467).
-/
namespace Sys2Proof.Machine

/-! ### The clause at a header -/

/-- A clause as fetched: its header, its body, and how many long-latency instructions select flag A and flag B (R23). -/
structure Clause where
  hdr : Header
  body : List Parcel
  longA : Nat
  longB : Nat
  deriving DecidableEq, Repr

/-- What a fetch at a header finds. -/
inductive ClauseAt where
  | clause (c : Clause)
  /-- Cause and information word of the trap at the header. -/
  | trap (cause : Nat) (info : Word)
  | missing (va level reason : Nat)
  deriving DecidableEq, Repr

/-- The tenant of a group's launch. -/
def State.tenantOf (s : State) (g : Group) : Nat := (s.launch? g.launch).elim 0 (·.tenant)

/-- R431, R433, R467, R19: what a fetch that gives no bytes raises. -/
def State.fetchFault (s : State) (g : Group) : Fetched → ClauseAt
  | .bytes _ => .trap Cause.illegalForm 0
  | .outside => .trap Cause.illegalForm 0
  | .missing va level reason => match s.fetchUnresolved g (s.tenantOf g) va with
    | some p => .trap Cause.translation (transInfo p.reason p.level true 0)
    | none => .missing va level reason
  | .forbidden => .trap Cause.permission (boundsInfo 0 false 5 0)
  | .damaged => .trap Cause.uncorrectable 0
  | .unauthentic line => .trap Cause.codeAuth (BitVec.ofNat 32 line)

/-- The body of a clause whose header is in order, and R21's check of the level. DESIGN CHOICE (assumption 57): where a header's level is wrong and its
body cannot be fetched, or breaks R19, R22 or R67, no rule says which fault is reported, and RATE_MISMATCH comes last. -/
def State.bodyAt (s : State) (g : Group) (c : Code) (pc : Nat) (h : Header) : ClauseAt :=
  match s.fetchCode c (pc + 8) (2 * h.len) true with
  | .bytes bs =>
    let ps := parcelsOf bs
    match c.banks[h.bank]? with
    | none => .trap Cause.illegalForm 0
    | some bank => match scanBody bank ps.length ps with
      | none => .trap Cause.illegalForm 0
      | some (a, b) =>
        if h.level ≠ g.level then .trap Cause.rateMismatch (BitVec.ofNat 32 (8 * h.level + g.level))
        else .clause { hdr := h, body := ps, longA := a, longB := b }
  | x => s.fetchFault g x

/-- R21, R67, R75, R76: the clause at a header, or what its fetch raises on every lane that reaches it. -/
def State.clauseAt (s : State) (g : Group) (c : Code) (pc : Nat) : ClauseAt :=
  if pc % 8 ≠ 0 then .trap Cause.illegalForm 0
  else match s.fetchCode c pc 8 true with
    | .bytes bs =>
      let w : BitVec 64 := BitVec.ofNat 64 (parcelsWord bs)
      if isHeader w && headerOk w then s.bodyAt g c pc (Header.ofWord w) else .trap Cause.illegalForm 0
    | x => s.fetchFault g x

/-! ### Paths (R183 to R188) -/

/-- A path: a header, and the free lanes that stand at it (R183). -/
structure Path where
  pc : Nat
  lanes : LaneMask
  deriving DecidableEq, Repr

/-- The lanes that may run: the free ones, and of those only the handler's while a handler is open (R418). -/
def Group.runnable (g : Group) : LaneMask :=
  let free := g.lanesWhere (·.isFree)
  match g.handler with
  | some h => free &&& h.lanes
  | none => free

/-- R183, R200: the paths that some free lanes of a group form; the serial lane is a path of its own. DESIGN CHOICE (assumption 69): where it ties with
another path of one lane at its header, the other path is chosen. -/
def Group.pathsOf (g : Group) (free : LaneMask) : List Path :=
  let pcOf := fun (l : Nat) => (g.lane? l).elim 0 (·.pc)
  let all := lanesOf free
  let rest := all.filter (fun l => (g.serial.map (·.lane)) ≠ some l)
  let alone := all.filter (fun l => (g.serial.map (·.lane)) = some l)
  (dedup (rest.map pcOf)).map (fun pc => { pc, lanes := maskOf (rest.filter (fun l => pcOf l = pc)) }) ++
    alone.map (fun l => { pc := pcOf l, lanes := maskOf [l] })
/-- The paths that may run. -/
def Group.paths (g : Group) : List Path := g.pathsOf g.runnable
/-- The paths of the free lanes outside an open handler, none of which is chosen (R418). -/
def Group.idlePaths (g : Group) : List Path := g.pathsOf (g.lanesWhere (·.isFree) &&& ~~~g.runnable)

/-- R23, R24: may a clause start on `n` lanes: are its waits met, and would no flag's count pass 4,095? DESIGN CHOICE (assumption 69): a path for which
one would is not ready for the choice and for W (R185); and, guards not being known yet, each long-latency word counts on every lane of the path, until the
instruction issues and the lanes that do not execute it are taken off. -/
def Group.mayStart (g : Group) (c : Clause) (n : Nat) : Bool :=
  let adds := fun (i : Nat) => (if c.hdr.flagA = some i then 1 + n * c.longA else 0) + (if c.hdr.flagB = some i then 1 + n * c.longB else 0)
  g.waitsMet c.hdr.waits && (List.range 12).all (fun i => adds i = 0 || g.flag i + adds i ≤ 4095)

/-- The clause at a header of a group, by the code object of its launch. -/
def State.clauseOf (s : State) (g : Group) (pc : Nat) : ClauseAt :=
  match (s.launch? g.launch).bind (fun la => s.code? la.code) with
  | none => .trap Cause.illegalForm 0
  | some c => s.clauseAt g c pc

/-- R184: is a path ready? One whose fetch traps, or meets a missing page that its group has not asked for, is. -/
def State.pathReady (s : State) (g : Group) (p : Path) : Bool :=
  match s.clauseOf g p.pc with
  | .clause c => g.mayStart c (laneCount p.lanes)
  | .trap _ _ => true
  | .missing va _ _ => !s.fetchWaits g (s.tenantOf g) va

/-- The ready paths of a group. -/
def State.readyPaths (s : State) (g : Group) : List Path := g.paths.filter (s.pathReady g)

/-- The first of a list by an order. -/
def firstBy (lt : α → α → Bool) : List α → Option α
  | [] => none
  | x :: xs => some (xs.foldl (fun best y => if lt y best then y else best) x)

/-- The largest W of a path, and the lowest lane that has it (R185). -/
def Group.topWait (g : Group) (p : Path) : Nat × Nat :=
  (lanesOf p.lanes).foldl (fun (m : Nat × Nat) l =>
    let w := (g.lane? l).elim 0 (·.wait)
    if m.1 < w then (w, l) else m) ((g.lane? (lowLane p.lanes)).elim 0 (·.wait), lowLane p.lanes)

/-- The path with the most lanes, ties going to the lower address (R185, R437). -/
def mostLanes (ps : List Path) : Option Path :=
  firstBy (fun (p q : Path) =>
    decide (laneCount q.lanes < laneCount p.lanes) || (laneCount p.lanes = laneCount q.lanes && decide (p.pc < q.pc))) ps

/-- R185: the choice among paths: a lane with W at or above 64 first, else the most lanes, then the lower address. -/
def Group.choose (g : Group) (ps : List Path) : Option Path :=
  if ps.any (fun p => 64 ≤ (g.topWait p).1) then
    firstBy (fun (p q : Path) =>
      let x := g.topWait p
      let y := g.topWait q
      decide (y.1 < x.1) || (x.1 = y.1 && decide (x.2 < y.2))) ps
  else mostLanes ps

/-! ### Asynchronous traps that are due (R416, R418) -/

/-- R416, R418, R202, R435: the asynchronous trap that is delivered at a group's clause boundary. -/
def Group.asyncDue (g : Group) : Option Nat :=
  let free := g.lanesWhere (·.isFree) ≠ 0
  if g.run.isSome || g.handler.isSome || g.done then none
  else if g.preemptPending && g.serial.isNone && g.lanesWhere (·.unexited) ≠ 0 then some Cause.preempt
  else if g.budgetPending && free then some Cause.budget
  else if !g.faults.isEmpty && free then some Cause.engineFault
  else none

/-! ### The choice among groups (R413, R414) -/

/-- R414: are a queue's groups ready at an opportunity? The opportunities withheld are spread evenly. -/
def openAt (fraction clock : Nat) : Bool := clock * fraction / 16 < (clock + 1) * fraction / 16

/-- Does a group stand in the middle of a clause that can go on? -/
def State.midClause (s : State) (g : Group) : Bool := g.run.isSome && !s.heldBy g

/-- R413, R390, R414: is a group ready? -/
def State.groupReady (s : State) (g : Group) : Bool :=
  let admitted := (s.block? g.block).elim false (fun b => b.st = .admitted)
  let present := g.lanes.all (fun ln => ln.st = .missing || (s.elem? ln.elem).elim true (fun e => e.st ≠ .waiting))
  let fraction := ((s.launch? g.launch).bind (fun la => s.queue? la.queue)).elim 16 (·.fraction)
  !s.stopped && !g.done && admitted && present && openAt fraction s.clock &&
  (s.midClause g || (g.run.isNone && g.asyncDue.isNone && !(s.readyPaths g).isEmpty))

/-- R413: what orders the ready groups of a partition, the least first. DESIGN CHOICE (assumption 58): a yield hint (R20, R99) puts its group behind the
others that have not been passed over 64 times, at its partition's next issue only. -/
def State.issueKey (s : State) (g : Group) : List Nat :=
  let b := s.block? g.block
  [if 64 ≤ g.passed then 0 else 1, if 64 ≤ g.passed then g.passedAt else 0,
   if g.yielded then 1 else 0, (b.bind (·.deadline)).getD (2 ^ 64), g.role,
   g.lastIssue.elim 0 (· + 1), g.admitted, b.elim 0 (·.num.toNat), g.num]

/-- R413: the ready groups of a partition that are not chosen have been passed over once more. -/
def Group.passOver (g : Group) (clock : Nat) : Group :=
  { g with passed := g.passed + 1, passedAt := if g.passed + 1 = 64 then clock else g.passedAt }

/-! ### The start of a clause (R23, R25, R185) -/

/-- R23, R185: a clause starts on a path: its set-flags rise, W of its lanes is zero, and the lanes of the other ready paths are noted. -/
def Group.startClause (g : Group) (p : Path) (c : Clause) (losers : LaneMask) : Group :=
  let n := laneCount p.lanes
  let g := (g.addFlag? c.hdr.flagA (1 + n * c.longA)).addFlag? c.hdr.flagB (1 + n * c.longB)
  let g := g.updLanes p.lanes (fun _ ln => { ln with wait := 0 })
  { g with
    hold := none
    run := some { hdr := p.pc, cur := p.pc + 8, next := p.pc + 8, body := c.body, curBody := c.body, ft := fallThrough p.pc c.hdr.len, lanes := p.lanes
                  flagA := c.hdr.flagA, flagB := c.hdr.flagB, bank := c.hdr.bank, remA := n * c.longA, remB := n * c.longB, losers
                  targets := [], hint := c.hdr.yieldHint } }

/-- R282: the tag error that a clause's waits report. -/
def Group.tagError? (g : Group) (c : Clause) : Option (Nat × Nat) := g.tagErrors.find? (fun t => c.hdr.waits.contains t.1)

/-- R431: the fetch of a clause has trapped: a later fetch of its bytes is a new one. -/
def State.fetchAnswered (s : State) (g : Group) (pc : Nat) : State :=
  match (s.launch? g.launch).bind (fun la => s.code? la.code) with
  | none => s
  | some c => s.fetchTold g c.tenant (c.byteVa pc) 134

/-- The chosen path of a group issues: its fetch traps or is held, an observed tag error is raised (R282), or its clause starts. DESIGN CHOICE
(assumption 69): where no clause starts, W is as it was on every lane (R185), and R413 counts an issue. -/
def State.issuePath (s : State) (g : Group) (p : Path) (losers : LaneMask) : State :=
  match s.clauseOf g p.pc with
  | .trap cause info => (s.fetchAnswered g p.pc).trapHeader g.id cause info p.lanes p.pc
  | .missing va level reason => s.pageWait (fetchWaiter g.id) (s.tenantOf g) va level reason 0 true
  | .clause c => match g.tagError? c with
    | some t =>
      let s := s.updGroup g.id (fun g => { g with tagErrors := g.tagErrors.filter (fun x => x ≠ t) })
      s.trapHeader g.id Cause.uncorrectable (BitVec.ofNat 32 t.2) p.lanes p.pc
    | none => { s.updGroup g.id (fun g => g.startClause p c losers) with focus := some g.id }

/-- A group issues: it goes on with its clause, or the path that R185 chooses issues. -/
def State.issueGroup (s : State) (g : Group) : State :=
  if g.run.isSome then { s with focus := some g.id }
  else
    let ready := s.readyPaths g
    match g.choose ready with
    | none => s
    | some p =>
      let passed := ready.filter (fun q => q ≠ p) ++ g.idlePaths.filter (s.pathReady g)
      s.issuePath g p (passed.foldl (fun (m : LaneMask) q => m ||| q.lanes) 0)

/-- R330, R353: before a clause that waits on a flag which a suspended entry or a saved CHAIN.WAIT of the group holds up is passed over, the entries
re-enter; a clause of a handler too, but not of a group that is being pre-empted. -/
def State.reenterFor (s : State) (g : Group) : State :=
  let ops := (s.matrix.filter (fun m => m.suspended)).map (·.op) ++ (s.chains.filter (fun c => c.held)).filterMap (·.waiter)
  let flags := (s.ops.filter (fun o => o.group = g.id && ops.contains o.id)).filterMap (·.flag)
  let waits := fun (p : Path) => match s.clauseOf g p.pc with
    | .clause c => c.hdr.waits.any flags.contains
    | _ => false
  let free := (s.block? g.block).elim false (fun b => b.preemptAt.isNone)
  if !flags.isEmpty && free && !g.done && g.paths.any waits then s.reenter g.launch else s

/-- R413, R185, R25. PARTITION_ISSUE: a partition chooses a ready group, which issues; yield hints of its groups end with that choice (R20). DESIGN CHOICE
(assumption 59): whether the device packs narrow groups (R155) is an open outcome of R263, and the model issues one group alone. -/
def execPartitionIssue (core part : Nat) (s : State) : Out :=
  let here := fun (g : Group) => g.core = core && g.part = part
  let s := (s.groups.filter here).foldl (fun (s : State) g => s.reenterFor g) s
  let ready := (s.groups.filter here).filter s.groupReady
  match firstBy (fun (g h : Group) => lexLt (s.issueKey g) (s.issueKey h)) ready with
  | none => .next s
  | some g =>
    let clock := s.clock
    let others := (ready.map (·.id)).filter (fun k => k ≠ g.id)
    let s := { s with groups := s.groups.map (fun (x : Group) =>
      if x.id = g.id then { x with passed := 0, lastIssue := some clock, yielded := false }
      else if others.contains x.id then { x.passOver clock with yielded := false }
      else if here x then { x with yielded := false } else x) }
    let s := s.updBlock g.block (fun b => if b.preemptAt.isNone then { b with counting := true } else b)
    .next (s.issueGroup g)

/-! ### The completion of long-latency instructions (R23) -/

/-- R282: a lane of TWAIT observes tags as set, and the errors recorded against them pass to the clause that waits on its flag. DESIGN CHOICE
(assumption 79): that clause traps once for each of them, in ascending order, one at each start. -/
def State.observeTags (s : State) (o : LongOp) (core : Nat) (set : BitVec 64) : State :=
  match o.flag with
  | none => s
  | some f => (lanesOf set).foldl (fun (s : State) t =>
      if s.tagErrs.contains (tagKey core t) then
        (s.clearTagErr core t).updGroup o.group (fun g => { g with tagErrors := g.tagErrors ++ [(f, t)] })
      else s) s

/-- A value for a register that an instruction may have named. -/
def writeTo (r : Option RegRef) (x : Word) : List (RegRef × Word) :=
  match r with
  | some ref => [(ref, x)]
  | none => []

/-- R307: the lane takes what the distributor has for it. -/
def State.completeWork (s : State) (o : LongOp) (l : OpLane) : State :=
  match s.group? o.group with
  | none => s
  | some g => match s.takeWork g.launch g.core o.id l.lane with
    | none => s
    | some (x, got, s) => s.completeLane o l (writeTo o.dst x ++ writeTo o.pdst (if got then 1 else 0))

/-- R427: have the predecessors of a launch all ended, with every write performed; and all normally? -/
def State.predsEnded (s : State) (la : Launch) : Bool := la.preds.all (fun p => (s.launch? p.1).elim true s.launchDone)
def State.predsNormal (s : State) (la : Launch) : Bool := la.preds.all (fun p => (s.launch? p.1).elim true (fun q => q.normal))

/-- R269: is an instruction issued earlier still to write a G register that a lane writes? -/
def State.writesBehind (s : State) (o : LongOp) (l : OpLane) : Bool :=
  let gs := fun (x : OpLane) => x.writes.filterMap (fun w => match w.1 with
    | .g i => some i
    | _ => none)
  !(gs l).isEmpty && s.ops.any (fun p => p.group = o.group && decide (p.id < o.id) && p.lanes.any (fun x => (gs x).any (gs l).contains))

/-- Every lane of an outstanding instruction completes, each with these writes of its own. -/
def State.completeLanes (s : State) (o : LongOp) (writes : OpLane → List (RegRef × Word)) : State :=
  o.lanes.foldl (fun (s : State) l => match s.op? o.id with
    | some o => s.completeLane o l (writes l)
    | none => s) s

/-- A lane of an outstanding instruction completes, where what it waits for holds. CHAIN.OPEN has written its pd at issue, and writes it again only where
it was held over a save (R440). DESIGN CHOICE (assumption 79): whether a tidemark's recorded phase is over (R256) is looked at here and not latched. -/
def State.completeIf (s : State) (o : LongOp) (l : OpLane) : State :=
  let la := (s.group? o.group).bind (fun g => s.launch? g.launch)
  match l.cond with
  | .ready => if s.writesBehind o l then s else s.completeLane o l l.writes
  | .joint => s.completeLanes o (·.writes)
  | .opened => s.completeLanes o (fun l => if o.kept then l.writes else [])
  | .after ops => if ops.any (fun k => (s.op? k).elim false (fun p => p.lanes.any (fun x => x.lane = l.lane))) then s else s.completeLane o l l.writes
  | .tags core any mask => match la with
    | none => s
    | some la =>
      let set := s.setTags la.rcd core mask
      if (if any then mask = 0 || set ≠ 0 else set = mask) then (s.observeTags o core set).completeLane o l l.writes else s
  | .tidemark a phase => if (s.tidemark a).phase ≠ phase then s.completeLane o l l.writes else s
  | .owned gs => if gs.all (fun g => s.owners.get g = 0) then s.completeLane o l l.writes else s
  | .work => s.completeWork o l
  | .preds => match la with
    | none => s
    | some la => if s.predsEnded la then s.completeLane o l (writeTo o.pdst (if s.predsNormal la then 1 else 0)) else s
  | .seamLoad n image => (s.updGroup o.group (·.applySeam n image)).completeLane o l l.writes
  | _ => s

/-- R23, R25. LANE_COMPLETION: a long-latency instruction completes on a lane. -/
def execLaneCompletion (op lane : Nat) (s : State) : Out :=
  match s.op? op with
  | none => .next s
  | some o => match o.lanes.find? (fun l => l.lane = lane) with
    | none => .next s
    | some l => .next (s.completeIf o l)

/-! ### Asynchronous traps (R416 to R418, R436, R437) -/

/-- R436, R226: before a PREEMPT handler, arrived and regrouping lanes stand free at the headers of their clauses, and no seam has arrivals. -/
def Group.freeBlocked (g : Group) : Group :=
  let g := { g with lanes := g.lanes.map (fun ln => match ln.st with
    | .arrived _ _ => { ln with st := .free }
    | .regrouping _ _ _ => { ln with st := .free }
    | _ => ln) }
  (List.range 12).foldl (fun (g : Group) n => g.setSeam n (g.members n) 0) g

/-- R416, R437: the %trap.pc of an asynchronous trap: the header of the ready path that R185 would choose; where none is ready, of the path with the
most lanes, ties going to the lower address. In the middle of a clause, the path has been chosen. -/
def State.asyncPc (s : State) (g : Group) : Nat :=
  match g.run, g.choose (s.readyPaths g) with
  | some r, _ => r.hdr
  | none, some p => p.pc
  | none, none => (mostLanes g.paths).elim 0 (·.pc)

/-- R330: the entries of a launch that PREEMPT suspends: all but the tile saves and loads of a handler that runs already, and what sends need. -/
def State.suspendEntries (s : State) (launch : Nat) : State :=
  let inHandler := fun (k : Nat) => (s.group? k).elim false (fun g => g.done || g.handler.elim false (fun h => h.cause.toNat = Cause.preempt))
  let feeds := s.feeds launch
  let goes := fun (m : MatEntry) => (inHandler m.group && m.kind.passes) || feeds.contains m.id
  { s with matrix := s.matrix.map (fun m => if m.launch = launch && !goes m then { m with suspended := true } else m) }

/-- R435 to R437, R330, R352: PREEMPT is delivered. -/
def State.deliverPreempt (s : State) (g : Group) : State :=
  let s := (s.suspendEntries g.launch).suspendChains g.block
  let s := s.updGroup g.id (fun g => { g.freeBlocked with preemptPending := false })
  let g := g.freeBlocked
  let lanes := g.lanesWhere (·.unexited)
  s.takeTrapWith g.id Cause.preempt (fun ln => BitVec.ofNat 32 ln.pc) lanes lanes (.async (s.asyncPc g))

/-- R464, DEDUCED (assumption 67): a missing translation holds an instruction of a group's clause, and BUDGET, which is due, ends the wait. -/
def State.budgetEndsWait (s : State) (g : Group) : Bool := g.run.isSome && s.heldBy g && g.handler.isNone && !g.done && g.budgetPending

/-- R416: BUDGET is delivered to the free lanes. -/
def State.deliverBudget (s : State) (g : Group) : State :=
  let lanes := g.lanesWhere (·.isFree)
  let s := s.updGroup g.id (fun g => { g with budgetPending := false })
  s.takeTrapWith g.id Cause.budget (fun _ => 0) lanes lanes (if g.run.isSome then .held (s.asyncPc g) else .async (s.asyncPc g))

/-- R292, R416: the oldest report of ENGINE_FAULT is delivered: %trap.lanes is the lowest free lane of the path that issued, or else the lowest free
lane. -/
def State.deliverFault (s : State) (g : Group) : State :=
  match g.faults with
  | [] => s
  | f :: rest =>
    let free := g.lanesWhere (·.isFree)
    let low := if free &&& f.lanes ≠ 0 then lowLane (free &&& f.lanes) else lowLane free
    let s := s.updGroup g.id (fun g => { g with faults := rest })
    s.takeTrapWith g.id Cause.engineFault (fun _ => f.info) (maskOf [low]) free (.async (s.asyncPc g))

/-- R416, R418. ASYNC_TRAP_DELIVERY: the asynchronous trap that is due at a group's clause boundary, in the order PREEMPT, BUDGET, ENGINE_FAULT;
and BUDGET where it ends the wait of a held instruction (R464). -/
def execAsyncTrapDelivery (group : Nat) (s : State) : Out :=
  match s.group? group with
  | none => .next s
  | some g => match g.asyncDue with
    | none => .next (if s.budgetEndsWait g then s.deliverBudget g else s)
    | some c =>
      if c = Cause.preempt then .next (s.deliverPreempt g)
      else if c = Cause.budget then .next (s.deliverBudget g)
      else .next (s.deliverFault g)

/-! ### Slice budgets (R412) and power (R414) -/

/-- R412. SLICE_BUDGET_EXPIRY: a slice's count has run out: the first time it is refilled and BUDGET falls due in every group of the block; the second
time firmware ends the launch. What the report gives for %trap.pc and %trap.lanes is free: no lane has trapped. -/
def execSliceBudgetExpiry (block : Nat) (s : State) : Out :=
  match s.block? block with
  | none => .next s
  | some b =>
    let budget := (s.recOf b.launch).elim 0 (·.budget)
    if budget = 0 || b.st ≠ .admitted || !b.counting || b.budgetLeft ≠ 0 then .next s
    else if b.refilled then
      let (pc, s) := s.draw
      let (lanes, s) := s.draw
      .next (s.endLaunch b.launch (BitVec.ofNat 32 Cause.budget) 0 (pc.setWidth 32) lanes)
    else
      let s := s.updBlock block (fun b => { b with budgetLeft := budget * 1024, refilled := true })
      .next { s with groups := s.groups.map (fun g => if g.block = block then { g with budgetPending := true } else g) }

/-- R414: the sixteenths of its opportunities at which a queue's groups are ready in the next window. -/
def issueFraction (budget estimate : Nat) : Nat := if budget ≠ 0 && budget < estimate then max 1 (16 * budget / estimate) else 16

/-- R414, R475. POWER_WINDOW: a window of 10 µs ends with these estimates. -/
def execPowerWindow (w : PowerReport) (s : State) : Out :=
  .next { s with
    powerTotal := w.total
    queues := s.queues.map (fun q =>
      let x : Word := ((w.queues.find? (fun y => y.1 = q.num)).map (·.2)).getD 0
      { q with estimate := x, fraction := issueFraction q.budget.toNat x.toNat }) }

/-! ### Faults offered (R431, R464) and instruction-cache fills (R467) -/

/-- The number of a tenant's first queue. -/
def firstQueue (tenant : Nat) : Nat := 1 + 4 * tenant

/-- R431, R461, R464. TRANSLATION_FAULT_OFFER: a pending fault is offered to the host through the tenant's first queue. -/
def execTranslationFaultOffer (fault : Nat) (s : State) : Out :=
  match findId PageFault.id fault s.faults with
  | none => .next s
  | some p =>
    if p.offered || p.reason = 3 then .next s
    else
      let s := { s with faults := updId PageFault.id fault (fun p => { p with offered := true }) s.faults }
      .next (s.complete { queue := firstQueue p.tenant, tag := 0xFFFF, opcode := 0, kind := 3, status := 0, value := BitVec.ofNat 64 p.va
                          detail := BitVec.ofNat 128 p.id })

/-- Does the clause at a header have bytes in a line? -/
def State.clauseIn (s : State) (c : Code) (pc line : Nat) : Bool :=
  let len := match s.fetchCode c pc 8 false with
    | .bytes bs => (Header.ofWord (BitVec.ofNat 64 (parcelsWord bs))).len
    | _ => 0
  decide (c.lineOf pc ≤ line) && decide (line ≤ c.lineOf (pc + 7 + 2 * len))

/-- R467. ICACHE_FILL_AUTH: a fill of a line whose tag fails raises CODE_AUTH at the clause header that it serves. -/
def execIcacheFillAuth (code line : Nat) (s : State) : Out :=
  match s.code? code with
  | none => .next s
  | some c =>
    let served := fun (g : Group) => g.paths.find? (fun p => s.clauseIn c p.pc line)
    let mine := fun (g : Group) => g.run.isNone && g.asyncDue.isNone && !g.done && ((s.launch? g.launch).elim false (fun la => la.code = code))
    if s.lineOk c line then .next s
    else match (s.groups.filter mine).findSome? (fun g => (served g).map (fun p => (g.id, p))) with
      | none => .next s
      | some (k, p) => .next (s.trapHeader k Cause.codeAuth (BitVec.ofNat 32 line) p.lanes p.pc)

end Sys2Proof.Machine
end

