-- ==== Sys2Proof/Machine/Preempt.lean ====
section
/-!
DEFINITION. Pre-emption (R434 to R448): the operation that makes PREEMPT pending, the saving of a block, the hard stop, the restoration of a saved
block, and firmware's recovery from an uncorrectable error.
-/
namespace Sys2Proof.Machine

/-! ### Pre-empting a block (R434, R435) -/

/-- R434: has every present level a handler and a restore entry? -/
def LaunchRec.preemptible (r : LaunchRec) : Bool :=
  (List.range 8).all (fun n => !(r.level n).present || (r.handlers.getD n 0 ≠ 0 && r.restores.getD n 0 ≠ 0))

/-- R435, R412: PREEMPT becomes pending for every group of an admitted block at one moment, and its budget stops counting; a second one merges with
the first (R448). -/
def State.preemptBlock (s : State) (block : Nat) : State :=
  match s.block? block with
  | none => s
  | some b =>
    if b.st ≠ .admitted || b.preemptAt.isSome || !((s.recOf b.launch).elim false (·.preemptible)) then s
    else
      let clock := s.clock
      let s := s.updBlock block (fun b => { b with preemptAt := some clock, counting := false })
      { s with groups := s.groups.map (fun (g : Group) => if g.block = block then { g with preemptPending := true } else g) }

/-! ### Saving a block (R440 to R443) -/

/-- Is a group done, or have its lanes all exited (R442)? -/
def Group.settled (g : Group) : Bool := g.run.isNone && g.handler.isNone && (g.done || g.lanes.all (fun ln => !ln.unexited))

/-- R440: has a group of the block an instruction that must complete before the save? -/
def State.completing (s : State) (block : Nat) : Bool :=
  s.ops.any (fun o => o.fate = .completed && ((s.group? o.group).elim false (fun g => g.block = block)))

/-- R354: contributions of the block's groups that were read, or are to be read, from its state, and have not landed. -/
def State.sending (s : State) (block : Nat) : Bool :=
  s.contributions.any (fun c => c.block = block)

/-- R445: 200 µs in reference clocks. -/
def hardStopClocks : Nat := 350000

/-- R440 to R442, R445: may a pre-empted block be saved now? -/
def State.savable (s : State) (b : Block) : Bool :=
  b.st = .admitted && b.preemptAt.elim false (fun t => decide (s.clock < t + hardStopClocks)) &&
  (s.groups.filter (fun g => g.block = b.id)).all (·.settled) && !s.completing b.id &&
  s.matrix.all (fun m => m.block ≠ b.id || !m.started) && s.chains.all (fun c => c.block ≠ b.id || !c.isOpen || c.saved) &&
  !s.landingDue b && s.copies.all (fun c => c.block ≠ b.id) && s.tileOps.all (fun o => o.block ≠ b.id) && !s.sending b.id

/-- A granule of a block's allocation by position: position × 4,096 + granule. -/
def Block.place (b : Block) (n key : Nat) : Option Nat :=
  ((b.cores.zip b.base).zipIdx.find? (fun x => decide (granuleKey x.1.1 x.1.2 ≤ key) && decide (key < granuleKey x.1.1 x.1.2 + n))).map
    (fun x => x.2 * 4096 + (key - granuleKey x.1.1 x.1.2))

/-- The granule that a position names in an allocation. -/
def Block.granuleAt (b : Block) (place : Nat) : Nat := granuleKey (b.cores.getD (place / 4096) 0) (b.base.getD (place / 4096) 0 + place % 4096)

/-- The bytes of a granule in the map. -/
def granuleBytes (key : Nat) : List Nat := span (scratchAt 0 + key * 512) 512

/-- R442: the engine-owned granules of an allocation, with their bytes, by position. -/
def State.savedGranules (s : State) (r : LaunchRec) (b : Block) : Saved :=
  let mine := s.owners.filterMap (fun o => if o.2 = 0 then none else (b.place r.scratch o.1).map (fun p => (p, o)))
  { owners := SMap.setAll [] (mine.map (fun x => (x.1, x.2.2)))
    bytes := SMap.setAll [] (mine.flatMap (fun x => (granuleBytes x.2.1).zipIdx.map (fun a => (x.1 * 512 + a.2, s.byte a.1)))) }

/-- R330, R442: what a saved entry keeps of its granules is their positions. -/
def MatEntry.saveAt (m : MatEntry) (b : Block) (n : Nat) : MatEntry := { m with suspended := true, granules := m.granules.filterMap (b.place n) }

/-- R442: firmware saves a block's engine state and frees its resources. -/
def State.saveBlock (s : State) (r : LaunchRec) (b : Block) : State :=
  let kept := s.savedGranules r b
  { s with
    blocks := updId Block.id b.id (fun x => { x with st := .saved, saved := some kept, counting := false }) s.blocks
    groups := s.groups.map (fun (g : Group) => if g.block = b.id then { g with budgetPending := false, preemptPending := false } else g)
    matrix := s.matrix.map (fun (m : MatEntry) => if m.block = b.id then m.saveAt b r.scratch else m) }

/-- R442. BLOCK_SAVE: a pre-empted block whose groups are done, and whose outstanding work is settled, is saved. -/
def execBlockSave (block : Nat) (s : State) : Out :=
  match s.block? block with
  | none => .next s
  | some b => match s.recOf b.launch with
    | none => .next s
    | some r => if s.savable b then .next (s.saveBlock r b) else .next s

/-! ### The hard stop (R445) -/

/-- R445. HARD_STOP: a pre-empted block that has not been saved in 200 µs ends its launch, with cause PREEMPT and the timeout bit. What the report
gives beside is free: no lane has trapped. -/
def execHardStop (block : Nat) (s : State) : Out :=
  match s.block? block with
  | none => .next s
  | some b => match b.preemptAt with
    | none => .next s
    | some t =>
      if b.st ≠ .admitted || s.clock < t + hardStopClocks then .next s
      else
        let (x, s) := s.draw
        let (lanes, s) := s.draw
        .next (s.endLaunch b.launch (BitVec.ofNat 32 (512 + Cause.preempt)) (loWord x) (hiWord x) lanes)

/-! ### Restoring a block (R444, R446, R175, R353) -/

/-- R444: a lane at its restore entry. %clockhi is no row of that table: the lane is the same, and reads what it last latched (R17). -/
def Lane.restart (ln : Lane) (entry : Nat) (seed : Word) : Lane :=
  if ln.unexited then
    { ln with st := .free, pc := entry, v := [], o := [], l := [], lValid := 0, lHidden := 0, lKept := [], p := 0, seed, wait := 0, info := 0, retPc := 0, restoring := true }
  else ln

/-- R444: a group at its restore entry. -/
def State.restartGroup (s : State) (r : LaunchRec) (g : Group) (core part : Nat) : State :=
  let entry := r.restores.getD g.level 0
  let seed := fun (ln : Lane) => (s.elem? ln.elem).elim (1 : Word) (s.seedOf r)
  let lanes := g.lanes.map (fun ln => ln.restart entry (seed ln))
  let clock := s.clock
  s.updGroup g.id (fun g => { g with
    core, part, lanes, g := r.gImage g.level, seams := [], serial := none, run := none, handler := none, budgetPending := false, preemptPending := false
    resumeOn := false, resume := 0, resumeAt := 0, passed := 0, passedAt := 0, yielded := false
    tagErrors := [], hold := none, admitted := clock, done := false })

/-- R446, step 1: the engine-owned granules and the owner bits of a saved block are written back at the same offsets. -/
def State.writeBack (s : State) (b : Block) (kept : Saved) : State :=
  let s := { s with owners := kept.owners.foldl (fun (m : SMap 3) (o : Nat × BitVec 3) => m.set (b.granuleAt o.1) o.2) s.owners }
  s.storeCells (kept.bytes.map (fun (x : Nat × BitVec 8) => (scratchAt 0 + b.granuleAt (x.1 / 512) * 512 + x.1 % 512, x.2)))

/-- An address of the map in one allocation of a block, moved to the same offset of another. -/
def moveAddr (old new : Block) (n a : Nat) : Nat :=
  match old.place n (granuleOf a) with
  | none => a
  | some p => scratchAt 0 + new.granuleAt p * 512 + (a - scratchAt 0) % 512

/-- R446, step 3: a saved entry stands in the queues of the block's cores, with the places of its parameter block and its granules. -/
def MatEntry.placeAt (m : MatEntry) (old new : Block) (n : Nat) : MatEntry :=
  let core := fun (c : Nat) => ((old.cores.zip new.cores).find? (fun x => x.1 = c)).elim c (·.2)
  { m with
    cores := m.cores.map core, core := core m.core, granules := m.granules.map new.granuleAt
    kind := match m.kind with
      | .compute w f as pb => .compute w f (as.map (moveAddr old new n)) pb
      | k => k }

/-- R446, steps 2 and 3: the block's chains go on, with every mark on a binding to them cleared (R353); its entries are placed; a saved CHAIN.WAIT
waits for their re-entry. -/
def State.placeEngines (s : State) (old new : Block) (n : Nat) : State :=
  let mine := s.chains.filter (fun c => c.block = new.id && c.isOpen)
  let s := mine.foldl (fun (s : State) c => s.markChain c false) s
  let s := { s with
    chains := s.chains.map (fun (c : Chain) => if c.block = new.id && c.isOpen then
      { c with suspended := false, saved := false, held := c.waiter.isSome && !c.placed } else c)
    matrix := s.matrix.map (fun (m : MatEntry) => if m.block = new.id then m.placeAt old new n else m) }
  let s := s.holdGranules ((s.matrix.filter (fun m => m.block = new.id)).flatMap (·.granules))
  new.cores.foldl (fun (s : State) c => s.placeIntegrations c) s

/-- R443: a restored block's cores join white, and with the last saved block a new round of the token starts. -/
def Launch.rejoin (la : Launch) (cores : List Nat) (last : Bool) : Launch :=
  { la with dist := { la.dist with black := la.dist.black.filter (fun c => !cores.contains c)
                                   circulating := la.dist.circulating && !last, tokenBlack := la.dist.tokenBlack && !last } }

/-- R446: a saved block on the cores of its plan. -/
def State.restoreBlock (s : State) (la : Launch) (b : Block) (kept : Saved) (p : Plan) (places : List (Nat × Nat × Nat)) : State :=
  let s := s.takeSpace la b p
  let s := s.updBlock b.id (fun b => { b with preemptAt := none, saved := none, counting := false, bound := none })
  let new := { b with cores := p.cores, base := p.base }
  let s := (s.writeBack new kept).placeEngines b new la.rcd.scratch
  let last := !s.blocks.any (fun x => x.launch = la.id && x.st = .saved)
  let s := s.updLaunch la.id (fun la => la.rejoin p.cores last)
  places.foldl (fun (s : State) x => match s.group? x.1 with
    | none => s
    | some g => (s.restartGroup la.rcd g x.2.1 x.2.2).runsAt (g.lanes.filterMap (fun ln => if ln.unexited then some ln.elem else none)) x.2.1) s

/-- R446, R381, R409. BLOCK_RESTORE: a saved block of a launch that is not held pre-empted is admitted again, at a core, and starts at its restore
entries. -/
def execBlockRestore (block core : Nat) (s : State) : Out :=
  match s.block? block with
  | none => .next s
  | some b => match s.launch? b.launch, b.saved with
    | some la, some kept =>
      if b.st ≠ .saved || la.st ≠ .running || la.preempted || s.stopped || s.outranked b core then .next s
      else match s.restorePlan la b core with
        | none => .next s
        | some (s', p, places) => .next (s'.restoreBlock la b kept p places)
    | _, _ => .next s

/-! ### Recovery (R434) -/

/-- R434, R292: the allocation of a block that has ended, and waits for what is addressed to it, is discarded: operations hold its granules no longer, what
is still to land there does not, and its queries are not answered. -/
def State.discard (s : State) (block : Nat) : State :=
  match s.block? block with
  | none => s
  | some b => match s.recOf b.launch with
    | none => s
    | some r =>
      if b.st ≠ .ended then s
      else
        let keep := fun (gs : List Nat) => gs.filter (fun k => !b.ownsGranule r k)
        { s with
          blocks := updId Block.id block (fun b => { b with cores := [], base := [], addressed := 0 }) s.blocks
          tileOps := s.tileOps.map (fun o => { o with granules := keep o.granules })
          contributions := s.contributions.map (fun (c : Contribution) => { c with granules := keep c.granules })
          asks := s.asks.filter (fun a => a.block ≠ block) }

/-- R434. UNCORRECTABLE_ERROR_RECOVERY: firmware pre-empts the blocks whose cores it needs, and discards the allocations there that only wait to be
freed. -/
def execUncorrectableErrorRecovery (blocks : List Nat) (s : State) : Out :=
  .next (blocks.foldl (fun (s : State) k => (s.preemptBlock k).discard k) s)

end Sys2Proof.Machine
end

