-- ==== Sys2Proof/Machine/Record.lean ====
section
/-!
DEFINITION. Launch records (R404, R405): the record that bytes hold, the checks that firmware makes (R147, R157, R165, R230, R304, R311, R360, R379,
R380, R406 to R408, R453) with the error of each, and the acceptance of a launch.
-/
namespace Sys2Proof.Machine

/-! ### The record in bytes (R404, R405) -/

/-- `n` bytes of a record at an offset, as a number (R8). -/
def recNat (bs : List Byte) (off n : Nat) : Nat := leNat ((bs.drop off).take n)

/-- The length that a record's header gives it (R404). -/
def recLength (bs : List Byte) : Nat :=
  let h := recNat bs 0 64
  816 + 64 * bitsOf h 326 318 + 4 * bitsOf h 303 288

/-- R145: descriptor `n`; an absent level's fields count for nothing. -/
def recLevel (bs : List Byte) (n : Nat) : Level :=
  let x := recNat bs (64 + 16 * n) 16
  if x.testBit 95 then
    { present := true, name := bitsOf x 127 96, domain := bitsOf x 94 92, scope := bitsOf x 91 89, width := 8 * 2 ^ bitsOf x 88 87
      held := bitsOf x 86 80, gen := bitsOf x 79 77, spans := x.testBit 76, countSrc := x.testBit 75, countReg := bitsOf x 74 69
      count := bitsOf x 63 32, uniform := bitsOf x 31 24, imageLen := bitsOf x 23 16, imageOff := bitsOf x 15 0 }
  else .absent

/-- R157. -/
def recRole (bs : List Byte) (i : Nat) : RoleEntry :=
  let x := recNat bs (224 + 8 * i) 8
  { entry := bitsOf x 63 32, budget := bitsOf x 31 24, groups := bitsOf x 23 12 }

/-- R162. -/
def recHeld (bs : List Byte) (i : Nat) : Nat := recNat bs (256 + i / 2) 1 / (if i % 2 = 0 then 1 else 16) % 16

/-- R167. -/
def recShelf (bs : List Byte) (n : Nat) : ShelfEntry :=
  let x := recNat bs (512 + 8 * n) 8
  { slots := bitsOf x 63 40, backing := if x.testBit 31 then some (bitsOf x 39 32) else none, backSlots := bitsOf x 30 8 }

/-- R310; rows and columns in elements. -/
def recTile (bs : List Byte) (k : Nat) : TileDesc :=
  let x := recNat bs (576 + 8 * k) 8
  { format := bitsOf x 63 60, rows := 64 * bitsOf x 59 57, cols := 64 * bitsOf x 56 53, split := x.testBit 52, home := bitsOf x 51 50 }

/-- R304. -/
def recWork (bs : List Byte) : WorkDesc :=
  let x := recNat bs 704 16
  { count := bitsOf x 127 96, first := bitsOf x 95 64, depth := bitsOf x 63 57, dynamic := x.testBit 56 }

/-- R379. -/
def recDraw (bs : List Byte) : DrawDesc :=
  let x := recNat bs 720 32
  { present := x.testBit 112, x0 := bitsOf x 255 224, y0 := bitsOf x 223 192, width := bitsOf x 191 176 + 1, height := bitsOf x 175 160 + 1
    clear := BitVec.ofNat 32 (bitsOf x 159 128), home := bitsOf x 127 120, pass := bitsOf x 119 117, coarse := 2 ^ bitsOf x 116 115
    samples := 2 ^ bitsOf x 114 113, capacity := bitsOf x 111 88 }

/-- The root entries of a record, as submitted: each Base names a window and an offset (R453). -/
def recRoots (bs : List Byte) : List (BitVec 512) :=
  (List.range (bitsOf (recNat bs 0 64) 326 318)).map (fun k => BitVec.ofNat 512 (recNat bs (816 + 64 * k) 64))

/-- R405, R404: the record that bytes hold, with these root entries. -/
def parseRecord (bs : List Byte) (roots : List (BitVec 512)) : LaunchRec :=
  let h := recNat bs 0 64
  let words := fun (off : Nat) => (List.range 8).map (fun n => recNat bs (off + 4 * n) 4)
  { levels := (List.range 8).map (recLevel bs), entries := words 192, roles := h.testBit 304, roleLevel := bitsOf h 307 305
    roleEntries := (List.range 4).map (recRole bs), heldMap := (List.range 512).map (recHeld bs), shelf := (List.range 8).map (recShelf bs)
    tiles := (List.range 16).map (recTile bs), work := recWork bs, draw := recDraw bs, handlers := words 752, restores := words 784, roots
    pool := (List.range (bitsOf h 303 288)).map (fun i => BitVec.ofNat 32 (recNat bs (816 + 64 * bitsOf h 326 318 + 4 * i) 4))
    deadline := bitsOf h 447 416, budget := bitsOf h 415 384, seed := BitVec.ofNat 32 (bitsOf h 383 352), scratch := bitsOf h 351 340
    tagBase := bitsOf h 339 334, tagCount := bitsOf h 333 327, derived := bitsOf h 317 309, spread := h.testBit 308
    budgets := (List.range 8).map (fun n => bitsOf h (231 + 8 * n) (224 + 8 * n)) }

/-! ### Windows and roots (R452, R453) -/

/-- The window of a tenant with a number, once its map has completed. -/
def State.window? (s : State) (tenant num : Nat) : Option Window :=
  s.windows.find? (fun w => w.tenant = tenant && w.num = num && w.waiting.isNone)

/-- R452: may a space use windows of a kind? A PEER layout names the window's device as its Target. -/
def WindowKind.suits (k : WindowKind) (m : BitVec 512) : Bool :=
  match k with
  | .device => laySpace m = spGlobal || laySpace m = spTexture || laySpace m = spBacking
  | .host => laySpace m = spGlobal
  | .peer d _ _ => laySpace m = spPeer && layTarget m = d

/-- The window that a root's Base names, and the offset in it (R453). -/
def rootWindow (m : BitVec 512) : Nat := layBase m / 2 ^ 56
def rootOffset (m : BitVec 512) : Nat := layBase m % 2 ^ 56

/-- R453: a root with the hidden address that its window and offset give. -/
def State.placeRoot (s : State) (tenant : Nat) (m : BitVec 512) : BitVec 512 :=
  if layOnChip m then m
  else match s.window? tenant (rootWindow m) with
    | none => m
    | some w => m.extractLsb' 64 448 ++ BitVec.ofNat 64 (w.base + rootOffset m)

/-- Does an entry reach no byte at all? -/
def layEmpty (m : BitVec 512) : Bool := (List.range (layRank m)).any (fun i => layExt m i = 0)

/-- R230, R453, reason 4: is the root's window absent, or does the root reach past the windows? R452: of a kind that does not suit, or into
another window of such a kind? -/
def State.rootLost (s : State) (tenant : Nat) (raw : BitVec 512) : Bool :=
  match s.window? tenant (rootWindow raw) with
  | none => true
  | some w =>
    let m := s.placeRoot tenant raw
    let r := layReach m
    let covered := fun (a : Int) => decide (0 ≤ a) && (s.windowOf tenant a.toNat).any (fun w => w.kind.suits raw)
    !w.kind.suits raw || (!layEmpty m && (decide (r.2 ≥ (w.base + w.size : Nat)) ||
      (decide (r.1 < (w.base : Nat)) && !(layAddrs m).all (fun a => covered a && covered (a + (layElem m - 1 : Nat))))))

/-! ### Where checks fail -/

/-- One failed check of a table: the level, entry or tile number, and the reason. -/
abbrev Bad := Nat × Nat

/-- R407: the lowest number, and for it the lowest reason. -/
def worst (bs : List Bad) : Option Bad := bs.foldl (fun (best : Option Bad) b =>
  match best with
  | none => some b
  | some x => if b.1 < x.1 || (b.1 = x.1 && decide (b.2 < x.2)) then some b else some x) none

/-- The reasons of a number whose conditions hold. -/
def badIf (n : Nat) (cs : List (Nat × Bool)) : List Bad := (cs.filter (·.2)).map (fun c => (n, c.1))

/-- R407: the error word. -/
def errorWord (code reason number : Nat) : Word := BitVec.ofNat 32 (code + 256 * reason + 65536 * number)

/-- Is there a header at a level's number at an offset? -/
def State.headerAt (s : State) (c : Code) (off level : Nat) : Bool := s.targetAt c off = .header level

/-! ### Levels (R147, R157, R165, R360) -/

/-- R146: the narrowest scope of a domain. -/
def narrowest (domain : Nat) : Nat := [4, 3, 2, 1, 1, 0].getD domain 0

/-- R157: does the role level break a rule? -/
def State.rolesBad (s : State) (c : Code) (r : LaunchRec) : Bool :=
  let lv := r.level r.roleLevel
  let sum := (r.roleEntries.map (·.groups)).sum
  !lv.present || lv.gen ≠ 0 || lv.countSrc || !(2 ≤ lv.domain && lv.domain ≤ 4) || lv.count ≠ lv.width * sum ||
  r.roleEntries.any (fun e => (e.budget = 0) ≠ (e.groups = 0) || 32 < e.budget || (e.budget ≠ 0 && !s.headerAt c e.entry r.roleLevel))

/-- R165, reason 11: is the held map wrong for readers at a level? -/
def heldBad (r : LaunchRec) (n : Nat) : Bool :=
  (List.range 64).any (fun i =>
    let m := r.heldLevel n i
    m ≠ 15 && (!(r.level n).present || 8 ≤ m || n < m || !(r.level m).present || (r.level m).held ≤ i))

/-- R165, reason 12: does a level's Shelf entry break R167 or R168? `x` is the entry's bits. -/
def shelfBad (r : LaunchRec) (n x : Nat) : Bool :=
  let e := (r.shelf[n]?).getD { slots := 0, backing := none, backSlots := 0 }
  let held := (r.level n).held
  if held = 0 then x ≠ 0
  else bitsOf x 7 0 ≠ 0 ||
    (match e.backing with
     | none => e.slots = 0 || bitsOf x 39 32 ≠ 0 || e.backSlots ≠ 0
     | some k => r.memResident n || (match r.roots[k]? with
       | none => true
       | some m => laySpace m ≠ spBacking || decide ((layReach m).2 + 1 - layBase m < (96 * e.backSlots * r.slotBytes n : Nat))))

/-- The failed checks of one level; `x` is its descriptor's bits and `y` its Shelf entry's. -/
def State.levelBad (s : State) (c : Code) (r : LaunchRec) (n x y : Nat) : List Bad :=
  let lv := r.level n
  let fixed := lv.gen = 0
  let parentHeld := (r.level (n - 1)).held
  badIf n (if !lv.present then
      [(1, n = 0 && (List.range 8).all (fun m => !(r.level m).present)),
       (3, 5 < bitsOf x 94 92 || 5 < bitsOf x 91 89 || 4 < bitsOf x 79 77 || bitsOf x 68 64 ≠ 0), (10, r.roles && r.roleLevel = n),
       (11, heldBad r n), (12, shelfBad r n y)]
    else
      [(1, (List.range n).any (fun m => !(r.level m).present)),
       (2, n = 0 && (!fixed || lv.countSrc || lv.spans)),
       (3, 5 < lv.domain || 5 < lv.scope || 4 < lv.gen || 64 < lv.held || bitsOf x 68 64 ≠ 0 || (!lv.countSrc && lv.countReg ≠ 0) ||
         (fixed && lv.countSrc && lv.count ≠ 0)),
       (4, decide (lv.scope < narrowest lv.domain)),
       (5, fixed && !lv.countSrc && (lv.count = 0 || decide (domainLimit lv.domain lv.width < lv.count))),
       (6, (!fixed && (lv.count ≠ 0 || lv.countSrc)) || (lv.countSrc && (n = 0 || decide (parentHeld ≤ lv.countReg)))),
       (7, lv.spans && lv.gen ≠ 2),
       (8, decide (lv.imageLen < lv.uniform) || decide (r.pool.length < lv.imageOff + lv.imageLen)),
       (9, !s.headerAt c (r.entries.getD n 0) n),
       (10, r.roles && r.roleLevel = n && s.rolesBad c r),
       (11, heldBad r n),
       (12, shelfBad r n y || (n = 0 && decide (Config.shelfBytes < r.poolBytes))),
       (13, lv.gen = 4 && (lv.domain ≠ 3 || lv.scope ≠ 1))])

/-- LEVEL_INVALID: the level and the reason. -/
def State.levelsBad (s : State) (c : Code) (r : LaunchRec) (bs : List Byte) : Option Bad :=
  worst ((List.range 8).flatMap (fun n => s.levelBad c r n (recNat bs (64 + 16 * n) 16) (recNat bs (512 + 8 * n) 8)))

/-! ### Layouts (R230) -/

/-- One past the highest byte that an entry reaches; a swizzle may move it within its 128 bytes (R231). -/
def layTop (m : BitVec 512) : Nat :=
  let high := (layReach m).2.toNat
  let row := high / 128 * 128
  if layOnChip m && laySwizzle m then (((List.range 128).filter (fun t => layMeetsRange m (row + t) (row + t + 1))).map (fun t => row + t + 1)).foldl max 0
  else ((layReach m).2 + 1).toNat

/-- One past the highest byte that some root of a space reaches. -/
def LaunchRec.top (r : LaunchRec) (space : Nat) : Nat :=
  ((r.roots.filter (fun m => laySpace m = space && !layEmpty m)).map layTop).foldl max 0

/-- R406: the groups of the largest block that a level of a launch can reach; of a BATCHED level, with those of the opening block. -/
def LaunchRec.largest (r : LaunchRec) : Nat → Nat
  | 0 => let lv := r.level 0
    if lv.domain ≤ 1 then 1 else r.groupsOf 0 lv.count
  | n + 1 => let lv := r.level (n + 1)
    if lv.gen = 4 then r.largest n + 2048 / lv.width
    else if lv.domain ≤ 1 then 1
    else if lv.gen = 0 && !lv.countSrc then r.groupsOf (n + 1) lv.count
    else r.groupsOf (n + 1) (domainLimit lv.domain lv.width)

/-- R406, reason 5: the bytes of the derived area of the launch's largest block. -/
def LaunchRec.derivedBytes (r : LaunchRec) : Nat :=
  64 * r.derived * (((List.range 8).filter (fun n => (r.level n).present)).map r.largest).foldl max 0

/-- The failed checks of root `k`; `m` is the entry as placed and `raw` as submitted. A root overlaps the derived area where one of its bytes lies there. -/
def State.rootBad (s : State) (tenant : Nat) (r : LaunchRec) (k : Nat) (m raw : BitVec 512) : List Bad :=
  let ft := fun (lo n : Nat) => m.extractLsb' lo n ≠ 0
  let reach := layReach m
  let area := r.top spScratch
  badIf k
    [(1, ft 448 64 || ft 411 5 || ft 384 5 || 5 < laySpace m || layRank m = 0 || 5 < layRank m || 4 < layCode m || 9 < layShift m || !layValid m ||
        (if laySpace m = spReef then 3 < layTarget m else laySpace m ≠ spPeer && layTarget m ≠ 0)),
     (2, (List.range 5).any (fun i => decide (layRank m ≤ i) && (layExt m i ≠ 1 || layStride m i ≠ 0))),
     (3, layDerived m || (laySpace m = spTexture && (layW m || layA m)) || (laySpace m = spBacking && (layR m || layW m || layA m))),
     (4, !layOnChip m && s.rootLost tenant raw),
     (5, layOnChip m && !layEmpty m && (decide (reach.1 < 0) || decide ((r.scratch * 512 : Nat) ≤ reach.2) ||
        (r.derived ≠ 0 && laySpace m = spReef && layMeetsRange m area (area + r.derivedBytes)))),
     (6, (laySwizzle m && !layOnChip m) || layZ m % 128 ≠ 0 || (!layEmpty m && decide (reach.1 < (layZ m : Nat))))]

/-- LAYOUT_INVALID: the entry and the reason. DESIGN CHOICE (assumption 41): reason 7, which is of no entry, carries 0 as the entry. -/
def State.layoutsBad (s : State) (tenant : Nat) (r : LaunchRec) (raw : List (BitVec 512)) : Option Bad :=
  worst (badIf 0 [(7, decide (256 < r.roots.length + r.derived))] ++
    ((r.roots.zip raw).zipIdx.flatMap (fun x => s.rootBad tenant r x.2 x.1.1 x.1.2)))

/-! ### Tiles (R311) -/

/-- The bytes of a tile on each of its cores (R310). -/
def TileDesc.bytes (t : TileDesc) : Nat := t.rows * (if t.split then t.cols / 2 else t.cols) * (if t.format = 12 then 6 else 4)

/-- The reef positions that hold a tile. -/
def TileDesc.positions (t : TileDesc) : List Nat := if t.format = 0 then [] else if t.split then [t.home, t.home ^^^ 1] else [t.home]

/-- Accumulator bytes at a position up to tile `k` and with it. -/
def LaunchRec.tileBytesTo (r : LaunchRec) (k p : Nat) : Nat :=
  ((r.tiles.take (k + 1)).map (fun t => if t.positions.contains p then t.bytes else 0)).sum

/-- The failed checks of tile `k`; `x` is its descriptor's bits. -/
def tileBad (r : LaunchRec) (k x : Nat) : List Bad :=
  let t := r.tiles.getD k { format := 0, rows := 0, cols := 0, split := false, home := 0 }
  let level := r.tileLevel.getD 8
  let span := r.spanned level (r.largest level)
  if t.format = 0 then badIf k [(1, x ≠ 0)]
  else badIf k
    [(1, !([9, 11, 12].contains t.format) || t.rows = 0 || 384 < t.rows || t.cols = 0 || 640 < t.cols || bitsOf x 49 0 ≠ 0),
     (2, r.tileLevel.isNone || decide (span ≤ t.home) ||
        (t.split && (t.cols / 64 % 2 = 1 || (r.level level).domain ≠ 2 || decide (span ≤ t.home ^^^ 1)))),
     (3, t.positions.any (fun p => decide (Config.accBytes < r.tileBytesTo k p)))]

/-- ACC_INVALID: the tile and the reason. -/
def tilesBad (r : LaunchRec) (bs : List Byte) : Option Bad :=
  worst ((List.range 16).flatMap (fun k => tileBad r k (recNat bs (576 + 8 * k) 8)))

/-! ### Work and draw (R304, R379, R380) -/

/-- WORK_INVALID. -/
def workBad (r : LaunchRec) (bs : List Byte) : Bool :=
  bitsOf (recNat bs 704 16) 55 0 ≠ 0 || 64 < r.work.depth || 0xFFFFFFFF < r.work.first + r.work.count

/-- The RASTER levels of a record. -/
def LaunchRec.rasters (r : LaunchRec) : List Nat := (List.range 8).filter (fun n => (r.level n).present && (r.level n).gen = 2)

/-- R380: is the level structure of a draw wrong? -/
def drawLevelsBad (r : LaunchRec) : Bool :=
  match r.rasters with
  | [k, l] =>
    l ≠ k + 1 || decide (k < 2) || !(r.level k).spans || (r.level (k - 1)).gen ≠ 1 || decide (k - 2 < r.draw.pass) ||
    [k, l].any (fun n => (r.level n).domain ≠ 2 && (r.level n).domain ≠ 3)
  | _ => true

/-- DRAW_INVALID: the reason. -/
def drawBad (r : LaunchRec) (bs : List Byte) : Option Bad :=
  let x := recNat bs 720 32
  let d := r.draw
  let v := Fmt.fp32.value d.clear.toNat
  let draws := d.present || !r.rasters.isEmpty
  worst (badIf 0
    [(1, bitsOf x 87 0 ≠ 0 || (draws && (bitsOf x 116 115 = 3 || d.capacity = 0))),
     (2, draws && drawLevelsBad r),
     (3, draws && (decide (Config.cores ≤ d.home) || decide (2 ^ 31 ≤ d.x0 + d.width - 1) || decide (2 ^ 31 ≤ d.y0 + d.height - 1))),
     (4, draws && v.isNan),
     (5, d.present ≠ !r.rasters.isEmpty)])

/-! ### The header and the other tables (R406) -/

/-- RECORD_INVALID: the number and the reason. -/
def State.recordBad (s : State) (c : Code) (r : LaunchRec) (bs : List Byte) : Option Bad :=
  let h := recNat bs 0 64
  let roleBits := fun (i : Nat) => bitsOf (recNat bs (224 + 8 * i) 8) 11 0
  let lost := fun (n off : Nat) => off ≠ 0 && (!(r.level n).present || !s.headerAt c off n)
  worst (badIf 0 [(1, bitsOf h 511 448 ≠ 0 || bitsOf h 223 0 ≠ 0), (2, decide (64 < r.tagBase + r.tagCount)),
      (5, decide (r.scratch * 512 < r.derivedBytes + r.top spScratch))] ++
    (List.range 4).flatMap (fun i => badIf i [(1, roleBits i ≠ 0)]) ++
    (List.range 8).flatMap (fun n =>
      let b := r.budgets.getD n 0
      badIf n
        [(1, !(r.level n).present && b ≠ 0),
         (3, lost n (r.handlers.getD n 0) || lost n (r.restores.getD n 0)),
         (4, (r.level n).present && !(r.roles && r.roleLevel = n) && (b = 0 || 32 < b))]))

/-! ### Admission on an empty core (R408) -/

/-- ADMIT_IMPOSSIBLE: could some block whose groups the record fixes not be admitted on an empty core? The level. -/
def impossible (r : LaunchRec) : Option Bad :=
  worst ((List.range 8).flatMap (fun n =>
    let lv := r.level n
    let spawners := max (r.level (n - 1)).width lv.width
    badIf n [(0, lv.present && (!r.placeable n 1 ||
      (lv.gen = 0 && !lv.countSrc && !r.fits n (r.groupsOf n lv.count)) ||
      (lv.gen = 3 && !r.placeable n (r.groupsOf n spawners))))]))

/-! ### Space (R168, R385, R452) -/

/-- Error codes of commands (R463). -/
def Err.notPreemptible : Nat := 10
def Err.noObject : Nat := 11
def Err.windowInvalid : Nat := 12
def Err.noMemory : Nat := 13
def Err.busy : Nat := 14
def Err.headerInvalid : Nat := 15
def Err.levelUnsupported : Nat := 16
def Err.dictInvalid : Nat := 17
def Err.relocOverflow : Nat := 18
def Err.erratumDependence : Nat := 19
def Err.codeAuth : Nat := 20
def Err.keyInvalid : Nat := 21
def Err.signatureInvalid : Nat := 22

def roundUp (n a : Nat) : Nat := (a + n - 1) / n * n

/-- The lowest place of `size` bytes from `lo` to `hi`, aligned, that meets none of the used ranges. -/
def firstFit (used : List (Nat × Nat)) (lo hi size align : Nat) : Option Nat :=
  let ok := fun (a : Nat) => decide (a + size ≤ hi) && used.all (fun u => decide (a + size ≤ u.1) || decide (u.1 + u.2 ≤ a))
  (((lo :: used.map (fun u => max lo (u.1 + u.2))).map (roundUp align)).filter ok).min?

/-- Bytes of a resident object, in whole pages. -/
def Code.size (c : Code) : Nat := roundUp 65536 (c.lines * 128)

/-- The device memory in use: backings of DEVICE windows, code objects, and what launches that have not ended hold (R168, R385). -/
def State.deviceUsed (s : State) : List (Nat × Nat) :=
  (s.windows.filter (fun w => w.kind = .device)).map (fun w => (w.backing, w.size)) ++ s.codes.map (fun c => (c.place, c.size)) ++
    (s.launches.filter (fun la => la.st ≠ .ended)).flatMap (·.areas)

/-- R168, R385: the bytes that firmware takes from the tenant's memory for a launch: a held area for each memory-resident level, and the depth area,
8 bytes for each sample of each frame element. -/
def LaunchRec.areaSizes (r : LaunchRec) : List Nat :=
  ((List.range 8).filter (fun n => (r.level n).present && (r.level n).held ≠ 0 && r.memResident n)).map (fun n =>
    ((r.shelf[n]?).elim 0 (·.slots)) * r.slotBytes n) ++
  (if r.draw.present then [8 * (r.level 0).count * r.draw.width * r.draw.height * r.draw.samples] else [])

/-- The lowest places for areas of these sizes beside what is used; none where one does not fit (assumption 63). -/
def placeAreas (used : List (Nat × Nat)) : List Nat → Option (List (Nat × Nat))
  | [] => some []
  | n :: ns => match firstFit used 0 Config.deviceBytes n 128 with
    | none => none
    | some a => (placeAreas (used ++ [(a, n)]) ns).map ((a, n) :: ·)

/-! ### Acceptance (R406, R407) -/

/-- R407: the error that a record is refused with, in the order of the codes. -/
def State.refusal (s : State) (tenant : Nat) (c : Code) (r : LaunchRec) (raw : List (BitVec 512)) (bs : List Byte) : Option Word :=
  let word := fun (code : Nat) (b : Option Bad) => b.map (fun x => errorWord code x.2 x.1)
  [word 1 (s.levelsBad c r bs), word 2 (s.layoutsBad tenant r raw), word 3 (tilesBad r bs), if workBad r bs then some (errorWord 4 0 0) else none,
   word 5 (drawBad r bs), word 6 (s.recordBad c r bs), word 7 (impossible r)].findSome? id

/-- Has no block of a launch been admitted yet? -/
def State.unadmitted (s : State) (la : Launch) : Bool :=
  la.st ≠ .ended && s.blocks.all (fun b => b.launch ≠ la.id || b.st = .waiting)

/-- R425: the launches that a queue holds pending. -/
def State.pendingOf (s : State) (queue : Nat) : Nat := (s.launches.filter (fun la => la.queue = queue && s.unadmitted la)).length

/-- The state of a launch's work distributor at its start (R304, R309). -/
def Distributor.start : Distributor :=
  { spill := [], handed := 0, sequence := 0, queues := [], black := [], token := 0, tokenBlack := false, circulating := false, declared := false }

/-- What a launch is submitted with, beside its record. -/
structure Submission where
  tenant : Nat
  queue : Nat
  tag : BitVec 16
  opcode : BitVec 8
  code : Nat
  link : Nat
  preds : List (Nat × Bool)
  deriving DecidableEq, Repr

/-- R457: could launches of two tenants of this device be in one linked group: are they one tenant, or are both bound to one tenant of a device? -/
def State.mayLink (s : State) (t u : Nat) : Bool :=
  let peers := fun (x : Nat) => (s.windows.filter (fun w => w.tenant = x)).flatMap Window.partners
  t = u || (peers t).any (peers u).contains

/-- R406, R407: firmware accepts a record, and answers the launch's handle; or refuses it with an error word. A second launch here for one linked group is
refused with BUSY, and one whose areas do not fit with NO_MEMORY (R457, R168, assumption 63). -/
def State.accept (s : State) (u : Submission) (c : Code) (bs : List Byte) : Except Word (Nat × State) :=
  if Config.pendingLaunches ≤ s.pendingOf u.queue then .error (errorWord 8 0 0)
  else
    let raw := recRoots bs
    let r := parseRecord bs (raw.map (s.placeRoot u.tenant))
    match s.refusal u.tenant c r raw bs with
    | some w => .error w
    | none =>
      if u.link ≠ 0 && s.launches.any (fun la => la.link = u.link && la.st ≠ .ended && s.mayLink la.tenant u.tenant) then .error (errorWord Err.busy 0 0)
      else match placeAreas s.deviceUsed r.areaSizes with
      | none => .error (errorWord Err.noMemory 0 0)
      | some areas =>
      let (k, s) := s.fresh
      .ok (k, { s with launches := s.launches ++ [
        { id := k, tenant := u.tenant, queue := u.queue, tag := u.tag, opcode := u.opcode, code := u.code, link := u.link, rcd := r, preds := u.preds
          hinted := false, st := .queued, endWord := 0, normal := false, preempted := false, dist := .start, depths := [], ids := [], passes := []
          blockSeq := 0, die := none, areas }] })

end Sys2Proof.Machine
end

