-- ==== Sys2Proof/Machine/Firmware.lean ====
section
/-!
DEFINITION. The commands of the host driver and of the tenants (R450 to R454, R459 to R465, R472, R473, R475): the fetch of queue entries, the
shared form of a command, the loss of a peer, windows and page tables, offered faults, launches, pre-emption, queries and attestation. How a command's operands lie in
its entry is the model's own (assumption 12), in the order in which R462 names them.
-/
namespace Sys2Proof

/-- Operand `i` of an entry. -/
def CmdEntry.op (c : CmdEntry) (i : Nat) : Nat := (c.operands.getD i 0).toNat

end Sys2Proof

namespace Sys2Proof.Machine

/-! ### Entries and completions (R461, R462) -/

/-- The bytes that each operand of a command takes in its entry (assumption 12). -/
def operandWidths (code : Nat) : List Nat :=
  match code with
  | 0x01 => [1, 1]
  | 0x02 => [1, 8, 1, 8]
  | 0x03 | 0x11 => [1]
  | 0x04 => [1, 1, 4]
  | 0x05 | 0x15 | 0x17 | 0x18 => [8]
  | 0x06 | 0x1A => [8, 8]
  | 0x10 => [1, 1, 8, 8, 8] ++ List.replicate 33 1
  | 0x12 => [8, 8, 8, 8, 8]
  | 0x13 => [8, 1]
  | 0x14 => [1, 8, 8, 8, 8]
  | 0x16 => [8, 1, 8, 4, 8, 1, 8, 1, 8, 1, 8, 1]
  | 0x19 => [1, 8]
  | _ => []

/-- Numbers of these widths in bytes, one after the other. -/
def fieldsAt (bs : List Byte) : List Nat → List (BitVec 64)
  | [] => []
  | n :: ns => BitVec.ofNat 64 (leNat (bs.take n)) :: fieldsAt (bs.drop n) ns

/-- R461: the command that the 64 bytes of an entry hold: opcode in [511:504], tag in [495:480], operands in [479:0], of which byte 59 says how many
there are (assumption 12). -/
def entryOf (bs : List Byte) : CmdEntry :=
  let code := bs.getD 63 0
  { opcode := code, tag := BitVec.ofNat 16 (leNat ((bs.drop 60).take 2))
    operands := (fieldsAt bs (operandWidths code.toNat)).take (bs.getD 59 0).toNat }

/-- R462: is a command's code one that its queue may hold? QUERY may stand in either kind. -/
def knownCommand (queue code : Nat) : Bool :=
  code = 0x19 || (if queue = 0 then 0x01 ≤ code && code ≤ 0x06 else (0x10 ≤ code && code ≤ 0x18) || code = 0x1A)

/-- R461: a command is done. -/
def State.done (s : State) (queue : Nat) (c : CmdEntry) (value : Nat) (detail : BitVec 128) : State :=
  s.complete (doneWith queue c.tag c.opcode (BitVec.ofNat 64 value) detail)

/-- R461: the bytes of entry `i` of the ring of commands, from the next to be fetched. -/
def Queue.entryAt (q : Queue) (i : Nat) : List Nat := span (hostAt + q.rings.base + 64 * ((q.head + i) % q.rings.size)) 64

/-- R461, R407, R463: a command is refused with an error word, and what Detail names. -/
def State.refuseWord (s : State) (queue : Nat) (c : CmdEntry) (word : Word) (detail : Nat) : State :=
  s.complete { queue, tag := c.tag, opcode := c.opcode, kind := 1, status := word, value := 0, detail := BitVec.ofNat 128 detail }

/-- A command is refused with a code alone. -/
def State.refuse (s : State) (queue : Nat) (c : CmdEntry) (code : Nat) : State := s.refuseWord queue c (errorWord code 0 0) 0

/-- The entries that a queue has at its head and that are no command for it. -/
def badHead (queue : Nat) (cs : List CmdEntry) : List CmdEntry := cs.takeWhile (fun c => !knownCommand queue c.opcode.toNat)

/-- R462: entries at the head of a queue that are no command for it are refused with NO_OBJECT. -/
def State.skipBad (s : State) (queue : Nat) : State :=
  match s.queue? queue with
  | none => s
  | some q =>
    let bad := badHead queue q.pending
    bad.foldl (fun (s : State) c => s.refuse queue c Err.noObject)
      (s.updQueue queue (fun q => { q with pending := q.pending.drop bad.length }))

/-- R461, R470: the first entry of a queue runs, where it has this code; in recovery only FW_UPDATE does. -/
def command (code queue : Nat) (s : State) (act : CmdEntry → State → State) : Out :=
  match s.queue? queue with
  | none => .next s
  | some q => match q.pending with
    | [] => .next s
    | c :: rest =>
      if c.opcode.toNat ≠ code || (s.recovery && code ≠ 0x06) then .next s
      else .next ((act c (s.updQueue queue (fun q => { q with pending := rest }))).skipBad queue)

/-- A tenant's command: `act` has the tenant too. One that changes table entries has nothing to wait for (R432): no access through the old ones is under
way between two steps (assumption 3). -/
def tenantCommand (code queue : Nat) (s : State) (act : Nat → CmdEntry → State → State) : Out :=
  command code queue s (act (queueTenant queue))

/-- R461. DOORBELL_WRITE: so many entries are fetched from the queue's ring in host memory, from the first that has not been; the host has put the
queue's rings there (assumption 64). In recovery the device takes only FW_UPDATE (R470). -/
def execDoorbellWrite (queue : Nat) (bell : Doorbell) (s : State) : Out :=
  let rings := bell.rings
  let s := s.updQueue queue (fun q => if q.rings = rings then q else { q with rings, head := 0, tail := 0 })
  match s.queue? queue with
  | none => .next s
  | some q =>
    let entries := (List.range (min bell.count rings.size)).map (fun i => entryOf (s.bytes (q.entryAt i)))
    let taken := if s.recovery then entries.filter (fun c => c.opcode = 0x06) else entries
    .next ((s.updQueue queue (fun q => { q with head := (q.head + entries.length) % rings.size, pending := q.pending ++ taken })).skipBad queue)

/-! ### A peer that no link reaches (R451) -/

/-- R461: a completion of kind 4. -/
def linkEvent (queue value : Nat) : Completion :=
  { queue, tag := 0xFFFF, opcode := 0, kind := 4, status := 0, value := BitVec.ofNat 64 value, detail := 0 }

/-- R451: the queues of the tenants that have a window on a peer. -/
def State.queuesOnPeer (s : State) (peer : Nat) : List Nat :=
  let on := fun (t : Nat) => s.windows.any (fun w => w.tenant = t && (match w.kind with
    | .peer d _ _ => d = peer
    | _ => false))
  (s.queues.map (·.num)).filter (fun q => q ≠ 0 && on (queueTenant q))

/-- R451: what follows when both links to a peer are down. -/
def State.losePeer (s : State) (peer : Nat) : State :=
  let lost := s.joins.filter (fun j => j.parked && j.peer.isNone && nameDevice j.name = peer)
  let s := lost.foldl (fun (s : State) j => s.answerJoin j none) s
  { s with completions := s.completions ++ (s.queuesOnPeer peer).map (fun q => linkEvent q peer) }

/-! ### The group and its time (R450, R465, R414, R472) -/

/-- R450: the links of a device that stay down at a link training: those to one of its seven peers whose check fails. -/
def trainLinks (own training : Nat) : List Nat :=
  ((List.range 8).filter (fun d => d ≠ own && Config.linksWrong training d)).flatMap (fun d => [2 * d, 2 * d + 1])

/-- R450: a device with a new number has links to the seven others, which are trained. DESIGN CHOICE (assumption 7): a link that was down stays down. -/
def State.renumber (s : State) (own : Nat) : State :=
  { s with device := own, free := s.free + 1, linksDown := dedup ((s.linksDown ++ trainLinks own s.free).filter (fun k => k / 2 ≠ own)) }

/-- R450, R451: a device takes a number and a peer group; the peers that its training leaves without a link are lost. -/
def State.regroup (s : State) (own : Nat) (members : BitVec 8) : State :=
  let t := { s.renumber own with members }
  ((List.range 8).filter (fun d => d ≠ own && t.peerCut d && !s.peerCut d)).foldl State.losePeer t

/-- R450. GROUP_SET: device number, member mask. -/
def execGroupSet (queue : Nat) (s : State) : Out :=
  command 0x01 queue s (fun c s => (s.regroup (c.op 0 % 8) (BitVec.ofNat 8 (c.op 1))).done queue c 0 0)

/-- R465. TIME_SET: nanoseconds since 1970-01-01. -/
def execTimeSet (queue : Nat) (s : State) : Out :=
  command 0x05 queue s (fun c s => ({ s with timeBase := some (c.op 0, s.clock) } : State).done queue c 0 0)

/-- R414. BUDGET_SET: tenant, queue of the tenant, mW. -/
def execBudgetSet (queue : Nat) (s : State) : Out :=
  command 0x04 queue s (fun c s =>
    let k := 1 + 4 * c.op 0 + c.op 1
    if 4 ≤ c.op 1 || (s.queue? k).isNone then s.refuse queue c Err.noObject
    else (s.updQueue k (fun q => { q with budget := BitVec.ofNat 32 (c.op 2) })).done queue c 0 0)

/-- R472. FW_UPDATE: host address and length of a signed image, which goes to the flash. -/
def execFwUpdate (queue : Nat) (s : State) : Out :=
  command 0x06 queue s (fun c s =>
    let image := s.bytes (span (hostAt + c.op 0) (c.op 1))
    if !Config.imageOk image then s.refuse queue c Err.signatureInvalid
    else if Config.imageIsConfig image then ({ s with cfgFlash := image } : State).done queue c 0 0
    else ({ s with fwFlash := image } : State).done queue c 0 0)

/-! ### Page tables (R429, R430, R454) -/

/-- The keys of a table's entries. -/
def tableEntries (ptes : SMap 64) (table : Nat) : SMap 64 := ptes.filter (fun c => c.1 / 4096 = table)

/-- Does an entry lead to another table? -/
def pteNext (p : BitVec 64) : Bool := pteValid p && !pteLeaf p

/-- The tables that a table leads to, itself among them. -/
def tableTree (ptes : SMap 64) : Nat → Nat → List Nat
  | 0, table => [table]
  | fuel + 1, table =>
    table :: ((tableEntries ptes table).filter (fun c => pteNext c.2)).flatMap (fun c => tableTree ptes fuel (pteAddr c.2 / 4096))

/-- The keys of the leaves under a table that map some address from `lo` to below `hi`; the table maps from `va` up. -/
def leavesIn (ptes : SMap 64) (lo hi : Nat) : Nat → Nat → Nat → Nat → List Nat
  | 0, _, _, _ => []
  | fuel + 1, level, table, va =>
    (tableEntries ptes table).flatMap (fun c =>
      let at_ := va + c.1 % 4096 * 2 ^ leafBits level
      if at_ < hi && lo < at_ + 2 ^ leafBits level && pteValid c.2 then
        (if pteLeaf c.2 then [c.1] else leavesIn ptes lo hi fuel (level + 1) (pteAddr c.2 / 4096) at_)
      else [])

/-- R454, R432: the entries of a tenant that map addresses of a range become invalid. -/
def State.unmapRange (s : State) (tenant lo hi : Nat) : State :=
  let gone := leavesIn s.ptes lo hi 4 0 (tenant + 1) 0
  { s with ptes := s.ptes.keep (fun k => !gone.contains k) }

/-- A table entry that leads to a table. -/
def pteToTable (table : Nat) : BitVec 64 := BitVec.ofNat 64 (2 ^ 63 + table * 4096)

/-- R430: writes the entry of a virtual address at a walk level, with the tables on the way. -/
def State.mapFrom (s : State) (target va : Nat) (entry : BitVec 64) : Nat → Nat → Nat → State
  | 0, _, _ => s
  | fuel + 1, level, table =>
    let key := table * 4096 + walkIndex level va
    let p := s.ptes.get key
    if level = target then { s with ptes := s.ptes.set key entry }
    else if pteNext p && !pteMalformed level p then s.mapFrom target va entry fuel (level + 1) (pteAddr p / 4096)
    else
      let k := s.nextTable
      ({ s with nextTable := k + 1, ptes := s.ptes.set key (pteToTable k) } : State).mapFrom target va entry fuel (level + 1) k

/-- A page of a tenant mapped at a walk level. -/
def State.mapPage (s : State) (tenant level va : Nat) (entry : BitVec 64) : State := s.mapFrom level va entry 4 0 (tenant + 1)

/-- R430: a valid leaf with these attributes: the bits beside Valid, Leaf and Address. -/
def pteLeafOf (frame attrs : Nat) : BitVec 64 := BitVec.ofNat 64 (2 ^ 63 + 2 ^ 62 + bitsOf attrs 61 48 * 2 ^ 48 + bitsOf frame 47 12 * 4096 + attrs % 4096)

/-- R429: the walk level whose leaves map pages of a size. -/
def pageLevel (bytes : Nat) : Option Nat := [1, 2, 3].find? (fun l => bytes = 2 ^ leafBits l)

/-- The virtual addresses of a tenant in use: its windows, and its code objects. -/
def State.virtualUsed (s : State) (tenant : Nat) : List (Nat × Nat) :=
  (s.windows.filter (fun w => w.tenant = tenant)).map (fun w => (w.base, w.size)) ++
    (s.codes.filter (fun c => c.tenant = tenant)).map (fun c => (c.va, c.size))

/-- R452: device memory zeroed, and without errors. -/
def State.zeroRange (s : State) (a n : Nat) : State :=
  let inside := fun (x : Nat) => decide (a ≤ x) && decide (x < a + n)
  { s with mem := s.mem.keep (fun x => !inside x), bad := s.bad.filter (fun x => !inside (x * 32)) }

/-! ### Tenants (R459, R460) -/

/-- R459. TENANT_CREATE: tenant, table size, queue count, host address of the wrapped code key. -/
def execTenantCreate (queue : Nat) (s : State) : Out :=
  command 0x02 queue s (fun c s =>
    let t := c.op 0
    if 16 ≤ t || c.op 2 = 0 || 4 < c.op 2 then s.refuse queue c Err.noObject
    else if s.tenants.any (fun x => x.num = t) then s.refuse queue c Err.busy
    else match Config.unwrapKey s.identity (s.bytes (span (hostAt + c.op 3) 512)) with
      | none => s.refuse queue c Err.keyInvalid
      | some key =>
        ({ s with
           free := s.free + 1
           tenants := s.tenants ++ [{ num := t, queues := c.op 2, tableSize := c.op 1, codeKey := key, dataKey := Config.dataKey s.free }]
           queues := s.queues ++ (List.range (c.op 2)).map (fun i => Queue.fresh (1 + 4 * t + i)) } : State).done queue c 0 0)

/-- R460, R459: a tenant's launches, which have ended, are gone with what they have left. -/
def State.removeLaunches (s : State) (t : Nat) : State :=
  let gone := (s.launches.filter (fun la => la.tenant = t)).map (·.id)
  let bs := (s.blocks.filter (fun b => gone.contains b.launch)).map (·.id)
  { s with
    launches := s.launches.filter (fun la => la.tenant ≠ t), blocks := s.blocks.filter (fun b => !gone.contains b.launch)
    elems := s.elems.filter (fun e => !gone.contains e.launch), asks := s.asks.filter (fun a => !gone.contains a.launch)
    copies := s.copies.filter (fun c => !bs.contains c.block), tileOps := s.tileOps.filter (fun o => !bs.contains o.block)
    contributions := s.contributions.filter (fun c => !gone.contains c.launch) }

/-- A tenant's objects are gone (R460). -/
def State.removeTenant (s : State) (t : Nat) : State :=
  let s := s.removeLaunches t
  let tables := tableTree s.ptes 4 (t + 1)
  let codes := (s.codes.filter (fun c => c.tenant = t)).map (·.handle)
  let mine := fun (q : Nat) => q ≠ 0 && queueTenant q = t
  { s with
    tenants := s.tenants.filter (fun x => x.num ≠ t), queues := s.queues.filter (fun q => !mine q.num)
    windows := s.windows.filter (fun w => w.tenant ≠ t), codes := s.codes.filter (fun c => c.tenant ≠ t)
    faults := s.faults.filter (fun f => f.tenant ≠ t), preempts := s.preempts.filter (fun p => !mine p.queue)
    ptes := s.ptes.keep (fun k => !tables.contains (k / 4096))
    dict := s.dict.filter (fun d => !codes.any (fun h => d.2.toNat = h + 1)) }

/-- R460. TENANT_DESTROY: tenant. -/
def execTenantDestroy (queue : Nat) (s : State) : Out :=
  command 0x03 queue s (fun c s =>
    let t := c.op 0
    if !s.tenants.any (fun x => x.num = t) then s.refuse queue c Err.noObject
    else if s.launches.any (fun la => la.tenant = t && la.st ≠ .ended) then s.refuse queue c Err.busy
    else (s.removeTenant t).done queue c 0 0)

/-! ### Windows (R452 to R454) -/

/-- The export pairs of a DEVICE window's command. -/
def exportPairs : List (BitVec 64) → List (Nat × Nat)
  | d :: t :: rest => (d.toNat, t.toNat) :: exportPairs rest
  | _ => []

/-- R452: the kind that a command names. -/
def windowKindOf (c : CmdEntry) : Option WindowKind :=
  match c.op 1 with
  | 0 => some .device
  | 1 => some .host
  | 2 => if c.op 4 < 8 && c.op 5 < 16 && c.op 6 < 256 then some (.peer (c.op 4) (c.op 5) (c.op 6)) else none
  | _ => none

/-- R452: is a window's range one that a map may ask for? -/
def rangeOk (base size : Nat) : Bool :=
  base % 2 ^ 21 = 0 && size % 2 ^ 21 = 0 && decide (2 ^ 21 ≤ size) && decide (size ≤ 2 ^ 38) && decide (base + size ≤ 2 ^ 48)

/-- Does a range meet a used one? -/
def meets (used : List (Nat × Nat)) (base size : Nat) : Bool := used.any (fun u => decide (base < u.1 + u.2) && decide (u.1 < base + size))

/-- R452: the window that a command asks for, once its checks have passed. -/
def windowFor (c : CmdEntry) (tenant queue : Nat) (kind : WindowKind) (backing : Nat) : Window :=
  { tenant, num := c.op 0, kind, base := c.op 2, size := c.op 3, backing
    waiting := match kind with
      | .peer _ _ _ => some (c.tag, queue)
      | _ => none
    exports := if kind = .device then exportPairs (c.operands.drop 4) else [] }

/-- R452: the peers named in the pairs of a window's command are told that it is exported to them. -/
def State.tellExports (s : State) (w : Window) : State :=
  (w.exports.filter (fun e => decide (e.1 < 8) && e.1 ≠ s.device)).foldl (fun (s : State) e => s.post e.1 (.exported w.tenant w.num e.2)) s

/-- R452. WINDOW_MAP: window, kind (0 DEVICE, 1 HOST, 2 PEER), virtual base, size; then the first host byte, or device, tenant and window of the peer,
or the pairs to which a DEVICE window is exported, which the peers are told. A PEER map waits for its confirmation. DESIGN CHOICE
(assumption 73): a DEVICE window takes the lowest free place. -/
def execWindowMap (queue : Nat) (s : State) : Out :=
  tenantCommand 0x10 queue s (fun t c s =>
    let base := c.op 2
    let size := c.op 3
    match windowKindOf c with
    | none => s.refuse queue c Err.windowInvalid
    | some kind =>
      if !rangeOk base size || 256 ≤ c.op 0 || s.windows.any (fun w => w.tenant = t && w.num = c.op 0) || meets (s.virtualUsed t) base size then
        s.refuse queue c Err.windowInvalid
      else match kind with
        | .device => match firstFit s.deviceUsed 0 Config.deviceBytes size (if 2 ^ 30 ≤ size then 2 ^ 30 else 2 ^ 21) with
          | none => s.refuse queue c Err.noMemory
          | some a =>
            let w := windowFor c t queue kind a
            let s := s.zeroRange a size
            (({ s with windows := s.windows ++ [w] } : State).tellExports w).done queue c 0 0
        | .host =>
          if 2 ^ 48 < c.op 4 + size then s.refuse queue c Err.windowInvalid
          else ({ s with windows := s.windows ++ [windowFor c t queue kind (c.op 4)] } : State).done queue c 0 0
        | .peer _ _ _ => { s with windows := s.windows ++ [windowFor c t queue kind 0] })

/-- R462: does a launch that has not ended use a window? -/
def State.windowUsed (s : State) (w : Window) : Bool :=
  s.launches.any (fun la => la.tenant = w.tenant && la.st ≠ .ended && la.rcd.roots.any (fun m =>
    let r := layReach m
    !layOnChip m && decide (r.1 < (w.base + w.size : Nat)) && decide ((w.base : Int) ≤ r.2)))

/-- R454. WINDOW_UNMAP: window. -/
def execWindowUnmap (queue : Nat) (s : State) : Out :=
  tenantCommand 0x11 queue s (fun t c s =>
    match s.window? t (c.op 0) with
    | none => s.refuse queue c Err.noObject
    | some w =>
      if s.windowUsed w then s.refuse queue c Err.busy
      else
        let s := s.unmapRange t w.base (w.base + w.size)
        ({ s with windows := s.windows.filter (fun x => !(x.tenant = t && x.num = w.num)) } : State).done queue c 0 0)

/-- R454, R430: may these pages be mapped there, with that key? A frame starts at 4 KiB. -/
def pagesOk (w : Window) (va bytes count offset key : Nat) : Bool :=
  va % bytes = 0 && (w.backing + offset) % 4096 = 0 && decide (va + bytes * count ≤ w.base + w.size) && decide (offset + bytes * count ≤ w.size) &&
  key = (if w.kind = .device then w.tenant else 31)

/-- R454. PAGE_MAP: virtual address, page size in bytes, count, offset in the window, attributes as in an entry of R430. -/
def execPageMap (queue : Nat) (s : State) : Out :=
  tenantCommand 0x12 queue s (fun t c s =>
    match s.windowOf t (c.op 0), pageLevel (c.op 1) with
    | some w, some level =>
      if !pagesOk w (c.op 0) (c.op 1) (c.op 2) (c.op 3) (bitsOf (c.op 4) 52 48) then s.refuse queue c Err.windowInvalid
      else
        let s := (List.range (c.op 2)).foldl (fun (s : State) i =>
          s.mapPage t level (c.op 0 + i * c.op 1) (pteLeafOf (w.backing + c.op 3 + i * c.op 1) (c.op 4))) s
        s.done queue c 0 0
    | _, _ => s.refuse queue c Err.windowInvalid)

/-! ### Faults (R431, R464) -/

/-- What the last walk says of a page: nothing where it succeeds, else reason and level (R431). -/
def State.walkFails (s : State) (tenant page : Nat) : Option (Nat × Nat) :=
  match s.translate tenant (page * 65536) with
  | .at_ _ _ => none
  | .bad reason level => some (reason, level)

/-- R464: the walk has failed again: the fault is offered under a new id, and those who wait for it wait for the new one. -/
def State.offerAgain (s : State) (old reason level : Nat) : State :=
  let (k, s) := s.fresh
  { s with
    faults := s.faults.map (fun (f : PageFault) => if f.id = old then { f with id := k, offered := false, reason, level } else f)
    groups := s.groups.map (fun (g : Group) => if g.hold = some old then { g with hold := some k } else g) }

/-- R464, R431: a fault that the host cannot resolve; the last walk says why. -/
def PageFault.giveUp (f : PageFault) (why : Option (Nat × Nat)) : PageFault :=
  { f with unresolvable := true, reason := why.elim f.reason (·.1), level := why.elim f.level (·.2) }

/-- R464. FAULT_DONE: fault id, and 0 resolved or 1 unresolvable. -/
def execFaultDone (queue : Nat) (s : State) : Out :=
  tenantCommand 0x13 queue s (fun t c s =>
    match s.faults.find? (fun f => f.id = c.op 0 && f.tenant = t && f.offered && !f.unresolvable) with
    | none => s.refuse queue c Err.noObject
    | some f =>
      let why := s.walkFails t f.page
      let s := if c.op 1 ≠ 0 then { s with faults := updId PageFault.id f.id (·.giveUp why) s.faults }
        else match why with
          | none => { s with faults := delId PageFault.id f.id s.faults }
          | some (reason, level) => s.offerAgain f.id reason level
      s.done queue c 0 0)

/-! ### Launches (R406, R410, R434, R446, R462) -/

/-- A launch of a tenant. -/
def State.launchOf (s : State) (tenant handle : Nat) : Option Launch :=
  (s.launch? handle).bind (fun la => if la.tenant = tenant then some la else none)

/-- A code object of a tenant. -/
def State.codeFor (s : State) (tenant handle : Nat) : Option Code :=
  (s.code? handle).bind (fun c => if c.tenant = tenant then some c else none)

/-- The predecessors that a command names: handle, and 0 FULL or 1 EARLY; at most four. -/
def predPairs : Nat → List (BitVec 64) → List (Nat × Bool)
  | k + 1, h :: m :: rest => (h.toNat, m.toNat = 1) :: predPairs k rest
  | _, _ => []

/-- Bytes of a window from an offset up, as firmware reads them through the window's backing; none past its end. -/
def State.windowBytes (s : State) (w : Window) (offset n : Nat) : Option (List Byte) :=
  if w.size < offset + n then none else some (s.bytes (span (framePlace (some w) (w.backing + offset)) n))

/-- R404: the record that stands at an offset of a window. -/
def State.recordAt (s : State) (w : Window) (offset : Nat) : Option (List Byte) :=
  (s.windowBytes w offset 64).bind (fun head => s.windowBytes w offset (recLength head))

/-- R406, R410. LAUNCH command: code handle, record window and offset, link id, then predecessors. -/
def execLaunchCommand (queue : Nat) (s : State) : Out :=
  tenantCommand 0x16 queue s (fun t c s =>
    let preds := predPairs 4 (c.operands.drop 4)
    if Config.pendingLaunches ≤ s.pendingOf queue then s.refuse queue c 8
    else match s.codeFor t (c.op 0), s.window? t (c.op 1) with
      | some code, some w =>
        if preds.any (fun p => (s.launchOf t p.1).isNone) then s.refuse queue c Err.noObject
        else match s.recordAt w (c.op 2) with
          | none => s.refuse queue c Err.windowInvalid
          | some bs =>
            match s.accept { tenant := t, queue, tag := c.tag, opcode := c.opcode, code := c.op 0, link := c.op 3, preds } code bs with
            | .error word => s.refuseWord queue c word 0
            | .ok (k, s) => s.done queue c k 0
      | _, _ => s.refuse queue c Err.noObject)

/-- R434, R435. PREEMPT: launch handle. It completes when no block of the launch is admitted any more. -/
def execPreemptCommand (queue : Nat) (s : State) : Out :=
  tenantCommand 0x17 queue s (fun t c s =>
    match s.launchOf t (c.op 0) with
    | none => s.refuse queue c Err.noObject
    | some la =>
      if !la.rcd.preemptible then s.refuse queue c Err.notPreemptible
      else
        let s := s.updLaunch la.id (fun la => { la with preempted := true })
        let bs := s.blocks.filter (fun b => b.launch = la.id && b.st = .admitted)
        if bs.isEmpty then s.done queue c 0 0
        else
          let s := bs.foldl (fun (s : State) b => s.preemptBlock b.id) s
          { s with preempts := s.preempts ++ [{ queue, tag := c.tag, launch := la.id }] })

/-- R446. RESUME: launch handle. -/
def execResume (queue : Nat) (s : State) : Out :=
  tenantCommand 0x18 queue s (fun t c s =>
    match s.launchOf t (c.op 0) with
    | none => s.refuse queue c Err.noObject
    | some la => (s.updLaunch la.id (fun la => { la with preempted := false })).done queue c 0 0)

/-! ### Queries and attestation (R473, R475) -/

/-- R465: the time of day in nanoseconds. -/
def State.timeOfDay (s : State) : Nat := s.timeBase.elim 0 (fun b => b.1 + (s.clock - b.2) * 4 / 7)

/-- R475: selector 1. -/
def State.freeMemory (s : State) : Nat :=
  (Config.deviceBytes - ((s.windows.filter (fun w => w.kind = .device)).map (·.size)).sum) / 2 ^ 21

/-- R475: selector 3: the state of a launch. -/
def State.launchState (s : State) (la : Launch) : Nat :=
  if la.st = .ended then 3
  else if la.preempted || s.blocks.any (fun b => b.launch = la.id && (b.st = .saved || (b.st = .admitted && b.preemptAt.isSome))) then 2
  else if s.unadmitted la then 0 else 1

/-- R450, R475: the peers that a link reaches. -/
def State.reachable (s : State) : Nat :=
  ((List.range 8).map (fun d => if d ≠ s.device && s.members.getLsbD d && !s.peerCut d then 2 ^ d else 0)).sum

/-- The bytes of the four junction temperatures, die 0 the lowest. -/
def State.tempWord (s : State) : Nat := leNat s.temps

/-- R475: Value and Detail of a query; none where it is refused. -/
def State.answer (s : State) (tenant : Option Nat) (c : CmdEntry) : Option (Nat × Nat) :=
  match c.op 0 with
  | 0 => some (s.stepping.toNat * 2 ^ 48 + s.fwVersion.toNat * 2 ^ 24 + s.cfgVersion.toNat, 0)
  | 1 => some (s.freeMemory, 0)
  | 2 => some (s.timeOfDay, s.clock % 2 ^ 64)
  | 3 => match tenant.bind (fun t => s.launchOf t (c.op 1)) with
    | none => none
    | some la => some (s.launchState la + (if la.st = .ended && la.normal then 256 else 0), if la.st = .ended then la.endWord.toNat else 0)
  | 4 => some (s.reachable, 0)
  | 5 => some (s.powerTotal.toNat * 2 ^ 32 + s.tempWord, 0)
  | _ => none

/-- R475. QUERY: selector, and for selector 3 a launch handle. -/
def execQuery (queue : Nat) (s : State) : Out :=
  command 0x19 queue s (fun c s =>
    match s.answer (if queue = 0 then none else some (queueTenant queue)) c with
    | none => s.refuse queue c Err.noObject
    | some (value, detail) => s.done queue c value (BitVec.ofNat 128 detail))

/-- The places of `n` bytes at a virtual address in windows of a tenant; none where one is not mapped. -/
def State.placesAt (s : State) (tenant va n : Nat) : Option (List Nat) :=
  (List.range n).foldr (fun i (acc : Option (List Nat)) => match s.translate tenant (va + i), s.windowOf tenant (va + i), acc with
    | .at_ p _, some _, some ps => some (p :: ps)
    | _, _, _ => none) (some [])

/-- R456: do peers share lines of a fabric-coherent page among `n` bytes at a virtual address? -/
def State.sharedAt (s : State) (tenant va n : Nat) : Bool :=
  (List.range n).any (fun i => match s.translate tenant (va + i) with
    | .at_ p e => s.copiedAway e [p]
    | .bad _ _ => false)

/-- R473: the signed part of a report, in the order of the rule; and the signature. -/
def State.report (s : State) (tenant : Nat) (nonce : List Byte) : List Byte :=
  let body := nonce ++ leBytes 1 s.device ++ leBytes 1 s.stepping.toNat ++ leBytes 3 s.fwVersion.toNat ++ leBytes 3 s.cfgVersion.toNat ++
    sha512 s.fwImage ++ sha512 s.cfgImage ++ leBytes 1 tenant ++
    (s.codes.filter (fun c => c.tenant = tenant)).flatMap (·.digest) ++ Config.certificate s.cfgImage
  body ++ leBytes 512 (Config.signReport s.identity body).toNat

/-- R456, R473: must a report wait for peers that share lines of its place? -/
def State.attestWaits (s : State) (queue : Nat) : Bool :=
  ((s.queue? queue).bind (·.pending.head?)).elim false (fun c =>
    let t := queueTenant queue
    (s.placesAt t (c.op 0) 64).elim false (fun ns => s.sharedAt t (c.op 1) (s.report t (s.bytes ns)).length))

/-- R473, R456. ATTEST: virtual addresses of the nonce and of the report, which is written once no peer shares the lines of its place. DESIGN CHOICE
(assumption 45): an uncorrectable error that the nonce is read from, or that the report would cover in part only (R433), refuses the command, and nothing is
written. -/
def execAttest (queue : Nat) (s : State) : Out :=
  if s.attestWaits queue then .next s else
  tenantCommand 0x1A queue s (fun t c s =>
    match s.placesAt t (c.op 0) 64 with
    | none => s.refuse queue c Err.windowInvalid
    | some ns =>
      let r := s.report t (s.bytes ns)
      match s.placesAt t (c.op 1) r.length with
      | none => s.refuse queue c Err.windowInvalid
      | some ps => if s.damaged ns || !s.covers ps then s.refuse queue c Err.windowInvalid else (s.writeOutside ps r).done queue c 0 0)

end Sys2Proof.Machine
end

