-- ==== Sys2Proof/Machine/Loader.lean ====
section
/-!
DEFINITION. Code objects (R466 to R469, R69, R78, R139): the header, the checks of CODE_LOAD in their order, relocation, and the loading and unloading
of an object.
-/
namespace Sys2Proof.Machine

/-! ### The object (R466) -/

/-- The header of a code object. -/
structure ObjHeader where
  magic : Nat
  level : Nat
  banks : Nat
  errata : List Nat
  objectId : BitVec 64
  /-- Entries of the banks that the object has. -/
  sizes : List Nat
  codeLines : Nat
  dataLines : Nat
  relocs : Nat
  stringLines : Nat
  /-- Reserved fields are zero, with the unused words of the erratum list. -/
  clean : Bool
  /-- The erratum count and the size fields of all four banks are within their limits. -/
  limits : Bool
  deriving DecidableEq, Repr

/-- The header that an object's bytes start with. -/
def ObjHeader.ofBytes (bs : List Byte) : ObjHeader :=
  let h := recNat bs 0 64
  let banks := bitsOf h 471 470 + 1
  let n := bitsOf h 469 464
  let sizes := (List.range banks).map (fun b => bitsOf h (350 + 11 * b) (340 + 11 * b))
  { magic := bitsOf h 511 480, level := bitsOf h 479 472, banks, errata := (List.range n).map (fun i => recNat bs (64 + 4 * i) 4)
    objectId := BitVec.ofNat 64 (bitsOf h 447 384), sizes, codeLines := bitsOf h 339 320, dataLines := bitsOf h 319 300, relocs := bitsOf h 299 288
    stringLines := bitsOf h 287 272
    clean := bitsOf h 463 448 = 0 && bitsOf h 271 0 = 0 && (List.range 16).all (fun i => decide (i < n) || recNat bs (64 + 4 * i) 4 = 0)
    limits := decide (n ≤ 16) && (List.range 4).all (fun b => decide (bitsOf h (350 + 11 * b) (340 + 11 * b) ≤ 1024)) && decide (1 ≤ bitsOf h 339 320) }

/-- Lines of each bank, and the line at which the code starts. -/
def ObjHeader.bankLines (h : ObjHeader) : List Nat := h.sizes.map (fun n => (n + 15) / 16)
def ObjHeader.codeLine (h : ObjHeader) : Nat := 1 + h.bankLines.sum
/-- Lines before the tag section. -/
def ObjHeader.lines (h : ObjHeader) : Nat := h.codeLine + h.codeLines + (h.relocs + 7) / 8 + h.stringLines + h.dataLines

/-- The lines of an image of a length: as the header gives them where they fit with their tags, else as many as fit. -/
def ObjHeader.linesIn (h : ObjHeader) (length : Nat) : Nat := if h.lines * 136 ≤ length then h.lines else length / 136

/-- Line `n` of an object. -/
def objLine (bs : List Byte) (n : Nat) : List Byte := (bs.drop (128 * n)).take 128

/-- R466: the entries of bank `b`. -/
def ObjHeader.bank (h : ObjHeader) (bs : List Byte) (b : Nat) : List (BitVec 64) :=
  let at_ := 128 * (1 + (h.bankLines.take b).sum)
  (List.range (h.sizes.getD b 0)).map (fun i => BitVec.ofNat 64 (parcelsWord ((bs.drop (at_ + 8 * i)).take 8)))

/-- R467: the tag of a line. -/
def tagOf (key : List Byte) (objectId : BitVec 64) (n : Nat) (line : List Byte) : BitVec 64 :=
  Config.lineTag key (line ++ leBytes 8 n ++ leBytes 8 objectId.toNat)

/-! ### Relocation (R139, R466) -/

/-- A relocation entry. -/
structure Reloc where
  off : Nat
  kind : Nat
  symbol : Nat
  addend : Int
  deriving DecidableEq, Repr

/-- The relocation table. -/
def ObjHeader.relocTable (h : ObjHeader) (bs : List Byte) : List Reloc :=
  let at_ := 128 * (h.codeLine + h.codeLines)
  (List.range h.relocs).map (fun i =>
    let x := recNat bs (at_ + 16 * i) 16
    { off := bitsOf x 127 96, kind := bitsOf x 95 88, symbol := bitsOf x 63 32, addend := (BitVec.ofNat 32 (bitsOf x 31 0)).toInt })

/-- Bytes of an object replaced from a place up. -/
def putBytes (bs : List Byte) (at_ : Nat) (new : List Byte) : List Byte := bs.take at_ ++ new ++ bs.drop (at_ + new.length)

/-- R80, R92: is the 10-bit immediate of a word zero-extended? By the word's first parcel. -/
def immUnsigned (p : Nat) : Bool :=
  iuU (BitVec.ofNat 4 (bitsOf p 5 2)) || (match Op.decode (bitsOf p 13 6) with
    | some op => [Op.shl, .shr, .sar, .shf, .bfe, .bfi].contains op
    | none => false)

/-- R139: does a value fit a field of a kind? An IMM10 of a word that zero-extends it is 0 to 1,023. -/
def fitsKind (kind : Nat) (unsigned : Bool) (v : Int) : Bool :=
  match kind with
  | 0 => decide (-512 ≤ v) && decide (v ≤ 511)
  | 1 => decide (-(2 ^ 31) ≤ v) && decide (v < 2 ^ 31)
  | 2 => decide (-(2 ^ 31) ≤ v) && decide (v < 2 ^ 32)
  | 3 => decide (-128 ≤ v) && decide (v ≤ 127)
  | 4 => if unsigned then decide (0 ≤ v) && decide (v ≤ 1023) else decide (-512 ≤ v) && decide (v ≤ 511)
  | _ => false

/-- The parcel at a byte. -/
def parcelAt (bs : List Byte) (at_ : Nat) : Nat := recNat bs at_ 2
/-- A parcel with the bits from `lo` up, `n` of them, replaced. -/
def putBits (p lo n x : Nat) : Nat := p / 2 ^ (lo + n) * 2 ^ (lo + n) + x % 2 ^ n * 2 ^ lo + p % 2 ^ lo

/-- The place in its instruction of parcel `k` of a clause body. -/
def placeInBody : Nat → List Parcel → Nat → Option Nat
  | 0, _, _ => none
  | fuel + 1, ps, k =>
    let n := match parcelLength ps with
      | .ok n => n
      | .error _ => 1
    if k < n then some k else placeInBody fuel (ps.drop n) (k - n)

/-- The place in its instruction of parcel `k` of code that starts at a clause's boundary (R19, R57); none for what belongs to no clause's body. -/
def placeInCode : Nat → List Parcel → Nat → Option Nat
  | 0, _, _ => none
  | fuel + 1, ps, k =>
    let w : BitVec 64 := match ps with
      | p0 :: p1 :: p2 :: p3 :: _ => joinParcels4 p0 p1 p2 p3
      | _ => 0
    let len := if isHeader w then (Header.ofWord w).len else 0
    let n := (4 + len + 3) / 4 * 4
    if k < 4 then none
    else if k < 4 + len then placeInBody len (ps.drop 4) (k - 4)
    else if k < n then none
    else placeInCode fuel (ps.drop n) (k - n)

/-- An 8-bit immediate written (R60, R65): at an odd byte into source a; at an even one into source c in the fourth parcel of its word, else into
source b. `place` is the parcel's place in its instruction (assumption 16). -/
def putImm8 (bs : List Byte) (at_ x : Nat) (place : Option Nat) : List Byte :=
  if at_ % 2 = 1 then
    let bs := putBytes bs (at_ - 1) (leBytes 2 (putBits (parcelAt bs (at_ - 1)) 10 6 x))
    putBytes bs (at_ - 3) (leBytes 2 (putBits (parcelAt bs (at_ - 3)) 0 2 (x / 64)))
  else
    putBytes bs at_ (leBytes 2 (if place = some 3 then putBits (parcelAt bs at_) 6 8 x else putBits (parcelAt bs at_) 0 8 x))

/-- R139: a value written into its field, a branch field (BR10, BR32) as the count of 8-byte units that the value is (assumption 16);
`inCode` says whether the field lies in code, whose words are stored by parcels; `place` is as in putImm8. -/
def putField (bs : List Byte) (at_ kind : Nat) (inCode : Bool) (place : Option Nat) (v : Int) : List Byte :=
  let x := (wrap 64 v).toNat
  let byParcels := leBytes 2 (x / 65536) ++ leBytes 2 x
  match kind with
  | 1 => putBytes bs at_ byParcels
  | 2 => putBytes bs at_ (if inCode then byParcels else leBytes 4 x)
  | 3 => putImm8 bs at_ x place
  | _ => putBytes bs at_ (leBytes 2 (putBits (parcelAt bs at_) 6 10 x))

/-- A load that is refused: code, reason, number, and what Detail names. -/
structure LoadError where
  code : Nat
  reason : Nat
  number : Nat
  detail : Nat
  deriving DecidableEq, Repr

/-- R467, step 6: the relocations from entry `i` up, over the bytes of an object. -/
def relocate (h : ObjHeader) (syms : List (Nat × Int)) : Nat → List Reloc → List Byte → Except LoadError (List Byte)
  | _, [], bs => .ok bs
  | i, r :: rs, bs =>
    match syms.find? (fun y => y.1 = r.symbol) with
    | none => .error { code := Err.noObject, reason := 0, number := 0, detail := i }
    | some y =>
      let at_ := 128 * h.codeLine + r.off
      let v := y.2 + r.addend
      if !fitsKind r.kind (immUnsigned (parcelAt bs (at_ - 6))) v || h.lines * 128 < at_ + 4
      then .error { code := Err.relocOverflow, reason := 0, number := 0, detail := i }
      else
        let code := parcelsOf ((bs.drop (128 * h.codeLine)).take (128 * h.codeLines))
        relocate h syms (i + 1) rs (putField bs at_ r.kind (decide (r.off < h.codeLines * 128)) (placeInCode code.length code (r.off / 2)) v)

/-! ### The checks of CODE_LOAD (R467, R69, R78, R469) -/

/-- R467, step 1: the lowest line whose tag fails. -/
def badTagLine (key : List Byte) (h : ObjHeader) (bs : List Byte) : Option Nat :=
  let n := h.linesIn bs.length
  (List.range n).find? (fun i => tagOf key h.objectId i (objLine bs i) ≠ BitVec.ofNat 64 (recNat bs (128 * n + 8 * i) 8))

/-- R69: the first rule that a dictionary entry breaks. -/
def dictRule (x : BitVec 64) : Option Nat :=
  if x.extractLsb' 62 2 ≠ 2 then some 1
  else if x.getLsbD 1 then some 2
  else match Op.decode (x.extractLsb' 54 8).toNat with
    | none => some 3
    | some op =>
      let m := x.extractLsb' 50 4
      if !modOk op m then some 4 else if x.getLsbD 0 && !cIsOperand op m then some 5 else none

/-- R69: bank, index and rule of the first entry that breaks one. -/
def badEntry (banks : List (List (BitVec 64))) : Option (Nat × Nat × Nat) :=
  banks.zipIdx.findSome? (fun b => b.1.zipIdx.findSome? (fun x => (dictRule x.1).map (fun r => (b.2, x.2, r))))

/-- R469: the first erratum that an object names and that is not present on this stepping. -/
def State.badErratum (s : State) (h : ObjHeader) : Option Nat :=
  h.errata.find? (fun n => !s.errata.any (fun e => e.1.toNat = n && e.2))

/-- An object that has passed its checks: header, banks and bytes after relocation. -/
structure Loaded where
  header : ObjHeader
  banks : List (List (BitVec 64))
  bytes : List Byte
  deriving DecidableEq, Repr

/-- R467: the checks in order. -/
def State.checkObject (s : State) (key : List Byte) (syms : List (Nat × Int)) (bs : List Byte) : Except LoadError Loaded :=
  let h := ObjHeader.ofBytes bs
  let banks := (List.range h.banks).map (h.bank bs)
  let plain := fun (code reason number detail : Nat) => Except.error { code, reason, number, detail : LoadError }
  match badTagLine key h bs with
  | some i => plain Err.codeAuth 0 0 i
  | none =>
    if h.magic ≠ 0x4B4C4F31 || !h.clean || !h.limits || bs.length < h.lines * 136 then plain Err.headerInvalid 0 0 0
    else if h.level ≠ 1 then plain Err.levelUnsupported 0 0 0
    else match badEntry banks with
    | some (b, i, r) => plain Err.dictInvalid r b i
    | none => match s.badErratum h with
      | some n => plain Err.erratumDependence 0 0 n
      | none => (relocate h syms 0 (h.relocTable bs) (bs.take (h.lines * 128))).map (fun out =>
        { header := h, banks := (List.range h.banks).map (h.bank out), bytes := out })

/-! ### Loading and unloading (R462, R467) -/

/-- The symbol list of a command: string-table offset and value of each, 16 bytes in host memory (assumption 12). -/
def State.symbols (s : State) (address count : Nat) : List (Nat × Int) :=
  (List.range count).map (fun i =>
    let x := s.load (span (hostAt + address + 16 * i) 16)
    (bitsOf x 31 0, (BitVec.ofNat 64 (bitsOf x 127 64)).toInt))

/-- R467: the pages of an object: X, not W. -/
def State.mapCode (s : State) (c : Code) : State :=
  (List.range (c.size / 65536)).foldl (fun (s : State) i =>
    s.mapPage c.tenant 3 (c.va + i * 65536) (pteLeafOf (c.place + i * 65536) (c.tenant * 2 ^ 48 + 2 ^ 9))) s

/-- The object that an image becomes at a place. -/
def Loaded.code (x : Loaded) (key : List Byte) (handle tenant va place : Nat) (image : List Byte) : Code :=
  let h := x.header
  { handle, tenant, objectId := h.objectId, lines := h.lines, codeLines := h.codeLines, banks := x.banks, va, place, codeLine := h.codeLine
    tags := (List.range h.lines).map (fun i => tagOf key h.objectId i (objLine x.bytes i))
    digest := sha512 (image.take (h.lines * 136)) }

/-- R467: an object that has passed its checks is placed in device memory and mapped; none where there is no room. DESIGN CHOICE
(assumption 73): the lowest free place. -/
def State.placeCode (s : State) (key : List Byte) (tenant : Nat) (x : Loaded) (image : List Byte) : Option (Nat × State) :=
  let size := roundUp 65536 (x.header.lines * 128)
  match firstFit s.deviceUsed 0 Config.deviceBytes size 65536, firstFit (s.virtualUsed tenant) (2 ^ 47) (2 ^ 48) size 65536 with
  | some place, some va =>
    let (k, s) := s.fresh
    let c := x.code key k tenant va place image
    let s := (s.zeroRange place size).storeCells ((span place x.bytes.length).zip x.bytes)
    some (k, ({ s with codes := s.codes ++ [c] } : State).mapCode c)
  | _, _ => none

/-- R467. CODE_LOAD: window and offset of the image, its length, host address and count of the symbol list. -/
def execCodeLoad (queue : Nat) (s : State) : Out :=
  tenantCommand 0x14 queue s (fun t c s =>
    let key := ((s.tenants.find? (fun x => x.num = t)).map (·.codeKey)).getD []
    match s.window? t (c.op 0) with
    | none => s.refuse queue c Err.noObject
    | some w => match s.windowBytes w (c.op 1) (c.op 2) with
      | none => s.refuse queue c Err.windowInvalid
      | some image => match s.checkObject key (s.symbols (c.op 3) (c.op 4)) image with
        | .error e => s.refuseWord queue c (errorWord e.code e.reason e.number) e.detail
        | .ok x => match s.placeCode key t x image with
          | none => s.refuse queue c Err.noMemory
          | some (k, s) => s.done queue c k 0)

/-- R462. CODE_UNLOAD: code handle. -/
def execCodeUnload (queue : Nat) (s : State) : Out :=
  tenantCommand 0x15 queue s (fun t c s =>
    match s.codeFor t (c.op 0) with
    | none => s.refuse queue c Err.noObject
    | some x =>
      if s.launches.any (fun la => la.code = x.handle && la.st ≠ .ended) then s.refuse queue c Err.busy
      else
        let s := s.unmapRange t x.va (x.va + x.size)
        ({ s with codes := s.codes.filter (fun y => y.handle ≠ x.handle)
                  dict := s.dict.filter (fun d => d.2.toNat ≠ x.handle + 1) } : State).done queue c 0 0)

end Sys2Proof.Machine
end

