-- ==== Sys2Proof/Machine/Device.lean ====
section
/-!
DEFINITION. What reaches the device from outside, and what befalls it: accesses of peers and of the host (R455, R456, R458), the confirmation of a peer
window (R452), links that go down (R451), heat (R474), and reset (R470).
-/
namespace Sys2Proof

/-- The bytes that an operation from outside acts on. -/
def OutsideOp.length : OutsideOp → Nat
  | .read n => n
  | .write data => data.length
  | .atom _ wide _ _ => if wide then 8 else 4

/-- Does an operation read, and does it write? -/
def OutsideOp.reads : OutsideOp → Bool
  | .write _ => false
  | _ => true
def OutsideOp.writes : OutsideOp → Bool
  | .read _ => false
  | _ => true

end Sys2Proof

namespace Sys2Proof.Machine

/-! ### Accesses from outside (R433, R455, R456, R458) -/

/-- What an operation from outside does to the bytes at its addresses. -/
def State.perform (s : State) (as : List Nat) : OutsideOp → State
  | .read _ => s
  | .write data => s.writeOutside as data
  | .atom op wide x cmp =>
    if s.damaged as || 12 < op.toNat || (wide && 10 ≤ op.toNat) then s
    else s.store as (atomNew (if wide then 64 else 32) op.toNat (s.load as) (x.toNat % 2 ^ (8 * as.length)) (cmp.toNat % 2 ^ (8 * as.length)))

/-- Is an operation performed there: does no damaged sector stand against it (R433), and is its code one of R271? -/
def State.performs (s : State) (as : List Nat) : OutsideOp → Bool
  | .read _ => !s.damaged as
  | .write _ => s.covers as
  | .atom op wide _ _ => !s.damaged as && decide (op.toNat ≤ 12) && !(wide && decide (10 ≤ op.toNat))

/-- R455, R458: the answer that an operation from outside gets: what a read reads, and what an atomic finds. -/
def State.answerTo (s : State) (as : List Nat) (op : OutsideOp) : PeerMsg :=
  .reply (s.performs as op) (if s.performs as op && op.reads then s.bytes as else [])

/-- R456: does a device other than one share some line? -/
def State.sharedBeside (s : State) (as : List Nat) (device : Nat) : Bool :=
  (linesOf as).any (fun k => s.directory.get k &&& ~~~(1#8 <<< device) ≠ 0)

/-- R456: a peer's read of lines of a fabric-coherent page sets its sharer bits. -/
def State.share (s : State) (as : List Nat) (device : Nat) : State :=
  { s with directory := (linesOf as).foldl (fun (m : SMap 8) k => m.set k (m.get k ||| 1#8 <<< device)) s.directory }

/-- What the translation of an access from outside finds. -/
inductive OutsideAt where
  /-- Each byte's place and its page's entry. -/
  | places (as : List (Nat × BitVec 64))
  | missing (va level reason : Nat)
  deriving DecidableEq, Repr

/-- R455: the places of `n` bytes at a virtual address of a tenant, each with its page's entry. -/
def State.outsideAt (s : State) (tenant va n : Nat) : OutsideAt :=
  let ts := (List.range n).map (fun i => (va + i, s.translate tenant (va + i)))
  match ts.findSome? (fun t => match t.2 with
    | .bad reason level => some (t.1, level, reason)
    | .at_ _ _ => none) with
  | some (va, level, reason) => .missing va level reason
  | none => .places (ts.filterMap (fun t => match t.2 with
      | .at_ p e => some (p, e)
      | .bad _ _ => none))

/-- R431, R455: does a page among some places forbid what an operation does? -/
def forbidden (xs : List (Nat × BitVec 64)) (op : OutsideOp) : Bool := xs.any (fun x => (op.reads && !pteR x.2) || (op.writes && !pteW x.2))

/-- The places that lie on fabric-coherent pages (R456). -/
def coherentOf (xs : List (Nat × BitVec 64)) : List Nat := (xs.filter (fun x => pteShared x.2)).map (·.1)

/-- The number under which accesses of a peer wait for a page. -/
def peerWaiter (device : Nat) : Nat := 2 ^ 48 + device

/-- R455: has this device's host said that a page which a peer waits for cannot be resolved? -/
def State.peerUnresolved (s : State) (tenant va device : Nat) : Bool :=
  s.faults.any (fun p => p.tenant = tenant && p.page = va / 65536 && p.unresolvable && p.waiters.contains (peerWaiter device))

/-- R455, R456. PEER_ACCESS_ARRIVAL: translated through the exporting tenant's table; a missing page is offered to this device's host and the access is
tried again, or answered in the negative once the host has given it up; a write to a shared line waits until the other devices have dropped it. -/
def execPeerAccessArrival (a : PeerAccess) (s : State) : Out :=
  match s.window? a.tenant a.window with
  | none => .next s
  | some w =>
    let n := a.op.length
    let d := a.device.toNat
    let no := s.post d (.reply false [])
    if !w.exports.contains (d, a.sender) || w.size < a.offset + n || n = 0 then .next no
    else match s.outsideAt a.tenant (w.base + a.offset) n with
    | .missing va level reason =>
      if s.peerUnresolved a.tenant va d then .next no else .next (s.engWait (peerWaiter d) a.tenant va level reason 0)
    | .places xs =>
      let as := xs.map (·.1)
      if forbidden xs a.op then .next no
      else if a.op.writes && s.sharedBeside (coherentOf xs) d then .next s
      else
        let s := (s.post d (s.answerTo as a.op)).perform as a.op
        .next (if a.op.writes then s else s.share (coherentOf xs) d)

/-- R458, R456. HOST_MEM_ACCESS: through CXL.mem, to a DEVICE window that is exported to the host; a write to lines that peers hold waits for them. -/
def execHostMemAccess (a : HostAccess) (s : State) : Out :=
  match s.window? a.tenant a.window with
  | none => .next s
  | some w =>
    let n := a.op.length
    if w.kind ≠ .device || !w.exports.contains (0xFF, 0xFF) || w.size < a.offset + n then .next s
    else
      let as := span (w.backing + a.offset) n
      if a.op.writes && (linesOf as).any (fun k => s.directory.get k ≠ 0) then .next s
      else .next ((s.post 8 (s.answerTo as a.op)).perform as a.op)

/-- R456. FABRIC_LINE_INVALIDATION: a sharer drops its copy and acknowledges. -/
def execFabricLineInvalidation (line : Nat) (sharer : BitVec 3) (s : State) : Out :=
  .next { s with directory := s.directory.set line (s.directory.get line &&& ~~~(1#8 <<< sharer.toNat)) }

/-- R452. PEER_WINDOW_CONFIRMATION: the WINDOW_MAP of a PEER window completes once the peer has confirmed the export. -/
def execPeerWindowConfirmation (tenant window : Nat) (exported : Bool) (s : State) : Out :=
  match s.windows.find? (fun w => w.tenant = tenant && w.num = window) with
  | none => .next s
  | some w => match w.waiting with
    | none => .next s
    | some (tag, queue) =>
      if !exported then .next s
      else .next (({ s with windows := s.windows.map (fun (x : Window) =>
        if x.tenant = tenant && x.num = window then { x with waiting := none } else x) } : State).complete (doneWith queue tag 0x10 0 0))

/-! ### Events that nobody asked for (R451, R461, R474) -/

/-- R451. LINK_DOWN. Two links go to each of the seven other devices (R450). -/
def execLinkDown (peer : BitVec 3) (link : Bool) (s : State) : Out :=
  let k := 2 * peer.toNat + (if link then 1 else 0)
  if peer.toNat = s.device || s.linksDown.contains k then .next s
  else
    let s := { s with linksDown := s.linksDown ++ [k] }
    .next (if s.peerCut peer.toNat then s.losePeer peer.toNat else s)

/-- R474: a die's clock after a measurement: one step lower in an emergency, else one step up. -/
def nextStep (hot : Bool) (step : Nat) : Nat := if hot then max 4 (step - 1) else min 8 (step + 1)

/-- R474. THERMAL_EMERGENCY: a die measures its temperature: from 105 °C it is in an emergency, until it is below 100 °C; that it has reached 115 °C stays
known. -/
def execThermalEmergency (die : BitVec 2) (celsius : BitVec 8) (s : State) : Out :=
  let d := die.toNat
  let hot := if 105 ≤ celsius.toNat then true else if celsius.toNat < 100 then false else s.hotDies.contains d
  let rest := s.hotDies.filter (fun x => x ≠ d)
  .next { s with temps := updAt (fun _ => celsius) d s.temps, hotDies := if hot then rest ++ [d] else rest
                 overheated := s.overheated || decide (115 ≤ celsius.toNat)
                 clockSteps := updAt (nextStep hot) d s.clockSteps }

/-- R474: a launch ended by heat; what the report gives beside the end word is free. -/
def State.endByHeat (s : State) (launch : Nat) : State :=
  let (x, s) := s.draw
  let (lanes, s) := s.draw
  s.endLaunch launch (BitVec.ofNat 32 (512 + Cause.preempt)) (loWord x) (hiWord x) lanes

/-- R474. THERMAL_SHUTDOWN: once a die has reached 115 °C, no core issues, every launch ends, and every queue is told. -/
def execThermalShutdown (s : State) : Out :=
  if s.stopped || !s.overheated then .next s
  else
    let live := (s.launches.filter (fun la => la.st ≠ .ended)).map (·.id)
    let s := live.foldl (fun (s : State) k => s.endByHeat k) { s with stopped := true }
    .next { s with completions := s.completions ++ s.queues.map (fun q => linkEvent q.num 0xFFFFFFFF) }

/-! ### What goes out after every step (R168, R461) -/

/-- R461: the 32 bytes of a completion entry. -/
def Completion.bytes (c : Completion) : List Byte :=
  leBytes 16 c.detail.toNat ++ leBytes 8 c.value.toNat ++ leBytes 4 c.status.toNat ++ [c.kind, c.opcode] ++ leBytes 2 c.tag.toNat

/-- R433: cells of memory of which each sector is written by itself: an error goes with a sector that is written wholly, and a damaged one that would be
written in part is left as it is. -/
def State.writeSectors (s : State) (cells : List Host.Cell) : State :=
  let as := cells.map (·.1)
  let lost := s.bad.filter (fun k => as.any (fun a => a / 32 = k) && !(span (32 * k) 32).all as.contains)
  let cells := cells.filter (fun c => !lost.contains (c.1 / 32))
  if cells.all (fun c => s.byte c.1 = c.2) then s
  else { s.storeCells cells with bad := s.bad.filter (fun k => lost.contains k || as.all (fun a => a / 32 ≠ k)) }

/-- R461, R459: a completion goes to its queue's ring in host memory, where the host has put one, and raises the queue's vector. -/
def State.writeCompletion (s : State) (c : Completion) : State :=
  match s.queue? c.queue with
  | none => s
  | some q =>
    let n := q.rings.doneSize
    let s := if n = 0 then s else s.writeOutside (span (hostAt + q.rings.doneBase + 32 * q.tail) 32) c.bytes
    s.updQueue c.queue (fun q => { q with tail := (q.tail + 1) % n, raised := q.raised + 1 })

/-- R461: the completions that have not been written are. -/
def State.writeCompletions (s : State) : State :=
  { (s.completions.drop s.written).foldl State.writeCompletion s with written := s.completions.length }

/-- R168: the bytes that a backing slot takes in memory, hN at 4 N in its slot (assumption 65); none for a slot of the Shelf. A line that a peer shares is
written once it does no more (R456). -/
def State.slotCells (s : State) (x : Slot) : List (Nat × Byte) :=
  match s.launch? x.launch with
  | none => []
  | some la => match la.rcd.shelf[x.level]? with
    | none => []
    | some t => match t.backing with
      | none => []
      | some k =>
        if x.core = 0x7F || x.index < t.slots then []
        else
          let n := la.rcd.slotBytes x.level
          let at_ := layBase (la.rcd.roots.getD k 0) + (x.core * t.backSlots + (x.index - t.slots)) * n
          (List.range n).filterMap (fun i => match s.translate la.tenant (at_ + i) with
            | .at_ p e => if s.copiedAway e [p] then none else some (p, (x.h.get (i / 4)).extractLsb' (8 * (i % 4)) 8)
            | .bad _ _ => none)

/-- R168: the registers of backing slots stand in their memory. DESIGN CHOICE (assumption 74): a slot is written as a whole where a register of it has changed. -/
def State.writeSlots (s : State) : State := (s.slots.map s.slotCells).foldl State.writeSectors s

/-- What goes to memory after a step. -/
def State.writeOut (s : State) : State := s.writeCompletions.writeSlots

/-! ### Reset (R470) -/

/-- What stays over a reset: what lies outside the device, the flash, the temperatures; and the model's own bookkeeping. -/
def State.afterReset (s : State) : State :=
  { State.reset with
    agenda := s.agenda, nextId := s.nextId, free := s.free, completions := s.completions, written := s.written, outbox := s.outbox
    temps := s.temps
    mem := s.mem.keep (fun a => decide (hostAt ≤ a)), bad := s.bad.filter (fun k => decide (hostAt ≤ 32 * k))
    fwFlash := s.fwFlash, cfgFlash := s.cfgFlash }

/-- R471: the identity key that firmware derives from the four dies' responses. -/
def deriveIdentity : BitVec 4096 := Config.identityKey (sha512 ((List.range 4).flatMap Config.puf))

/-- R470. DEVICE_RESET: the configuration image is verified and taken from the flash, with the firmware image; memory is zero and the links are trained.
An image that fails leaves only a recovery FW_UPDATE. -/
def execDeviceReset (s : State) : Out :=
  let t := { s.afterReset with free := s.free + 1, linksDown := trainLinks 0 s.free }
  if Config.imageOk t.cfgFlash then
    .next { t with
      identity := deriveIdentity, cfgImage := t.cfgFlash, cfgVersion := Config.imageVersion t.cfgFlash
      stepping := Config.imageStepping t.cfgFlash, errata := Config.imageErrata t.cfgFlash
      fwImage := t.fwFlash, fwVersion := Config.imageVersion t.fwFlash }
  else .next { t with recovery := true }

end Sys2Proof.Machine
end

