-- ==== Sys2Proof/Machine/Trans.lean ====
section
/-!
DEFINITION. FEX2, FLG2, FSIN and FCOS (R110, R111). The exact value is enclosed in fixed point to 512 bits, which gives the FP32
value next to it toward zero; where the exact value is no FP32 value, Config.faithfulUp says whether the one after it is returned
(the open outcome of R110). The exact cases are those of R111.
-/
namespace Sys2Proof.Trans

/-- Fraction bits of the fixed-point enclosure. -/
def prec : Nat := 512
/-- One, in fixed point. -/
def one : Nat := 2 ^ prec

/-- Σ of z^(2k+1) / (2k+1) from a term on: the inverse hyperbolic tangent of z / 2^prec; `sq` is z squared. -/
def atanhSum : Nat → Nat → Nat → Nat → Nat
  | 0, _, _, _ => 0
  | k + 1, p, sq, i => p / i + atanhSum k (p * sq / one) sq (i + 2)

/-- atanh(n / d) in fixed point. -/
def atanh (n d : Nat) : Nat :=
  let z := n * one / d
  atanhSum 200 z (z * z / one) 1

/-- Σ of (−1)^k z^(2k+1) / (2k+1) for z = 1 / q: the arc tangent of 1 / q, in fixed point. -/
def atanInvSum (q : Nat) : Nat → Nat → Nat → Int
  | 0, _, _ => 0
  | k + 1, p, i => (p / i : Nat) - atanInvSum q k (p / (q * q)) (i + 2)

/-- π in fixed point (Machin's formula). -/
def pi : Nat := (16 * atanInvSum 5 130 (one / 5) 1 - 4 * atanInvSum 239 40 (one / 239) 1).toNat

/-- ln 2 in fixed point. -/
def ln2 : Nat := 2 * atanh 1 3

/-- Σ of x^k / k! from a term on. -/
def expSum (x : Nat) : Nat → Nat → Nat → Nat
  | 0, _, _ => 0
  | k + 1, t, i => t + expSum x k (t * x / (one * i)) (i + 1)

/-- Σ of (−1)^k x^(2k+1) / (2k+1)! from a term on; `sq` is x squared. -/
def sinSum (sq : Nat) : Nat → Nat → Nat → Int
  | 0, _, _ => 0
  | k + 1, t, i => (t : Int) - sinSum sq k (t * sq / (one * ((i + 1) * (i + 2)))) (i + 2)

/-- A fixed-point magnitude as the FP32 code toward zero of it, moved to the next one where the free choice of R110 says so. -/
def faithful (fn : Nat) (a : Word) (neg : Bool) (x : Nat) (e : Int) : Nat :=
  let code := Fmt.fp32.roundQ .z false x 1 (e - prec)
  Fmt.fp32.signed neg (if Config.faithfulUp fn a then code + 1 else code)

/-- The real value of a finite number as floor and fraction: an integer and a dyadic in [0, 1), in units of 2^−160. -/
def floorFrac (s : Bool) (m : Nat) (e : Int) : Int × Nat :=
  let k := finAt s m (e + 160) 0
  (k / (2 ^ 160 : Nat), (k % (2 ^ 160 : Nat)).toNat)

/-- 2^a (R110, R111). -/
def exp2 (a : Word) : Nat :=
  match Fmt.fp32.value a.toNat with
  | .nan => Fmt.fp32.nanCode
  | .inf s => if s then 0 else Fmt.fp32.infCode
  | .fin s m e =>
    let (i, f) := floorFrac s m e
    if 128 ≤ i then Fmt.fp32.infCode
    else if i < -150 ∨ (i = -150 ∧ f = 0) then 0
    else if f = 0 then Fmt.fp32.roundQ .ne false 1 1 i
    else faithful 0 a false (expSum (f * ln2 / 2 ^ 160) 120 one 1) i

/-- log2 a (R110, R111). -/
def log2 (a : Word) : Nat :=
  match Fmt.fp32.value a.toNat with
  | .nan => Fmt.fp32.nanCode
  | .inf s => if s then Fmt.fp32.nanCode else Fmt.fp32.infCode
  | .fin s m e =>
    if m = 0 then Fmt.fp32.signed true Fmt.fp32.infCode
    else if s then Fmt.fp32.nanCode
    else
      let k := Nat.log2 m
      let i : Int := e + k
      if m = 2 ^ k then Fmt.fp32.round .ne (if i = 0 then .fin false 0 0 else .int i)
      else
        let fr := 2 * atanh (m - 2 ^ k) (m + 2 ^ k) * one / ln2
        let x : Int := i * one + fr
        faithful 1 a (x < 0) x.natAbs 0

/-- sin of 2π × t / 2^160 turns for 0 < t ≤ 2^158, in fixed point. -/
def sinTurns (t : Nat) : Nat :=
  let x := 2 * pi * t / 2 ^ 160
  (sinSum (x * x / one) 70 x 1).toNat

/-- a − round_ne(a) of R110, in units of 2^−160, between minus one half and one half. -/
def reduced (s : Bool) (m : Nat) (e : Int) : Int :=
  let k := finAt s m (e + 160) 0
  let (a, b) := scaleQuot m 1 e
  let r : Int := roundQuot .ne s a b
  k - (if s then -r else r) * (2 ^ 160 : Nat)

/-- sin(2πa) (R110, R111). -/
def sin (a : Word) : Nat :=
  match Fmt.fp32.value a.toNat with
  | .nan | .inf _ => Fmt.fp32.nanCode
  | .fin s m e =>
    let r := reduced s m e
    let t := r.natAbs
    if t = 0 ∨ t = 2 ^ 159 then Fmt.fp32.signed s 0
    else if t = 2 ^ 158 then Fmt.fp32.signed (r < 0) 0x3F800000
    else faithful 2 a (r < 0) (sinTurns (if t < 2 ^ 158 then t else 2 ^ 159 - t)) 0

/-- cos(2πa) (R110, R111). -/
def cos (a : Word) : Nat :=
  match Fmt.fp32.value a.toNat with
  | .nan | .inf _ => Fmt.fp32.nanCode
  | .fin s m e =>
    let t := (reduced s m e).natAbs
    if t = 0 then 0x3F800000
    else if t = 2 ^ 159 then 0xBF800000
    else if t = 2 ^ 158 then 0
    else if t < 2 ^ 158 then faithful 3 a false (sinTurns (2 ^ 158 - t)) 0
    else faithful 3 a true (sinTurns (t - 2 ^ 158)) 0

end Sys2Proof.Trans
end

