-- ==== Sys2Proof/Machine/Floating.lean ====
section
/-!
DEFINITION. Floating-point, packed, conversion and complex instructions (R101 to R126), over the arithmetic of Num, Float and Trans.
-/
namespace Sys2Proof.Machine

/-- The rounding mode of class FR (R66). -/
def frMode (f : Form) : Rnd := Rnd.ofCode (f.mod.toNat % 8)

/-- A one-source FP32 operation. -/
def fpOne (f : Form) (s : State) (fn : Rnd → Word → Word) (e : Env) (l : Nat) (ln : Lane) : LaneRes :=
  .of [fn (frMode f) (s.src e .fp l ln f.a)]
/-- A two-source FP32 operation (R102). -/
def fpTwo (f : Form) (s : State) (fn : Rnd → Word → Word → Word) (e : Env) (l : Nat) (ln : Lane) : LaneRes :=
  .of [fn (frMode f) (s.src e .fp l ln f.a) (s.srcB e .fp false f l ln)]

/-- R104. FADD. -/
def execFadd (f : Form) (s : State) : Out := runFixed .fadd f s (fpTwo f s Fp.add)
/-- R104. FSUB. -/
def execFsub (f : Form) (s : State) : Out := runFixed .fsub f s (fpTwo f s Fp.sub)
/-- R104. FMUL. -/
def execFmul (f : Form) (s : State) : Out := runFixed .fmul f s (fpTwo f s Fp.mul)
/-- R104. FFMA. -/
def execFfma (f : Form) (s : State) : Out :=
  runFixed .ffma f s (fun e l ln =>
    .of [Fp.fma (frMode f) (s.src e .fp l ln f.a) (s.src e .fp l ln f.b) (s.srcC e .fp false f l ln)])
/-- R106. FMIN. -/
def execFmin (f : Form) (s : State) : Out := runFixed .fmin f s (fpTwo f s (fun _ => Fp.min))
/-- R106. FMAX. -/
def execFmax (f : Form) (s : State) : Out := runFixed .fmax f s (fpTwo f s (fun _ => Fp.max))
/-- R107. FRND. -/
def execFrnd (f : Form) (s : State) : Out := runFixed .frnd f s (fpOne f s Fp.roundInt)
/-- R107. FSCALE: source b is an integer, an immediate included. -/
def execFscale (f : Form) (s : State) : Out :=
  runFixed .fscale f s (fun e l ln => .of [Fp.scale (frMode f) (s.src e .fp l ln f.a) (s.srcB e .int false f l ln)])
/-- R104, R105. FRCP. -/
def execFrcp (f : Form) (s : State) : Out := runLong .frcp f s (fpOne f s Fp.rcp)
/-- R104, R105. FRSQ. -/
def execFrsq (f : Form) (s : State) : Out := runLong .frsq f s (fpOne f s Fp.rsqrt)
/-- R104, R105. FSQRT. -/
def execFsqrt (f : Form) (s : State) : Out := runLong .fsqrt f s (fpOne f s Fp.sqrt)
/-- R104, R105. FDIV. -/
def execFdiv (f : Form) (s : State) : Out := runLong .fdiv f s (fpTwo f s Fp.div)
/-- R108. FCMP. -/
def execFcmp (f : Form) (s : State) : Out :=
  runFixed .fcmp f s (fun e l ln =>
    .pred (Fp.cmp (f.mod.toNat / 2) (f.mod.getLsbD 0) (s.src e .fp l ln f.a) (s.src e .fp l ln f.b) && ln.psrc f.c))
/-- R109. FCLASS. DESIGN CHOICE (assumption 66): the bits of an 8-bit immediate are those of the FP32 value that it denotes (R65). -/
def execFclass (f : Form) (s : State) : Out :=
  runFixed .fclass f s (fun e l ln =>
    let k := Fp.fclass (s.src e .fp l ln f.a)
    if f.mod = 0 then .pred (k &&& f.c.uimm ≠ 0) else .of [BitVec.ofNat 32 k])

/-- R110, R111. FEX2. -/
def execFex2 (f : Form) (s : State) : Out := runLong .fex2 f s (fun e l ln => .of [Fp.w (Trans.exp2 (s.src e .fp l ln f.a))])
/-- R110, R111. FLG2. -/
def execFlg2 (f : Form) (s : State) : Out := runLong .flg2 f s (fun e l ln => .of [Fp.w (Trans.log2 (s.src e .fp l ln f.a))])
/-- R110, R111. FSIN. -/
def execFsin (f : Form) (s : State) : Out := runLong .fsin f s (fun e l ln => .of [Fp.w (Trans.sin (s.src e .fp l ln f.a))])
/-- R110, R111. FCOS. -/
def execFcos (f : Form) (s : State) : Out := runLong .fcos f s (fun e l ln => .of [Fp.w (Trans.cos (s.src e .fp l ln f.a))])

/-- Two words as a result. -/
def LaneRes.two (p : Word × Word) : LaneRes := .of [p.1, p.2]

/-- R112. F2SUM. -/
def execF2sum (f : Form) (s : State) : Out :=
  runFixed .f2sum f s (fun e l ln => .two (Fp.twoSum (s.src e .fp l ln f.a) (s.srcB e .fp false f l ln)))
/-- R113. F2PRD. -/
def execF2prd (f : Form) (s : State) : Out :=
  runFixed .f2prd f s (fun e l ln => .two (Fp.twoProd (s.src e .fp l ln f.a) (s.srcB e .fp false f l ln)))

/-- A packed operation (R114): sub-operation 0 .F16, 1 .BF16; `which` 0 adds, 1 multiplies, 2 multiplies and adds. -/
def packedOp (which : Nat) (f : Form) (s : State) (e : Env) (l : Nat) (ln : Lane) : LaneRes :=
  let bf : Bool := f.mod = 1
  let v := View.half bf
  .of [Fp.packed which bf (s.src e v l ln f.a) (s.src e v l ln f.b) (s.src e v l ln f.c)]
/-- R114. HADD2. -/
def execHadd2 (f : Form) (s : State) : Out := runFixed .hadd2 f s (packedOp 0 f s)
/-- R114. HMUL2. -/
def execHmul2 (f : Form) (s : State) : Out := runFixed .hmul2 f s (packedOp 1 f s)
/-- R114. HFMA2. -/
def execHfma2 (f : Form) (s : State) : Out := runFixed .hfma2 f s (packedOp 2 f s)
/-- R115. FDOT2: sub-operation 0 .BF16, 1 .F16; source c is FP32. -/
def execFdot2 (f : Form) (s : State) : Out :=
  runFixed .fdot2 f s (fun e l ln =>
    let bf : Bool := f.mod = 0
    .of [Fp.dot2 bf (s.src e (.half bf) l ln f.a) (s.src e (.half bf) l ln f.b) (s.src e .fp l ln f.c)])
/-- R116. IDOT4. -/
def execIdot4 (f : Form) (s : State) : Out :=
  runFixed .idot4 f s (fun e l ln =>
    .of [Fp.idot4 f.mod.toNat (s.src e .int l ln f.a) (s.src e .int l ln f.b) (s.src e .int l ln f.c)])

/-! ### Conversions (R117 to R123) -/

/-- The type field in source c (R117). -/
def typeField (f : Form) : BitVec 10 := BitVec.ofNat 10 f.c.uimm

/-- How a conversion reads an immediate: as FP32 where its source type is FP32, else as a pattern (R65). -/
def convView (t : Nat) : View := if t = 9 then .fp else .int

/-- %seed moves on under RS only (R49). -/
def rsSeed (f : Form) (seed : Word) : Option Word := if f.mod.toNat = 4 then some seed else none

/-- R118. CVT. -/
def execCvt (f : Form) (s : State) : Out :=
  runFixed .cvt f s (fun e l ln =>
    let c := typeField f
    let r := Fp.cvt (typeTo c) (typeFrom c) f.mod.toNat (s.src e (convView (typeFrom c)) l ln f.a) ln.seed
    { words := [r.1], seed := rsSeed f r.2 })
/-- R119. CVTI: INT64 operands are pairs. -/
def execCvti (f : Form) (s : State) : Out :=
  runFixed .cvti f s (fun e l ln =>
    let c := typeField f
    let a : DWord := if typeFrom c = 14 then s.pair e l ln f.a
      else (s.src e (convView (typeFrom c)) l ln f.a).setWidth 64
    let r := Fp.cvti (typeTo c) (typeFrom c) (typeU c) (typeSat c) f.mod.toNat a ln.seed
    { words := if typeTo c = 14 then [loWord r.1, hiWord r.1] else [loWord r.1], seed := rsSeed f r.2 })
/-- R120. PACKN: n FP32 registers into w packed registers, under the scale in source b. -/
def execPackn (f : Form) (s : State) : Out :=
  runFixed .packn f s (fun e l ln =>
    let t := typeTo (typeField f)
    let (n, w) := (packShape t).getD (0, 0)
    let xs := (List.range n).map (fun k => s.srcAt e .int l ln k f.a)
    let r := Fp.packElems t f.mod.toNat ((s.src e .int l ln f.b).toNat % 256) xs ln.seed
    { words := Fp.streamWords w (packStream (elemBits t) r.1), seed := rsSeed f r.2 })
/-- R121. UNPACKN: the inverse. -/
def execUnpackn (f : Form) (s : State) : Out :=
  runFixed .unpackn f s (fun e l ln =>
    let t := typeTo (typeField f)
    let (n, w) := (packShape t).getD (0, 0)
    let stream := (List.range w).foldl (fun x k => x + (s.srcAt e .int l ln k f.a).toNat * 2 ^ (32 * k)) 0
    let codes := (List.range n).map (fun k => stream / 2 ^ (elemBits t * k) % 2 ^ elemBits t)
    let r := Fp.unpackElems t f.mod.toNat ((s.src e .int l ln f.b).toNat % 256) codes ln.seed
    { words := r.1, seed := rsSeed f r.2 })

/-! ### Complex (R124, R125) -/

/-- A two-source complex operation. -/
def complexTwo (f : Form) (s : State) (fn : Word → Word → Word → Word → Word × Word) (e : Env) (l : Nat) (ln : Lane) : LaneRes :=
  let a := s.complex e l ln f.a
  let b := s.complex e l ln f.b
  .two (fn a.1 a.2 b.1 b.2)
/-- R125. CADD. -/
def execCadd (f : Form) (s : State) : Out := runFixed .cadd f s (complexTwo f s Fp.cadd)
/-- R125. CMUL. -/
def execCmul (f : Form) (s : State) : Out := runFixed .cmul f s (complexTwo f s Fp.cmul)
/-- R125. CCMUL. -/
def execCcmul (f : Form) (s : State) : Out := runFixed .ccmul f s (complexTwo f s Fp.ccmul)
/-- R125. CFMA. -/
def execCfma (f : Form) (s : State) : Out :=
  runFixed .cfma f s (fun e l ln =>
    let a := s.complex e l ln f.a
    let b := s.complex e l ln f.b
    let c := s.complex e l ln f.c
    .two (Fp.cfma a.1 a.2 b.1 b.2 c.1 c.2))
/-- R125. CABS2. -/
def execCabs2 (f : Form) (s : State) : Out :=
  runFixed .cabs2 f s (fun e l ln =>
    let a := s.complex e l ln f.a
    .of [Fp.cabs2 a.1 a.2])
/-- R125. CEXPI: the cosine and the sine of one angle. -/
def execCexpi (f : Form) (s : State) : Out :=
  runLong .cexpi f s (fun e l ln =>
    let a := s.src e .fp l ln f.a
    .of [Fp.w (Trans.cos a), Fp.w (Trans.sin a)])

end Sys2Proof.Machine
end

