-- ==== Sys2Proof/Machine/Integer.lean ====
section
/-!
DEFINITION. Integer arithmetic, logic, shifts, bit fields, comparison, selection and moves (R81 to R93). Each result is computed exactly and
then wrapped or saturated (R33, R34).
-/
namespace Sys2Proof.Machine

/-- X(v) of R82: a word read signed, or unsigned under .U. -/
def intX (u : Bool) (x : Word) : Int := if u then x.toNat else x.toInt
/-- X(v) of a pair. -/
def intX64 (u : Bool) (x : DWord) : Int := if u then x.toNat else x.toInt

/-- An exact integer in n bits: wrapped, or with .SAT saturated to the signed or unsigned range (R34, R82). -/
def narrow (n : Nat) (u sat : Bool) (x : Int) : BitVec n :=
  wrap n (if sat then (if u then satInt x 0 (2 ^ n - 1) else satInt x (-(2 ^ (n - 1) : Nat)) (2 ^ (n - 1) - 1)) else x)

/-- Variant 0b01 of class IU: .SAT. -/
def Form.sat (f : Form) : Bool := iuVar f.mod = 1
/-- The U bit of class IU. -/
def Form.u (f : Form) : Bool := iuU f.mod

/-- A two-source 32-bit operation of class IU on the values X(a) and X(b) (R80, R82). -/
def intTwo (op : Op) (f : Form) (s : State) (fn : Int → Int → Int) : Out :=
  runFixed op f s (fun e l ln =>
    .of [narrow 32 (iuU f.mod) (iuVar f.mod = 1) (fn (intX (iuU f.mod) (s.src e .int l ln f.a)) (intX (iuU f.mod) (s.srcB e .int (iuU f.mod) f l ln)))])

/-- A two-source 64-bit operation of class IU (R82). -/
def intTwo64 (op : Op) (f : Form) (s : State) (fn : Int → Int → Int) : Out :=
  runFixed op f s (fun e l ln =>
    .pair (narrow 64 (iuU f.mod) (iuVar f.mod = 1)
      (fn (intX64 (iuU f.mod) (s.pair e l ln f.a)) (intX64 (iuU f.mod) (s.pairB e (iuU f.mod) f l ln)))))

/-- R82. IADD. -/
def execIadd (f : Form) (s : State) : Out := intTwo .iadd f s (· + ·)
/-- R82. ISUB. -/
def execIsub (f : Form) (s : State) : Out := intTwo .isub f s (· - ·)
/-- R82. IADD64. -/
def execIadd64 (f : Form) (s : State) : Out := intTwo64 .iadd64 f s (· + ·)
/-- R82. ISUB64. -/
def execIsub64 (f : Form) (s : State) : Out := intTwo64 .isub64 f s (· - ·)
/-- R82. IMUL. -/
def execImul (f : Form) (s : State) : Out := intTwo .imul f s (· * ·)

/-- R82: the high word of the product, by variant: signed, .U, or .US (a signed, b unsigned). -/
def mulHigh (u us : Bool) (a b : Word) : Word :=
  hiWord (wrap 64 (if us then a.toInt * b.toNat else intX u a * intX u b))
/-- R82. IMULH. -/
def execImulh (f : Form) (s : State) : Out :=
  runFixed .imulh f s (fun e l ln =>
    .of [mulHigh (iuU f.mod) (iuVar f.mod = 1) (s.src e .int l ln f.a) (s.srcB e .int (iuU f.mod) f l ln)])

/-- R82. IMAD: the exact value, wrapped or saturated once. -/
def execImad (f : Form) (s : State) : Out :=
  runFixed .imad f s (fun e l ln =>
    let u := iuU f.mod
    .of [narrow 32 u (iuVar f.mod = 1)
      (intX u (s.src e .int l ln f.a) * intX u (s.src e .int l ln f.b) + intX u (s.srcC e .int u f l ln))])
/-- R82. IMAD64: a and c are 64-bit and b is 32-bit, extended by X. -/
def execImad64 (f : Form) (s : State) : Out :=
  runFixed .imad64 f s (fun e l ln =>
    let u := iuU f.mod
    .pair (wrap 64 (intX64 u (s.pair e l ln f.a) * intX u (s.src e .int l ln f.b) + intX64 u (s.pairC e u f l ln))))
/-- R82. IMADW: three 32-bit sources, a 64-bit result. -/
def execImadw (f : Form) (s : State) : Out :=
  runFixed .imadw f s (fun e l ln =>
    let u := iuU f.mod
    .pair (wrap 64 (intX u (s.src e .int l ln f.a) * intX u (s.src e .int l ln f.b) + intX u (s.srcC e .int u f l ln))))
/-- R82. IMIN. -/
def execImin (f : Form) (s : State) : Out := intTwo .imin f s (fun a b => if b < a then b else a)
/-- R82. IMAX. -/
def execImax (f : Form) (s : State) : Out := intTwo .imax f s (fun a b => if a < b then b else a)
/-- R82. IABS: with .SAT, to [0, 2^31 − 1]. -/
def execIabs (f : Form) (s : State) : Out :=
  runFixed .iabs f s (fun e l ln =>
    let x : Int := (s.src e .int l ln f.a).toInt.natAbs
    .of [wrap 32 (if iuVar f.mod = 1 then satInt x 0 (2 ^ 31 - 1) else x)])

/-- R83: quotient and remainder with truncation toward zero; neither traps. -/
def divRem (u : Bool) (a b : Word) : Word × Word :=
  let x := intX u a
  let y := intX u b
  if y = 0 then (0xFFFFFFFF, a)
  else if !u && x = -(2 ^ 31) && y = -1 then (0x80000000, 0)
  else (wrap 32 (x.tdiv y), wrap 32 (x - x.tdiv y * y))
/-- R83. IDIV. -/
def execIdiv (f : Form) (s : State) : Out :=
  runLong .idiv f s (fun e l ln => .of [(divRem (iuU f.mod) (s.src e .int l ln f.a) (s.srcB e .int (iuU f.mod) f l ln)).1])
/-- R83. IREM. -/
def execIrem (f : Form) (s : State) : Out :=
  runLong .irem f s (fun e l ln => .of [(divRem (iuU f.mod) (s.src e .int l ln f.a) (s.srcB e .int (iuU f.mod) f l ln)).2])

/-! ### Logic (R85) -/

/-- R85: bit by bit, the entry of T that a (least significant), b and c select. -/
def lut3 (t : BitVec 8) (a b c : Word) : Word :=
  let m := fun (i : Nat) (x : Word) => if t.getLsbD i then x else 0
  let n := fun (bit : Bool) (x : Word) => if bit then x else ~~~x
  (List.range 8).foldl (fun (r : Word) i =>
    r ||| m i (n (i.testBit 0) a &&& n (i.testBit 1) b &&& n (i.testBit 2) c)) 0

/-- The table of LUT3 and PLUT3: T[7:4] in the modifier, T[3:0] at the top of source c. -/
def lutTable (f : Form) : BitVec 8 := f.mod ++ BitVec.ofNat 4 (f.c.uimm / 64)

/-- R85. LUT3; short c names v0 to v31 or g0 to g31. -/
def execLut3 (f : Form) (s : State) : Out :=
  runFixed .lut3 f s (fun e l ln =>
    let i := f.c.uimm % 32
    let c := if f.c.uimm.testBit 5 then e.g.g.get i else ln.v.get i
    .of [lut3 (lutTable f) (s.src e .int l ln f.a) (s.src e .int l ln f.b) c])
/-- R85. PLUT3; short c names a predicate. -/
def execPlut3 (f : Form) (s : State) : Out :=
  runFixed .plut3 f s (fun _ _ ln =>
    let i := (ln.psrc f.a).toNat + 2 * (ln.psrc f.b).toNat + 4 * (ln.pred (f.c.uimm % 8)).toNat
    .pred ((lutTable f).getLsbD i))

/-! ### Shifts and bit fields (R86 to R89) -/

/-- R86: the count, taken modulo 32 under .WRAP. -/
def shiftCount (f : Form) (n : Word) : Nat := if iuVar f.mod = 1 then n.toNat % 32 else n.toNat
/-- R86. SHL. -/
def execShl (f : Form) (s : State) : Out :=
  runFixed .shl f s (fun e l ln => .of [s.src e .int l ln f.a <<< min 32 (shiftCount f (s.srcB e .int true f l ln))])
/-- R86. SHR. -/
def execShr (f : Form) (s : State) : Out :=
  runFixed .shr f s (fun e l ln => .of [s.src e .int l ln f.a >>> min 32 (shiftCount f (s.srcB e .int true f l ln))])
/-- R86. SAR. -/
def execSar (f : Form) (s : State) : Out :=
  runFixed .sar f s (fun e l ln => .of [(s.src e .int l ln f.a).sshiftRight (min 32 (shiftCount f (s.srcB e .int true f l ln)))])

/-- R87: variant 0 .R, 1 .L, 2 .R.WRAP, 3 .L.WRAP; b is the high word. -/
def funnel (variant : Nat) (a b : Word) (c : Nat) : Word :=
  let x := pairWord a b
  let n := if variant ≥ 2 then c % 32 else min c 32
  if variant % 2 = 0 then loWord (x >>> n) else hiWord (x <<< n)
/-- R87. SHF. -/
def execShf (f : Form) (s : State) : Out :=
  runFixed .shf f s (fun e l ln =>
    .of [funnel (iuVar f.mod) (s.src e .int l ln f.a) (s.src e .int l ln f.b) (s.srcC e .int true f l ln).toNat])

/-- R88: position and length of a field. -/
def fieldPos (x : Word) : Nat := bitsOf x.toNat 7 0
def fieldLen (x : Word) : Nat := min (bitsOf x.toNat 15 8) 32
/-- R88: the value of BFE. -/
def bfe (u : Bool) (a d : Word) : Word :=
  let len := fieldLen d
  if len = 0 then 0
  else
    let f := (intX u a / (2 ^ fieldPos d : Nat)) % (2 ^ len : Nat)
    wrap 32 (if !u && f ≥ (2 ^ (len - 1) : Nat) then f - (2 ^ len : Nat) else f)
/-- R88: the value of BFI. -/
def bfi (a b d : Word) : Word :=
  let mask : Word := wrap 32 (((2 ^ fieldLen d - 1) * 2 ^ fieldPos d : Nat) : Int)
  (b &&& ~~~mask) ||| (wrap 32 ((a.toNat * 2 ^ fieldPos d : Nat) : Int) &&& mask)
/-- R88. BFE. -/
def execBfe (f : Form) (s : State) : Out :=
  runFixed .bfe f s (fun e l ln => .of [bfe (iuU f.mod) (s.src e .int l ln f.a) (s.srcB e .int true f l ln)])
/-- R88. BFI. -/
def execBfi (f : Form) (s : State) : Out :=
  runFixed .bfi f s (fun e l ln => .of [bfi (s.src e .int l ln f.a) (s.src e .int l ln f.b) (s.srcC e .int true f l ln)])

/-- Set bits of a word, by position. -/
def setBits (a : Word) : List Nat := (List.range 32).filter (fun i => a.getLsbD i)
/-- R89. POPC. -/
def execPopc (f : Form) (s : State) : Out :=
  runFixed .popc f s (fun e l ln => .of [BitVec.ofNat 32 (setBits (s.src e .int l ln f.a)).length])
/-- R89. CLZ: leading zeros, 32 for zero. -/
def execClz (f : Form) (s : State) : Out :=
  runFixed .clz f s (fun e l ln => .of [BitVec.ofNat 32 (match (setBits (s.src e .int l ln f.a)).getLast? with
    | some i => 31 - i
    | none => 32)])
/-- R89. BREV. -/
def execBrev (f : Form) (s : State) : Out := runFixed .brev f s (fun e l ln => .of [(s.src e .int l ln f.a).reverse])
/-- R89. FINDLSB. -/
def execFindlsb (f : Form) (s : State) : Out :=
  runFixed .findlsb f s (fun e l ln => .of [match (setBits (s.src e .int l ln f.a)).head? with
    | some i => BitVec.ofNat 32 i
    | none => 0xFFFFFFFF])

/-! ### Comparison and selection (R90, R91) -/

/-- R90: the comparison of two exact values. -/
def intCmp (cc : Nat) (x y : Int) : Bool :=
  match cc with
  | 0 => x = y
  | 1 => x ≠ y
  | 2 => x < y
  | 3 => x ≤ y
  | 4 => x > y
  | _ => x ≥ y
/-- R90. ICMP. -/
def execIcmp (f : Form) (s : State) : Out :=
  runFixed .icmp f s (fun e l ln =>
    let u := f.mod.getLsbD 0
    .pred (intCmp (f.mod.toNat / 2) (intX u (s.src e .int l ln f.a)) (intX u (s.src e .int l ln f.b)) && ln.psrc f.c))
/-- R91. ISEL. -/
def execIsel (f : Form) (s : State) : Out :=
  runFixed .isel f s (fun e l ln =>
    let o := if ln.psrc f.c then f.a else f.b
    if f.mod = 1 then .pair (s.pair e l ln o) else .of [s.src e .int l ln o])

/-! ### Moves (R92, R93) -/

/-- R92. MOV. -/
def execMov (f : Form) (s : State) : Out := runFixed .mov f s (fun e l ln => .of [s.src e .int l ln f.a])
/-- R92. MOVI: the 10-bit immediate, zero-extended under .U. -/
def execMovi (f : Form) (s : State) : Out :=
  runFixed .movi f s (fun _ _ _ => .of [immWord .int (if iuU f.mod then f.c.uimm else f.c.simm)])
/-- R92. MOVL. -/
def execMovl (f : Form) (s : State) : Out := runFixed .movl f s (fun e l ln => .of [s.src e .int l ln f.b])
/-- R92. MOVS. -/
def execMovs (f : Form) (s : State) : Out := runFixed .movs f s (fun e l ln => .of [s.src e .int l ln f.a])
/-- R93. MOVG: the lowest (.FIRST) or the highest (.LAST) lane of X gives its a. -/
def execMovg (f : Form) (s : State) : Out :=
  runOp .movg f s (fun e =>
    match (if f.mod = 0 then e.lanes.head? else e.lanes.getLast?), f.dst.ref 0 with
    | some (l, ln), some r => .ok (s.writeReg e.gid l r (s.src e .int l ln f.a))
    | _, _ => .ok s)

end Sys2Proof.Machine
end

