-- ==== Sys2Proof/Machine/System.lean ====
section
/-!
DEFINITION. The system instructions (R421 to R428, R439): TRAPI, TRET, PREEMPT.DONE, SLICE.YIELD, LAUNCH, HINT.SUCC, WAITP and BUDGET.READ.
-/
namespace Sys2Proof.Machine

/-! ### Traps and returns (R422, R423, R438, R439) -/

/-- R422. TRAPI. -/
def execTrapi (f : Form) (s : State) : Out :=
  runOp .trapi f s (fun e => .trap Cause.software (s.lowSrc e f.b) e.x)

/-- Lanes leave the handler (R418, R438). -/
def Group.leaveHandler (g : Group) (x : LaneMask) (st : Nat → Lane → LaneSt) (mark : Handler → Handler) : Group :=
  { g.updLanes x (fun l ln => { ln with st := st l ln }) with handler := g.handler.map mark }

/-- R423: where .RETRY and .NEXT send a lane of a handler. After BUDGET, an asynchronous trap, .NEXT acts as .RETRY. -/
def Handler.sends (h : Handler) (next : Bool) (ln : Lane) : Return :=
  if h.atHeader then .header ln.retPc
  else if next && h.cause.toNat ≠ Cause.budget then (match h.kept with
    | some k => if k.body.isEmpty then .header k.ft else .skip
    | none => .header ln.retPc)
  else .retry

/-- A handler that a TRET has left (R438). -/
def Handler.tretDone (h : Handler) : Handler := { h with tret := true }

/-- R423, R438, R94: TRET's own ILLEGAL_FORM: outside a handler, after PREEMPT.DONE, and .TO a bad target. -/
def tretForm (s : State) (f : Form) (e : Env) : Option (Word × LaneMask) :=
  match e.g.handler with
  | none => some (8, e.x)
  | some h => if h.preDone then some (9, e.x) else if f.mod = 2 then badATarget s f e else none

/-- R423. TRET: sub-operation 0 .RETRY, 1 .NEXT, 2 .TO. -/
def execTret (f : Form) (s : State) : Out :=
  runOp .tret f s (fun e =>
    match e.g.handler with
    | none => .trap Cause.illegalForm 8 e.x
    | some h =>
      if f.mod = 2 then
        checkTargets s e (aTarget s e f) (fun ts =>
          .ok (s.updGroup e.gid (fun g => g.leaveHandler e.x
            (fun l _ => .returned (.header (((ts.find? (fun t => t.1 = l)).map (·.2)).getD 0))) Handler.tretDone)))
      else .ok (s.updGroup e.gid (fun g => g.leaveHandler e.x (fun _ ln => .returned (h.sends (f.mod = 1) ln)) Handler.tretDone)))
    (tretForm s f)

/-- R438, R439. PREEMPT.DONE. -/
def execPreemptDone (f : Form) (s : State) : Out :=
  runOp .preemptDone f s (fun e =>
    .ok (s.updGroup e.gid (fun g => g.leaveHandler e.x (fun _ _ => .done) (fun h => { h with preDone := true }))))
    (ownForm 9 (fun e => e.g.handler.elim true (fun h => h.cause.toNat ≠ Cause.preempt || h.tret)))

/-! ### SLICE.YIELD (R411, R412, R424) -/

/-- R411, R412: a slice's budget renewed, and its deadline. -/
def Block.renew (b : Block) (r : LaunchRec) (clock : Nat) (deadline : Bool) : Block :=
  { b with budgetLeft := r.budget * 1024, refilled := false
           deadline := if deadline && r.deadline ≠ 0 then some (clock + r.deadline * 1750) else b.deadline }

/-- R424: does a slice with an earlier deadline wait, which no core has room for now, and which a core of a block would have if the block's resources
were free? -/
def State.yieldsTo (s : State) (b : Block) : Bool :=
  let without := s.updBlock b.id (fun b => { b with st := .saved })
  s.blocks.any (fun w => (w.st = .waiting || w.st = .saved) && w.id ≠ b.id && earlier w.deadline b.deadline &&
    !(List.range Config.cores).any (s.couldAdmit w) && b.cores.any (without.couldAdmit w))

/-- R424, R434, R448. SLICE.YIELD: the slice's budget and deadline are renewed; in a PREEMPT handler, the budget only. Firmware then pre-empts the
block where a slice waits for its cores. -/
def execSliceYield (f : Form) (s : State) : Out :=
  runOp .sliceYield f s (fun e =>
    let handling := e.g.handler.elim false (fun h => h.cause.toNat = Cause.preempt)
    let clock := s.clock
    let s := s.updBlock e.b.id (fun b => b.renew e.rcd clock (!handling))
    let leaves := !handling && e.rcd.preemptible && (s.block? e.b.id).elim false s.yieldsTo
    .ok (if leaves then s.preemptBlock e.b.id else s))

/-! ### LAUNCH (R425) -/

/-- The layout checks of LAUNCH that its rule names beside those of R231. -/
def launchFault (m : BitVec 512) (k : Nat) : Option (Nat × Word) :=
  if !layValid m then some (Cause.bounds, boundsInfo 0 true 0 k)
  else if layRank m ≠ 1 || layElem m ≠ 16 then some (Cause.bounds, boundsInfo 0 false 7 k)
  else none

/-- R425: does a record of `n` bytes at an element pass the extent? -/
def pastExtent (m : BitVec 512) (at_ n : Nat) : Bool := 16 * layExt m 0 < 16 * at_ + n

/-- The checks of `n` elements from one up, on the lowest lane. -/
def recordChecks (s : State) (e : Env) (k at_ n : Nat) : List (Nat × Nat × Chk) :=
  (List.range n).map (fun i => (lowLane e.x, k, s.access e k [at_ + i] 16 0 false))

/-- The bytes that such checks have found. -/
def State.recordBytes (s : State) (cs : List (Nat × Nat × Chk)) : List Byte :=
  cs.flatMap (fun c => match c.2.2 with
    | .ok as => s.bytes as
    | _ => [])

/-- R425: the predecessors of a child launch in a mode. -/
def launchMode (mode launch : Nat) : List (Nat × Bool) :=
  if mode = 1 then [(launch, false)] else if mode = 2 then [(launch, true)] else []

/-- R425: what LAUNCH answers for a record: a handle, or bit [31] with the error word; and the state after it. -/
def State.submit (s : State) (e : Env) (mode : Nat) (bs : List Byte) : Word × State :=
  match s.codeOf e with
  | none => (BitVec.ofNat 32 (2 ^ 31) ||| errorWord 11 0 0, s)
  | some c =>
    match s.accept { tenant := e.la.tenant, queue := e.la.queue, tag := 0xFFFF, opcode := 0, code := e.la.code, link := 0
                     preds := launchMode mode e.la.id } c bs with
    | .error w => (BitVec.ofNat 32 (2 ^ 31) ||| w, s)
    | .ok (k, s) => (BitVec.ofNat 32 (k % 2 ^ 31), s)

/-- R425: the mode that source b of LAUNCH holds. -/
def launchModeOf (s : State) (f : Form) (e : Env) : Nat := (s.lowSrc e f.b).toNat % 4

/-- R425. LAUNCH: the lowest lane reads a record, and every lane receives firmware's answer. -/
def execLaunch (f : Form) (s : State) : Out :=
  runOp .launch f s (fun e =>
    let k := layC f
    let m := e.layout k
    let mode := launchModeOf s f e
    let at_ := (s.lowSrc e f.a).toNat
    let low := maskOf [lowLane e.x]
    match launchFault m k with
    | some (cause, info) => .trap cause info low
    | none =>
      if pastExtent m at_ 64 then .trap Cause.bounds (boundsInfo 0 false 0 k) low
      else if laySpace m ≠ spGlobal || !layR m then .trap Cause.permission (boundsInfo 0 false 0 k) low
      else
        let head := recordChecks s e k at_ 4
        s.allOrNothing e head (fun _ =>
          let n := recLength (s.recordBytes head)
          if pastExtent m at_ n then .trap Cause.bounds (boundsInfo 0 false 0 k) low
          else
            let all := recordChecks s e k at_ ((n + 15) / 16)
            s.allOrNothing e all (fun _ =>
              let (x, s) := s.submit e mode ((s.recordBytes all).take n)
              .ok (s.addOp e f .completed (fun _ _ => (.ready, writeTo (f.dst.ref 0) x))).2)))
    (ownForm 0 (fun e => s.lowReadable e f.b && decide (launchModeOf s f e = 3)))

/-! ### HINT.SUCC, WAITP, BUDGET.READ (R426 to R428) -/

/-- R426. HINT.SUCC. -/
def execHintSucc (f : Form) (s : State) : Out :=
  runOp .hintSucc f s (fun e => .ok (s.updLaunch e.la.id (fun la => { la with hinted := true })))

/-- Every lane of an outstanding instruction that can complete does. -/
def State.completeAll (s : State) (op : Nat) (lanes : List Nat) : State :=
  lanes.foldl (fun (s : State) l => match s.op? op with
    | none => s
    | some o => match o.lanes.find? (fun x => x.lane = l) with
      | none => s
      | some x => s.completeIf o x) s

/-- R427. WAITP: where every predecessor has ended, it completes at issue. -/
def execWaitp (f : Form) (s : State) : Out :=
  runOp .waitp f s (fun e =>
    let (k, s) := s.addOp e f .cancelled (fun _ _ => (.preds, []))
    let s := s.updOp k (fun o => { o with dst := none, pdst := f.dst.ref 0 })
    .ok (if s.predsEnded e.la then s.completeAll k (lanesOf e.x) else s))

/-- R428: reference clocks until a deadline, saturating. -/
def untilDeadline (clock : Nat) : Option Nat → Word
  | none => 0x7FFFFFFF
  | some d => wrap 32 (satInt ((d : Int) - clock) (-(2 ^ 31)) (2 ^ 31 - 1))

/-- R428: the values of BUDGET.READ: 0 .SLICE, 1 .DEADLINE, 2 .POWER, 3 .LIMIT. -/
def State.budgetValue (s : State) (e : Env) (sub : Nat) : Word :=
  let q := s.queue? e.la.queue
  match sub with
  | 0 => State.budgetWord e.rcd e.b
  | 1 => untilDeadline s.clock e.b.deadline
  | 2 => q.elim 0 (·.estimate)
  | _ => q.elim 0 (·.budget)

/-- R428. BUDGET.READ. -/
def execBudgetRead (f : Form) (s : State) : Out := runFixed .budgetRead f s (fun e _ _ => .of [s.budgetValue e f.mod.toNat])

end Sys2Proof.Machine
end

