-- ==== Sys2Proof/Machine/Dispatch.lean ====
section
/-!
DEFINITION. The meaning of every instruction and step: one arm per constructor.
-/
namespace Sys2Proof.Machine

/-- One step of an instruction. -/
def exec (i : Instr) (s : State) : Host.Outcome State Fault Refusal :=
  match i with
  | .iadd f => Sys2Proof.Machine.execIadd f s
  | .isub f => Sys2Proof.Machine.execIsub f s
  | .iadd64 f => Sys2Proof.Machine.execIadd64 f s
  | .isub64 f => Sys2Proof.Machine.execIsub64 f s
  | .imul f => Sys2Proof.Machine.execImul f s
  | .imulh f => Sys2Proof.Machine.execImulh f s
  | .imad f => Sys2Proof.Machine.execImad f s
  | .imad64 f => Sys2Proof.Machine.execImad64 f s
  | .imadw f => Sys2Proof.Machine.execImadw f s
  | .imin f => Sys2Proof.Machine.execImin f s
  | .imax f => Sys2Proof.Machine.execImax f s
  | .iabs f => Sys2Proof.Machine.execIabs f s
  | .idiv f => Sys2Proof.Machine.execIdiv f s
  | .irem f => Sys2Proof.Machine.execIrem f s
  | .lut3 f => Sys2Proof.Machine.execLut3 f s
  | .shl f => Sys2Proof.Machine.execShl f s
  | .shr f => Sys2Proof.Machine.execShr f s
  | .sar f => Sys2Proof.Machine.execSar f s
  | .shf f => Sys2Proof.Machine.execShf f s
  | .bfe f => Sys2Proof.Machine.execBfe f s
  | .bfi f => Sys2Proof.Machine.execBfi f s
  | .popc f => Sys2Proof.Machine.execPopc f s
  | .clz f => Sys2Proof.Machine.execClz f s
  | .brev f => Sys2Proof.Machine.execBrev f s
  | .findlsb f => Sys2Proof.Machine.execFindlsb f s
  | .icmp f => Sys2Proof.Machine.execIcmp f s
  | .isel f => Sys2Proof.Machine.execIsel f s
  | .plut3 f => Sys2Proof.Machine.execPlut3 f s
  | .mov f => Sys2Proof.Machine.execMov f s
  | .movi f => Sys2Proof.Machine.execMovi f s
  | .movl f => Sys2Proof.Machine.execMovl f s
  | .movs f => Sys2Proof.Machine.execMovs f s
  | .movg f => Sys2Proof.Machine.execMovg f s
  | .bra f => Sys2Proof.Machine.execBra f s
  | .brai f => Sys2Proof.Machine.execBrai f s
  | .call f => Sys2Proof.Machine.execCall f s
  | .calli f => Sys2Proof.Machine.execCalli f s
  | .ret f => Sys2Proof.Machine.execRet f s
  | .exit f => Sys2Proof.Machine.execExit f s
  | .yield f => Sys2Proof.Machine.execYield f s
  | .nop f => Sys2Proof.Machine.execNop f s
  | .fadd f => Sys2Proof.Machine.execFadd f s
  | .fsub f => Sys2Proof.Machine.execFsub f s
  | .fmul f => Sys2Proof.Machine.execFmul f s
  | .ffma f => Sys2Proof.Machine.execFfma f s
  | .fmin f => Sys2Proof.Machine.execFmin f s
  | .fmax f => Sys2Proof.Machine.execFmax f s
  | .fcmp f => Sys2Proof.Machine.execFcmp f s
  | .frnd f => Sys2Proof.Machine.execFrnd f s
  | .fclass f => Sys2Proof.Machine.execFclass f s
  | .fscale f => Sys2Proof.Machine.execFscale f s
  | .frcp f => Sys2Proof.Machine.execFrcp f s
  | .frsq f => Sys2Proof.Machine.execFrsq f s
  | .fsqrt f => Sys2Proof.Machine.execFsqrt f s
  | .fdiv f => Sys2Proof.Machine.execFdiv f s
  | .f2sum f => Sys2Proof.Machine.execF2sum f s
  | .f2prd f => Sys2Proof.Machine.execF2prd f s
  | .hadd2 f => Sys2Proof.Machine.execHadd2 f s
  | .hmul2 f => Sys2Proof.Machine.execHmul2 f s
  | .hfma2 f => Sys2Proof.Machine.execHfma2 f s
  | .fdot2 f => Sys2Proof.Machine.execFdot2 f s
  | .idot4 f => Sys2Proof.Machine.execIdot4 f s
  | .cvt f => Sys2Proof.Machine.execCvt f s
  | .cvti f => Sys2Proof.Machine.execCvti f s
  | .packn f => Sys2Proof.Machine.execPackn f s
  | .unpackn f => Sys2Proof.Machine.execUnpackn f s
  | .fex2 f => Sys2Proof.Machine.execFex2 f s
  | .flg2 f => Sys2Proof.Machine.execFlg2 f s
  | .fsin f => Sys2Proof.Machine.execFsin f s
  | .fcos f => Sys2Proof.Machine.execFcos f s
  | .cadd f => Sys2Proof.Machine.execCadd f s
  | .cmul f => Sys2Proof.Machine.execCmul f s
  | .ccmul f => Sys2Proof.Machine.execCcmul f s
  | .cfma f => Sys2Proof.Machine.execCfma f s
  | .cabs2 f => Sys2Proof.Machine.execCabs2 f s
  | .cexpi f => Sys2Proof.Machine.execCexpi f s
  | .vote f => Sys2Proof.Machine.execVote f s
  | .shfl f => Sys2Proof.Machine.execShfl f s
  | .redux f => Sys2Proof.Machine.execRedux f s
  | .scan f => Sys2Proof.Machine.execScan f s
  | .seamJoin f => Sys2Proof.Machine.execSeamJoin f s
  | .seamQuit f => Sys2Proof.Machine.execSeamQuit f s
  | .seamQuitm f => Sys2Proof.Machine.execSeamQuitm f s
  | .seamWait f => Sys2Proof.Machine.execSeamWait f s
  | .seamRead f => Sys2Proof.Machine.execSeamRead f s
  | .seamStore f => Sys2Proof.Machine.execSeamStore f s
  | .seamLoad f => Sys2Proof.Machine.execSeamLoad f s
  | .serOpen f => Sys2Proof.Machine.execSerOpen f s
  | .serClose f => Sys2Proof.Machine.execSerClose f s
  | .regroup f => Sys2Proof.Machine.execRegroup f s
  | .reorderPoint block role => Sys2Proof.Machine.execReorderPoint block role s
  | .emit f => Sys2Proof.Machine.execEmit f s
  | .spawn f => Sys2Proof.Machine.execSpawn f s
  | .spawnReturn op lane => Sys2Proof.Machine.execSpawnReturn op lane s
  | .ebb f => Sys2Proof.Machine.execEbb f s
  | .hlerp f => Sys2Proof.Machine.execHlerp f s
  | .ld f => Sys2Proof.Machine.execLd f s
  | .st f => Sys2Proof.Machine.execSt f s
  | .ldu f => Sys2Proof.Machine.execLdu f s
  | .atom f => Sys2Proof.Machine.execAtom f s
  | .red f => Sys2Proof.Machine.execRed f s
  | .fence f => Sys2Proof.Machine.execFence f s
  | .pref f => Sys2Proof.Machine.execPref f s
  | .laysub f => Sys2Proof.Machine.execLaysub f s
  | .layinfo f => Sys2Proof.Machine.execLayinfo f s
  | .copy f => Sys2Proof.Machine.execCopy f s
  | .copyLanding copy => Sys2Proof.Machine.execCopyLanding copy s
  | .twait f => Sys2Proof.Machine.execTwait f s
  | .tfirst f => Sys2Proof.Machine.execTfirst f s
  | .tmInit f => Sys2Proof.Machine.execTmInit f s
  | .tmArrive f => Sys2Proof.Machine.execTmArrive f s
  | .tmArrivew f => Sys2Proof.Machine.execTmArrivew f s
  | .tmWait f => Sys2Proof.Machine.execTmWait f s
  | .tmExpect f => Sys2Proof.Machine.execTmExpect f s
  | .ownGive f => Sys2Proof.Machine.execOwnGive f s
  | .ownTake f => Sys2Proof.Machine.execOwnTake f s
  | .tcopy f => Sys2Proof.Machine.execTcopy f s
  | .tcopyMc f => Sys2Proof.Machine.execTcopyMc f s
  | .scatb f => Sys2Proof.Machine.execScatb f s
  | .tileOperationCompletion op => Sys2Proof.Machine.execTileOperationCompletion op s
  | .wqAsk f => Sys2Proof.Machine.execWqAsk f s
  | .wqAskAnswer ask => Sys2Proof.Machine.execWqAskAnswer ask s
  | .wqTake f => Sys2Proof.Machine.execWqTake f s
  | .wqAdd f => Sys2Proof.Machine.execWqAdd f s
  | .queueRefill launch core => Sys2Proof.Machine.execQueueRefill launch core s
  | .tokenPass launch => Sys2Proof.Machine.execTokenPass launch s
  | .lnest n => Sys2Proof.Machine.execLnest n s
  | .lnestCompletion op => Sys2Proof.Machine.execLnestCompletion op s
  | .mma f => Sys2Proof.Machine.execMma f s
  | .quant f => Sys2Proof.Machine.execQuant f s
  | .had f => Sys2Proof.Machine.execHad f s
  | .accZero f => Sys2Proof.Machine.execAccZero f s
  | .accDrain f => Sys2Proof.Machine.execAccDrain f s
  | .accSave f => Sys2Proof.Machine.execAccSave f s
  | .accLoad f => Sys2Proof.Machine.execAccLoad f s
  | .matrixQueueEntryStart core => Sys2Proof.Machine.execMatrixQueueEntryStart core s
  | .bandCommit core => Sys2Proof.Machine.execBandCommit core s
  | .chainOpen f => Sys2Proof.Machine.execChainOpen f s
  | .chainJoin f => Sys2Proof.Machine.execChainJoin f s
  | .joinRequestArrival join => Sys2Proof.Machine.execJoinRequestArrival join s
  | .chainSend f => Sys2Proof.Machine.execChainSend f s
  | .contributionLanding contribution => Sys2Proof.Machine.execContributionLanding contribution s
  | .chainWait f => Sys2Proof.Machine.execChainWait f s
  | .integrationEntry core slot => Sys2Proof.Machine.execIntegrationEntry core slot s
  | .chainStatus f => Sys2Proof.Machine.execChainStatus f s
  | .chainAbort f => Sys2Proof.Machine.execChainAbort f s
  | .chainSuspension name notice => Sys2Proof.Machine.execChainSuspension name notice s
  | .batOpen f => Sys2Proof.Machine.execBatOpen f s
  | .batPush f => Sys2Proof.Machine.execBatPush f s
  | .batClose f => Sys2Proof.Machine.execBatClose f s
  | .batDone f => Sys2Proof.Machine.execBatDone f s
  | .batStat f => Sys2Proof.Machine.execBatStat f s
  | .batchFormation core => Sys2Proof.Machine.execBatchFormation core s
  | .batchAdmission core batch => Sys2Proof.Machine.execBatchAdmission core batch s
  | .bodyClaimRelease core batch lane => Sys2Proof.Machine.execBodyClaimRelease core batch lane s
  | .primEmit f => Sys2Proof.Machine.execPrimEmit f s
  | .primitiveBinning prim => Sys2Proof.Machine.execPrimitiveBinning prim s
  | .passResolution launch pass => Sys2Proof.Machine.execPassResolution launch pass s
  | .trace f => Sys2Proof.Machine.execTrace f s
  | .traversalCompletion op lane => Sys2Proof.Machine.execTraversalCompletion op lane s
  | .retv f => Sys2Proof.Machine.execRetv f s
  | .tex f => Sys2Proof.Machine.execTex f s
  | .texl f => Sys2Proof.Machine.execTexl f s
  | .texf f => Sys2Proof.Machine.execTexf f s
  | .trapi f => Sys2Proof.Machine.execTrapi f s
  | .tret f => Sys2Proof.Machine.execTret f s
  | .preemptDone f => Sys2Proof.Machine.execPreemptDone f s
  | .sliceYield f => Sys2Proof.Machine.execSliceYield f s
  | .launch f => Sys2Proof.Machine.execLaunch f s
  | .hintSucc f => Sys2Proof.Machine.execHintSucc f s
  | .waitp f => Sys2Proof.Machine.execWaitp f s
  | .budgetRead f => Sys2Proof.Machine.execBudgetRead f s
  | .partitionIssue core part => Sys2Proof.Machine.execPartitionIssue core part s
  | .laneCompletion op lane => Sys2Proof.Machine.execLaneCompletion op lane s
  | .asyncTrapDelivery group => Sys2Proof.Machine.execAsyncTrapDelivery group s
  | .sliceBudgetExpiry block => Sys2Proof.Machine.execSliceBudgetExpiry block s
  | .blockAdmission block core => Sys2Proof.Machine.execBlockAdmission block core s
  | .elementAdmission elem => Sys2Proof.Machine.execElementAdmission elem s
  | .elementFinish elem => Sys2Proof.Machine.execElementFinish elem s
  | .claimEndingArrival ending => Sys2Proof.Machine.execClaimEndingArrival ending s
  | .powerWindow w => Sys2Proof.Machine.execPowerWindow w s
  | .translationFaultOffer fault => Sys2Proof.Machine.execTranslationFaultOffer fault s
  | .blockSave block => Sys2Proof.Machine.execBlockSave block s
  | .hardStop block => Sys2Proof.Machine.execHardStop block s
  | .blockRestore block core => Sys2Proof.Machine.execBlockRestore block core s
  | .icacheFillAuth code line => Sys2Proof.Machine.execIcacheFillAuth code line s
  | .peerAccessArrival a => Sys2Proof.Machine.execPeerAccessArrival a s
  | .hostMemAccess a => Sys2Proof.Machine.execHostMemAccess a s
  | .linkDown peer link => Sys2Proof.Machine.execLinkDown peer link s
  | .thermalEmergency die celsius => Sys2Proof.Machine.execThermalEmergency die celsius s
  | .thermalShutdown => Sys2Proof.Machine.execThermalShutdown s
  | .deviceReset => Sys2Proof.Machine.execDeviceReset s
  | .doorbellWrite queue bell => Sys2Proof.Machine.execDoorbellWrite queue bell s
  | .groupSet queue => Sys2Proof.Machine.execGroupSet queue s
  | .tenantCreate queue => Sys2Proof.Machine.execTenantCreate queue s
  | .tenantDestroy queue => Sys2Proof.Machine.execTenantDestroy queue s
  | .budgetSet queue => Sys2Proof.Machine.execBudgetSet queue s
  | .timeSet queue => Sys2Proof.Machine.execTimeSet queue s
  | .fwUpdate queue => Sys2Proof.Machine.execFwUpdate queue s
  | .windowMap queue => Sys2Proof.Machine.execWindowMap queue s
  | .windowUnmap queue => Sys2Proof.Machine.execWindowUnmap queue s
  | .pageMap queue => Sys2Proof.Machine.execPageMap queue s
  | .faultDone queue => Sys2Proof.Machine.execFaultDone queue s
  | .codeLoad queue => Sys2Proof.Machine.execCodeLoad queue s
  | .codeUnload queue => Sys2Proof.Machine.execCodeUnload queue s
  | .launchCommand queue => Sys2Proof.Machine.execLaunchCommand queue s
  | .preemptCommand queue => Sys2Proof.Machine.execPreemptCommand queue s
  | .resume queue => Sys2Proof.Machine.execResume queue s
  | .query queue => Sys2Proof.Machine.execQuery queue s
  | .attest queue => Sys2Proof.Machine.execAttest queue s
  | .itemArrival item => Sys2Proof.Machine.execItemArrival item s
  | .peerWindowConfirmation tenant window exported => Sys2Proof.Machine.execPeerWindowConfirmation tenant window exported s
  | .fabricLineInvalidation line sharer => Sys2Proof.Machine.execFabricLineInvalidation line sharer s
  | .uncorrectableErrorRecovery blocks => Sys2Proof.Machine.execUncorrectableErrorRecovery blocks s

end Sys2Proof.Machine
end

