-- ==== Sys2Proof/Machine/Agenda.lean ====
section
/-!
DEFINITION. The steps that may come next where nobody has said which does (assumption 2): every engine, scheduler and firmware step that the state has
something for. The first that changes the state is taken, counted from a place that moves with the clock, so that none waits for ever.
-/
namespace Sys2Proof.Machine

/-- Steps of outstanding instructions. -/
def LongOp.steps (o : LongOp) : List Instr :=
  o.lanes.flatMap (fun l => [.laneCompletion o.id l.lane, .spawnReturn o.id l.lane, .traversalCompletion o.id l.lane])

/-- Steps of the memory engines and the distributor. -/
def State.engineSteps (s : State) : List Instr :=
  s.copies.map (fun c => .copyLanding c.id) ++ s.tileOps.map (fun o => .tileOperationCompletion o.id) ++ s.nests.map (fun o => .lnestCompletion o.id) ++
  s.asks.map (fun a => .wqAskAnswer a.id) ++ s.items.map (fun i => .itemArrival i.id) ++
  (s.launches.filter (fun la => la.st = .running)).flatMap (fun la => .tokenPass la.id :: la.dist.queues.map (fun q => .queueRefill la.id q.1))

/-- Steps of the matrix engines and the Tideway. -/
def State.matrixSteps (s : State) : List Instr :=
  (dedup (s.matrix.flatMap (·.cores))).flatMap (fun c => [.matrixQueueEntryStart c, .bandCommit c]) ++
  s.joins.map (fun j => .joinRequestArrival (.here j.id)) ++ s.contributions.map (fun c => .contributionLanding (.here c.id)) ++
  (s.chains.filter (fun c => c.isOpen)).flatMap (fun c => [.integrationEntry c.core c.slot, .chainSuspension (s.slotName c.core c.slot) .due])

/-- Steps of the batcher and of draws. -/
def State.drawSteps (s : State) : List Instr :=
  s.streams.flatMap (fun t => .batchFormation t.core :: t.batches.flatMap (fun b =>
    .batchAdmission t.core b.num :: (List.range b.elems.length).map (fun l => .bodyClaimRelease t.core b.num l))) ++
  s.prims.map (fun p => .primitiveBinning p.id) ++
  (s.launches.filter (fun la => la.st = .running && la.rcd.draw.present)).flatMap (fun la =>
    (dedup ((s.elems.filter (fun e => e.launch = la.id && e.level = la.rcd.draw.pass)).map (·.id))).map (fun e => .passResolution la.id e))

/-- Steps of the scheduler and of firmware. -/
def State.schedulerSteps (s : State) : List Instr :=
  s.groups.map (fun g => .asyncTrapDelivery g.id) ++
  (s.blocks.filter (fun b => b.st ≠ .ended)).flatMap (fun b => match b.st with
    | .admitted => [.reorderPoint b.id 0, .reorderPoint b.id 1, .reorderPoint b.id 2, .reorderPoint b.id 3, .sliceBudgetExpiry b.id, .blockSave b.id,
                    .hardStop b.id]
    | .waiting => (List.range Config.cores).map (fun c => .blockAdmission b.id c)
    | .saved => (List.range Config.cores).map (fun c => .blockRestore b.id c)
    | .ended => []) ++
  (s.elems.filter (fun e => e.st ≠ .finished)).flatMap (fun e => [.elementAdmission e.id, .elementFinish e.id]) ++
  s.endings.map (fun d => .claimEndingArrival d.id) ++ s.faults.map (fun f => .translationFaultOffer f.id)

/-- R461: the step of the command at the head of a queue. -/
def Queue.steps (q : Queue) : List Instr :=
  match q.pending with
  | [] => []
  | c :: _ => match c.opcode.toNat with
    | 0x01 => [.groupSet q.num]
    | 0x02 => [.tenantCreate q.num]
    | 0x03 => [.tenantDestroy q.num]
    | 0x04 => [.budgetSet q.num]
    | 0x05 => [.timeSet q.num]
    | 0x06 => [.fwUpdate q.num]
    | 0x10 => [.windowMap q.num]
    | 0x11 => [.windowUnmap q.num]
    | 0x12 => [.pageMap q.num]
    | 0x13 => [.faultDone q.num]
    | 0x14 => [.codeLoad q.num]
    | 0x15 => [.codeUnload q.num]
    | 0x16 => [.launchCommand q.num]
    | 0x17 => [.preemptCommand q.num]
    | 0x18 => [.resume q.num]
    | 0x19 => [.query q.num]
    | 0x1A => [.attest q.num]
    | _ => []

/-- R474: the device stops itself when a die is too hot. -/
def State.heatSteps (s : State) : List Instr := if s.stopped then [] else [.thermalShutdown]

/-- The clock after the last issue of a partition; 0 before its first. -/
def State.partIssued (s : State) (x : Nat × Nat) : Nat :=
  ((s.groups.filter (fun g => (g.core, g.part) = x)).map (fun g => g.lastIssue.elim 0 (· + 1))).foldl max 0

/-- The issue of the partitions, the one that has waited longest first. -/
def State.issueSteps (s : State) : List Instr :=
  let keyed := ((s.groups.map (fun g => (g.core, g.part))).eraseDups).map (fun x => (s.partIssued x, x))
  (sortBy (fun (a b : Nat × Nat × Nat) => decide (a.1 < b.1)) keyed).map (fun x => .partitionIssue x.2.1 x.2.2)

/-- Every step that the state has something for; the partitions stand together. -/
def State.candidates (s : State) : List (List Instr) :=
  s.issueSteps :: (s.ops.flatMap (·.steps) ++ s.engineSteps ++ s.matrixSteps ++ s.drawSteps ++ s.queues.flatMap (·.steps) ++ s.heatSteps ++
    s.schedulerSteps).map (fun i => [i])

/-- A list from a place on, and then its beginning. -/
def rotateList (k : Nat) (l : List α) : List α := l.drop (k % l.length) ++ l.take (k % l.length)

/-- The first step of a list that does not leave the state as it is. -/
def firstChange (s : State) : List Instr → Out
  | [] => .next s
  | i :: is => match exec i s with
    | .next t => if t = s then firstChange s is else .next t
    | r => r

/-- What happens where no clause is being run and the agenda is empty. -/
def State.idleStep (s : State) : Out := firstChange s (rotateList s.clock s.candidates).flatten

end Sys2Proof.Machine
end

