-- ==== Sys2Proof/Machine/Step.lean ====
section
/-!
DEFINITION. One step of the machine (assumptions 2 and 11), and a state whose next step runs a given instruction.
-/
namespace Sys2Proof.Machine

/-- R17, R412: reference clocks pass; the budgets of slices that count run down. -/
def State.tick (s : State) (n : Nat) : State :=
  { s with
    clock := s.clock + n
    blocks := s.blocks.map (fun b => if b.counting && b.st = .admitted then { b with budgetLeft := b.budgetLeft - n } else b) }

/-- What follows a step that has been taken. -/
def settled : Out → Out
  | .next s => .next s.settle.writeOut
  | r => r

/-- The next step where the agenda is empty: the next instruction of the clause in focus, which ends when its body is done. -/
def State.runNext (s : State) : Out :=
  match s.upcoming with
  | .instr gid s i => match exec i s with
    | .next s => .next (s.endClause gid)
    | r => r
  | .passed gid s => .next (s.endClause gid)
  | .idle => s.idleStep

/-- One step: the agenda's next, after its clocks; else, after one clock, the machine's own next. -/
def step (s : State) : Host.Outcome State Fault Refusal :=
  match s.agenda with
  | (dt, i) :: rest => settled (exec i ({ s with agenda := rest }.tick dt))
  | [] => settled (s.tick 1).runNext

/-- The group whose clause withFetchWord places. -/
def fetchGroup (k : Nat) (ps : List Parcel) : Group :=
  { id := k, block := k + 1, launch := k + 2, level := 0, num := 0, role := 3, width := 8, core := 0, part := 0
    lanes := (List.range 8).map (fun l =>
      { st := .free, elem := k + 3 + l, pc := 0, v := [], o := [], l := [], lValid := 0, lHidden := 0, p := 0, seed := 1
        clockHi := 0, wait := 0, info := 0, retPc := 0, restoring := false, late := [], lKept := [] })
    g := [], flags := [(0, 33)], seams := [], serial := none
    run := some { hdr := 0, cur := 8, next := 8, body := ps, curBody := ps, ft := 40, lanes := 0xFF, flagA := some 0, flagB := some 1
                  bank := 0, remA := 16, remB := 0, losers := 0, targets := [], hint := false }
    handler := none, budgetPending := false, preemptPending := false, faults := [], resumeOn := false, resume := 0, resumeAt := 0, derived := []
    bindings := [], lastIssue := none, passed := 0, passedAt := 0, yielded := false, tagErrors := [], hold := none, admitted := 0, done := false }

/-- Its elements, its block and its launch: one level, of domain GROUP, with all 256 V registers. -/
def fetchElem (k l : Nat) : Elem :=
  { id := k + 3 + l, launch := k + 2, level := 0, idx := BitVec.ofNat 32 l, parents := [], depth := 0, primId := 0, iw := []
    claims := [], count := 0, core := some 0
    emitted := 0, spawnedSame := 0, spawnedNext := 0, rets := [], st := .admitted, block := k + 1, init := [], exited := false }
def fetchBlock (k : Nat) : Block :=
  { id := k + 1, launch := k + 2, level := 0, num := 0, st := .admitted, cores := [0], members := [(List.range 8).map (k + 3 + ·)], roles := [3]
    base := [0], bound := none, admissible := 0, deadline := none, budgetLeft := 0, refilled := false
    counting := true, preemptAt := none, addressed := 0, saved := none, kidsDie := none }
def fetchRec : LaunchRec :=
  { levels := { Level.absent with present := true, domain := 5, count := 8 } :: List.replicate 7 Level.absent
    entries := List.replicate 8 0, roles := false, roleLevel := 0, roleEntries := [], heldMap := List.replicate 512 15, shelf := [], tiles := []
    work := { count := 0, first := 0, depth := 0, dynamic := false }
    draw := { present := false, x0 := 0, y0 := 0, width := 0, height := 0, clear := 0, home := 0, pass := 0, coarse := 0, samples := 1
              capacity := 0 }
    handlers := List.replicate 8 0, restores := List.replicate 8 0, roots := [], pool := [], deadline := 0, budget := 0, seed := 0
    scratch := 1, tagBase := 0, tagCount := 64, derived := 0, spread := false, budgets := List.replicate 8 32 }
def fetchLaunch (k : Nat) : Launch :=
  { id := k + 2, tenant := 0, queue := 1, tag := 0, opcode := 0x16, code := 0, link := 0, rcd := fetchRec, preds := [], hinted := false
    st := .running, endWord := 0, normal := false, preempted := false
    dist := { spill := [], handed := 0, sequence := 0, queues := [(0, [])], black := [], token := 0, tokenBlack := false, circulating := false
              declared := false }
    depths := [], ids := [], passes := [], blockSeq := 1, die := none, areas := [] }

/-- The state with an instruction placed where the next step fetches: as the clause in focus of a group of its own (assumption 15). -/
def State.withFetchWord (s : State) (nbits w : Nat) : State :=
  let k := s.nextId
  { s with
    agenda := [], focus := some k, nextId := k + 11
    groups := s.groups ++ [fetchGroup k (parcelsOfNat 16 (w % 2 ^ nbits))]
    blocks := s.blocks ++ [fetchBlock k]
    elems := s.elems ++ (List.range 8).map (fetchElem k)
    launches := s.launches ++ [fetchLaunch k] }

end Sys2Proof.Machine
end

