-- ==== Sys2Proof/Safety.lean ====
section
/-!
DEFINITION. What a run that is safe means: no fault of the model's, and memory in its canonical form.
-/
namespace Sys2Proof.Machine

/-- The memory of a state is in its canonical form. -/
def State.memoryOk (s : State) : Prop := Memory.wf s.mem = true

/-- A run of `n` steps that ends in a state, and so meets no stop. -/
def State.runsTo (s : State) (n : Nat) (t : State) : Prop := Host.Core.run Sys2Proof.core n s = .next t

end Sys2Proof.Machine
end

