-- ==== Sys2Proof/Certificates/Slice0/Obligations.lean ====
section
/-!
DEFINITION. The statements for the provers, from the numbered rules of the spec. Before them stand the words that they share: when an encoded
instruction runs, what one that writes registers answers, what a frame is. `op.instr` is the constructor of Instr that bears the name of the
opcode `op`.
-/
namespace Sys2Proof.Machine

/-! ### When an encoded instruction runs -/

/-- R26, R76: the full word of opcode `op` with fields `f` runs on the lanes X = `e.x` of the environment: X is not empty, and no check of R76
that rests on the state stops it. `runs` are the V registers that it names beside those of its specifiers (the statement GuardsAndChecksDecide says
what `preCheck` stops on). -/
structure Runs (op : Op) (f : Form) (runs : Env → List (Nat × Nat)) (s : State) (e : Env) : Prop where
  env : s.env f.guard = some e
  some : e.x ≠ 0
  clear : s.preCheck e op f (runs e) = none

/-- Every register is named by a specifier. -/
def noRuns : Form → Env → List (Nat × Nat) := fun _ _ => []

/-- An encoded instruction completes: where it runs and `cond` holds, it answers the state `eff`, retired (R17, R23, R278). -/
def Does (op : Op) (runs : Form → Env → List (Nat × Nat)) (cond : Form → State → Env → Prop) (eff : Form → State → Env → State) : Prop :=
  ∀ f s e, Runs op f (runs f) s e → cond f s e → exec (op.instr f) s = .next ((eff f s e).retire e op f)

/-- Nothing further is asked. -/
def always : Form → State → Env → Prop := fun _ _ _ => True

/-- A register-writing instruction: its opcode, and the words that a lane of X gets in the successive registers of its destination. -/
structure Row where
  op : Op
  res : Form → State → Env → Nat → Lane → LaneRes

/-- It writes those words, all lanes reading before any writes (R31). -/
def Row.gives (r : Row) : Prop :=
  Does r.op noRuns always (fun f s e => s.writeRegs e.gid (e.writes f (r.res f s e)))

/-- A long-latency one: it issues, and the words, computed at issue, are written where the lane completes (R25). -/
def Row.givesLater (r : Row) : Prop :=
  Does r.op noRuns always (fun f s e => (s.addOp e f .completed (fun l ln => (.ready, (r.res f s e l ln).writes f))).2)

/-! ### Values, as the tables of chapters 04 and 05 give them -/

/-- X(a), the value of source a that class IU reads (R82). -/
def valA (f : Form) (s : State) (e : Env) (l : Nat) (ln : Lane) : Int := intX (iuU f.mod) (s.src e .int l ln f.a)
/-- X(b) of a two-source instruction: the immediate where IMM is set (R80). -/
def valB (f : Form) (s : State) (e : Env) (l : Nat) (ln : Lane) : Int := intX (iuU f.mod) (s.srcB e .int (iuU f.mod) f l ln)
/-- X(b) of a three-source instruction. -/
def valB3 (f : Form) (s : State) (e : Env) (l : Nat) (ln : Lane) : Int := intX (iuU f.mod) (s.src e .int l ln f.b)
/-- X(c) of a three-source instruction: the immediate where IMM is set (R80). -/
def valC (f : Form) (s : State) (e : Env) (l : Nat) (ln : Lane) : Int := intX (iuU f.mod) (s.srcC e .int (iuU f.mod) f l ln)

/-- An exact value in n bits: modulo 2^n, or with .SAT the nearest value that n bits hold, signed or, under .U, unsigned (R34). -/
def inBits (n : Nat) (f : Form) (x : Int) : BitVec n :=
  let lo : Int := if iuU f.mod then 0 else -(2 ^ (n - 1) : Nat)
  let hi : Int := if iuU f.mod then (2 ^ n : Nat) - 1 else (2 ^ (n - 1) : Nat) - 1
  BitVec.ofInt n (if iuVar f.mod = 1 then max lo (min x hi) else x)

/-- A 64-bit value as the two registers of a pair, the low word first (R13). -/
def pairOf (x : DWord) : LaneRes := .of [x.extractLsb' 0 32, x.extractLsb' 32 32]

/-- One word. -/
def wordOf (x : Word) : LaneRes := .of [x]

/-- A truth value as the predicate that is written. -/
def truthOf (b : Bool) : LaneRes := .of [if b then 1 else 0]

/-- R82, R83, R85 to R92: the integer, logic and move instructions of fixed latency. -/
def integerRows : List Row :=
  [ { op := .iadd, res := fun f s e l ln => wordOf (inBits 32 f (valA f s e l ln + valB f s e l ln)) },
    { op := .isub, res := fun f s e l ln => wordOf (inBits 32 f (valA f s e l ln - valB f s e l ln)) },
    { op := .imul, res := fun f s e l ln => wordOf (inBits 32 f (valA f s e l ln * valB f s e l ln)) },
    { op := .imad, res := fun f s e l ln => wordOf (inBits 32 f (valA f s e l ln * valB3 f s e l ln + valC f s e l ln)) },
    { op := .imin, res := fun f s e l ln => wordOf (inBits 32 f (min (valA f s e l ln) (valB f s e l ln))) },
    { op := .imax, res := fun f s e l ln => wordOf (inBits 32 f (max (valA f s e l ln) (valB f s e l ln))) },
    { op := .iadd64, res := fun f s e l ln =>
        pairOf (inBits 64 f (intX64 (iuU f.mod) (s.pair e l ln f.a) + intX64 (iuU f.mod) (s.pairB e (iuU f.mod) f l ln))) },
    { op := .isub64, res := fun f s e l ln =>
        pairOf (inBits 64 f (intX64 (iuU f.mod) (s.pair e l ln f.a) - intX64 (iuU f.mod) (s.pairB e (iuU f.mod) f l ln))) },
    { op := .imad64, res := fun f s e l ln =>
        pairOf (BitVec.ofInt 64 (intX64 (iuU f.mod) (s.pair e l ln f.a) * valB3 f s e l ln + intX64 (iuU f.mod) (s.pairC e (iuU f.mod) f l ln))) },
    { op := .imadw, res := fun f s e l ln => pairOf (BitVec.ofInt 64 (valA f s e l ln * valB3 f s e l ln + valC f s e l ln)) },
    { op := .imulh, res := fun f s e l ln =>
        wordOf ((BitVec.ofInt 64 (if iuVar f.mod = 1 then (s.src e .int l ln f.a).toInt * (s.srcB e .int (iuU f.mod) f l ln).toNat
          else valA f s e l ln * valB f s e l ln)).extractLsb' 32 32) },
    { op := .iabs, res := fun f s e l ln =>
        wordOf (BitVec.ofInt 32 (if iuVar f.mod = 1 then min |(s.src e .int l ln f.a).toInt| (2 ^ 31 - 1) else |(s.src e .int l ln f.a).toInt|)) } ]

/-- R85 to R92: logic, shifts, bit fields, comparison, selection and moves. -/
def logicRows : List Row :=
  [ { op := .lut3, res := fun f s e l ln =>
        wordOf (lut3 (lutTable f) (s.src e .int l ln f.a) (s.src e .int l ln f.b)
          (if f.c.uimm.testBit 5 then e.g.g.get (f.c.uimm % 32) else ln.v.get (f.c.uimm % 32))) },
    { op := .plut3, res := fun f _ _ _ ln =>
        truthOf ((lutTable f).getLsbD ((ln.psrc f.a).toNat + 2 * (ln.psrc f.b).toNat + 4 * (ln.pred (f.c.uimm % 8)).toNat)) },
    { op := .shl, res := fun f s e l ln => wordOf (s.src e .int l ln f.a <<< shiftCount f (s.srcB e .int true f l ln)) },
    { op := .shr, res := fun f s e l ln => wordOf (s.src e .int l ln f.a >>> shiftCount f (s.srcB e .int true f l ln)) },
    { op := .sar, res := fun f s e l ln => wordOf ((s.src e .int l ln f.a).sshiftRight (shiftCount f (s.srcB e .int true f l ln))) },
    { op := .shf, res := fun f s e l ln =>
        wordOf (funnel (iuVar f.mod) (s.src e .int l ln f.a) (s.src e .int l ln f.b) (s.srcC e .int true f l ln).toNat) },
    { op := .bfe, res := fun f s e l ln => wordOf (bfe (iuU f.mod) (s.src e .int l ln f.a) (s.srcB e .int true f l ln)) },
    { op := .bfi, res := fun f s e l ln => wordOf (bfi (s.src e .int l ln f.a) (s.src e .int l ln f.b) (s.srcC e .int true f l ln)) },
    { op := .popc, res := fun f s e l ln => wordOf (BitVec.ofNat 32 ((List.range 32).countP (fun i => (s.src e .int l ln f.a).getLsbD i))) },
    { op := .clz, res := fun f s e l ln =>
        wordOf (BitVec.ofNat 32 (((List.range 32).find? (fun i => (s.src e .int l ln f.a).getLsbD (31 - i))).getD 32)) },
    { op := .brev, res := fun f s e l ln => wordOf (s.src e .int l ln f.a).reverse },
    { op := .findlsb, res := fun f s e l ln =>
        wordOf (((List.range 32).find? (fun i => (s.src e .int l ln f.a).getLsbD i)).elim 0xFFFFFFFF (BitVec.ofNat 32 ·)) },
    { op := .icmp, res := fun f s e l ln =>
        let x := intX (f.mod.getLsbD 0) (s.src e .int l ln f.a)
        let y := intX (f.mod.getLsbD 0) (s.src e .int l ln f.b)
        truthOf ((match f.mod.toNat / 2 with
          | 0 => decide (x = y)
          | 1 => decide (x ≠ y)
          | 2 => decide (x < y)
          | 3 => decide (x ≤ y)
          | 4 => decide (y < x)
          | _ => decide (y ≤ x)) && ln.psrc f.c) },
    { op := .isel, res := fun f s e l ln =>
        let o := if ln.psrc f.c then f.a else f.b
        if f.mod = 1 then pairOf (s.pair e l ln o) else wordOf (s.src e .int l ln o) },
    { op := .mov, res := fun f s e l ln => wordOf (s.src e .int l ln f.a) },
    { op := .movi, res := fun f _ _ _ _ => wordOf (if iuU f.mod then BitVec.ofNat 32 f.c.uimm else BitVec.ofInt 32 f.c.simm) },
    { op := .movl, res := fun f s e l ln => wordOf (s.src e .int l ln f.b) },
    { op := .movs, res := fun f s e l ln => wordOf (s.src e .int l ln f.a) } ]

/-- R104 to R109, R112 to R116: floating point of fixed latency. -/
def floatRows : List Row :=
  [ { op := .fadd, res := fun f s e l ln => wordOf (Fp.add (frMode f) (s.src e .fp l ln f.a) (s.srcB e .fp false f l ln)) },
    { op := .fsub, res := fun f s e l ln => wordOf (Fp.sub (frMode f) (s.src e .fp l ln f.a) (s.srcB e .fp false f l ln)) },
    { op := .fmul, res := fun f s e l ln => wordOf (Fp.mul (frMode f) (s.src e .fp l ln f.a) (s.srcB e .fp false f l ln)) },
    { op := .ffma, res := fun f s e l ln =>
        wordOf (Fp.fma (frMode f) (s.src e .fp l ln f.a) (s.src e .fp l ln f.b) (s.srcC e .fp false f l ln)) },
    { op := .fmin, res := fun f s e l ln => wordOf (Fp.min (s.src e .fp l ln f.a) (s.srcB e .fp false f l ln)) },
    { op := .fmax, res := fun f s e l ln => wordOf (Fp.max (s.src e .fp l ln f.a) (s.srcB e .fp false f l ln)) },
    { op := .fcmp, res := fun f s e l ln =>
        truthOf (Fp.cmp (f.mod.toNat / 2) (f.mod.getLsbD 0) (s.src e .fp l ln f.a) (s.src e .fp l ln f.b) && ln.psrc f.c) },
    { op := .frnd, res := fun f s e l ln => wordOf (Fp.roundInt (frMode f) (s.src e .fp l ln f.a)) },
    { op := .fclass, res := fun f s e l ln =>
        if f.mod = 0 then truthOf (Fp.fclass (s.src e .fp l ln f.a) &&& f.c.uimm ≠ 0)
        else wordOf (BitVec.ofNat 32 (Fp.fclass (s.src e .fp l ln f.a))) },
    { op := .fscale, res := fun f s e l ln => wordOf (Fp.scale (frMode f) (s.src e .fp l ln f.a) (s.srcB e .int false f l ln)) },
    { op := .f2sum, res := fun f s e l ln => .two (Fp.twoSum (s.src e .fp l ln f.a) (s.srcB e .fp false f l ln)) },
    { op := .f2prd, res := fun f s e l ln => .two (Fp.twoProd (s.src e .fp l ln f.a) (s.srcB e .fp false f l ln)) },
    { op := .hadd2, res := packedOp 0 },
    { op := .hmul2, res := packedOp 1 },
    { op := .hfma2, res := packedOp 2 },
    { op := .fdot2, res := fun f s e l ln =>
        wordOf (Fp.dot2 (decide (f.mod = 0)) (s.src e (.half (decide (f.mod = 0))) l ln f.a) (s.src e (.half (decide (f.mod = 0))) l ln f.b)
          (s.src e .fp l ln f.c)) },
    { op := .idot4, res := fun f s e l ln =>
        wordOf (Fp.idot4 f.mod.toNat (s.src e .int l ln f.a) (s.src e .int l ln f.b) (s.src e .int l ln f.c)) },
    { op := .cadd, res := fun f s => complexTwo f s Fp.cadd },
    { op := .cmul, res := fun f s => complexTwo f s Fp.cmul },
    { op := .ccmul, res := fun f s => complexTwo f s Fp.ccmul },
    { op := .cfma, res := fun f s e l ln =>
        .two (Fp.cfma (s.complex e l ln f.a).1 (s.complex e l ln f.a).2 (s.complex e l ln f.b).1 (s.complex e l ln f.b).2
          (s.complex e l ln f.c).1 (s.complex e l ln f.c).2) },
    { op := .cabs2, res := fun f s e l ln => wordOf (Fp.cabs2 (s.complex e l ln f.a).1 (s.complex e l ln f.a).2) } ]

/-- The low bits of `w` successive registers of source a, as one number. -/
def streamA (f : Form) (s : State) (e : Env) (l : Nat) (ln : Lane) (w : Nat) : Nat :=
  (List.range w).foldl (fun x k => x + (s.srcAt e .int l ln k f.a).toNat * 2 ^ (32 * k)) 0

/-- R117 to R121: conversions; under RS they move %seed on (R49). -/
def convertRows : List Row :=
  [ { op := .cvt, res := fun f s e l ln =>
        let c := typeField f
        let r := Fp.cvt (typeTo c) (typeFrom c) f.mod.toNat (s.src e (convView (typeFrom c)) l ln f.a) ln.seed
        { words := [r.1], seed := if f.mod.toNat = 4 then some r.2 else none } },
    { op := .cvti, res := fun f s e l ln =>
        let c := typeField f
        let a : DWord := if typeFrom c = 14 then s.pair e l ln f.a else (s.src e (convView (typeFrom c)) l ln f.a).setWidth 64
        let r := Fp.cvti (typeTo c) (typeFrom c) (typeU c) (typeSat c) f.mod.toNat a ln.seed
        { words := if typeTo c = 14 then [loWord r.1, hiWord r.1] else [loWord r.1], seed := if f.mod.toNat = 4 then some r.2 else none } },
    { op := .packn, res := fun f s e l ln =>
        let t := typeTo (typeField f)
        let nw := (packShape t).getD (0, 0)
        let r := Fp.packElems t f.mod.toNat ((s.src e .int l ln f.b).toNat % 256) ((List.range nw.1).map (fun k => s.srcAt e .int l ln k f.a)) ln.seed
        { words := Fp.streamWords nw.2 (packStream (elemBits t) r.1), seed := if f.mod.toNat = 4 then some r.2 else none } },
    { op := .unpackn, res := fun f s e l ln =>
        let t := typeTo (typeField f)
        let nw := (packShape t).getD (0, 0)
        let codes := (List.range nw.1).map (fun k => streamA f s e l ln nw.2 / 2 ^ (elemBits t * k) % 2 ^ elemBits t)
        let r := Fp.unpackElems t f.mod.toNat ((s.src e .int l ln f.b).toNat % 256) codes ln.seed
        { words := r.1, seed := if f.mod.toNat = 4 then some r.2 else none } } ]

/-- R277, R428: the two other instructions of fixed latency that read and write without a check of their own. -/
def readRows : List Row :=
  [ { op := .layinfo, res := fun f _ e _ _ => wordOf (layInfoWord (e.layout (layC f)) f.mod.toNat) },
    { op := .budgetRead, res := fun f s e _ _ => wordOf (s.budgetValue e f.mod.toNat) } ]

/-- Every row of fixed latency. -/
def fixedRows : List Row := integerRows ++ logicRows ++ floatRows ++ convertRows ++ readRows

/-- R83, R104, R110, R125: the long-latency arithmetic. -/
def slowRows : List Row :=
  [ { op := .idiv, res := fun f s e l ln => wordOf (divRem (iuU f.mod) (s.src e .int l ln f.a) (s.srcB e .int (iuU f.mod) f l ln)).1 },
    { op := .irem, res := fun f s e l ln => wordOf (divRem (iuU f.mod) (s.src e .int l ln f.a) (s.srcB e .int (iuU f.mod) f l ln)).2 },
    { op := .frcp, res := fun f s e l ln => wordOf (Fp.rcp (frMode f) (s.src e .fp l ln f.a)) },
    { op := .frsq, res := fun f s e l ln => wordOf (Fp.rsqrt (frMode f) (s.src e .fp l ln f.a)) },
    { op := .fsqrt, res := fun f s e l ln => wordOf (Fp.sqrt (frMode f) (s.src e .fp l ln f.a)) },
    { op := .fdiv, res := fun f s e l ln => wordOf (Fp.div (frMode f) (s.src e .fp l ln f.a) (s.srcB e .fp false f l ln)) },
    { op := .fex2, res := fun f s e l ln => wordOf (Fp.w (Trans.exp2 (s.src e .fp l ln f.a))) },
    { op := .flg2, res := fun f s e l ln => wordOf (Fp.w (Trans.log2 (s.src e .fp l ln f.a))) },
    { op := .fsin, res := fun f s e l ln => wordOf (Fp.w (Trans.sin (s.src e .fp l ln f.a))) },
    { op := .fcos, res := fun f s e l ln => wordOf (Fp.w (Trans.cos (s.src e .fp l ln f.a))) },
    { op := .cexpi, res := fun f s e l ln => .two (Fp.w (Trans.cos (s.src e .fp l ln f.a)), Fp.w (Trans.sin (s.src e .fp l ln f.a))) } ]

/-! ### Control and lanes -/

/-- The target offsets of a transfer, exact (R31), are headers of the clause's level, in the launch's code (R94). -/
def targetsGood (s : State) (e : Env) (target : Nat → Lane → Int) : Prop :=
  ∃ c, s.codeOf e = some c ∧ ∀ x ∈ e.lanes, 0 ≤ target x.1 x.2 ∧ s.targetAt c (target x.1 x.2).toNat = .header e.g.level

/-- Each lane of X is to leave the clause for its target. -/
def sendLanes (s : State) (e : Env) (target : Nat → Lane → Int) : State :=
  s.updGroup e.gid (fun g => { g with run := g.run.map (fun r =>
    { r with targets := e.lanes.map (fun x => (x.1, (target x.1 x.2).toNat)) ++ r.targets }) })

/-- Every lane of X gets the same words. -/
def giveAll (s : State) (e : Env) (f : Form) (ws : List Word) : State := s.writeRegs e.gid (e.writes f (fun _ _ => .of ws))

/-- The membership mask of a collective names exactly the lanes of X (R203, R204). -/
def maskGood (f : Form) (s : State) (e : Env) : Prop :=
  e.x &&& ~~~e.g.allLanes = 0 ∧ ∀ c ∈ e.lanes, s.maskOpnd e c.1 c.2 f.b = e.x

/-- A collective: every lane of X gets its words. -/
def collects (op : Op) (res : Form → State → Env → Nat → Lane → LaneRes) : Prop :=
  Does op noRuns maskGood (fun f s e => s.writeRegs e.gid (e.writes f (res f s e)))

/-- A seam instruction is not stopped by a serial region (R201), nor by a load of the seams that it names (R219). -/
def seamFree (s : State) (e : Env) (ns : List Nat) : Prop := e.serialLane = false ∧ ∀ n ∈ ns, s.seamBusy e.gid n = false

/-- An instruction issues, and each lane of X completes with nothing to write. -/
def issues (s : State) (e : Env) (f : Form) (fate : Fate) (cond : Nat → Lane → Cond) : State :=
  (s.addOp e f fate (fun l ln => (cond l ln, []))).2

/-! ### Memory instructions -/

/-- R178: the lanes of X whose children's depths do not pass 8: each with its element and its child. -/
def spawnBirths (s : State) (e : Env) (f : Form) (same : Bool) : List (Nat × Nat × Birth) :=
  e.lanes.filterMap (fun c => (s.laneElem c.2).bind (fun el =>
    if childDepth same el ≤ 8 then
      some (c.1, el.id, { idx := BitVec.ofNat 32 (el.spawned same), parents := [el.id], depth := childDepth same el, primId := 0, iw := []
                          init := (List.range 4).map (fun k => (k, s.srcAt e .int c.1 c.2 k f.a)), claims := none })
    else none))

/-- The register number of a destination. -/
def Dst.index : Dst → Nat
  | .g i => i.toNat
  | .v i => i.toNat
  | _ => 0

/-- R281, R282. One lane's copy: its destination gets the bytes that its source then has, zeros where .Z reads none, nothing where the source is
uncorrectable. -/
def moved (s : State) (c : LaneCopy) : State :=
  match c.src with
  | .bytes as => s.storeCells (c.dst.zip (s.bytes as))
  | .zeros => s.storeCells (c.dst.map (fun a => (a, 0)))
  | .error => s

/-- Every check passes. -/
def allGood (cs : List (Nat × Nat × Chk)) : Prop := ∀ c ∈ cs, c.2.2.good = true

/-- R236, R278: the lanes of X in ascending order, each with its access: the state after all of them, and what each lane is to write at
completion. `act` performs one lane at the addresses that its access found. -/
def inLaneOrder (s : State) (e : Env) (cs : List (Nat × Nat × Chk)) (act : State → Nat → Lane → List Nat → State × List (RegRef × Word)) :
    State × List (Nat × List (RegRef × Word)) :=
  e.lanes.foldl (fun (acc : State × List (Nat × List (RegRef × Word))) c =>
    match chkOf cs c.1 with
    | .ok as => ((act acc.1 c.1 c.2 as).1, acc.2 ++ [(c.1, (act acc.1 c.1 c.2 as).2)])
    | _ => (acc.1, acc.2 ++ [(c.1, [])])) (s, [])

/-- The instruction issues with what its lanes are to write. -/
def issuesWith (s : State) (e : Env) (f : Form) (ws : List (Nat × List (RegRef × Word))) : State :=
  (s.addOp e f .completed (fun l _ => (.ready, ((ws.find? (fun w => w.1 = l)).map (·.2)).getD []))).2

/-- The old value and the new one of an atomic on a lane (R271). -/
def atomStep (f : Form) (wide : Bool) (ln : Lane) (m : Nat) : Nat :=
  let n := if wide then 64 else 32
  atomNew n f.mod.toNat m (if f.mod.toNat = 9 then inPlace f wide ln (if wide then 2 else 1) else inPlace f wide ln 0) (inPlace f wide ln 0)

/-- Operand b of RED on a lane (R272): an immediate of .FADD, .FMIN and .FMAX stands for an FP32 number (R65). -/
def addend (f : Form) (s : State) (e : Env) (l : Nat) (ln : Lane) : Nat :=
  if ordD (BitVec.ofNat 10 f.dst.uimm) then (s.pair e l ln f.b).toNat
  else (s.src e (if f.mod.toNat < 10 then .int else .fp) l ln f.b).toNat

/-- R17. What the special registers read on lane `l` of a group, of this launch, block and element, by their index: %lane, %width, %group, %block, %level,
%elem.0 to %elem.7, %core, %reef, %die, %device, %clock, %clockhi, %seed, %tags, %tagshi, %flags, %part, the five of the trap being handled, %budget, %ltop,
%codeobj. -/
def SpecialsRead (s : State) (g : Group) (l : Nat) (ln : Lane) (la : Launch) (b : Block) (el : Elem) : Prop :=
  let r := s.special g l ln
  r 0 = BitVec.ofNat 32 l ∧ r 1 = BitVec.ofNat 32 g.width ∧
  r 2 = (if (la.rcd.level g.level).domain ≤ 1 then 0 else BitVec.ofNat 32 g.num) ∧ r 3 = b.num ∧ r 4 = BitVec.ofNat 32 g.level ∧
  (∀ m < 8, (el.level < m → r (5 + m) = 0xFFFFFFFF) ∧ (m = el.level → r (5 + m) = el.idx) ∧
    (∀ p q, el.level = m + 1 → el.parents.head? = some p → s.elem? p = some q → q.level = m → r (5 + m) = q.idx)) ∧
  r 13 = BitVec.ofNat 32 g.core ∧ r 14 = BitVec.ofNat 32 (g.core % 24 / 4) ∧ r 15 = BitVec.ofNat 32 (g.core / 24) ∧ r 16 = BitVec.ofNat 32 s.device ∧
  r 17 = BitVec.ofNat 32 s.clock ∧ r 18 = ln.clockHi ∧ r 19 = ln.seed ∧
  (∀ t < 64, (if t < 32 then (r 20).getLsbD t else (r 21).getLsbD (t - 32)) =
    (decide (la.rcd.tagBase ≤ t ∧ t < la.rcd.tagBase + la.rcd.tagCount) && decide (s.tagCounts.get (64 * g.core + t) = 0))) ∧
  (∀ i < 32, (r 22).getLsbD i = (decide (i < 12) && decide (g.flag i ≠ 0))) ∧ r 23 = BitVec.ofNat 32 g.part ∧
  (g.handler = none → ∀ i, 24 ≤ i → i ≤ 28 → r i = 0) ∧
  (∀ h, g.handler = some h → r 24 = h.cause.setWidth 32 ∧ r 25 = BitVec.ofNat 32 h.pc ∧ r 26 = ln.info ∧ r 28 ++ r 27 = h.trapLanes) ∧
  r 29 = (if la.rcd.budget = 0 then 0xFFFFFFFF else BitVec.ofNat 32 (min b.budgetLeft 0xFFFFFFFF)) ∧
  r 30 = BitVec.ofNat 32 (la.rcd.levels.filter (·.present)).length ∧
  (∀ i < 4, (s.dict.get (4 * g.core + i)).toNat = la.code + 1 → (∀ j < i, (s.dict.get (4 * g.core + j)).toNat ≠ la.code + 1) → r 31 = BitVec.ofNat 32 i)

end Sys2Proof.Machine

open Sys2Proof Sys2Proof.Machine

/-! ### Completion: arithmetic -/

/-- R82. IADD, ISUB, IMUL, IMAD, IMIN, IMAX, IADD64, ISUB64, IMAD64, IMADW, IMULH, IABS. -/
def Obligations.IntegerResults : Prop := ∀ r ∈ integerRows, r.gives

/-- R17, R85 to R92, R153. LUT3, PLUT3, SHL, SHR, SAR, SHF, BFE, BFI, POPC, CLZ, BREV, FINDLSB, ICMP, ISEL, MOV, MOVI, MOVL, MOVS. MOVS, like every
instruction that names a special register as a source, reads what R17's table says of it, index by index, and an instruction that names an index from 32 to 63 is
not well formed. -/
def Obligations.LogicAndMoveResults : Prop :=
  (∀ r ∈ logicRows, r.gives) ∧
  (∀ (s : State) (e : Env) v l (ln : Lane) i, s.src e v l ln (.sr i) = s.special e.g l ln i.toNat) ∧
  (∀ (s : State) (g : Group) l (ln : Lane) (la : Launch) (b : Block) (el : Elem), s.launch? g.launch = some la → s.block? g.block = some b →
    s.elem? ln.elem = some el → SpecialsRead s g l ln la b el) ∧
  (∀ i op f (k : BitVec 6), parts i = some (op, f) → 32 ≤ k.toNat → (f.a = .sr k ∨ f.b = .sr k ∨ f.c = .sr k) → i.wf = false)

/-- R104 to R109, R112 to R116, R125. FADD, FSUB, FMUL, FFMA, FMIN, FMAX, FCMP, FRND, FCLASS, FSCALE, F2SUM, F2PRD, HADD2, HMUL2, HFMA2, FDOT2,
IDOT4, CADD, CMUL, CCMUL, CFMA, CABS2. That FCLASS reads an 8-bit immediate as the FP32 number it denotes is log entry 66's choice. -/
def Obligations.FloatResults : Prop := ∀ r ∈ floatRows, r.gives

/-- R117 to R121, R277, R428. CVT, CVTI, PACKN, UNPACKN, LAYINFO, BUDGET.READ. -/
def Obligations.ConversionAndReadResults : Prop := ∀ r ∈ convertRows ++ readRows, r.gives

/-- R25, R83, R104, R110, R125. IDIV, IREM, FRCP, FRSQ, FSQRT, FDIV, FEX2, FLG2, FSIN, FCOS, CEXPI issue with their results. -/
def Obligations.SlowArithmeticIssues : Prop := ∀ r ∈ slowRows, r.givesLater

/-! ### Completion: control -/

/-- R95 to R97, R99. BRA, BRAI, RET, CALL, CALLI send every lane of X to its target, where it is a header of the clause's level; CALL and CALLI write
the fall-through offset. NOP does nothing; YIELD leaves its hint with the clause (R20). -/
def Obligations.TransfersSendLanes : Prop :=
  Does .bra noRuns (fun f s e => targetsGood s e (fun _ _ => nearFar e f)) (fun f s e => sendLanes s e (fun _ _ => nearFar e f)) ∧
  Does .brai noRuns (fun f s e => targetsGood s e (aTarget s e f)) (fun f s e => sendLanes s e (aTarget s e f)) ∧
  Does .ret noRuns (fun f s e => targetsGood s e (aTarget s e f)) (fun f s e => sendLanes s e (aTarget s e f)) ∧
  Does .call noRuns (fun f s e => targetsGood s e (fun _ _ => nearFar e f))
    (fun f s e => sendLanes (giveAll s e f [BitVec.ofNat 32 e.r.ft]) e (fun _ _ => nearFar e f)) ∧
  Does .calli noRuns (fun f s e => targetsGood s e (aTarget s e f))
    (fun f s e => sendLanes (giveAll s e f [BitVec.ofNat 32 e.r.ft]) e (aTarget s e f)) ∧
  Does .nop noRuns always (fun _ s _ => s) ∧
  Does .yield noRuns always (fun _ s e => s.updGroup e.gid (fun g => { g with run := g.run.map (fun r => { r with hint := true }) }))

/-- R93. MOVG writes source a of the lowest (.FIRST) or the highest (.LAST) lane of X to a G register; R98. EXIT ends the lanes of X, whose elements
have exited with the count of children that they hold (R149), and quits their seams, where no child count is too great and no lane is left waiting at
a seam for ever. -/
def Obligations.MovgAndExit : Prop :=
  Does .movg noRuns (fun f _ _ => ∃ i, f.dst = .g i) (fun f s e =>
    let x := (if f.mod = 0 then e.lanes.head? else e.lanes.getLast?).elim 0 (fun c => s.src e .int c.1 c.2 f.a)
    s.updGroup e.gid (fun g => { g with g := g.g.set (Dst.index f.dst) x })) ∧
  Does .exit noRuns (fun _ s e =>
      seamFree s e (List.range 12) ∧ (e.g.exitLanes e.x).orphaned = false ∧
      ∀ c ∈ e.lanes, ∀ el, s.elem? c.2.elem = some el →
        let n := e.g.level + 1
        let k := s.countOf e.rcd el
        (e.rcd.level n).present = true → (e.rcd.level n).gen = 0 → (e.rcd.level n).countSrc = true → k ≠ 0 →
          k ≤ domainLimit (e.rcd.level n).domain (e.rcd.level n).width ∧ e.rcd.fits n (e.rcd.groupsOf n k) = true)
    (fun _ s e => { s.updGroup e.gid (·.exitLanes e.x) with
      elems := s.elems.map (fun el => if (e.lanes.map (fun c => c.2.elem)).contains el.id then
        { el with exited := true, count := (s.updGroup e.gid (·.exitLanes e.x)).countOf e.rcd el } else el) })

/-- R209 to R212. VOTE, SHFL, REDUX and SCAN on the lanes that their mask names. -/
def Obligations.CollectiveResults : Prop :=
  collects .vote (fun f _ e _ _ =>
    let yes := e.where_ (fun _ ln => ln.psrc f.a)
    match f.mod.toNat with
    | 0 => truthOf (yes ≠ 0)
    | 1 => truthOf (yes = e.x)
    | 2 => wordOf (yes.extractLsb' 0 32)
    | _ => pairOf yes) ∧
  collects .shfl (fun f s e l ln =>
    let j := shflLane (f.mod.toNat % 4) l (s.src e .int l ln f.c).toNat
    let from_ := if 0 ≤ j ∧ j < e.g.width ∧ e.x.getLsbD j.toNat then j.toNat else l
    let src := if 0 ≤ j ∧ j < e.g.width ∧ e.x.getLsbD j.toNat then (e.g.lane? j.toNat).getD ln else ln
    if f.mod.toNat ≥ 4 then pairOf (s.pair e from_ src f.a) else wordOf (s.src e .int from_ src f.a)) ∧
  collects .redux (fun f s e _ _ =>
    wordOf ((treeReduce (reduxOp f.mod.toNat).1 (treeDepth e.g.width) (treeInit s e f f.mod.toNat)).headD 0)) ∧
  collects .scan (fun f s e l ln =>
    let c := scanCode (f.mod.toNat % 8)
    let ex := (scanDown (reduxOp c).1 (treeDepth e.g.width) (treeInit s e f c) (reduxOp c).2).getD l 0
    wordOf (if f.mod.getLsbD 3 then (reduxOp c).1 ex (s.src e (reduxView c) l ln f.a) else ex))

/-- R190 to R193, R214, R216. SEAM.JOIN, SEAM.QUIT, SEAM.QUITM, SEAM.WAIT and SEAM.READ on a seam with no load outstanding.
R217, R218. SEAM.STORE stores the image at the lowest lane's coordinates; SEAM.LOAD reads one there, which its lowest lane applies at completion. That
both perform their access as they issue is log entry 3's reading. -/
def Obligations.SeamOperations : Prop :=
  Does .seamJoin noRuns (fun f s e => seamFree s e [f.mod.toNat]) (fun f s e =>
    s.updGroup e.gid (fun g => g.setSeam f.mod.toNat (g.members f.mod.toNat ||| e.x) (g.arrivedMask f.mod.toNat))) ∧
  Does .seamQuit noRuns (fun f s e => seamFree s e [f.mod.toNat]) (fun f s e => s.updGroup e.gid (·.quit f.mod.toNat e.x)) ∧
  Does .seamQuitm noRuns (fun _ s e => seamFree s e (List.range 12)) (fun f s e =>
    s.updGroup e.gid (fun g => (List.range 12).foldl (fun g n => g.quit n (e.where_ (fun l ln => (s.src e .int l ln f.b).getLsbD n))) g)) ∧
  Does .seamWait noRuns (fun f s e =>
      seamFree s e [f.mod.toNat] ∧ e.x &&& ~~~e.g.members f.mod.toNat = 0 ∧ (e.g.arrive f.mod.toNat e.x e.r.ft).orphaned = false)
    (fun f s e => s.updGroup e.gid (·.arrive f.mod.toNat e.x e.r.ft)) ∧
  Does .seamRead noRuns (fun f s e => seamFree s e [f.mod.toNat]) (fun f s e =>
    giveAll s e f ((List.range 4).map (fun k => (e.g.seams.get f.mod.toNat).extractLsb' (32 * k) 32))) ∧
  Does .seamStore coordRun (fun f s e => seamFree s e [f.mod.toNat] ∧ allGood (seamCheck s e f 1)) (fun f s e =>
    issues (match chkOf (seamCheck s e f 1) (lowLane e.x) with
      | .ok as => s.store as (e.g.seams.get f.mod.toNat).toNat
      | _ => s) e f .completed (fun _ _ => .ready)) ∧
  Does .seamLoad coordRun (fun f s e => e.serialLane = false ∧ allGood (seamCheck s e f 0)) (fun f s e =>
    issues s e f .completed (fun l _ => if l = lowLane e.x then
      .seamLoad f.mod.toNat (BitVec.ofNat 128 (s.chkLoad (chkOf (seamCheck s e f 0) (lowLane e.x)))) else .ready))

/-- R200, R201, R223. SER.OPEN opens a region whose lowest lane runs on; SER.CLOSE by the serial lane passes the turn; REGROUP gives its lanes their
keys. -/
def Obligations.SerialAndRegroup : Prop :=
  Does .serOpen noRuns (fun _ _ e => e.g.serial = none) (fun _ s e => s.updGroup e.gid (fun g =>
    { g.updLanes (e.x &&& ~~~maskOf [lowLane e.x]) (fun _ ln => { ln with st := .pending }) with
      serial := some { lanes := e.x, lane := lowLane e.x, start := e.r.ft } })) ∧
  (∀ f s e r, Runs .serClose f (noRuns f) s e → e.g.serial = some r → e.x &&& ~~~maskOf [r.lane] = 0 →
    exec (.serClose f) s = .next ((s.updGroup e.gid (·.nextTurn r e.r.ft)).retire e .serClose f)) ∧
  Does .regroup noRuns (fun _ s e =>
      e.serialLane = false ∧ (∀ n < 12, e.g.members n &&& e.x = 0) ∧
      ∀ g ∈ s.roleGroups e.g.block e.g.level e.g.role, ∀ ln ∈ g.lanes, ∀ x, ln.regroup? = some x → x.2.1 = e.r.cur)
    (fun f s e => s.updGroup e.gid (fun g => g.updLanes e.x (fun l ln =>
      { ln with st := .regrouping e.r.ft e.r.cur (s.src e .int l ln f.a) })))

/-! ### Completion: the Shelf -/

/-- R177. EMIT creates the children of its lanes' elements at the next level, in order of ascending lane, then index, where the counts fit; each
element's count of emitted children rises. R178. SPAWN creates one child for each lane whose child's depth does not pass 8, with the lane's four
arguments, writes pd, and waits on those lanes for the child and its descendants to retire; the other lanes complete at issue. -/
def Obligations.ChildrenAreCreated : Prop :=
  (∀ f s e, Runs .emit f (noRuns f) s e →
    let n := e.g.level + 1
    let lv := e.rcd.level n
    let counts := e.lanes.map (fun c => (c.1, c.2.elem, (s.src e .int c.1 c.2 f.a).toNat))
    let total := counts.foldl (fun t c => t + c.2.2) 0
    let done := fun (el : Nat) => (s.elem? el).elim 0 (·.emitted)
    n < 8 → lv.present = true → lv.gen = 1 → (2 ≤ lv.domain → total ≤ domainLimit lv.domain lv.width) →
    (total ≠ 0 → e.rcd.fits n (e.rcd.groupsOf n total) = true) → (∀ c ∈ counts, done c.2.1 + c.2.2 ≤ 0xFFFFFFFF) →
    exec (.emit f) s = .next ((counts.foldl (fun (s : State) c => s.updElem c.2.1 (fun el => { el with emitted := el.emitted + c.2.2 }))
      (s.create e.la n (counts.flatMap (fun c => (List.range c.2.2).map (fun i =>
        ({ idx := BitVec.ofNat 32 (done c.2.1 + i), parents := [c.2.1], depth := 0, primId := 0, iw := [], init := [], claims := none } : Birth))))
        none).2).retire e .emit f)) ∧
  (∀ f s e, Runs .spawn f (noRuns f) s e →
    let same := decide (f.mod = 1)
    let n := if same then e.g.level else e.g.level + 1
    n < 8 → (e.rcd.level n).present = true → (e.rcd.level n).gen = 3 →
    let births := spawnBirths s e f same
    let made := s.create e.la n (births.map (·.2.2)) (some e.g.core)
    let childOf := fun (l : Nat) => ((births.map (·.1)).zip made.1).find? (fun c => c.1 = l)
    let counted := births.foldl (fun (s : State) b => s.updElem b.2.1 (·.countSpawn same)) made.2
    let written := counted.writeRegs e.gid (e.writes f (fun l _ => truthOf (childOf l).isSome))
    let issued := written.addOp e f .held (fun l _ => ((childOf l).elim .ready (fun c => .child c.2), []))
    exec (.spawn f) s = .next (((issued.2.updOp issued.1 (fun o => { o with run := Opnd.first f.c, dst := none })).doneAtIssue e f issued.1
      (e.where_ (fun l _ => (childOf l).isNone))).retire e .spawn f))

/-- R180, R181. EBB ends the claims of its lanes on their ancestors' slots at a level above their own; HLERP reads flat or interpolated. -/
def Obligations.EbbAndHlerp : Prop :=
  Does .ebb noRuns (fun f _ e => f.mod.toNat < e.g.level) (fun f s e =>
    (e.lanes.foldl (fun (s : State) c => match s.laneElem c.2 with
      | none => s
      | some el =>
        let hs := el.claims.filter (fun h => match s.elem? h with
          | some a => a.level = f.mod.toNat
          | none => false)
        (s.endClaims hs).updElem el.id (fun el => { el with claims := el.claims.filter (fun h => !hs.contains h) })) s).freeSlots) ∧
  (∀ f s e (v : Lane → List Word × List Word), Runs .hlerp f (noRuns f) s e → (∀ c ∈ e.lanes, ∃ el, s.laneElem c.2 = some el ∧ s.heldThree e.rcd el (heldIndex f.a) = .ok (v c.2)) →
    exec (.hlerp f) s = .next ((s.writeRegs e.gid (e.writes f (fun l ln =>
      wordOf (hlerp f.mod.toNat (v ln).1 (v ln).2 (s.srcAt e .fp l ln 0 f.b) (s.srcAt e .fp l ln 1 f.b))))).retire e .hlerp f))

/-! ### Completion: memory -/

/-- R268, R269. LD reads every lane's bytes, where every lane's access passes; LDU reads once, at the coordinates in G, for the lowest lane.
That both read their bytes as they issue is log entry 3's reading. -/
def Obligations.LoadsRead : Prop :=
  Does .ld coordRun (fun f s e => allGood (laneChecks s e f (memWidth f) 0 (memZ f))) (fun f s e =>
    (s.addOp e f .completed (fun l _ => (.ready, (LaneRes.of (loadWords (memWidth f) (ordU (BitVec.ofNat 10 f.b.uimm))
      (s.chkLoad (chkOf (laneChecks s e f (memWidth f) 0 (memZ f)) l)))).writes f))).2) ∧
  (∀ f s e c, Runs .ldu f (noRuns f) s e → Opnd.first f.a + layRank (e.layout (layC f)) ≤ 256 →
    c = s.access e (layC f) ((List.range (layRank (e.layout (layC f)))).map (fun i => (e.g.g.get (Opnd.first f.a + i)).toNat)) (memWidth f) 0 (memZ f) →
    c.good = true →
    exec (.ldu f) s = .next (((s.addOp e f .completed (fun l _ => (.ready, if l = lowLane e.x then
      (LaneRes.of (loadWords (memWidth f) (ordU (BitVec.ofNat 10 f.b.uimm)) (s.chkLoad c))).writes f else []))).2).retire e .ldu f))

/-- R65, R268, R271, R272. ST, ATOM and RED perform their lanes in ascending order, where every lane's access passes; ATOM's lanes are to write the old
values that they read, and RED's floating-point operations read b as FP32. That they change memory as they issue is log entry 3's reading. -/
def Obligations.StoresAndAtomicsWrite : Prop :=
  Does .st coordRun (fun f s e => allGood (laneChecks s e f (memWidth f) 1 (memZ f))) (fun f s e =>
    let r := inLaneOrder s e (laneChecks s e f (memWidth f) 1 (memZ f)) (fun t l ln as => (t.store as (storeData s e f (memWidth f) l ln), []))
    issuesWith r.1 e f r.2) ∧
  Does .atom coordRun (fun f s e => allGood (laneChecks s e f (if ordD (BitVec.ofNat 10 f.b.uimm) then 8 else 4) 2 false)) (fun f s e =>
    let wide := ordD (BitVec.ofNat 10 f.b.uimm)
    let w := if wide then 8 else 4
    let r := inLaneOrder s e (laneChecks s e f w 2 false) (fun t _ ln as =>
      (t.store as (atomStep f wide ln (t.load as)), (LaneRes.of (loadWords w false (t.load as))).writes f))
    issuesWith r.1 e f r.2) ∧
  Does .red coordRun (fun f s e => allGood (laneChecks s e f (if ordD (BitVec.ofNat 10 f.dst.uimm) then 8 else 4) 2 false)) (fun f s e =>
    let wide := ordD (BitVec.ofNat 10 f.dst.uimm)
    let w := if wide then 8 else 4
    let r := inLaneOrder s e (laneChecks s e f w 2 false) (fun t l ln as =>
      (t.store as (atomNew (8 * w) f.mod.toNat (t.load as) (addend f s e l ln) 0), []))
    issuesWith r.1 e f r.2)

/-- R273 to R276. FENCE issues and accesses nothing, and waits on each lane for the lane's earlier instructions to complete; PREF does nothing; LAYSUB writes the derived entry, where its descriptor and the ranges are in
order. -/
def Obligations.FencePrefAndLaysub : Prop :=
  Does .fence noRuns always
    (fun f s e => issues s e f .completed (fun l _ => .after (s.laneOps e.gid l))) ∧
  Does .pref coordRun always (fun _ s _ => s) ∧
  Does .laysub (fun f e => [(Opnd.first f.a, 1 + 3 * layRank (e.layout (layC f)))])
    (fun f s e => layValid (e.layout (layC f)) = true ∧ e.isDerived f.dst.uimm = true ∧
      (subDesc s e f (layRank (e.layout (layC f)))).shapeOk (e.layout (layC f)) = true ∧
      (subDesc s e f (layRank (e.layout (layC f)))).rangeFail (e.layout (layC f)) = none)
    (fun f s e => s.updGroup e.gid (fun g =>
      { g with derived := g.derived.set f.dst.uimm ((subDesc s e f (layRank (e.layout (layC f)))).entry (e.layout (layC f))) }))

/-! ### Completion: tags, tidemarks, owner bits -/

/-- R242, R281 to R283. COPY performs one copy for each lane of X whose accesses pass, in ascending lane order: it writes the bytes that it then reads, or
zeros under .Z, or nothing where the source is uncorrectable; each is counted on its lane's tag, and has still to land. TWAIT
waits for tags of the block's range; TFIRST gives the lowest set tag, or all ones. COPY_LANDING: a copy leaves the list, its tag's count falls by one while its block lives, and
a copy that read an uncorrectable line is recorded against its tag; no byte changes then. -/
def Obligations.CopiesAndTags : Prop :=
  (∀ f s e, Runs .copy f (fun e => [(Opnd.first f.a, layRank (e.layout f.dst.uimm) + layRank (e.layout (layC f)))]) s e →
    let md := e.layout f.dst.uimm
    let ms := e.layout (layC f)
    let w := copyWidth f
    let z := f.mod.getLsbD 1
    let tag := fun (c : Nat × Lane) => (s.src e .int c.1 c.2 f.b).toNat % 64
    let dst := fun (c : Nat × Lane) => s.access e f.dst.uimm (coords s e f c.1 c.2 0 (layRank md)) w 1 z
    let src := fun (c : Nat × Lane) => s.access e (layC f) (coords s e f c.1 c.2 (layRank md) (layRank ms)) w 0 z
    let made := e.lanes.filterMap (fun c => laneCopy (tag c) (src c) (dst c))
    (∀ c ∈ e.lanes, tagOk e.rcd (tag c) = true ∧ (dst c).good = true ∧ (src c).eccAsError.good = true) →
    (∀ t < 64, s.tagFull e.g.core t (made.filter (fun c => c.tag = t)).length = false) →
    ∃ (t : State) (new : List CopyOp), exec (.copy f) s = .next (t.retire e .copy f) ∧ t.mem = (made.foldl moved s).mem ∧ t.copies = s.copies ++ new ∧
      new.map (fun c => (c.block, c.core, c.tag, c.error, c.onChip)) =
        made.map (fun c => (e.b.id, e.g.core, c.tag, decide (c.src = .error), layOnChip md)) ∧
      t.tagCounts = made.foldl (fun m c => m.set (tagKey e.g.core c.tag) (m.get (tagKey e.g.core c.tag) + 1)) s.tagCounts ∧
      t = { s with mem := t.mem, copies := t.copies, tagCounts := t.tagCounts, nextId := t.nextId, blocks := t.blocks } ∧
      (layOnChip md = false → t.blocks = s.blocks)) ∧
  Does .twait noRuns (fun f s e => badTag e.rcd (s.lowPair e f.a) = none) (fun f s e =>
    issues s e f .cancelled (fun _ _ => .tags e.g.core (decide (f.mod = 0)) (s.lowPair e f.a))) ∧
  Does .tfirst noRuns (fun f s e => badTag e.rcd (s.lowPair e f.a) = none ∧
      ∀ t, (lanesOf (s.setTags e.rcd e.g.core (s.lowPair e f.a))).head? = some t → s.tagErrs.contains (tagKey e.g.core t) = false)
    (fun f s e => giveAll s e f [((lanesOf (s.setTags e.rcd e.g.core (s.lowPair e f.a))).head?).elim 0xFFFFFFFF (BitVec.ofNat 32 ·)]) ∧
  (∀ (s : State) (k : Nat) (c : CopyOp), findId CopyOp.id k s.copies = some c → (∃ b, s.block? c.block = some b ∧ b.st ≠ .ended) →
    ∃ t, exec (.copyLanding k) s = .next t ∧ t.copies = delId CopyOp.id k s.copies ∧
      t.tagCounts = s.tagCounts.set (tagKey c.core c.tag) (s.tagCounts.get (tagKey c.core c.tag) - 1) ∧
      (∀ x, t.tagErrs.contains x = (s.tagErrs.contains x || (c.error && decide (x = tagKey c.core c.tag)))) ∧
      t = { s with copies := t.copies, tagCounts := t.tagCounts, tagErrs := t.tagErrs, blocks := t.blocks } ∧
      t.blocks = (if c.onChip then updId Block.id c.block (fun b => { b with addressed := b.addressed - 1 }) s.blocks else s.blocks))

/-- R285 to R287. TM.INIT, TM.EXPECT, TM.ARRIVE, TM.ARRIVEW and TM.WAIT on a tidemark of the block that THREADS own: `x` is the lowest lane's a. With
reload 0 an arrival completes no phase. One in a damaged sector (R433) raises UNCORRECTABLE, without effect (log entry 74). -/
def Obligations.TidemarkInstructions : Prop :=
  (∀ op ∈ [Op.tmInit, .tmExpect, .tmArrive, .tmArrivew, .tmWait], ∀ f s e (cause : Nat) info, Runs op f (noRuns f) s e →
    s.tidemarkAt e f.c.uimm (decide (op ≠ .tmWait)) = .error (cause, info) → exec (op.instr f) s = .next (s.trapAt e.gid cause info e.x)) ∧
  (∀ (s : State) e t w base, 16 * t + 16 ≤ allocBytes e.rcd → s.allocOn e.b e.g.core = some base →
    let a := scratchByte e.g.core base (16 * t)
    s.owners.get (granuleOf a) = 0 →
    s.tidemarkAt e t w = if s.damaged (span a 16) = true then .error (Cause.uncorrectable, eccInfo w 0) else .ok a) ∧
  ∀ f s e w (a : Nat), s.tidemarkAt e f.c.uimm w = .ok a →
    let t := s.tidemark a
    let x := (s.lowSrc e f.a).toNat
    let arrived := s.setTidemark a (if t.reload = 0 then { t with sectors := (t.sectors + x) % 2 ^ 32, arrivals := t.arrivals - 1 }
      else t.change ((t.sectors + x) % 2 ^ 32) (t.arrivals - 1))
    (Runs .tmInit f (noRuns f) s e → exec (.tmInit f) s = .next ((s.setTidemark a
      { phase := 0, reload := x % 65536, arrivals := x % 65536, sectors := 0 }).retire e .tmInit f)) ∧
    (Runs .tmExpect f (noRuns f) s e → exec (.tmExpect f) s = .next ((s.setTidemark a (t.change ((t.sectors + x) % 2 ^ 32) t.arrivals)).retire e
      .tmExpect f)) ∧
    (Runs .tmArrive f (noRuns f) s e → exec (.tmArrive f) s = .next ((giveAll arrived e f [BitVec.ofNat 32 t.phase]).retire e .tmArrive f)) ∧
    (Runs .tmArrivew f (noRuns f) s e →
      exec (.tmArrivew f) s = .next ((issues arrived e f .cancelled (fun _ _ => .tidemark a t.phase)).retire e .tmArrivew f)) ∧
    (Runs .tmWait f (noRuns f) s e → exec (.tmWait f) s = .next ((issues s e f .cancelled (fun _ _ => .tidemark a (x % 16))).retire e .tmWait f))

/-- R288, R289. OWN.GIVE hands the granules of a SCRATCH entry's footprint to the engine that the sub-operation names, where THREADS own all of them;
where some granule is owned otherwise it traps with the first of them (R238); OWN.TAKE takes back at once those without an engine operation, and waits for the others. -/
def Obligations.OwnerHandOver : Prop :=
  Does .ownGive noRuns (fun f s e => layValid (e.layout (layC f)) = true ∧ laySpace (e.layout (layC f)) = spScratch ∧
      ∀ g ∈ s.footprint e.b e.g.core (e.layout (layC f)), s.owners.get g = 0)
    (fun f s e => s.setOwners (s.footprint e.b e.g.core (e.layout (layC f))) (f.mod.setWidth 3)) ∧
  (∀ f s e g rest, Runs .ownGive f (noRuns f) s e → layValid (e.layout (layC f)) = true → laySpace (e.layout (layC f)) = spScratch →
    (s.footprint e.b e.g.core (e.layout (layC f))).filter (fun g => s.owners.get g ≠ 0) = g :: rest →
    exec (.ownGive f) s = .next (s.trapAt e.gid Cause.ownerViolation (ownerInfo true (s.owners.get g).toNat (g % 4096)) e.x)) ∧
  Does .ownTake noRuns (fun f _ e => layValid (e.layout (layC f)) = true ∧ laySpace (e.layout (layC f)) = spScratch)
    (fun f s e =>
      let gs := s.footprint e.b e.g.core (e.layout (layC f))
      issues (s.setOwners (gs.filter (fun g => s.engineCounts.get g = 0)) 0) e f .cancelled (fun _ _ => .owned gs))

namespace Sys2Proof.Machine

/-- The issue of a tile-path operation (R241, R290, R291): one operation more, with these fields; its tag counts it; it holds the granules of its footprint
that COPY owns, each of whose counts has risen by one; the block that its data is addressed to, if it goes to scratchpad, counts it; memory and groups are
as they were. -/
def TileIssued (s t : State) (e : Env) (f : Form) (r : Report) (kind : TileKind) (dOrg sOrg counts : List Nat) (touch : TileOp → List Nat) : Prop :=
  t.mem = s.mem ∧ t.groups = s.groups ∧ t.owners = s.owners ∧ t.tagCounts = (s.tagIssue e.g.core r.tag).tagCounts ∧
  t.blocks = (match (match kind with
      | .multicast _ _ target => some target
      | _ => if layOnChip (e.layout f.dst.uimm) then some e.b.id else none) with
    | some k => (s.updBlock k (fun b => { b with addressed := b.addressed + 1 })).blocks
    | none => s.blocks) ∧
  ∃ o : TileOp, (∀ g, g ∈ o.granules ↔ g ∈ touch o ∧ (s.owners.get g).toNat = ownCopy) ∧
    (∀ g, t.engineCounts.get g = s.engineCounts.get g + (if g ∈ o.granules then 1 else 0)) ∧ t.tileOps = s.tileOps ++ [o] ∧ o.id = s.nextId ∧ o.kind = kind ∧ o.group = e.gid ∧ o.block = e.b.id ∧ o.core = e.g.core ∧
    o.lanes = e.r.lanes ∧ o.dst = e.layout f.dst.uimm ∧ o.src = e.layout (layC f) ∧ o.dstOrg = dOrg ∧ o.srcOrg = sOrg ∧ o.counts = counts ∧
    o.tag = r.tag ∧ o.mark = r.mark

/-- A tag that an operation bears has room for one more (R281). -/
def tagRoom (s : State) (e : Env) (r : Report) : Prop := ∀ t, r.tag = some t → s.tagFull e.g.core t 1 = false

/-- R309. The core to which the token goes from a core of a circuit: the next higher one, or from the highest the lowest. -/
def Follows (cores : List Nat) (c next : Nat) : Prop :=
  (next ∈ cores ∧ c < next ∧ ∀ x ∈ cores, c < x → next ≤ x) ∨ ((∀ x ∈ cores, x ≤ c) ∧ cores.head? = some next)

/-- A tile copy's three runs of n coordinates: destination origin, source origin, counts (R294). -/
def tileRun (s : State) (e : Env) (f : Form) (k : Nat) : List Nat :=
  (List.range (tileRank e f)).map (fun i => s.lowAt e f (k * tileRank e f + i))

/-- A matrix-queue entry enters the queues of its cores (R313): the last entry of the list, behind a new long-latency instruction of the lanes X; behind
suspended entries of its block it is suspended too, unless it is a tile save or load (R330). -/
def Queued (s t : State) (e : Env) (block tile : Nat) (cores : List Nat) (kind : MatKind) : Prop :=
  t.mem = s.mem ∧ t.acc = s.acc ∧
  ∃ (m : MatEntry) (o : LongOp), (t.matrix.getLast? = some m ∧ t.matrix.length = s.matrix.length + 1) ∧ t.ops = s.ops ++ [o] ∧ m.op = o.id ∧
    m.group = e.gid ∧ m.block = block ∧ m.tile = tile ∧ m.cores = cores ∧ m.kind = kind ∧ m.lanes = e.r.lanes ∧ m.row = 0 ∧ m.started = false ∧
    m.suspended = (!kind.passes && s.matrix.any (fun x => x.block = block && x.suspended)) ∧
    o.group = e.gid ∧ o.fate = .saved ∧ ∀ l ∈ o.lanes, l.cond = .engine

/-- The queues of some cores have room (R313). -/
def queuesFree (s : State) (cores : List Nat) : Prop := ∀ c ∈ cores, s.matrixFull c = false

/-- The checks of R320 pass for MMA (0), QUANT (1) and HAD (2), and these are the parameter block's places and content, and the cores. -/
def computeGood (which : Nat) (f : Form) (s : State) (e : Env) (as : List Nat) (pb : BitVec 512) (cores : List Nat) : Prop :=
  let w := s.lowSrc e f.a
  let tile := if which = 0 then s.tileOf e (pbTile pb) else none
  formatFault s e f which = none ∧ paramBlock s e (layC f) (s.lowSrc e f.b).toNat = .ok as ∧ s.damaged as = false ∧ pb = BitVec.ofNat 512 (s.load as) ∧
  (which = 0 → ∃ t b, tile = some (t, b) ∧ t.format = bitsOf w.toNat 23 20) ∧
  pbOk which w ((kGranule which w).getD 1) (tile.map (·.1)) pb = true ∧ (∀ o ∈ matOpnds which w pb, matOpndCheck s e o = none) ∧
  cores = (match tile with
    | some t => tileCores t.2 t.1
    | none => [e.g.core])

/-- An instruction whose effect is a queued entry completes: exec answers a state in which it is queued, behind what re-enters the queues first (R330);
while a queue is full it waits at issue. -/
def queues (op : Op) (runs : Form → Env → List (Nat × Nat)) (cond : Form → State → Env → Nat → Nat → List Nat → MatKind → Prop) : Prop :=
  ∀ f s e block tile cores kind, Runs op f (runs f) s e → cond f s e block tile cores kind →
    (queuesFree (s.reenterAt e kind) cores →
      ∃ t, exec (op.instr f) s = .next (t.retire e op f) ∧ t.mem = s.mem ∧ Queued (s.reenterAt e kind) t e block tile cores kind) ∧
    ((∃ c ∈ cores, (s.reenterAt e kind).matrixFull c = true) → exec (op.instr f) s = .next ((s.reenterAt e kind).rewind e))

end Sys2Proof.Machine

open Sys2Proof Sys2Proof.Machine

/-! ### Completion: the copy engine, the distributor, the streaming element unit -/

/-- R294, R296, R301. TCOPY, TCOPY.MC and SCATB issue one tile-path operation, where their checks pass and the tag has room; a tile copy with a count of
zero does nothing; TCOPY.MC takes its cores from bits [3:0] of the mask and heeds no other (log entry 27). TILE_OPERATION_COMPLETION: a tile copy whose elements all pass, in the order of R242 and with the damaged sectors that it covers wholly
replaced (R433), and a scatter that meets no fault, likewise, have performed their writes; granules, sectors and tag follow, and the operation is gone. -/
def Obligations.TileOperations : Prop :=
  (∀ f s e r, Runs .tcopy f (fun e => [(Opnd.first f.a, 3 * tileRank e f)]) s e →
    tileCheck s e f (decide (f.mod = 1)) (tileRun s e f 0) (tileRun s e f 1) (tileRun s e f 2) = none →
    s.reportOf e (s.lowSrc e f.b) = .ok r → tagRoom s e r →
    (0 ∈ tileRun s e f 2 → exec (.tcopy f) s = .next (s.retire e .tcopy f)) ∧
    (0 ∉ tileRun s e f 2 → ∃ t, exec (.tcopy f) s = .next (t.retire e .tcopy f) ∧
      TileIssued s t e f r (.copy (decide (f.mod = 1))) (tileRun s e f 0) (tileRun s e f 1) (tileRun s e f 2)
        (fun o => s.tileDstGranules o ++ s.tileSrcGranules o))) ∧
  (∀ f s e r b, Runs .tcopyMc f (fun e => [(Opnd.first f.a, 3 * tileRank e f + 2)]) s e →
    let n := tileRank e f
    let mask := BitVec.ofNat 4 (s.lowAt e f (3 * n))
    tileCheck s e f (decide (f.mod = 1)) (tileRun s e f 0) (tileRun s e f 1) (tileRun s e f 2) = none →
    laySpace (e.layout f.dst.uimm) = spScratch →
    s.blocks.find? (fun b => b.launch = e.g.launch && b.level = e.g.level && b.num = BitVec.ofNat 32 (s.lowAt e f (3 * n + 1)) &&
        (b.st = .admitted || b.st = .ended)) =
      some b →
    (∀ c < 4, mask.getLsbD c = true → (s.allocOn b (e.g.core / 4 * 4 + c)).isSome = true) →
    s.reportOf e (s.lowSrc e f.b) = .ok r → tagRoom s e r →
    (0 ∈ tileRun s e f 2 → exec (.tcopyMc f) s = .next (s.retire e .tcopyMc f)) ∧
    (0 ∉ tileRun s e f 2 → ∃ t, exec (.tcopyMc f) s = .next (t.retire e .tcopyMc f) ∧
      TileIssued s t e f r (.multicast (decide (f.mod = 1)) mask b.id) (tileRun s e f 0) (tileRun s e f 1) (tileRun s e f 2)
        (fun o => s.tileDstGranules o ++ s.tileSrcGranules o))) ∧
  (∀ f s e r, Runs .scatb f (fun _ => [(Opnd.first f.a, 8)]) s e →
    let v := s.lowAt e f
    scatCheck s e f v = none → s.reportOf e (s.lowSrc e f.b) = .ok r → tagRoom s e r →
    ∃ t, exec (.scatb f) s = .next (t.retire e .scatb f) ∧
      TileIssued s t e f r (.scatter (e.layoutNo (v 2)) (e.layoutNo (v 4)) (e.layoutNo (v 6)) [v 2, v 4, v 6] (v 3) (v 0) (v 1) (v 5) (v 7))
        [0, 0, 0] [0, v 1] [] (fun _ => scatTouch s e f v)) ∧
  (∀ (s t : State) (k : Nat) (o : TileOp) (z : Bool), findId TileOp.id k s.tileOps = some o → o.id = k →
    (o.kind = .copy z ∨ ∃ m b, o.kind = .multicast z m b) →
    let tenant := ((s.block? o.block).bind (fun b => s.launch? b.launch)).elim 0 (·.tenant)
    let ts := s.tileOrder o tenant (tuples o.counts)
    let units := unitCount o.dst (ts.map (addCoords o.dstOrg))
    (s.clearBad (s.coveredBad (s.tileBytes o tenant ts) (s.tileReads o tenant))).tileCopy o tenant z ts = .done t →
    exec (.tileOperationCompletion k) s = .next (t.tileReport o units) ∧ findId TileOp.id k (t.tileReport o units).tileOps = none) ∧
  (∀ (s : State) (k : Nat) (o : TileOp) mi mc mt ks i0 n r0 ov q, findId TileOp.id k s.tileOps = some o →
    o.kind = .scatter mi mc mt ks i0 n r0 ov q →
    let tenant := ((s.block? o.block).bind (fun b => s.launch? b.launch)).elim 0 (·.tenant)
    let a := (s.clearBad (s.scatClears o tenant mi mc mt i0 n r0 ov q (s.scatCells o tenant mi mc i0 n ov))).scatter o tenant mi mc mt ks i0 n r0 ov q
    a.stop = none → a.wait = none → a.bad = none →
    exec (.tileOperationCompletion k) s = .next (a.s.tileReport o (unitCount o.dst a.cells + unitCount mt ((span q 4).map (fun i => [i])))))

/-- R298, R300. LNEST, where its operands pass, issues one nest on every lane of the path; LNEST_COMPLETION runs a nest, hands its granules back and lets
its instruction's lanes complete. -/
def Obligations.LoopNests : Prop :=
  (∀ (n : NestForm) (s : State) (e : Env), s.env Guard.always = some e → e.x ≠ 0 → (e.r.flagOf n.fsel).isSome = true →
    (∀ x, (x = (n.x0, 1) ∨ x = (n.x1, 0) ∨ (nestBinary n = true ∧ x = (n.x2, 0))) →
      nestCheck n x.1 (e.layout x.1.layout.toNat) (e.g.g.get x.1.base.toNat).toNat x.2 = none) →
    ∃ (t : State) (o : NestOp) (i : LongOp), exec (.lnest n) s = .next t ∧ t.nests = s.nests ++ [o] ∧ t.ops = s.ops ++ [i] ∧ o.op = i.id ∧
      o.form = n ∧ o.group = e.gid ∧ o.lanes = e.r.lanes ∧ i.group = e.gid ∧ (∀ l ∈ i.lanes, l.cond = .engine) ∧ t.mem = s.mem ∧
      o.lay0 = e.layout n.x0.layout.toNat ∧ o.lay1 = e.layout n.x1.layout.toNat ∧ o.lay2 = e.layout n.x2.layout.toNat) ∧
  (∀ (s : State) (k : Nat) (o : NestOp), findId NestOp.id k s.nests = some o → (s.nestRun o).2 = none →
    exec (.lnestCompletion k) s = .next { (((s.nestRun o).1.handBack o.granules).engineDone o.op) with
      nests := delId NestOp.id k (s.nestRun o).1.nests })

/-- R305 to R308. WQ.ASK puts a query; WQ.TAKE waits for work; WQ.ADD puts its lanes' items into the core's own queue (.LOCAL) or sends them on their
way (.CORE). Which cores run a launch is log entry 82's reading. -/
def Obligations.WorkInstructions : Prop :=
  (∀ f s e r, Runs .wqAsk f (noRuns f) s e → askCheck s e f.dst.uimm = none → s.reportOf e (s.lowSrc e f.b) = .ok r → tagRoom s e r →
    ∃ (t : State) (a : Ask), exec (.wqAsk f) s = .next (t.retire e .wqAsk f) ∧ t.asks = s.asks ++ [a] ∧ a.launch = e.la.id ∧ a.core = e.g.core ∧
      a.group = e.gid ∧ a.lanes = e.r.lanes ∧ a.seq = none ∧ a.tag = r.tag ∧ a.entry = f.dst.uimm ∧ a.addrs.length = 16 ∧ t.mem = s.mem ∧
      t.tagCounts = (s.tagIssue e.g.core r.tag).tagCounts) ∧
  Does .wqTake noRuns always (fun f s e =>
    let made := s.addOp e f .cancelled (fun _ _ => (.work, []))
    made.2.updOp made.1 (fun o => { o with pdst := (match f.c with
      | .field x => (parseDst x).bind (·.ref 0)
      | _ => none) })) ∧
  Does .wqAdd noRuns (fun f s e => e.rcd.work.dynamic = true ∧ ∀ c ∈ e.lanes,
      s.src e .int c.1 c.2 f.a ≠ workToken ∧ e.la.runsOn (if f.mod = 1 then (s.src e .int c.1 c.2 f.b).toNat else e.g.core) = true)
    (fun f s e => e.lanes.foldl (fun (t : State) c =>
      let x := s.src e .int c.1 c.2 f.a
      let core := (s.src e .int c.1 c.2 f.b).toNat
      if f.mod = 1 then
        let item : Item := { id := t.nextId, sender := e.g.core, launch := e.la.id, core, value := x, first := s.nextId }
        let t := { t with nextId := t.nextId + 1, items := t.items ++ [item] }
        if core < e.g.core then t.updLaunch e.la.id (fun la =>
          { la with dist := { la.dist with black := if la.dist.black.contains e.g.core then la.dist.black else e.g.core :: la.dist.black } }) else t
      else t.deliver e.la.id e.g.core x) s)

/-- R305 to R309. ITEM_ARRIVAL delivers an item that was sent, once those that lower lanes of its WQ.ADD sent to the same core have arrived; QUEUE_REFILL gives a running core's queue below the prefetch depth the next item;
WQ_ASK_ANSWER: a query takes its number as it arrives, and where an item is there, the work is over or Dynamic is 0, and no query waits before it, one item
or the token is handed out and the answer written into granules that COPY owns, and a sector lands at its tidemark; otherwise it is held. TOKEN_PASS: a core that is not passive
keeps the token; a passive one passes it to the next higher core of the launch, or from the highest to the lowest, turning it black if the core is black, and turns white; at
a passive lowest core the end of work is declared where the token is back white, the core is white and nothing is left, and a new white token starts otherwise, as where none
is on its way. -/
def Obligations.DistributorSteps : Prop :=
  (∀ (s : State) (k : Nat) (i : Item), findId Item.id k s.items = some i →
    let before := fun (j : Item) => j.first = i.first ∧ j.core = i.core ∧ j.id < i.id
    ((∀ j ∈ s.items, ¬ before j) → exec (.itemArrival k) s = .next ({ s with items := delId Item.id k s.items }.deliver i.launch i.core i.value)) ∧
    ((∃ j ∈ s.items, before j) → exec (.itemArrival k) s = .next s)) ∧
  (∀ (s : State) (la : Launch) (k core : Nat), s.launch? k = some la → la.st = .running → la.runsOn core = true → la.hasItem = true →
    (la.queueOf core).length < la.rcd.work.depth → s.heldAsks k = [] →
    exec (.queueRefill k core) s = .next (s.updLaunch k (fun _ => la.nextItem.2.setQueue core (la.queueOf core ++ [la.nextItem.1])))) ∧
  (∀ (s : State) (a : Ask) (la : Launch) (k : Nat), findId Ask.id k s.asks = some a → s.launch? a.launch = some la →
    (∀ n, la.answers = true → (∀ p ∈ a.addrs, (s.owners.get (granuleOf p)).toNat = ownCopy) → s.damaged a.addrs = false →
      ((a.seq = none ∧ s.heldAsks a.launch = [] ∧ n = la.dist.sequence) ∨ (a.seq = some n ∧ (s.heldAsks a.launch).head?.map (·.id) = some k)) →
      let answered := s.store a.addrs (la.giveItem.1.toNat + 2 ^ 32 * (n % 2 ^ 32) + 2 ^ 64 * (la.rcd.work.count - la.giveItem.2.dist.handed))
      ∃ t, exec (.wqAskAnswer k) s = .next t ∧ t.asks = delId Ask.id k s.asks ∧
        (a.mark = none → t.mem = answered.mem) ∧ (∀ m, a.mark = some m → t.mem = (answered.landSectors m 1).mem)) ∧
    (la.answers = false → a.seq = none → exec (.wqAskAnswer k) s = .next { s.updLaunch a.launch (fun _ => la.countRequest) with
      asks := updId Ask.id k (fun a => { a with seq := some la.dist.sequence }) s.asks })) ∧
  (∀ (s : State) (la : Launch) (k low at_ next : Nat) (cs : List Nat), s.launch? k = some la → s.circuit la = low :: cs → la.st = .running →
    la.rcd.work.dynamic = true → la.dist.declared = false → s.blocks.any (fun b => b.launch = k && b.st = .saved) = false → la.dist.leaving = [] →
    Follows (s.circuit la) at_ next →
    let back := la.dist.circulating = true ∧ la.dist.token ∈ s.circuit la
    let black := la.dist.black.filter (fun c => c ≠ at_)
    let passes := fun (d : Distributor) => exec (.tokenPass k) s = .next (s.updLaunch k (fun la => { la with dist := d }))
    (back → at_ = la.dist.token) → (¬ back → at_ = low) →
    (s.passive la at_ = false → exec (.tokenPass k) s = .next s) ∧
    (s.passive la at_ = true →
      (back → at_ ≠ low → passes { la.dist with black, tokenBlack := la.dist.tokenBlack || la.dist.black.contains at_, token := next }) ∧
      (back → at_ = low → la.dist.tokenBlack = false → low ∉ la.dist.black → la.hasItem = false →
        passes { la.dist with declared := true, circulating := false }) ∧
      (¬ back ∨ (at_ = low ∧ (la.dist.tokenBlack = true ∨ low ∈ la.dist.black ∨ la.hasItem = true)) →
        passes { la.dist with black, tokenBlack := false, token := next, circulating := true })))

/-! ### Completion: the matrix engine -/

/-- R313, R320, R326, R327, R329. MMA, QUANT, HAD, ACC.ZERO, ACC.DRAIN, ACC.SAVE and ACC.LOAD enter the matrix queue, where their checks pass and the
queues have room. Where the parameter block of MMA, QUANT or HAD meets an uncorrectable error, none enters it, and the engine's failure is reported (R292, log entry 74). -/
def Obligations.MatrixInstructionsQueue : Prop :=
  (∀ op which, (op, which) ∈ [(Op.mma, 0), (.quant, 1), (.had, 2)] → ∀ f s e as, Runs op f (noRuns f) s e → formatFault s e f which = none →
    paramBlock s e (layC f) (s.lowSrc e f.b).toNat = .ok as → s.damaged as = true →
    ∃ (t : State) (o : LongOp), exec (op.instr f) s = .next (t.retire e op f) ∧ t.mem = s.mem ∧
      t.matrix = (s.reenterAt e (.compute which (s.lowSrc e f.a) as 0)).matrix ∧ t.ops = s.ops ++ [o] ∧ o.group = e.gid ∧ (∀ l ∈ o.lanes, l.cond = .ready) ∧
      (∀ g, t.group? e.gid = some g → ∃ x, g.faults.getLast? = some x ∧ x.lanes = e.r.lanes ∧ x.info = engineInfo 3 3 (layC f) 0)) ∧
  queues .mma noRuns (fun f s e block tile cores kind => ∃ as pb, computeGood 0 f s e as pb cores ∧ block = e.b.id ∧ tile = pbTile pb ∧
    kind = .compute 0 (s.lowSrc e f.a) as pb) ∧
  queues .quant noRuns (fun f s e block tile cores kind => ∃ as pb, computeGood 1 f s e as pb cores ∧ block = e.b.id ∧ tile = pbTile pb ∧
    kind = .compute 1 (s.lowSrc e f.a) as pb) ∧
  queues .had noRuns (fun f s e block tile cores kind => ∃ as pb, computeGood 2 f s e as pb cores ∧ block = e.b.id ∧ tile = pbTile pb ∧
    kind = .compute 2 (s.lowSrc e f.a) as pb) ∧
  queues .accZero noRuns (fun f s e block tile cores kind => ∃ d b, s.tileOf e (accTile s e f) = some (d, b) ∧ block = b.id ∧
    tile = accTile s e f ∧ cores = tileCores b d ∧ kind = .zero) ∧
  queues .accDrain (fun f _ => [(Opnd.first f.a, 2)]) (fun f s e block tile cores kind => ∃ d b, s.tileOf e (accTile s e f) = some (d, b) ∧
    block = b.id ∧ tile = accTile s e f ∧ cores = tileCores b d ∧ drainSuits d.format (f.c.uimm / 64) = true ∧
    (f.c.uimm / 4 % 16 = 0 ∨ (f.c.uimm / 64 ≠ 11 ∧ f.c.uimm / 64 ≠ 12)) ∧
    regionCheck s e f.dst.uimm (if f.mod = 1 then 2 else 1) 2 (drainBytes (f.c.uimm / 64)) (drainBytes (f.c.uimm / 64)) [(s.lowAt e f 0, d.cols), (s.lowAt e f 1, d.rows)] false
      (layW (e.layout f.dst.uimm) && (decide (f.mod ≠ 1) || layA (e.layout f.dst.uimm))) = none ∧
    kind = .drain (e.layout f.dst.uimm) f.dst.uimm (s.lowAt e f 0) (s.lowAt e f 1) (f.c.uimm / 64) (f.c.uimm / 4 % 16) (decide (f.mod = 1))) ∧
  queues .accSave (fun f _ => [(Opnd.first f.a, 1)]) (fun f s e block tile cores kind => ∃ d b, s.tileOf e (accTile s e f) = some (d, b) ∧
    block = b.id ∧ tile = accTile s e f ∧ cores = tileCores b d ∧
    regionCheck s e f.dst.uimm 1 1 1 16 [(s.lowAt e f 0, d.rows * d.cols * imageBytes d.format)] true (layW (e.layout f.dst.uimm)) = none ∧
    kind = .save (e.layout f.dst.uimm) f.dst.uimm (s.lowAt e f 0)) ∧
  queues .accLoad (fun f _ => [(Opnd.first f.a, 1)]) (fun f s e block tile cores kind => ∃ d b, s.tileOf e (accTile s e f) = some (d, b) ∧
    block = b.id ∧ tile = accTile s e f ∧ cores = tileCores b d ∧
    regionCheck s e f.dst.uimm 0 1 1 16 [(s.lowAt e f 0, d.rows * d.cols * imageBytes d.format)] true (layR (e.layout f.dst.uimm)) = none ∧
    kind = .load (e.layout f.dst.uimm) f.dst.uimm (s.lowAt e f 0))

/-- R313, R321, R322, R325. MATRIX_QUEUE_ENTRY_START runs the next entry of a core that is no computation, where nothing stops it, and starts a computation:
a new one at the rows that its parameter block says are completed, or at the first where that says Done, a resumed one where it was; with no row left it sets
Done and ends. BAND_COMMIT commits the band of the computation that a core runs, MMA's, QUANT's or HAD's, as one unit: accumulator elements, cells, the
generator, status and rows completed; the last sets Done and ends the entry. The generator starts from the parameter block as it was read at issue, and goes on
from band to band. An entry or a band that fails reports the lowest offending granule (R292); such a band sets FAULT and ends its entry, rows completed unchanged. One
whose progress, status or seed lies in a damaged sector (R433) fails so, without FAULT where the status is what cannot be written. -/
def Obligations.MatrixEngineSteps : Prop :=
  (∀ (s : State) (core : Nat) (m : MatEntry), s.nextEntry core = some m → (∀ w p as pb, m.kind ≠ .compute w p as pb) → (∀ n, m.kind ≠ .integrate n) →
    ((s.runEntry m).2 = none → exec (.matrixQueueEntryStart core) s = .next ((s.runEntry m).1.finishEntry m)) ∧
    (∀ reason k g, (s.runEntry m).2 = some (.fail reason k g) →
      let u := (s.runEntry m).1
      exec (.matrixQueueEntryStart core) s = .next ((u.engineFault m.group m.lanes 3 reason k
        (if reason = 1 then u.lowestOffence ownMatrix (u.entryGranules m k) g else g)).finishEntry m))) ∧
  (∀ (s : State) (core : Nat) (m : MatEntry) w p as pb, s.nextEntry core = some m → m.kind = .compute w p as pb →
    let rows := s.paramWord as 13 % 65536
    let first := if m.row ≠ 0 then m.row else if pbDone pb then 0 else pbRows pb
    (s.paramLost as [13] = true → exec (.matrixQueueEntryStart core) s = .next ((s.engineFault m.group m.lanes 3 3 m.paramEntry 0).finishEntry m)) ∧
    (s.paramLost as [13] = false → first < pbM pb → exec (.matrixQueueEntryStart core) s = .next { s.setParam as 13 rows with
      matrix := updId MatEntry.id m.id (fun x => { x with started := true, row := first }) s.matrix }) ∧
    (s.paramLost as [13] = false → pbM pb ≤ first → exec (.matrixQueueEntryStart core) s = .next (((s.setParam as 13 rows).setParam as 13 (2 ^ 31 + rows)).finishEntry m))) ∧
  (∀ (s : State) (core : Nat) (m : MatEntry) which p as pb r, (s.matrixQueue core).find? (·.started) = some m → m.kind = .compute which p as pb →
    (let seed := pb.extractLsb' 32 32
     r = if which = 0 then s.mmaBand m (s.entryFormat m) p pb m.row else s.quantBand m which p pb (if seed = 0 then 1 else seed) m.row) →
    let faulted := if s.paramLost as [14] = true then s else s.setParam as 14 (s.paramWord as 14 ||| 8)
    (∀ b : Band, r = .ok b → s.paramLost as (13 :: 14 :: (if b.seed.isSome then [1] else [])) = true →
      exec (.bandCommit core) s = .next ((faulted.engineFault m.group m.lanes 3 3 m.paramEntry 0).endEntry m)) ∧
    (∀ b : Band, r = .ok b → s.paramLost as (13 :: 14 :: (if b.seed.isSome then [1] else [])) = false →
      let cells := s.storeCells b.cells
      let seeded := match b.seed with
        | some x => cells.setParam as 1 x.toNat
        | none => cells
      let written := (seeded.setParam as 14 (seeded.paramWord as 14 ||| b.status)).setParam as 13 (m.row + 64)
      (m.row + 64 < pbM pb → ∃ t, exec (.bandCommit core) s = .next t ∧ t.acc = s.acc.setAll b.acc ∧ t.mem = written.mem ∧
        t.matrix = updId MatEntry.id m.id (fun x => { x with row := m.row + 64, started := !x.suspended, kind := x.kind.reseed b.seed }) s.matrix ∧
        t = { s with acc := t.acc, matrix := t.matrix, mem := t.mem, bad := t.bad }) ∧
      (pbM pb ≤ m.row + 64 → ∃ t : State, exec (.bandCommit core) s = .next (t.endEntry m) ∧ t.acc = s.acc.setAll b.acc ∧
        t.mem = (written.setParam as 13 (2 ^ 31 + pbM pb)).mem ∧ t = { s with acc := t.acc, mem := t.mem, bad := t.bad })) ∧
    (∀ reason k g, r = .error (.fail reason k g) →
      exec (.bandCommit core) s = .next ((faulted.engineFault m.group m.lanes 3 reason k
        (if reason = 1 then faulted.lowestOffence ownMatrix (faulted.entryGranules m k) g else g)).endEntry m))) ∧
  (∀ which w as pb x, MatKind.reseed (some x) (.compute which w as pb) = .compute which w as (pb.extractLsb' 64 448 ++ x ++ pb.extractLsb' 0 32) ∧
    MatKind.reseed none (.compute which w as pb) = .compute which w as pb)

namespace Sys2Proof.Machine

/-- A chain descriptor (R335) that CHAIN.OPEN takes, with the tile that it names: fields in range, reserved bits zero, region within the tile's rows
and the core's columns. -/
def chainGood (e : Env) (d : DWord) (c : Chain) (t : TileDesc) (b : Block) : Prop :=
  bitsOf d.toNat 13 0 = 0 ∧ c.count ≠ 0 ∧ 0 < c.rows ∧ c.rows ≤ 384 ∧ 0 < c.cols ∧ c.cols ≤ 640 ∧ (c.exact = false → c.scale = 0) ∧ t.format ≠ 11 ∧
  regionHeld b t e.g.core c.i0 c.j0 c.rows c.cols = true

/-- A contribution that a send has made, of a binding: it has not been read yet, and has not left the device. -/
def Sent (s t : State) (e : Env) (b : Binding) (c : Contribution) : Prop :=
  t.contributions = s.contributions ++ [c] ∧ c.vals = none ∧ c.group = e.gid ∧ c.launch = e.la.id ∧ c.name = b.name ∧ c.gen = b.gen ∧
  c.rows = b.rows ∧ c.cols = b.cols ∧ c.core = e.g.core ∧ c.lanes = e.r.lanes ∧ c.away = false

/-- R338. A send has taken one from the share of its binding, and a binding without share has gone; no other binding, and nothing else of a group, has
changed. -/
def ShareTaken (s t : State) (e : Env) (b : Binding) : Prop :=
  t.groups = (s.updGroup e.gid (fun g => { g with bindings := match g.binding? b.name with
    | some x => if x.share ≤ 1 then g.bindings.filter (fun y => y.name ≠ b.name)
      else g.bindings.map (fun y => if y.name = b.name then { y with share := y.share - 1 } else y)
    | none => g.bindings })).groups

/-- A record of a slot that is closed: its sums are gone, its status and landed count stay (R346, R349). -/
def Chain.shut (c : Chain) (aborted : Bool) : Chain :=
  { c with isOpen := false, sums := [], waiter := none, placed := false, suspended := false, saved := false, held := false
           awaited := [], aborted := c.aborted || aborted }

/-- The words of one constraint of BAT.PUSH: key, then bodies (R373). -/
def pushWords (s : State) (e : Env) (f : Form) (c : Nat × Lane) (n : Nat) : List Word := (List.range (1 + n)).map (fun k => s.srcAt e .int c.1 c.2 k f.a)

end Sys2Proof.Machine

open Sys2Proof Sys2Proof.Machine

/-! ### Completion: the Tideway -/

/-- R335 to R337. CHAIN.OPEN answers whether the slot was not open and the landing buffer has room, and opens the chain if so; a failed open
completes at issue (R336); where the instruction was held over a save, pd is written once more as it completes (R440). CHAIN.JOIN marks the binding pending and sends its request. -/
def Obligations.ChainsOpenAndJoin : Prop :=
  (∀ f s e t b, Runs .chainOpen f (noRuns f) s e →
    let d := s.lowPair e f.a
    let old := s.chainAt e.g.core (bitsOf d.toNat 63 58)
    let c := Chain.ofDesc d e.g.core e.la.id e.b.id ((old.map (·.gen)).getD 0 + 1)
    let yes := !(old.elim false (·.isOpen)) && decide (c.bytes ≤ s.landingFree e.g.core)
    s.tileOf e c.tile = some (t, b) → chainGood e d c t b →
    let told := giveAll s e f [if yes then 1 else 0]
    let made := told.addOp e f .saved (fun _ _ => (.opened, (truthOf yes).writes f))
    let u := made.2.updOp made.1 (fun o => { o with dst := none })
    exec (.chainOpen f) s = .next ((if yes then { u with chains := s.chains.filter (fun x => !(x.core = c.core && x.slot = c.slot)) ++ [c] }
      else u.doneAtIssue e f made.1 e.x).retire
      e .chainOpen f)) ∧
  (∀ f s e, Runs .chainJoin f (noRuns f) s e →
    let n := s.lowSrc e f.a
    let share := (s.lowSrc e f.b).toNat
    s.nameKnown e.la n = true → 0 < share → share ≤ 65535 → (∀ b, e.g.binding? n = some b → b.pending = false) →
    (e.g.binding? n = none → e.g.bindings.length < 16) →
    ∃ (t : State) (j : Join) (o : LongOp), exec (.chainJoin f) s = .next (t.retire e .chainJoin f) ∧ t.joins = s.joins ++ [j] ∧ j.peer = none ∧ t.ops = s.ops ++ [o] ∧
      j.op = o.id ∧ j.group = e.gid ∧ j.launch = e.la.id ∧ j.name = n ∧ j.share = share ∧ j.parked = false ∧ (∀ l ∈ o.lanes, l.cond = .engine) ∧
      t.groups = (s.updGroup e.gid (fun g => match e.g.binding? n with
        | some _ => g.updBinding n (fun b => { b with pending := true })
        | none => { g with bindings := g.bindings ++ [Binding.fresh n] })).groups ∧ t.mem = s.mem)

/-- R338 to R340. CHAIN.SEND, with a binding that is neither pending nor suspended, sends one contribution and takes one from its share, and a binding
without share goes: .ACC through the matrix queue, from a tile, behind what re-enters it first and not suspended itself (R330, as log entry 53 reads
it), waiting at issue while it is full; .SP through a layout of the binding's shape. R345, R348, R349. CHAIN.WAIT waits for the chain that its block has open in
the slot; CHAIN.STATUS gives the status word of the slot's record, or zero; CHAIN.ABORT closes the chain, takes its integration out of the queue,
refuses the joins parked at it and unmarks the bindings to it; those keep their shares. -/
def Obligations.ChainsSendWaitAndAbort : Prop :=
  (∀ f s e b, Runs .chainSend f (noRuns f) s e → e.g.binding? (s.lowSrc e f.a) = some b → b.pending = false → b.suspended = false →
    (f.mod = 0 → ∀ d blk,
      let w := (s.lowSrc e f.b).toNat
      s.tileOf e (w % 16) = some (d, blk) → d.format ≠ 11 → w / 2 ^ 11 = 0 →
      regionHeld blk d e.g.core (64 * bitsOf w 6 4) (64 * bitsOf w 10 7) b.rows b.cols = true →
      let u := s.reenterAt e (.send 0 (64 * bitsOf w 6 4) (64 * bitsOf w 10 7) b.rows b.cols)
      (u.matrixFull e.g.core = true → exec (.chainSend f) s = .next (u.rewind e)) ∧
      (u.matrixFull e.g.core = false →
      ∃ (t : State) (c : Contribution) (m : MatEntry), exec (.chainSend f) s = .next (t.retire e .chainSend f) ∧ Sent s t e b c ∧ ShareTaken s t e b ∧
        t.matrix.getLast? = some m ∧ m.kind = .send c.id (64 * bitsOf w 6 4) (64 * bitsOf w 10 7) b.rows b.cols ∧ m.cores = [e.g.core] ∧
        m.suspended = false ∧
        m.op = c.op ∧ m.block = blk.id ∧ m.tile = w % 16 ∧ t.mem = s.mem)) ∧
    (f.mod ≠ 0 →
      let m := e.layout (layC f)
      layValid m = true → sendShape m b = true → layR m = true → (∀ c ∈ sendElems b.rows b.cols, layAddr m c % 4 = 0) →
      ∃ (t : State) (c : Contribution), exec (.chainSend f) s = .next (t.retire e .chainSend f) ∧ Sent s t e b c ∧ ShareTaken s t e b ∧ c.lay = m ∧ c.entry = layC f ∧
        c.block = e.b.id ∧ t.mem = s.mem)) ∧
  (∀ f s e c, Runs .chainWait f (noRuns f) s e → ownChain s e f = some c → c.waiter = none →
    let made := s.addOp e f .saved (fun _ _ => (.engine, []))
    exec (.chainWait f) s = .next ((((made.2.updChain e.g.core (slotOf s e f) (fun c => { c with waiter := some made.1 })).placeIntegrations
      e.g.core)).retire e .chainWait f)) ∧
  Does .chainStatus noRuns always (fun f s e => giveAll s e f [match s.chainAt e.g.core (slotOf s e f) with
    | some c => if c.launch = e.la.id then c.statusWord else 0
    | none => 0]) ∧
  (∀ f s e c, Runs .chainAbort f (noRuns f) s e → ownChain s e f = some c →
    ∃ t : State, exec (.chainAbort f) s = .next (t.retire e .chainAbort f) ∧ t.mem = s.mem ∧
      t.chains = s.chains.map (fun x => if x.core = e.g.core ∧ x.slot = slotOf s e f then x.shut true else x) ∧
      t.matrix = s.matrix.filter (fun m => !(m.kind = MatKind.integrate (slotOf s e f) && m.cores = [e.g.core])) ∧
      (∀ j ∈ t.joins, ¬ (j.parked = true ∧ s.joinLaunch j = some e.la.id ∧ nameDevice j.name = s.device ∧ nameCore j.name = e.g.core ∧
        nameSlot j.name = slotOf s e f)) ∧
      (c.suspended = true → ∀ g ∈ t.groups, g.launch = e.la.id → ∀ b ∈ g.bindings, b.name = s.slotName e.g.core (slotOf s e f) → b.gen = c.gen →
        b.suspended = false))

/-- R334, R337, R341 to R346, R352, R457. A join request is acknowledged within the chain's count, refused beyond it, and parks where no chain is open;
one that names a peer device leaves for it, and is refused where no link reaches it (R451). A contribution that can be read lands, where it finds its chain; one for
a peer leaves for it. A peer's join, its answer, a peer's contribution and its answer arrive likewise. An integration writes its region and closes its
chain; a suspending chain that no contribution is on its way to, here or on a peer, is saved, and its block's pre-emption has marked the bindings to it. -/
def Obligations.ChainEvents : Prop :=
  (∀ (s : State) (k : Nat) (j : Join), findId Join.id k s.joins = some j → j.id = k →
    (nameDevice j.name = s.device → ∀ la, s.joinLaunch j = some la →
      (∀ c, s.openChain (nameCore j.name) (nameSlot j.name) la = some c → c.suspended = false →
        exec (.joinRequestArrival (.here k)) s = .next (s.answerJoin j (if c.acked + j.share ≤ c.count then some c else none))) ∧
      (s.openChain (nameCore j.name) (nameSlot j.name) la = none →
        exec (.joinRequestArrival (.here k)) s = .next { s with joins := updId Join.id k (fun j => { j with parked := true }) s.joins })) ∧
    (nameDevice j.name ≠ s.device → s.peerCut (nameDevice j.name) = false → j.parked = false →
      exec (.joinRequestArrival (.here k)) s = .next { s with
        joins := updId Join.id k (fun j => { j with parked := true }) s.joins
        outbox := s.outbox ++ [(nameDevice j.name, .join k (s.linkOf j.launch) j.name j.share)] }) ∧
    (nameDevice j.name ≠ s.device → s.peerCut (nameDevice j.name) = true →
      exec (.joinRequestArrival (.here k)) s = .next (s.answerJoin j none)) ∧
    (∀ d : BitVec 3, ∀ c, j.peer = none → nameDevice j.name = d.toNat →
      exec (.joinRequestArrival (.peer d (.joined k c))) s = .next { s.tellJoin j c with joins := delId Join.id k s.joins })) ∧
  (∀ (s : State) (d : BitVec 3) id link name share la, nameDevice name = s.device → s.linked link d.toNat = some la →
    let u : State := { s with nextId := s.nextId + 1 }
    let j : Join := { id := s.nextId, peer := some (d.toNat, id, link), op := 0, group := 0, launch := 0, name, share, parked := true }
    (∀ c, s.openChain (nameCore name) (nameSlot name) la.id = some c → c.suspended = false →
      ∃ t : State, exec (.joinRequestArrival (.peer d (.join id link name share))) s = .next t ∧
        t.outbox = s.outbox ++ [(d.toNat, .joined id (if c.acked + share ≤ c.count then some c.shape else none))] ∧
        (c.acked + share ≤ c.count → (t.chainAt (nameCore name) (nameSlot name)).map (fun x => (x.acked, x.peers.contains d.toNat)) =
          some (c.acked + share, true))) ∧
    (s.openChain (nameCore name) (nameSlot name) la.id = none → (∀ x ∈ s.joins, x.id ≠ s.nextId) →
      exec (.joinRequestArrival (.peer d (.join id link name share))) s = .next { u with joins := s.joins ++ [j] })) ∧
  (∀ (s : State) (k : Nat) (x : Contribution) vals, findId Contribution.id k s.contributions = some x → x.id = k → x.away = false →
    (x.vals = some vals ∨ (x.vals = none ∧ layValid x.lay = true ∧ s.readSp x = .ok vals)) →
    (nameDevice x.name = s.device →
      (∀ ch, s.openChain (nameCore x.name) (nameSlot x.name) x.launch = some ch → ch.gen = x.gen →
        ∃ t : State, exec (.contributionLanding (.here k)) s = .next t ∧ t.contributions = delId Contribution.id k s.contributions ∧ t.mem = s.mem ∧
          (t.chainAt (nameCore x.name) (nameSlot x.name)).map (fun c => (c.landed, c.sums, c.stat)) =
            some ((ch.land x.rows x.cols vals).landed, (ch.land x.rows x.cols vals).sums, (ch.land x.rows x.cols vals).stat)) ∧
      ((∀ ch, s.openChain (nameCore x.name) (nameSlot x.name) x.launch = some ch → ch.gen ≠ x.gen) →
        ∃ t : State, exec (.contributionLanding (.here k)) s = .next t ∧ t.contributions = delId Contribution.id k s.contributions ∧ t.mem = s.mem ∧
          t.chains = s.chains)) ∧
    (nameDevice x.name ≠ s.device → s.peerCut (nameDevice x.name) = false →
      ∃ t : State, exec (.contributionLanding (.here k)) s = .next t ∧ t.chains = s.chains ∧ t.mem = s.mem ∧
        t.outbox = s.outbox ++ [(nameDevice x.name, .send x.id (s.linkOf x.launch) x.name x.gen x.rows x.cols vals)])) ∧
  (∀ (s : State) (d : BitVec 3) id link name gen rows cols vals la ch, nameDevice name = s.device → s.linked link d.toNat = some la →
    s.openChain (nameCore name) (nameSlot name) la.id = some ch → ch.gen = gen →
    ∃ t : State, exec (.contributionLanding (.peer d (.send id link name gen rows cols vals))) s = .next t ∧ t.mem = s.mem ∧
      t.outbox = s.outbox ++ [(d.toNat, .landed id)] ∧
      (t.chainAt (nameCore name) (nameSlot name)).map (fun c => (c.landed, c.sums, c.stat)) = some ((ch.land rows cols (SMap.setAll [] vals)).landed,
        (ch.land rows cols (SMap.setAll [] vals)).sums, (ch.land rows cols (SMap.setAll [] vals)).stat)) ∧
  (∀ (s : State) core slot (m : MatEntry) (c : Chain), s.nextEntry core = some m → s.chainAt core slot = some c → m.kind = .integrate slot →
    c.isOpen = true →
    ∃ t : State, exec (.integrationEntry core slot) s = .next t ∧ t.mem = s.mem ∧ (t.chainAt core slot).map (·.isOpen) = some false ∧
      t.acc = s.acc.setAll ((sendElems c.rows c.cols).map (fun x =>
        let key := accKey m.block c.tile (c.i0 + x.getD 1 0) (c.j0 + x.getD 0 0)
        (key, BitVec.ofNat 48 (c.written (s.entryTile m).format (s.acc.get key).toNat (x.getD 1 0 * 1024 + x.getD 0 0)))))) ∧
  (∀ (s : State) name (c : Chain), nameDevice name = s.device → s.chainAt (nameCore name) (nameSlot name) = some c → c.isOpen = true →
    c.suspended = true → c.saved = false →
    (s.sendsTo c.launch name c.gen = false → (∀ d ∈ c.awaited, s.peerCut d = true) →
      exec (.chainSuspension name .due) s = .next (s.updChain (nameCore name) (nameSlot name) (fun c => { c with saved := true }))) ∧
    (s.sendsTo c.launch name c.gen = true ∨ (∃ d ∈ c.awaited, s.peerCut d = false) → exec (.chainSuspension name .due) s = .next s)) ∧
  (∀ (s : State) name (d : BitVec 3) gen (c : Chain), nameDevice name = s.device → s.chainAt (nameCore name) (nameSlot name) = some c → c.gen = gen →
    ∃ t : State, exec (.chainSuspension name (.acknowledged d gen)) s = .next t ∧ t.mem = s.mem ∧
      (t.chainAt (nameCore name) (nameSlot name)).map (·.awaited) = some (c.awaited.filter (fun x => x ≠ d.toNat))) ∧
  (∀ (s : State) name (d : BitVec 3) link gen la, s.linked link d.toNat = some la → s.sendsTo la.id name gen = false →
    ∃ t : State, exec (.chainSuspension name (.told d link gen true)) s = .next t ∧ t.mem = s.mem ∧
      t.outbox = s.outbox ++ [(d.toNat, .suspended name gen)] ∧ ∀ g ∈ t.groups, g.launch = la.id → ∀ b ∈ g.bindings, b.name = name → b.gen = gen →
        b.suspended = true) ∧
  (∀ (s : State) (block : Nat) (c : Chain), c ∈ s.chains → c.block = block → c.isOpen = true → c.suspended = false →
    ∀ g ∈ (s.suspendChains block).groups, g.launch = c.launch → ∀ b ∈ g.bindings, b.name = s.slotName c.core c.slot → b.gen = c.gen →
      b.suspended = true)

/-! ### Completion: the batcher -/

/-- R371 to R376. BAT.OPEN answers whether the core's batcher was free, and opens the stream if so; BAT.PUSH hands its lanes' constraints to the stream,
in ascending order; BAT.CLOSE closes it; BAT.DONE has its lanes' body claims end; BAT.STAT gives the status word. -/
def Obligations.BatcherInstructions : Prop :=
  (∀ f s e, Runs .batOpen f (noRuns f) s e →
    let d := (s.lowSrc e f.a).toNat
    let lv := e.rcd.level (e.g.level + 1)
    e.g.level < 7 → lv.present = true → lv.gen = 4 → bitsOf d 31 12 = 0 → bitsOf d 3 2 = 0 →
    let free := (s.stream? e.g.core).isNone
    let told := giveAll s e f [if free then 1 else 0]
    let new : Stream := { core := e.g.core, launch := e.la.id, block := e.b.id, level := e.g.level, depth := bitsOf d 11 4 + 1, bodies := bitsOf d 1 0 + 1
                          closed := false, closeOp := none, seq := 0, formed := 0, window := [], pushes := [], batches := [] }
    exec (.batOpen f) s = .next ((if free then { told with streams := s.streams ++ [new] } else told).retire e .batOpen f)) ∧
  (∀ f s e t, Runs .batPush f (noRuns f) s e → s.ownStream e = some t → t.closed = false → pushRunFault e f t.bodies = none →
    let made := s.addOp e f .saved (fun _ _ => (.engine, []))
    let ps := e.lanes.map (fun c =>
      ({ op := made.1, lane := c.1, key := (pushWords s e f c t.bodies).headD 0, bodies := (pushWords s e f c t.bodies).tail
         pusher := c.2.elem, claims := made.2.claimsOf [c.2.elem] } : Push))
    exec (.batPush f) s = .next ((State.feed t.core ps.length
      ((made.2.addClaims (ps.flatMap (·.claims))).updStream t.core (fun t => { t with pushes := t.pushes ++ ps }))).retire e .batPush f)) ∧
  (∀ f s e t, Runs .batClose f (noRuns f) s e → s.ownStream e = some t → t.closed = false →
    let made := s.addOp e f .saved (fun _ _ => (.engine, []))
    exec (.batClose f) s = .next (((made.2.updStream t.core (fun t => { t with closed := true, closeOp := some made.1 })).endStream t.core).retire e
      .batClose f)) ∧
  Does .batDone noRuns (fun _ _ e => (e.rcd.level e.g.level).gen = 4) (fun _ s e =>
    { s with streams := s.streams.map (fun t => { t with batches := t.batches.map (fun b =>
        b.leave (fun i => match b.elems[i]? with
          | some k => (e.lanes.map (fun c => c.2.elem)).contains k
          | none => false)) }) }) ∧
  Does .batStat noRuns always (fun f s e => giveAll s e f [s.batcherWord e])

/-- R362 to R367. A due batch is cut from the window, and its constraints' elements come into being, claimed; it is admitted on its partition once it is
the first that can be; a leaving lane's body claims end. -/
def Obligations.BatchEvents : Prop :=
  (∀ (s : State) core (t : Stream) (la : Launch) (bk : Block), s.stream? core = some t → s.launch? t.launch = some la → s.block? t.block = some bk →
    bk.st = .admitted → bk.preemptAt = none → t.due = true →
    let cut := cutBatch (la.rcd.level (t.level + 1)).width [] [] t.window
    t.claimCount + (cut.1.map (·.bodySet.length)).sum ≤ Config.claimTable →
    let made := s.createElems t.launch (t.level + 1) (cut.1.map (·.birth))
    let placed := (made.2.passClaims (cut.1.flatMap (·.claims))).placeElems made.1 t.block
    let b : Batch := { num := t.formed, members := cut.1, elems := made.1, claims := cut.1.map (fun _ => .held), group := none, ended := false }
    exec (.batchFormation core) s = .next (State.feed core t.pushes.length (placed.updStream core (fun t =>
      { t with window := cut.2, formed := t.formed + 1, batches := t.batches ++ [b] })))) ∧
  (∀ (s : State) core n (t : Stream) (la : Launch) (bk : Block) (b : Batch) p, s.stream? core = some t → s.launch? t.launch = some la →
    s.block? t.block = some bk → t.batches.find? (fun b => b.num = n) = some b → s.batchPlace t b = some p →
    (∀ x ∈ t.batches, x.num < n → s.batchPlace t x = none) →
    exec (.batchAdmission core n) s = .next ((s.newGroup la { bk with level := t.level + 1 } n 3 b.elems core p (la.rcd.entryOf (t.level + 1) 3)).updStream
      core (fun t => { t with batches := t.batches.map (fun x => if x.num = n then { x with group := some s.nextId } else x) }))) ∧
  (∀ (s : State) core n lane, exec (.bodyClaimRelease core n lane) s = .next ((s.updStream core (fun t => { t with batches := t.batches.map (fun b =>
    if b.num = n then { b with claims := b.claims.zipIdx.map (fun c => if c.1 = .leaving ∧ c.2 = lane then .ended else c.1) } else b) })).endStream
      core))


namespace Sys2Proof.Machine

/-- The three vertex indices of a lane of PRIM.EMIT (R382). -/
def vertIdx (s : State) (e : Env) (f : Form) (c : Nat × Lane) : List Nat := (List.range 3).map (fun i => (s.srcAt e .int c.1 c.2 i f.a).toNat)

/-- A texture instruction's checks before its reads: sampler words, handle, coordinates (R402). `taps` gives a lane's texels, or a word of BOUNDS. -/
def texReady (s : State) (e : Env) (f : Form) (taps : Env → Word → Nat → Lane → Except Word (List Tap)) : Prop :=
  ∀ c ∈ e.lanes, samplerOk (s.src e .int c.1 c.2 f.b) = true ∧
    handleFault e.layout (layC f) (samplerLevels (s.src e .int c.1 c.2 f.b)) = none ∧
    ∃ ts, taps e (s.src e .int c.1 c.2 f.b) c.1 c.2 = .ok ts ∧ ∀ t ∈ ts,
      (s.access e (layC f + t.level) [t.i, t.j] (layElem (e.layout (layC f))) 0 false).good = true

/-- The texels of a lane with what they hold: weight and bits. -/
def texels (s : State) (e : Env) (f : Form) (taps : Env → Word → Nat → Lane → Except Word (List Tap)) (l : Nat) (ln : Lane) : List (Nat × Nat) :=
  match taps e (s.src e .int l ln f.b) l ln with
  | .error _ => []
  | .ok ts => ts.map (fun t => (t.weight, s.chkLoad (s.access e (layC f + t.level) [t.i, t.j] (layElem (e.layout (layC f))) 0 false)))

/-- A texture instruction completes: four channels, each the exact weighted sum of the lane's texels rounded once, written at completion (R403). -/
def samples (op : Op) (taps : Form → State → Env → Word → Nat → Lane → Except Word (List Tap)) : Prop :=
  Does op noRuns (fun f s e => texReady s e f (taps f s)) (fun f s e =>
    (s.addOp e f .completed (fun l ln => (.ready, (LaneRes.of ((List.range 4).map (fun c =>
      texBlend (layCode (e.layout (layC f))) c (texels s e f (taps f s) l ln)))).writes f))).2)

/-- The texels of TEX: the two levels that λ lies between, the upper one with λ's fraction (R403). -/
def texTapsOf (f : Form) (s : State) (e : Env) (w : Word) (l : Nat) (ln : Lane) : Except Word (List Tap) :=
  let r := fun (i : Nat) => s.srcAt e .fp l ln i f.a
  let x := texLambda (samplerLevels w) (r 2)
  let g := if x / 256 = samplerLevels w - 1 then 0 else x % 256
  .ok (texTaps (e.layout (layC f + x / 256)) w (x / 256) (256 - g) (r 0) (r 1) ++
    texTaps (e.layout (layC f + x / 256 + 1)) w (x / 256 + 1) g (r 0) (r 1))

/-- The texels of TEXL: one level. -/
def texlTapsOf (f : Form) (s : State) (e : Env) (w : Word) (l : Nat) (ln : Lane) : Except Word (List Tap) :=
  let r := fun (i : Nat) => s.srcAt e .fp l ln i f.a
  if samplerLevels w ≤ (r 2).toNat then .error (boundsInfo 0 false 7 (layC f))
  else .ok (texTaps (e.layout (layC f + (r 2).toNat)) w (r 2).toNat 256 (r 0) (r 1))

/-- The texel of TEXF; none beyond the extents or the level count under .Z. -/
def texfTapsOf (f : Form) (s : State) (e : Env) (w : Word) (l : Nat) (ln : Lane) : Except Word (List Tap) :=
  let r := fun (i : Nat) => (s.srcAt e .int l ln i f.a).toNat
  let out := fun (i k : Nat) => if f.mod.getLsbD 0 then .ok [] else Except.error (boundsInfo 0 false i k)
  if samplerLevels w ≤ r 2 then out 7 (layC f)
  else if layExt (e.layout (layC f + r 2)) 0 ≤ r 0 then out 0 (layC f + r 2)
  else if layExt (e.layout (layC f + r 2)) 1 ≤ r 1 then out 1 (layC f + r 2)
  else .ok [{ level := r 2, weight := 2 ^ 24, i := r 0, j := r 1 }]

/-- R416, R437. The %trap.pc of an asynchronous trap at a clause boundary: the header of the ready path that R185 would choose; where none is ready, of the
path with the most lanes. -/
def trapPlace (s : State) (g : Group) (pc : Nat) : Prop :=
  (∀ p, g.choose (s.readyPaths g) = some p → pc = p.pc) ∧ (g.choose (s.readyPaths g) = none → pc = (mostLanes g.paths).elim 0 (·.pc))

/-- R416, R417. The delivery of an asynchronous trap to group `k`, which stood as `g`: its handler is open at `pc`, its lanes `hl` stand at the handler's
entry with their return points and information and keep every register, its L entries are hidden, and the clause `kept` is to go on. -/
def Delivers (s : State) (k : Nat) (g : Group) (entry cause pc : Nat) (info : Lane → Word) (trapLanes hl : LaneMask) (kept : Option Run) : Prop :=
  ∃ (t : State) (g' : Group) (h : Handler), exec (.asyncTrapDelivery k) s = .next t ∧ t.mem = s.mem ∧ t.group? k = some g' ∧ g'.handler = some h ∧
    g'.run = none ∧ h.cause = BitVec.ofNat 8 cause ∧ h.pc = pc ∧ h.trapLanes = trapLanes ∧ h.lanes = hl ∧ h.kept = kept ∧
    (∀ x, x ≠ k → (t.group? x).map (·.lanes) = (s.group? x).map (·.lanes)) ∧
    ∀ l ln, g.lane? l = some ln → g'.lane? l = some (if hl.getLsbD l then
      { ln with info := info ln, retPc := ln.pc, pc := entry, lHidden := ln.lValid, lKept := ln.l, lValid := 0 } else ln)

/-- R419. Firmware has ended a launch, with this end word, and reported it to the launch's queue; no group, and no lane, of it is there to run again. -/
def EndsReported (s t : State) (la : Launch) (word info : Word) (pc : Nat) (lanes : LaneMask) : Prop :=
  t.completions = s.completions ++ [{ queue := la.queue, tag := la.tag, opcode := la.opcode, kind := 2, status := word, value := BitVec.ofNat 64 la.id
                                      detail := lanes ++ BitVec.ofNat 32 pc ++ info }] ∧
  (∃ la', t.launch? la.id = some la' ∧ la'.st = .ended ∧ la'.normal = false ∧ la'.endWord = word) ∧
  (∀ x ∈ t.groups, x.launch ≠ la.id) ∧ (∀ b ∈ t.blocks, b.launch = la.id → b.st = .ended) ∧
  ∀ f, t.focus = some f → ∀ x, s.group? f = some x → x.launch ≠ la.id

/-- R444. A group of a restored block, which stood as `g`, starts at its restore entry: an unexited lane is free there, its registers, predicates and L
entries gone; an exited lane is as it was; the held flag counts and the derived entries stay. -/
def Restarted (la : Launch) (g g' : Group) : Prop :=
  g'.run = none ∧ g'.handler = none ∧ g'.done = false ∧ g'.seams = [] ∧ g'.serial = none ∧ g'.resumeOn = false ∧ g'.g = la.rcd.gImage g.level ∧
  g'.flags = g.flags ∧ g'.derived = g.derived ∧ g'.faults = g.faults ∧
  ∀ l ln, g.lane? l = some ln → ∃ x, g'.lane? l = some x ∧ x.elem = ln.elem ∧ (ln.unexited = false → x = ln) ∧
    (ln.unexited = true → x.st = .free ∧ x.pc = la.rcd.restores.getD g.level 0 ∧ x.v = [] ∧ x.o = [] ∧ x.p = 0 ∧ x.lValid = 0 ∧ x.wait = 0 ∧
      x.clockHi = ln.clockHi ∧ x.restoring = true)

/-- R159. What the threads of a reorder point are sorted by: key, group number, lane number. -/
def regroupRank (x : Nat × Nat × Lane) : List Nat := [(x.2.2.regroup?).elim 0 (fun r => r.2.2.toNat), x.1, x.2.1]

/-- The lanes of X have left the handler with these ends (R418). -/
def leaves (s : State) (e : Env) (st : Nat → Lane → LaneSt) (mark : Handler → Handler) : State :=
  s.updGroup e.gid (fun g => { g.updLanes e.x (fun l ln => { ln with st := st l ln }) with handler := g.handler.map mark })

end Sys2Proof.Machine

open Sys2Proof Sys2Proof.Machine

/-! ### Completion: draws, rays, textures -/

/-- R382 to R389. PRIM.EMIT adds one pending primitive for each lane, in a launch that draws, where its indices name emitted vertices and the buffer has
room (the unresolved primitives of the launch count toward its capacity, log entry 31), and its lanes wait for them to be binned. A primitive whose vertices have finished is binned, or discarded with its claims ended; a ready pass is
resolved, and is no longer pending. -/
def Obligations.DrawsComplete : Prop :=
  (∀ f s e, Runs .primEmit f (noRuns f) s e →
    let k := e.rcd.rasterLevel
    e.rcd.draw.present = true → e.g.level + 2 = k → heldIndex f.c ≤ 60 → heldIndex f.c + 3 < (e.rcd.level (k - 1)).held →
    (∀ c ∈ e.lanes, ∀ i ∈ vertIdx s e f c, i < (s.laneElem c.2).elim 0 (·.emitted)) →
    (s.prims.filter (fun p => p.launch = e.la.id)).length + e.lanes.length ≤ e.rcd.draw.capacity →
    ∃ (t : State) (ps : List Prim) (o : LongOp), exec (.primEmit f) s = .next (t.retire e .primEmit f) ∧ t.prims = s.prims ++ ps ∧
      t.ops = s.ops ++ [o] ∧ t.mem = s.mem ∧ ps.map (·.lane) = e.lanes.map (·.1) ∧ o.lanes.map (fun l => (l.lane, l.cond)) = ps.map (fun p => (p.lane, .prim p.id)) ∧
      ps.map (fun p => (p.emitter, p.primId)) = e.lanes.map (fun c => (c.2.elem, s.src e .int c.1 c.2 f.b)) ∧
      ∀ p ∈ ps, p.op = o.id ∧ p.launch = e.la.id ∧ p.cull = f.mod.toNat ∧ p.reg = heldIndex f.c ∧ p.binned = false ∧ p.verts.length = 3) ∧
  (∀ (s : State) (k : Nat) (p : Prim) (la : Launch), findId Prim.id k s.prims = some p → s.launch? p.launch = some la → p.binned = false →
    (∀ v ∈ p.verts, ∃ e, s.elem? v = some e ∧ e.st = .finished) →
    exec (.primitiveBinning k) s = .next (match s.binned la.rcd.draw p with
      | some q => { s.readyLane p.op p.lane [] with prims := updId Prim.id k (fun _ => q) s.prims }
      | none => ({ s.readyLane p.op p.lane [] with prims := delId Prim.id k s.prims }.endClaims p.claims).freeSlots)) ∧
  (∀ (s : State) launch pass (la : Launch) (p : Elem), s.launch? launch = some la → s.elem? pass = some p → la.rcd.draw.present = true →
    la.st = .running → p.launch = launch → s.passReady la p = true →
    ∃ t : State, exec (.passResolution launch pass) s = .next t ∧ t.mem = s.mem ∧
      (∀ la', t.launch? launch = some la' → pass ∈ la'.passes) ∧ ∀ q ∈ t.prims, q ∈ s.prims ∧ q.id ∉ (s.passPrims la pass).map (·.id))

/-- R395 to R401. TRACE adds one ray for each lane whose depth does not pass 8, writes pd, and those lanes wait; the others complete at issue. A traversal
that ends stores its result, one that fails reports ENGINE_FAULT (R397), and the last one has the ray elements created; RETV records the return components that its mask names. -/
def Obligations.RaysComplete : Prop :=
  (∀ f s e, Runs .trace f (noRuns f) s e →
    let same := decide ((e.rcd.level e.g.level).gen = 3)
    let n := if same then e.g.level else e.g.level + 1
    let goes := fun (ln : Lane) => (s.laneElem ln).elim false (fun el => decide (childDepth same el ≤ 8))
    n < 8 → (e.rcd.level n).present = true → (e.rcd.level n).gen = 3 → bvhFault (e.layout (layC f)) (layC f) = none →
    ∃ (t : State) (rs : List RaySet) (o : LongOp), exec (.trace f) s = .next (t.retire e .trace f) ∧ t.raySets = s.raySets ++ rs ∧
      t.mem = s.mem ∧ t.groups = ((s.writeRegs e.gid (e.writes f (fun _ ln => truthOf (goes ln)))).updGroup e.gid (fun g =>
        g.subFlag? (e.r.flagOf f.fsel) (laneCount (e.where_ (fun _ ln => !goes ln))))).groups ∧
      ((∃ c ∈ e.lanes, goes c.2 = true) → t.ops.getLast? = some o) ∧
      o.lanes.map (fun l => (l.lane, l.cond)) = (e.lanes.filter (fun c => goes c.2)).map (fun c => (c.1, .trace)) ∧ o.run = Opnd.first f.b ∧
      (rs.flatMap (·.rays)).map (fun r => (r.lane, r.elem, r.inputs, r.payload)) = (e.lanes.filter (fun c => goes c.2)).map (fun c =>
        (c.1, c.2.elem, (List.range 10).map (fun i => s.srcAt e .fp c.1 c.2 i f.a), (List.range 4).map (fun i => s.srcAt e .int c.1 c.2 i f.b))) ∧
      ∀ r ∈ rs, r.op = o.id ∧ r.group = e.gid ∧ r.lanes = e.r.lanes ∧ ∀ x ∈ r.rays, x.op = o.id ∧ x.bvh = e.layout (layC f) ∧ x.first = decide (f.mod = 1) ∧ x.result = none) ∧
  (∀ (s : State) op lane (rs : RaySet) (ray : Ray) (g : Group) (la : Launch) hit, s.raySets.find? (fun r => r.op = op) = some rs →
    rs.rays.find? (fun r => r.lane = lane && r.result.isNone) = some ray → s.group? rs.group = some g → s.launch? g.launch = some la →
    (Walker.mk s la g ray).traverse = .done hit →
    exec (.traversalCompletion op lane) s =
      .next (s.settleRay la g rs lane (hit.elim (missRegs 0 (ray.inputs.getD 7 0)) hitRegs))) ∧
  (∀ (s : State) op lane (rs : RaySet) (ray : Ray) (g : Group) (la : Launch) reason, s.raySets.find? (fun r => r.op = op) = some rs →
    rs.rays.find? (fun r => r.lane = lane && r.result.isNone) = some ray → s.group? rs.group = some g → s.launch? g.launch = some la →
    (Walker.mk s la g ray).traverse = .failed reason →
    exec (.traversalCompletion op lane) s =
      .next ((s.engineFault g.id rs.lanes 5 reason ray.entry 0).settleRay la g rs lane (missRegs 2 (ray.inputs.getD 7 0)))) ∧
  Does .retv noRuns (fun _ _ e => (e.rcd.level e.g.level).gen = 3) (fun f s e => e.lanes.foldl (fun (t : State) c => t.updElem c.2.elem (·.setRets
    (((List.range 4).filter (fun k => (s.src e .int c.1 c.2 f.b).getLsbD k)).map (fun k => (k, s.srcAt e .int c.1 c.2 k f.a))))) s)

/-- R402, R403. TEX, TEXL and TEXF. That their texels are read as they issue, and the samples written at completion, is log entry 3's reading. -/
def Obligations.TextureSamples : Prop := samples .tex texTapsOf ∧ samples .texl texlTapsOf ∧ samples .texf texfTapsOf

/-! ### Completion: system -/

/-- R422, R423, R439. TRAPI takes SOFTWARE with its operand as %trap.info. In a handler, TRET sends each lane of X where its sub-operation says: .RETRY
to the trapped instruction, or to the header where the trap was taken there; .NEXT past the instruction, or past the clause where it was the last, and after an
asynchronous trap where .RETRY does; .TO to its target;
PREEMPT.DONE, in a PREEMPT handler that no TRET has left, is done with the lanes. -/
def Obligations.TrapsAndReturns : Prop :=
  (∀ f s e, Runs .trapi f (noRuns f) s e → exec (.trapi f) s = .next (s.trapAt e.gid Cause.software (s.lowSrc e f.b) e.x)) ∧
  (∀ f s e h, Runs .tret f (noRuns f) s e → e.g.handler = some h → h.preDone = false →
    (f.mod = 0 → exec (.tret f) s = .next ((leaves s e (fun _ ln => .returned (if h.atHeader then .header ln.retPc else .retry)) Handler.tretDone).retire e
      .tret f)) ∧
    (f.mod = 1 → exec (.tret f) s = .next ((leaves s e (fun _ ln => .returned (if h.atHeader then .header ln.retPc else
      if h.cause.toNat = Cause.budget then .retry else
      match h.kept with
      | some k => if k.body = [] then .header k.ft else .skip
      | none => .header ln.retPc)) Handler.tretDone).retire e .tret f)) ∧
    (f.mod = 2 → targetsGood s e (aTarget s e f) →
      ∃ st, exec (.tret f) s = .next ((leaves s e st Handler.tretDone).retire e .tret f) ∧
        ∀ c ∈ e.lanes, st c.1 c.2 = .returned (.header (s.src e .int c.1 c.2 f.a).toNat))) ∧
  (∀ f s e h, Runs .preemptDone f (noRuns f) s e → e.g.handler = some h → h.cause.toNat = Cause.preempt → h.tret = false →
    exec (.preemptDone f) s = .next ((leaves s e (fun _ _ => .done) (fun h => { h with preDone := true })).retire e .preemptDone f))

/-- R424 to R427, R434, R448. SLICE.YIELD renews the slice and leaves the cores where a waiting slice leads (log entry 40); in a PREEMPT handler it renews the
budget alone, and a launch that is not pre-emptible stays; HINT.SUCC hints; LAUNCH submits the record that
the lowest lane names (log entry 42) and gives every lane the answer; WAITP waits for the predecessors, and completes at issue where they have ended. -/
def Obligations.SystemInstructions : Prop :=
  Does .sliceYield noRuns always (fun _ s e =>
    let handling := e.g.handler.elim false (fun h => h.cause.toNat = Cause.preempt)
    let t := s.updBlock e.b.id (fun b => b.renew e.rcd s.clock (!handling))
    if (!handling && e.rcd.preemptible && (t.block? e.b.id).elim false t.yieldsTo) = true then t.preemptBlock e.b.id else t) ∧
  Does .hintSucc noRuns always (fun _ s e => s.updLaunch e.la.id (fun la => { la with hinted := true })) ∧
  (∀ f s e, Runs .launch f (noRuns f) s e →
    let m := e.layout (layC f)
    let at_ := (s.lowSrc e f.a).toNat
    let head := recordChecks s e (layC f) at_ 4
    let n := recLength (s.recordBytes head)
    let all := recordChecks s e (layC f) at_ ((n + 15) / 16)
    (s.lowSrc e f.b).toNat % 4 ≠ 3 → layValid m = true → layRank m = 1 → layElem m = 16 → laySpace m = spGlobal → layR m = true →
    pastExtent m at_ 64 = false → pastExtent m at_ n = false → allGood head → allGood all →
    let answer := s.submit e ((s.lowSrc e f.b).toNat % 4) ((s.recordBytes all).take n)
    exec (.launch f) s = .next (((answer.2.addOp e f .completed (fun _ _ => (.ready, writeTo (f.dst.ref 0) answer.1))).2).retire e .launch f)) ∧
  Does .waitp noRuns always (fun f s e =>
    let made := s.addOp e f .cancelled (fun _ _ => (.preds, []))
    let t := made.2.updOp made.1 (fun o => { o with dst := none, pdst := f.dst.ref 0 })
    if t.predsEnded e.la = true then t.completeAll made.1 (lanesOf e.x) else t)

/-! ### Completion: the scheduler -/

/-- R98, R148, R170, R171, R178. A spawner's lane completes once its child has retired; an element that awaits a slot takes the lowest free index, in the
order of creation; one that has exited, with nothing outstanding, finishes; a claim's ending that arrives lets the slot go. -/
def Obligations.ElementEvents : Prop :=
  (∀ (s : State) op lane (o : LongOp) (l : OpLane) child, s.op? op = some o → o.lanes.find? (fun l => l.lane = lane) = some l → l.cond = .child child →
    s.retired child = true →
    exec (.spawnReturn op lane) s = .next (s.completeLane o l (((s.elem? child).elim [] (·.rets)).map (fun r => (RegRef.v (o.run + r.1), r.2))))) ∧
  (∀ (s : State) (k : Nat) (e : Elem) (la : Launch) core i, s.elem? k = some e → s.launch? e.launch = some la → s.poolOf e = some core → e.st = .waiting →
    la.st = .running → (core = 0x7F ∨ s.poolHere la.id core = true) → ((s.awaiting e.launch e.level core).head?).map (·.id) = some k →
    i < la.rcd.poolSize e.level → i ∉ (s.pool e.launch e.level core).map (·.index) →
    (∀ j < i, j ∈ (s.pool e.launch e.level core).map (·.index)) →
    exec (.elementAdmission k) s = .next { s.updElem k (fun e => { e with st := .admitted }) with
      slots := s.slots ++ [{ elem := k, launch := e.launch, level := e.level, core, index := i, h := [], holds := s.claimsOn k }] }) ∧
  (∀ (s : State) (k : Nat) (e : Elem) (la : Launch), s.elem? k = some e → s.launch? e.launch = some la → e.exited = true → e.st ≠ .finished →
    la.st = .running → s.elemBusy e = false →
    exec (.elementFinish k) s =
      .next ((((s.createFixed la e).endClaims e.claims).updElem k (fun e => { e with st := .finished })).freeSlots)) ∧
  (∀ (s : State) (k : Nat) (d : Ending), findId Ending.id k s.endings = some d →
    exec (.claimEndingArrival k) s = .next ({ s with endings := delId Ending.id k s.endings }.updSlot d.holder (fun sl =>
      { sl with holds := sl.holds - 1 })).freeSlots)

/-- R23, R25, R159, R185, R269, R273, R355, R407 to R409, R413. A lane of a ready long-latency instruction completes, behind the earlier ones that write
its G register; the lanes of a Tideway instruction complete together, each with its own
writes (pd of CHAIN.JOIN), and CHAIN.OPEN's, which has written its pd, with none but where it was held over a save (R440); a FENCE's lane waits for the lane's earlier instructions. The reorder point regroups
the threads of a level whose lanes all regroup: sorted by key, group and lane, they fill the old groups in the order of their numbers, each keeping its V
registers, predicates, %seed and element, with nothing in o and no L entry, at its fall-through (R160); a waiting block that a core has room for, and that no block with an earlier deadline outranks there, is
admitted; a partition's first ready group issues. What a FENCE's lane waits for, and that LDUs to one G register complete in issue order, are log entry 3's readings. -/
def Obligations.SchedulerEvents : Prop :=
  (∀ (s : State) op lane (o : LongOp) (l : OpLane), s.op? op = some o → o.lanes.find? (fun l => l.lane = lane) = some l → l.cond = .ready →
    (s.writesBehind o l = false → exec (.laneCompletion op lane) s = .next (s.completeLane o l l.writes)) ∧
    (s.writesBehind o l = true → exec (.laneCompletion op lane) s = .next s)) ∧
  (∀ (s : State) op lane (o : LongOp) (l : OpLane), s.op? op = some o → o.lanes.find? (fun l => l.lane = lane) = some l → l.cond = .joint →
    exec (.laneCompletion op lane) s = .next (s.completeLanes o (·.writes)) ∧ (s.completeLanes o (·.writes)).op? op = none ∧
    (s.completeLanes o (·.writes)).mem = s.mem ∧
    (∀ g p x, s.group? o.group = some g → o.kept = false → (∀ y ∈ o.lanes, p < 7 ∧ y.writes = [(RegRef.p p, if x then 1 else 0)]) →
      ∃ g', (s.completeLanes o (·.writes)).group? o.group = some g' ∧ ∀ y ∈ o.lanes, ∀ ln, g'.lane? y.lane = some ln → ln.pred p = x)) ∧
  (∀ (s : State) op lane (o : LongOp) (l : OpLane), s.op? op = some o → o.lanes.find? (fun l => l.lane = lane) = some l → l.cond = .opened →
    let t := s.completeLanes o (fun l => if o.kept then l.writes else [])
    exec (.laneCompletion op lane) s = .next t ∧ t.op? op = none ∧ t.mem = s.mem) ∧
  (∀ (s : State) op lane (o : LongOp) (l : OpLane) ks, s.op? op = some o → o.lanes.find? (fun l => l.lane = lane) = some l → l.cond = .after ks →
    ((∃ k ∈ ks, ∃ x, s.op? k = some x ∧ ∃ y ∈ x.lanes, y.lane = l.lane) → exec (.laneCompletion op lane) s = .next s) ∧
    ((∀ k ∈ ks, ∀ x, s.op? k = some x → ∀ y ∈ x.lanes, y.lane ≠ l.lane) →
      exec (.laneCompletion op lane) s = .next (s.completeLane o l l.writes))) ∧
  (∀ (s t : State) block (role : BitVec 2) n, n < 8 → (∀ m < n, s.reorderAt block m role.toNat = none) → s.reorderAt block n role.toNat = some t →
    exec (.reorderPoint block role) s = .next t ∧
    ∀ (la : Launch) (w : Nat) (old : List Group), old = sortBy (fun (a b : Group) => decide (a.num < b.num))
        ((s.roleGroups block n role.toNat).filter (fun g => g.lanes.any (·.unexited))) →
      (s.groups.map (·.id)).Nodup → 0 < w → (∀ g ∈ old, g.width = w ∧ s.launch? g.launch = some la) →
      ∃ order : List (Nat × Nat × Lane), order.Perm (participants old) ∧ order.Pairwise (fun x y => lexLt (regroupRank y) (regroupRank x) = false) ∧
        ∀ j g x, old[j / w]? = some g → order[j]? = some x → ∃ g', t.group? g.id = some g' ∧ g'.num = g.num ∧ (∀ i < 12, g'.flag i = 0) ∧
          (∀ i, g'.g.get i = if i < (la.rcd.level n).uniform then g.g.get i else 0) ∧
          g'.lane? (j % w) = some { x.2.2 with st := .free, pc := (x.2.2.regroup?).elim x.2.2.pc (·.1), o := [], l := [], lValid := 0, lHidden := 0
                                               lKept := [], wait := 0 }) ∧
  (∀ (s : State) block core (b : Block) (la : Launch) (p : Plan), s.block? block = some b → s.launch? b.launch = some la → b.st = .waiting →
    la.st = .running → la.preempted = false → s.stopped = false → s.plan la b core b.groupList = some p →
    (s.outranked b core = false →
      exec (.blockAdmission block core) s = .next ((((s.takeSpace la b p).numberBlock la b).fixDie la b core).startGroups la b p)) ∧
    (s.outranked b core = true → exec (.blockAdmission block core) s = .next s)) ∧
  (∀ (s : State) core part (g : Group) (c : Clause) (p : Path),
    let here := s.groups.filter (fun g => g.core = core && g.part = part)
    (∀ x ∈ s.groups, x.core = core → x.part = part → s.reenterFor x = s) →
    firstBy (fun (g h : Group) => lexLt (s.issueKey g) (s.issueKey h)) (here.filter s.groupReady) = some g →
    s.group? g.id = some g → g.run = none → g.choose (s.readyPaths g) = some p → s.clauseOf g p.pc = .clause c → g.tagErrors = [] →
    ∃ t : State, exec (.partitionIssue core part) s = .next t ∧ t.focus = some g.id ∧ t.mem = s.mem ∧
      ∃ g', t.group? g.id = some g' ∧ g'.passed = 0 ∧ g'.lastIssue = some s.clock ∧
        g'.run.map (fun r => (r.hdr, r.lanes, r.body, r.next)) = some (p.pc, p.lanes, c.body, p.pc + 8))

/-- R412, R414, R416, R417, R431, R435 to R437, R464, R467. An asynchronous trap that is due is delivered to the handler of the group's level, with %trap.pc at
the path that R185 would choose: PREEMPT to every unexited lane, each with its own address as information; BUDGET to every free lane, also where it ends
the wait of an instruction that a missing translation holds; ENGINE_FAULT to every free lane, %trap.lanes naming the lowest of the path that issued, or else
the lowest. A slice's count that has run out is refilled once, and BUDGET is
pending in its groups; where a refilled one runs out again, firmware ends the launch with BUDGET;
a power window sets each queue's fraction; a fault is offered through its tenant's first queue, but one of a peer's page, which that peer's host is offered (R455); a fill whose line's tag fails
raises CODE_AUTH at the header that it serves. -/
def Obligations.IssuingEvents : Prop :=
  (∀ (s : State) k (g : Group) c, s.group? k = some g → g.asyncDue = some c →
    exec (.asyncTrapDelivery k) s = .next (if c = Cause.preempt then s.deliverPreempt g else if c = Cause.budget then s.deliverBudget g
      else s.deliverFault g)) ∧
  (∀ (s : State) k (g : Group) (la : Launch), s.group? k = some g → s.launch? g.launch = some la → la.rcd.handlers.getD g.level 0 ≠ 0 →
    let entry := la.rcd.handlers.getD g.level 0
    let free := g.lanesWhere (·.isFree)
    (g.asyncDue = some Cause.preempt → ∀ pc, trapPlace s g.freeBlocked pc →
      Delivers s k g.freeBlocked entry Cause.preempt pc (fun ln => BitVec.ofNat 32 ln.pc) (g.freeBlocked.lanesWhere (·.unexited))
        (g.freeBlocked.lanesWhere (·.unexited)) none) ∧
    (g.asyncDue = some Cause.budget → ∀ pc, trapPlace s g pc → Delivers s k g entry Cause.budget pc (fun _ => 0) free free none) ∧
    (g.asyncDue = some Cause.engineFault → ∀ pc f rest, trapPlace s g pc → g.faults = f :: rest →
      Delivers s k g entry Cause.engineFault pc (fun _ => f.info)
        (maskOf [if free &&& f.lanes ≠ 0 then lowLane (free &&& f.lanes) else lowLane free]) free none) ∧
    (∀ r, g.asyncDue = none → s.budgetEndsWait g = true → g.run = some r → Delivers s k g entry Cause.budget r.hdr (fun _ => 0) free free (some r))) ∧
  (∀ (s : State) k (b : Block) budget, s.block? k = some b → (s.recOf b.launch).elim 0 (·.budget) = budget → budget ≠ 0 → b.st = .admitted →
    b.counting = true → b.budgetLeft = 0 → b.refilled = false →
    exec (.sliceBudgetExpiry k) s = .next { s.updBlock k (fun b => { b with budgetLeft := budget * 1024, refilled := true }) with
      groups := s.groups.map (fun g => if g.block = k then { g with budgetPending := true } else g) }) ∧
  (∀ (s : State) k (b : Block) (la : Launch), s.block? k = some b → s.launch? b.launch = some la → la.st ≠ .ended → la.rcd.budget ≠ 0 →
    b.st = .admitted → b.counting = true → b.budgetLeft = 0 → b.refilled = true →
    ∃ (t : State) (pc : Word) (lanes : LaneMask), exec (.sliceBudgetExpiry k) s = .next t ∧
      EndsReported s t la (BitVec.ofNat 32 Cause.budget) 0 pc.toNat lanes) ∧
  (∀ (s : State) (w : PowerReport), ∃ t : State, exec (.powerWindow w) s = .next t ∧ t = { s with powerTotal := w.total, queues := t.queues } ∧
    t.queues.map (fun q => (q.num, q.estimate, q.fraction)) = s.queues.map (fun q =>
      let x : Word := ((w.queues.find? (fun y => y.1 = q.num)).map (·.2)).getD 0
      (q.num, x, if q.budget = 0 ∨ x.toNat ≤ q.budget.toNat then 16 else max 1 (16 * q.budget.toNat / x.toNat)))) ∧
  (∀ (s : State) k (p : PageFault), findId PageFault.id k s.faults = some p → p.reason = 3 → exec (.translationFaultOffer k) s = .next s) ∧
  (∀ (s : State) k (p : PageFault), findId PageFault.id k s.faults = some p → p.offered = false → p.reason ≠ 3 →
    exec (.translationFaultOffer k) s = .next { s with
      faults := updId PageFault.id k (fun p => { p with offered := true }) s.faults
      completions := s.completions ++ [{ queue := 1 + 4 * p.tenant, tag := 0xFFFF, opcode := 0, kind := 3, status := 0
                                         value := BitVec.ofNat 64 p.va, detail := BitVec.ofNat 128 p.id }] }) ∧
  (∀ (s : State) code line (c : Code) (g : Group) (p : Path), s.code? code = some c → s.lineOk c line = false →
    (s.groups.filter (fun g => g.run.isNone && g.asyncDue.isNone && !g.done && ((s.launch? g.launch).elim false (fun la => la.code = code)))).head? =
      some g →
    g.paths.find? (fun p => s.clauseIn c p.pc line) = some p →
    exec (.icacheFillAuth code line) s = .next (s.trapHeader g.id Cause.codeAuth (BitVec.ofNat 32 line) p.lanes p.pc))

/-! ### Completion: pre-emption and recovery -/

/-- R434, R440, R442, R444 to R446. A pre-empted block that is ready is saved: the owner and the bytes of every engine-owned granule of its allocation are
kept by position, no owner changes (R240), and its outstanding instructions, chains, streams and slots stay as they are. One that was not in 200 µs has its
launch ended: none of its queue entries is there, nor a contribution that one of them was to read, its chains are aborted, and the peers' joins that
waited for them are refused (R349, R350). A saved block is restored where a core has room and no block with an earlier deadline outranks it: its granules are written back at the same
positions of its new allocation, and its groups start at their restore entries. Recovery pre-empts the blocks it is given. -/
def Obligations.PreemptionEvents : Prop :=
  (∀ (s : State) k (b : Block) (r : LaunchRec), s.block? k = some b → s.recOf b.launch = some r → s.savable b = true →
    exec (.blockSave k) s = .next (s.saveBlock r b) ∧
    ∃ (t : State) (kept : Saved), t = s.saveBlock r b ∧ t.block? k = some { b with st := .saved, saved := some kept, counting := false } ∧
      t.mem = s.mem ∧ t.ops = s.ops ∧ t.chains = s.chains ∧ t.streams = s.streams ∧ t.slots = s.slots ∧ t.elems = s.elems ∧
      t.matrix = s.matrix.map (fun m => if m.block = k then m.saveAt b r.scratch else m) ∧
      (∀ g ∈ s.groups, g.block = k → { g with budgetPending := false, preemptPending := false } ∈ t.groups) ∧
      t.owners = s.owners ∧ t.engineCounts = s.engineCounts ∧
      (SMap.wf s.owners = true → r.scratch ≤ 4096 → ∀ key p, b.place r.scratch key = some p → s.owners.get key ≠ 0 →
        kept.owners.get p = s.owners.get key ∧ ∀ i < 512, kept.bytes.get (512 * p + i) = s.byte (scratchAt 0 + 512 * key + i))) ∧
  (∀ (s : State) k (b : Block) (la : Launch) t, s.block? k = some b → b.preemptAt = some t → b.st = .admitted → t + 350000 ≤ s.clock →
    s.launch? b.launch = some la → la.st ≠ .ended →
    ∃ u : State, exec (.hardStop k) s = .next u ∧ u.mem = s.mem ∧
      ((u.launch? b.launch).map (fun la => (la.st, la.normal, la.endWord))) = some (.ended, false, 0x221) ∧
      (∀ g ∈ u.groups, g.launch ≠ b.launch) ∧ (∀ m ∈ u.matrix, m.launch ≠ b.launch) ∧
      (∀ x ∈ u.contributions, x ∈ s.contributions ∧ x.id ∉ s.unreadSends b.launch) ∧
      (∀ c ∈ u.chains, c.launch = b.launch → c.isOpen = false) ∧
      ∀ c ∈ s.chains, c.launch = b.launch → c.isOpen = true → ∀ j ∈ s.parkedAt c, ∀ p, j.peer = some p →
        j ∉ u.joins ∧ (p.1, PeerMsg.joined p.2.1 none) ∈ u.outbox) ∧
  (∀ (s s' : State) k core (b : Block) (la : Launch) (kept : Saved) (p : Plan) places, s.block? k = some b → s.launch? b.launch = some la →
    b.saved = some kept → b.st = .saved → la.st = .running → la.preempted = false → s.stopped = false → s.outranked b core = false →
    s.restorePlan la b core = some (s', p, places) →
    exec (.blockRestore k core) s = .next (s'.restoreBlock la b kept p places) ∧
    ((places.map (·.1)).Nodup → ∀ x ∈ places, ∀ g, s.group? x.1 = some g →
      ∃ g', (s'.restoreBlock la b kept p places).group? x.1 = some g' ∧ g'.core = x.2.1 ∧ g'.part = x.2.2 ∧ Restarted la g g') ∧
    (SMap.wf kept.owners = true → SMap.wf kept.bytes = true → p.cores.Nodup → p.base.length = p.cores.length →
      (∀ y ∈ p.base, y + la.rcd.scratch ≤ 4096) → (∀ y ∈ kept.owners, y.1 / 4096 < p.cores.length ∧ y.1 % 4096 < la.rcd.scratch) →
      (∀ y ∈ kept.bytes, kept.owners.get (y.1 / 512) ≠ 0) →
      ∀ x, kept.owners.get x ≠ 0 →
        let key := granuleKey (p.cores.getD (x / 4096) 0) (p.base.getD (x / 4096) 0 + x % 4096)
        (s'.restoreBlock la b kept p places).owners.get key = kept.owners.get x ∧
        ∀ i < 512, (s'.restoreBlock la b kept p places).byte (scratchAt 0 + 512 * key + i) = kept.bytes.get (512 * x + i))) ∧
  (∀ (s : State) ks, ∃ t : State, exec (.uncorrectableErrorRecovery ks) s = .next t ∧ t.mem = s.mem ∧
    ∀ k ∈ ks, ∀ b, t.block? k = some b → b.st = .admitted → (t.recOf b.launch).elim false (·.preemptible) = true → b.preemptAt.isSome = true)


namespace Sys2Proof.Machine

/-- The first entry of a queue is this command, and the device is not in recovery. -/
def AtHead (s : State) (queue code : Nat) (c : CmdEntry) (rest : List CmdEntry) : Prop :=
  s.recovery = false ∧ ∃ q, s.queue? queue = some q ∧ q.pending = c :: rest ∧ c.opcode.toNat = code

/-- The state with the command taken from its queue. -/
def State.taken (s : State) (queue : Nat) (rest : List CmdEntry) : State := s.updQueue queue (fun q => { q with pending := rest })

/-- R461, R462: a command completes: it leaves its queue, has its effect, reports kind 0 with its value and detail, and what then stands at the head and
is no command is refused. -/
def Commands (i : Nat → Instr) (code : Nat) (cond : State → Nat → CmdEntry → Nat × BitVec 128 → Prop) (eff : State → Nat → CmdEntry → State) : Prop :=
  ∀ s queue c rest v, AtHead s queue code c rest → cond (s.taken queue rest) queue c v →
    exec (i queue) s = .next (((eff (s.taken queue rest) queue c).complete (doneWith queue c.tag c.opcode (BitVec.ofNat 64 v.1) v.2)).skipBad queue)

/-- Value and Detail are zero. -/
def plain (v : Nat × BitVec 128) : Prop := v = (0, 0)

/-- An access from outside reaches a window's bytes (R455), each with its page's entry: the window is exported to that tenant of that device, and the
pages are there and permit it. -/
def outsideGood (s : State) (a : PeerAccess) (xs : List (Nat × BitVec 64)) : Prop :=
  ∃ w, s.window? a.tenant a.window = some w ∧ (a.device.toNat, a.sender) ∈ w.exports ∧ a.offset + a.op.length ≤ w.size ∧
    a.op.length ≠ 0 ∧ s.outsideAt a.tenant (w.base + a.offset) a.op.length = .places xs ∧
    ∀ x ∈ xs, (a.op.reads = true → pteR x.2 = true) ∧ (a.op.writes = true → pteW x.2 = true)

end Sys2Proof.Machine

open Sys2Proof Sys2Proof.Machine

/-! ### Completion: outside the device -/

/-- R455, R456, R458. A peer's access to an exported window is performed where its pages permit it, and it need not wait for other sharers, and the peer is
answered: what a read reads, or that a write was performed; a read of shared lines sets the peer's sharer bit; a write to lines that others share waits. One
outside the export, or without permission, is answered in the negative. The host's access is performed at the window's backing, once no peer shares what it
writes. An invalidation clears a sharer bit. -/
def Obligations.OutsideAccesses : Prop :=
  (∀ (s : State) (a : PeerAccess) xs, outsideGood s a xs →
    let as := xs.map (·.1)
    let coherent := (xs.filter (fun x => pteShared x.2)).map (·.1)
    ((a.op.writes = true → s.sharedBeside coherent a.device.toNat = false) →
      let u := (s.post a.device.toNat (s.answerTo as a.op)).perform as a.op
      exec (.peerAccessArrival a) s = .next (if a.op.writes = true then u else u.share coherent a.device.toNat)) ∧
    (a.op.writes = true → s.sharedBeside coherent a.device.toNat = true → exec (.peerAccessArrival a) s = .next s)) ∧
  (∀ (s : State) (a : PeerAccess) (w : Window), s.window? a.tenant a.window = some w →
    ((a.device.toNat, a.sender) ∉ w.exports ∨ w.size < a.offset + a.op.length ∨ a.op.length = 0 ∨
      ∃ xs, s.outsideAt a.tenant (w.base + a.offset) a.op.length = .places xs ∧
        ∃ x ∈ xs, (a.op.reads = true ∧ pteR x.2 = false) ∨ (a.op.writes = true ∧ pteW x.2 = false)) →
    exec (.peerAccessArrival a) s = .next { s with outbox := s.outbox ++ [(a.device.toNat, .reply false [])] }) ∧
  (∀ (s : State) (a : HostAccess) (w : Window), s.window? a.tenant a.window = some w → w.kind = .device → (0xFF, 0xFF) ∈ w.exports →
    a.offset + a.op.length ≤ w.size →
    let as := (List.range a.op.length).map (fun i => w.backing + a.offset + i)
    ((a.op.writes = true → ∀ k ∈ linesOf as, s.directory.get k = 0) →
      exec (.hostMemAccess a) s = .next ((s.post 8 (s.answerTo as a.op)).perform as a.op)) ∧
    (a.op.writes = true → (∃ k ∈ linesOf as, s.directory.get k ≠ 0) → exec (.hostMemAccess a) s = .next s)) ∧
  (∀ (s : State) line (sharer : BitVec 3), exec (.fabricLineInvalidation line sharer) s =
    .next { s with directory := s.directory.set line (s.directory.get line &&& ~~~(1#8 <<< sharer.toNat)) })

/-- R451, R452, R461, R470, R474. A confirmed export completes its WINDOW_MAP; a link goes down, and with both links the peer is lost, and no fault of its pages holds an access any
more; an emergency
measures a die, and that one has reached 115 °C stays known, whatever is measured then; a shutdown after that stops every launch and tells every queue; a reset keeps host memory and the flash, derives the identity key
and trains the links (R450, R471); a doorbell brings entries from the queue's ring, 64 bytes each, opcode, tag and operands in their bits (R461). -/
def Obligations.OutsideEvents : Prop :=
  (∀ (s : State) tenant n (w : Window) tag queue, s.windows.find? (fun w => w.tenant = tenant && w.num = n) = some w → w.waiting = some (tag, queue) →
    exec (.peerWindowConfirmation tenant n true) s = .next { s with
      windows := s.windows.map (fun x => if (x.tenant = tenant && x.num = n) = true then { x with waiting := none } else x)
      completions := s.completions ++ [{ queue, tag, opcode := 0x10, kind := 0, status := 0, value := 0, detail := 0 }] }) ∧
  (∀ (s : State) (peer : BitVec 3) (link : Bool), peer.toNat ≠ s.device → 2 * peer.toNat + link.toNat ∉ s.linksDown →
    let t := { s with linksDown := s.linksDown ++ [2 * peer.toNat + link.toNat] }
    exec (.linkDown peer link) s = .next (if t.peerCut peer.toNat = true then t.losePeer peer.toNat else t)) ∧
  (∀ (s : State) p place pte, p.reason = 3 → s.translate p.tenant p.va = .at_ place pte → s.peerCut (peerDevice place) = true →
    p ∉ s.endPeerFaults.faults) ∧
  (∀ (s : State) (die : BitVec 2) (x : BitVec 8), ∃ t : State, exec (.thermalEmergency die x) s = .next t ∧
    t = { s with temps := t.temps, hotDies := t.hotDies, clockSteps := t.clockSteps, overheated := s.overheated || decide (115 ≤ x.toNat) } ∧
    (die.toNat ∈ t.hotDies ↔ 105 ≤ x.toNat ∨ (100 ≤ x.toNat ∧ die.toNat ∈ s.hotDies)) ∧
    (∀ d, d ≠ die.toNat → (d ∈ t.hotDies ↔ d ∈ s.hotDies) ∧ t.temps[d]? = s.temps[d]? ∧ t.clockSteps[d]? = s.clockSteps[d]?) ∧
    t.temps[die.toNat]? = s.temps[die.toNat]?.map (fun _ => x) ∧
    t.clockSteps[die.toNat]? = s.clockSteps[die.toNat]?.map (fun k => if die.toNat ∈ t.hotDies then max 4 (k - 1) else min 8 (k + 1))) ∧
  (∀ (s : State), s.stopped = false → s.overheated = true →
    ∃ t : State, exec .thermalShutdown s = .next t ∧ t.stopped = true ∧ t.mem = s.mem ∧
      (∀ q ∈ s.queues, ({ queue := q.num, tag := 0xFFFF, opcode := 0, kind := 4, status := 0, value := 0xFFFFFFFF, detail := 0 } : Completion) ∈
        t.completions) ∧
      ∀ k la, s.launch? k = some la → ∃ la', t.launch? k = some la' ∧ la'.st = .ended) ∧
  (∀ (s : State), ∃ t : State, exec .deviceReset s = .next t ∧ t.mem = s.mem.keep (fun a => decide (hostAt ≤ a)) ∧ t.fwFlash = s.fwFlash ∧
    t.cfgFlash = s.cfgFlash ∧ t.launches = [] ∧ t.groups = [] ∧ t.tenants = [] ∧ t.codes = [] ∧ t.ptes = [] ∧ t.focus = none ∧
    t.recovery = !Config.imageOk s.cfgFlash ∧ t.linksDown = trainLinks 0 s.free ∧
    (Config.imageOk s.cfgFlash = true → t.identity = deriveIdentity ∧ t.cfgImage = s.cfgFlash ∧ t.fwImage = s.fwFlash)) ∧
  (∀ (s : State) queue (bell : Doorbell) (q : Queue), let rings := bell.rings
    let u := s.updQueue queue (fun q => if q.rings = rings then q else { q with rings, head := 0, tail := 0 })
    u.queue? queue = some q →
    let entries := (List.range (min bell.count rings.size)).map (fun i =>
      entryOf (s.bytes ((List.range 64).map (fun k => hostAt + q.rings.base + 64 * ((q.head + i) % q.rings.size) + k))))
    let taken := if s.recovery = true then entries.filter (fun c => c.opcode = 0x06) else entries
    exec (.doorbellWrite queue bell) s = .next ((u.updQueue queue (fun q =>
      { q with head := (q.head + entries.length) % rings.size, pending := q.pending ++ taken })).skipBad queue)) ∧
  ∀ bs : List Byte, (entryOf bs).opcode = bs.getD 63 0 ∧ (entryOf bs).tag = BitVec.ofNat 16 (leNat ((bs.drop 60).take 2))

/-! ### Completion: commands. Which operand stands where is the model's choice (log entry 12). -/

/-- R414, R450, R451, R459, R460, R465, R472. GROUP_SET, TENANT_CREATE, TENANT_DESTROY, BUDGET_SET, TIME_SET, FW_UPDATE. A peer that the training of GROUP_SET
leaves without a link is lost. -/
def Obligations.ManagementCommands : Prop :=
  Commands .groupSet 0x01 (fun _ _ _ v => plain v) (fun s _ c =>
    let t := { s with
      device := c.op 0 % 8, members := BitVec.ofNat 8 (c.op 1), free := s.free + 1
      linksDown := dedup ((s.linksDown ++ ((List.range 8).filter (fun d => d ≠ c.op 0 % 8 && Config.linksWrong s.free d)).flatMap
        (fun d => [2 * d, 2 * d + 1])).filter (fun k => k / 2 ≠ c.op 0 % 8)) }
    ((List.range 8).filter (fun d => d ≠ c.op 0 % 8 && t.peerCut d && !s.peerCut d)).foldl State.losePeer t) ∧
  (∀ key, Commands .tenantCreate 0x02
    (fun s _ c v => plain v ∧ c.op 0 < 16 ∧ 1 ≤ c.op 2 ∧ c.op 2 ≤ 4 ∧ (∀ t ∈ s.tenants, t.num ≠ c.op 0) ∧
      Config.unwrapKey s.identity (s.bytes (span (hostAt + c.op 3) 512)) = some key)
    (fun s _ c => { s with
      free := s.free + 1
      tenants := s.tenants ++ [{ num := c.op 0, queues := c.op 2, tableSize := c.op 1, codeKey := key, dataKey := Config.dataKey s.free }]
      queues := s.queues ++ (List.range (c.op 2)).map (fun i => Queue.fresh (1 + 4 * c.op 0 + i)) })) ∧
  Commands .tenantDestroy 0x03
    (fun s _ c v => plain v ∧ (∃ t ∈ s.tenants, t.num = c.op 0) ∧ ∀ la ∈ s.launches, la.tenant = c.op 0 → la.st = .ended)
    (fun s _ c => s.removeTenant (c.op 0)) ∧
  Commands .budgetSet 0x04 (fun s _ c v => plain v ∧ c.op 1 < 4 ∧ (s.queue? (1 + 4 * c.op 0 + c.op 1)).isSome = true)
    (fun s _ c => s.updQueue (1 + 4 * c.op 0 + c.op 1) (fun q => { q with budget := BitVec.ofNat 32 (c.op 2) })) ∧
  Commands .timeSet 0x05 (fun _ _ _ v => plain v) (fun s _ c => { s with timeBase := some (c.op 0, s.clock) }) ∧
  Commands .fwUpdate 0x06 (fun s _ c v => plain v ∧ Config.imageOk (s.bytes (span (hostAt + c.op 0) (c.op 1))) = true) (fun s _ c =>
    let image := s.bytes (span (hostAt + c.op 0) (c.op 1))
    if Config.imageIsConfig image = true then { s with cfgFlash := image } else { s with fwFlash := image })

/-- R429 to R432, R452 to R454, R464. WINDOW_MAP of a DEVICE or a HOST window, WINDOW_UNMAP, PAGE_MAP and FAULT_DONE. A WINDOW_MAP of a PEER window
waits for its confirmation, and the peers to which a DEVICE window is exported are told. -/
def Obligations.WindowCommands : Prop :=
  Commands .windowMap 0x10
    (fun s q c v => plain v ∧ windowKindOf c = some .device ∧ rangeOk (c.op 2) (c.op 3) = true ∧ c.op 0 < 256 ∧
      (∀ w ∈ s.windows, w.tenant = queueTenant q → w.num ≠ c.op 0) ∧ meets (s.virtualUsed (queueTenant q)) (c.op 2) (c.op 3) = false ∧
      (firstFit s.deviceUsed 0 Config.deviceBytes (c.op 3) (if 2 ^ 30 ≤ c.op 3 then 2 ^ 30 else 2 ^ 21)).isSome = true)
    (fun s q c =>
      let a := (firstFit s.deviceUsed 0 Config.deviceBytes (c.op 3) (if 2 ^ 30 ≤ c.op 3 then 2 ^ 30 else 2 ^ 21)).getD 0
      let told := (exportPairs (c.operands.drop 4)).filter (fun x => decide (x.1 < 8) && x.1 ≠ s.device)
      { s.zeroRange a (c.op 3) with
        windows := s.windows ++ [{ tenant := queueTenant q, num := c.op 0, kind := .device, base := c.op 2, size := c.op 3, backing := a, waiting := none
                                   exports := exportPairs (c.operands.drop 4) }]
        outbox := s.outbox ++ told.map (fun x => (x.1, .exported (queueTenant q) (c.op 0) x.2)) }) ∧
  Commands .windowMap 0x10
    (fun s q c v => plain v ∧ windowKindOf c = some .host ∧ rangeOk (c.op 2) (c.op 3) = true ∧ c.op 0 < 256 ∧
      (∀ w ∈ s.windows, w.tenant = queueTenant q → w.num ≠ c.op 0) ∧ meets (s.virtualUsed (queueTenant q)) (c.op 2) (c.op 3) = false ∧
      c.op 4 + c.op 3 ≤ 2 ^ 48)
    (fun s q c => { s with windows := s.windows ++ [{ tenant := queueTenant q, num := c.op 0, kind := .host, base := c.op 2, size := c.op 3
                                                      backing := c.op 4, waiting := none, exports := [] }] }) ∧
  (∀ s queue c rest d t w, AtHead s queue 0x10 c rest → windowKindOf c = some (.peer d t w) → rangeOk (c.op 2) (c.op 3) = true → c.op 0 < 256 →
    (∀ w ∈ s.windows, w.tenant = queueTenant queue → w.num ≠ c.op 0) → meets (s.virtualUsed (queueTenant queue)) (c.op 2) (c.op 3) = false →
    exec (.windowMap queue) s = .next (({ s.taken queue rest with windows := s.windows ++
      [{ tenant := queueTenant queue, num := c.op 0, kind := .peer d t w, base := c.op 2, size := c.op 3, backing := 0, waiting := some (c.tag, queue)
         exports := [] }] } : State).skipBad queue)) ∧
  (∀ w, Commands .windowUnmap 0x11 (fun s q c v => plain v ∧ s.window? (queueTenant q) (c.op 0) = some w ∧ s.windowUsed w = false)
    (fun s q _ => { s.unmapRange (queueTenant q) w.base (w.base + w.size) with
      windows := s.windows.filter (fun x => !(x.tenant = queueTenant q && x.num = w.num)) })) ∧
  (∀ w level, Commands .pageMap 0x12
    (fun s q c v => plain v ∧ s.windowOf (queueTenant q) (c.op 0) = some w ∧ pageLevel (c.op 1) = some level ∧
      pagesOk w (c.op 0) (c.op 1) (c.op 2) (c.op 3) (bitsOf (c.op 4) 52 48) = true)
    (fun s q c => (List.range (c.op 2)).foldl (fun (s : State) i => s.mapPage (queueTenant q) level (c.op 0 + i * c.op 1)
      (pteLeafOf (w.backing + c.op 3 + i * c.op 1) (c.op 4))) s)) ∧
  (∀ f, Commands .faultDone 0x13
    (fun s q c v => plain v ∧ s.faults.find? (fun f => f.id = c.op 0 && f.tenant = queueTenant q && f.offered && !f.unresolvable) = some f)
    (fun s q c =>
      if c.op 1 ≠ 0 then { s with faults := updId PageFault.id f.id (·.giveUp (s.walkFails (queueTenant q) f.page)) s.faults }
      else match s.walkFails (queueTenant q) f.page with
        | none => { s with faults := delId PageFault.id f.id s.faults }
        | some (reason, level) => s.offerAgain f.id reason level))

/-- R406, R434, R446, R456, R462, R467, R473, R475. CODE_LOAD, CODE_UNLOAD, LAUNCH, PREEMPT, RESUME, QUERY and ATTEST. A PREEMPT of a launch with admitted
blocks waits for them, and an ATTEST whose report peers share lines of waits for those; one whose nonce is damaged, or whose report would cover a damaged sector
in part (R433), is refused. -/
def Obligations.LaunchCommands : Prop :=
  (∀ w image x k t, Commands .codeLoad 0x14
    (fun s q c v => s.window? (queueTenant q) (c.op 0) = some w ∧ s.windowBytes w (c.op 1) (c.op 2) = some image ∧
      s.checkObject (((s.tenants.find? (fun x => x.num = queueTenant q)).map (·.codeKey)).getD []) (s.symbols (c.op 3) (c.op 4)) image = .ok x ∧
      s.placeCode (((s.tenants.find? (fun x => x.num = queueTenant q)).map (·.codeKey)).getD []) (queueTenant q) x image = some (k, t) ∧ v = (k, 0))
    (fun _ _ _ => t)) ∧
  (∀ x, Commands .codeUnload 0x15
    (fun s q c v => plain v ∧ s.codeFor (queueTenant q) (c.op 0) = some x ∧ ∀ la ∈ s.launches, la.code = x.handle → la.st = .ended)
    (fun s q _ => { s.unmapRange (queueTenant q) x.va (x.va + x.size) with
      codes := s.codes.filter (fun y => y.handle ≠ x.handle), dict := s.dict.filter (fun d => d.2.toNat ≠ x.handle + 1) })) ∧
  (∀ code w bs k t, Commands .launchCommand 0x16
    (fun s q c v => s.pendingOf q < Config.pendingLaunches ∧ s.codeFor (queueTenant q) (c.op 0) = some code ∧
      s.window? (queueTenant q) (c.op 1) = some w ∧ (∀ p ∈ predPairs 4 (c.operands.drop 4), (s.launchOf (queueTenant q) p.1).isSome = true) ∧
      s.recordAt w (c.op 2) = some bs ∧
      s.accept { tenant := queueTenant q, queue := q, tag := c.tag, opcode := c.opcode, code := c.op 0, link := c.op 3
                 preds := predPairs 4 (c.operands.drop 4) } code bs = .ok (k, t) ∧ v = (k, 0))
    (fun _ _ _ => t)) ∧
  (∀ la, Commands .preemptCommand 0x17
    (fun s q c v => plain v ∧ s.launchOf (queueTenant q) (c.op 0) = some la ∧ la.rcd.preemptible = true ∧
      ∀ b ∈ s.blocks, b.launch = la.id → b.st ≠ .admitted)
    (fun s _ _ => s.updLaunch la.id (fun la => { la with preempted := true }))) ∧
  (∀ s queue c rest la, AtHead s queue 0x17 c rest → s.launchOf (queueTenant queue) (c.op 0) = some la → la.rcd.preemptible = true →
    (∃ b ∈ s.blocks, b.launch = la.id ∧ b.st = .admitted) →
    let t := (s.taken queue rest).updLaunch la.id (fun la => { la with preempted := true })
    let u := (s.blocks.filter (fun b => b.launch = la.id && b.st = .admitted)).foldl (fun (s : State) b => s.preemptBlock b.id) t
    exec (.preemptCommand queue) s = .next (({ u with preempts := u.preempts ++ [{ queue, tag := c.tag, launch := la.id }] } : State).skipBad queue)) ∧
  (∀ la, Commands .resume 0x18 (fun s q c v => plain v ∧ s.launchOf (queueTenant q) (c.op 0) = some la)
    (fun s _ _ => s.updLaunch la.id (fun la => { la with preempted := false }))) ∧
  Commands .query 0x19 (fun s q c v => ∃ d, s.answer (if q = 0 then none else some (queueTenant q)) c = some (v.1, d) ∧ v.2 = BitVec.ofNat 128 d)
    (fun s _ _ => s) ∧
  (∀ ns ps, Commands .attest 0x1A
    (fun s q c v => plain v ∧ s.placesAt (queueTenant q) (c.op 0) 64 = some ns ∧
      s.placesAt (queueTenant q) (c.op 1) (s.report (queueTenant q) (s.bytes ns)).length = some ps ∧
      s.sharedAt (queueTenant q) (c.op 1) (s.report (queueTenant q) (s.bytes ns)).length = false ∧ s.damaged ns = false ∧ s.covers ps = true)
    (fun s q _ => { s.storeCells (ps.zip (s.report (queueTenant q) (s.bytes ns))) with
      bad := s.bad.filter (fun k => ps.all (fun a => a / 32 ≠ k)) })) ∧
  (∀ s queue c rest ns ps, AtHead s queue 0x1A c rest → s.placesAt (queueTenant queue) (c.op 0) 64 = some ns →
    s.placesAt (queueTenant queue) (c.op 1) (s.report (queueTenant queue) (s.bytes ns)).length = some ps →
    s.sharedAt (queueTenant queue) (c.op 1) (s.report (queueTenant queue) (s.bytes ns)).length = false → (s.damaged ns = true ∨ s.covers ps = false) →
    exec (.attest queue) s = .next (((s.taken queue rest).refuse queue c Err.windowInvalid).skipBad queue)) ∧
  (∀ s queue c rest ns, AtHead s queue 0x1A c rest → s.placesAt (queueTenant queue) (c.op 0) 64 = some ns →
    s.sharedAt (queueTenant queue) (c.op 1) (s.report (queueTenant queue) (s.bytes ns)).length = true → exec (.attest queue) s = .next s)


namespace Sys2Proof.Machine

/-- An unguarded form with no destination, no source and every other field zero. -/
def bare : Form := { mod := 0, guard := Guard.always, dst := .field 0, a := .field 0, b := .field 0, c := .field 0, lw := none, fsel := false }

/-- Words of the spec's own listings, first parcel highest, with the literal that follows, and what each is. -/
def knownWords : List (BitVec 64 × Option (BitVec 32) × Instr) :=
  [ (0x8921C010000001C0, none, .movi { bare with mod := 8, dst := .v 1, c := .field 7 }),
    (0x8101C01007030000, none, .imul { bare with dst := .v 1, a := .v 1, b := .imm 3 }),
    (0x8001C00003FF0000, none, .iadd { bare with dst := .v 0, a := .v 0, b := .imm 0xFF }),
    (0x8821F000030001C0, none, .icmp { bare with mod := 8, dst := .p 0, a := .v 0, b := .imm 0, c := .pred 7 }),
    (0x8C00000000000000, none, .bra { bare with guard := { idx := 0, neg := false } }),
    (0x8D41C00000000000, none, .exit bare),
    (0x8301C02000010000, none, .idiv { bare with dst := .v 2, a := .v 0, b := .v 1 }),
    (0x90C1C040040200C8, none, .ffma { bare with dst := .v 4, a := .v 1, b := .v 2, c := .v 3, lw := some 0 }),
    (0x9A41C08008040000, none, .cmul { bare with dst := .v 8, a := .v 2, b := .v 4 }),
    (0x93C1C0A018080000, none, .f2sum { bare with dst := .v 10, a := .v 6, b := .v 8 }),
    (0x9881C140337F2000, none, .packn { bare with dst := .v 20, a := .v 12, b := .imm 127, c := .field 0x080 }),
    (0x9C09C02000000002, some 0xFF, .vote { bare with mod := 2, dst := .v 2, a := .pred 0, b := .lit 0xFF }),
    (0xA411C08000000080, none, .ld { bare with mod := 4, dst := .v 8, a := .v 0, c := .field 2 }),
    (0xA821C02003030040, none, .copy { bare with mod := 8, dst := .field 2, a := .v 0, b := .imm 3, c := .field 1 }),
    (0xA845C00C20000000, none, .twait { bare with mod := 1, a := .imm 8 }),
    (0xAA0DC00000000180, none, .ownGive { bare with mod := 3, c := .field 6 }),
    (0xAC01C00050150180, none, .mma { bare with a := .v 20, b := .v 21, c := .field 6 }),
    (0xAD01C0705B009000, none, .accDrain { bare with dst := .field 7, a := .v 22, b := .imm 0, c := .field 0x240 }),
    (0x8981C02B68000000, none, .movs { bare with dst := .v 2, a := .sr 26 }),
    (0xB801C00003050000, none, .trapi { bare with b := .imm 5 }),
    (0xB845C00000000000, none, .tret { bare with mod := 1 }) ]

/-- The four parcels of a word, the highest bits first. -/
def wordParcels (w : BitVec 64) : List Parcel := [w.extractLsb' 48 16, w.extractLsb' 32 16, w.extractLsb' 16 16, w.extractLsb' 0 16]
/-- The two parcels of a literal, high first. -/
def literalParcels (x : BitVec 32) : List Parcel := [x.extractLsb' 16 16, x.extractLsb' 0 16]

/-- Does an instruction store to memory? -/
def Instr.stores : Instr → Bool
  | .st _ | .atom _ | .red _ | .seamStore _ | .tmInit _ | .tmExpect _ | .tmArrive _ | .tmArrivew _ | .copy _ | .tileOperationCompletion _
  | .lnestCompletion _ | .wqAskAnswer _ | .matrixQueueEntryStart _ | .bandCommit _ | .blockAdmission _ _ | .blockRestore _ _ | .windowMap _
  | .codeLoad _ | .attest _ | .peerAccessArrival _ | .hostMemAccess _ | .deviceReset => true
  | _ => false

/-- The registers that `n` words written to a form's destination name. -/
def dests (f : Form) (n : Nat) : List RegRef := (List.range n).filterMap f.dst.ref

/-- What a register of a lane holds after a word has been written to it: p7 is discarded, and zero to %seed stores 1 (R14, R18). -/
def Lane.holds (ln : Lane) : RegRef → Word → Prop
  | .v i, w => ln.v.get i = w
  | .o i, w => ln.o.get i = w
  | .p i, w => i < 7 → (ln.pred i = true ↔ w ≠ 0)
  | .seed, w => ln.seed = if w = 0 then 1 else w
  | _, _ => True

/-- A lane after an instruction that gives it a result: the destination holds the words and the L entry the first of them; every other register,
predicate, L entry and special register is as it was. -/
structure LaneAfter (f : Form) (res : LaneRes) (ln ln' : Lane) : Prop where
  same : ln' = { ln with v := ln'.v, o := ln'.o, p := ln'.p, l := ln'.l, lValid := ln'.lValid, seed := ln'.seed, clockHi := ln'.clockHi }
  v : ∀ i, RegRef.v i ∉ dests f res.words.length → ln'.v.get i = ln.v.get i
  o : ∀ i, RegRef.o i ∉ dests f res.words.length → ln'.o.get i = ln.o.get i
  p : ∀ i, RegRef.p i ∉ dests f res.words.length → ln'.pred i = ln.pred i
  l : ∀ i, f.lw.map (·.toNat) ≠ some i → ln'.l.get i = ln.l.get i
  lValid : ∀ i, f.lw.map (·.toNat) ≠ some i → ln'.lValid.getLsbD i = ln.lValid.getLsbD i
  seed : res.seed = none → RegRef.seed ∉ dests f res.words.length → ln'.seed = ln.seed
  clockHi : f.reads 17 = false → ln'.clockHi = ln.clockHi
  one : ∀ w ref, res.words = [w] → f.dst.ref 0 = some ref → ln'.holds ref w
  run : ∀ k w i, res.words[k]? = some w → (f.dst.ref k = some (.v i) ∨ f.dst.ref k = some (.o i)) → ∃ ref, f.dst.ref k = some ref ∧ ln'.holds ref w
  lw : ∀ w ws i, res.words = w :: ws → f.lw = some i → ln'.l.get i.toNat = w ∧ ln'.lValid.getLsbD i.toNat = true

/-- The addresses that some lane's passed access reaches. -/
def reached (e : Env) (cs : List (Nat × Nat × Chk)) (a : Nat) : Prop := ∃ c ∈ e.lanes, ∃ as, chkOf cs c.1 = .ok as ∧ a ∈ as

/-- R76. The guard that decides on which lanes parcels that are no instruction trap: their own, where they bear one. -/
def rejectGuard : Reject → Guard
  | .illegalOpcode gd _ => gd
  | .illegalForm gd => gd
  | .headerMarker => Guard.always
  | .pastEnd => Guard.always

/-- R75. What they raise, and %trap.info: ILLEGAL_OPCODE with the opcode, or ILLEGAL_FORM. -/
def rejectCause : Reject → Nat × Word
  | .illegalOpcode _ op => (Cause.illegalOpcode, op.setWidth 32)
  | _ => (Cause.illegalForm, 0)

/-- R23, R64, R156, R203. Forms that no lane may use: an operand of a class that the entry does not accept, a set-flag that the header does not name, a run past
the last register, a launch-uniform G destination. -/
def formBad (op : Op) (f : Form) (e : Env) (runs : List (Nat × Nat)) : Prop :=
  e.sig op f = none ∨ (op.isLong = true ∧ e.r.flagOf f.fsel = none) ∨ (∃ c ∈ runs, 256 < c.1 + c.2) ∨
  (∃ i, f.dst = .g i ∧ i.toNat < (e.rcd.level e.g.level).uniform) ∨ (takesMask op = true ∧ ∃ sg, e.sig op f = some sg ∧ opndOk sg.b f.b = false)

/-- R28. A lane whose source is an L entry that is not valid. -/
def readsBadL (f : Form) (ln : Lane) : Prop := ∃ i, (f.a = .l i ∨ f.b = .l i ∨ f.c = .l i) ∧ ln.lValid.getLsbD i.toNat = false

/-- R16. The instruction names a V register, by a specifier or in a run of its own. -/
def namesV (op : Op) (f : Form) (e : Env) (runs : List (Nat × Nat)) (n : Nat) : Prop :=
  ∃ sg, e.sig op f = some sg ∧ ∃ c ∈ sg.vRuns op f ++ runs, c.1 ≤ n ∧ n < c.1 + c.2

/-- R76. What the checks of an instruction answer that rest on the state: a bad form on every lane of X, else an invalid L entry on the lanes that read one, or of MMA, QUANT
and HAD on every lane of X (R320),
else the lowest V register at or beyond the budget, else MMA outside its role, else HELD_READ on the lanes that it concerns, else nothing. -/
def ChecksAnswer (op : Op) (f : Form) (s : State) (e : Env) (runs : List (Nat × Nat)) : Prop :=
  let answer := s.preCheck e op f runs
  let budget := e.rcd.budgetOf e.g.level e.g.role
  (formBad op f e runs → answer = some (Cause.illegalForm, 0, e.x)) ∧
  (¬ formBad op f e runs →
    ((∃ c ∈ e.lanes, readsBadL f c.2) →
      ∃ lanes, answer = some (Cause.illegalForm, 0, lanes) ∧ (op ∈ [Op.mma, .quant, .had] → lanes = e.x) ∧
        (op ∉ [Op.mma, .quant, .had] → ∀ l, lanes.getLsbD l = true ↔ ∃ ln, (l, ln) ∈ e.lanes ∧ readsBadL f ln)) ∧
    ((∀ c ∈ e.lanes, ¬ readsBadL f c.2) →
      (∀ n, namesV op f e runs n → 8 * budget ≤ n → (∀ m, namesV op f e runs m → 8 * budget ≤ m → n ≤ m) →
        answer = some (Cause.regBudget, BitVec.ofNat 32 (256 * budget + n), e.x)) ∧
      ((∀ n, namesV op f e runs n → n < 8 * budget) →
        (op = .mma → e.g.role ≠ 1 → answer = some (Cause.roleViolation, BitVec.ofNat 32 e.g.role, e.x)) ∧
        (op ≠ .mma ∨ e.g.role = 1 → ∀ sg, e.sig op f = some sg →
          ((∀ c ∈ e.lanes, s.heldError e sg f c.2 = none) → answer = none) ∧
          ((∃ c ∈ e.lanes, s.heldError e sg f c.2 ≠ none) → ∃ info lanes, answer = some (Cause.heldRead, info, lanes) ∧
            (∀ l, lanes.getLsbD l = true ↔ ∃ ln, (l, ln) ∈ e.lanes ∧ s.heldError e sg f ln ≠ none) ∧
            ∃ ln, (lowLane lanes, ln) ∈ e.lanes ∧ s.heldError e sg f ln = some info)))))

/-- R168, R461. What goes to memory after a step: the completions to the rings of their queues, and the registers of backing slots to their memory. -/
def WrittenOut (s : State) (a : Nat) : Prop :=
  (∃ q ∈ s.queues, q.rings.doneSize ≠ 0 ∧ ∃ i, (i < q.rings.doneSize ∨ i = q.tail) ∧ hostAt + q.rings.doneBase + 32 * i ≤ a ∧
    a < hostAt + q.rings.doneBase + 32 * i + 32) ∨ ∃ x ∈ s.slots, ∃ c ∈ s.slotCells x, c.1 = a

/-- The bytes of a tidemark. -/
def inMark (m a : Nat) : Prop := m ≤ a ∧ a < m + 16

/-- R231, R239, R430. The bytes of an element of `w` bytes at coordinates `cs` of a layout, where an engine's access that passes finds them: in an allocation from
granule `base` of a core, or at the place to which the tenant's tables take its address. -/
def elementBytes (s : State) (tenant core : Nat) (base : Option Nat) (m : BitVec 512) (cs : List Nat) (w : Nat) : List Nat :=
  if layOnChip m then base.elim [] (fun b => (List.range w).map (fun i => scratchByte core b (laySwizzled m (layAddr m cs).toNat i)))
  else match s.translate tenant (wrap 64 (layAddr m cs)).toNat with
    | .at_ place _ => span place w
    | .bad _ _ => []

/-- R294, R302. The bytes that a tile operation may store to: the destination elements that it moves, a scatter's counters and its four status words, and its
tidemark. -/
def TileOp.reach (s : State) (o : TileOp) (a : Nat) : Prop :=
  let tenant := ((s.block? o.block).bind (fun b => s.launch? b.launch)).elim 0 (·.tenant)
  let place := fun (m : BitVec 512) (cs : List Nat) =>
    elementBytes s tenant (layCore m o.core) ((s.block? o.block).bind (fun b => s.allocOn b (layCore m o.core))) m cs (layElem m)
  (match o.kind with
    | .scatter mi mc mt ks i0 n r0 ov q =>
      let run := (s.clearBad (s.scatClears o tenant mi mc mt i0 n r0 ov q (s.scatCells o tenant mi mc i0 n ov))).scatter o tenant mi mc mt ks i0 n r0 ov q
      (∃ c ∈ run.cells, a ∈ place o.dst c) ∨ (∃ x, (x = ov ∨ x < layExt o.dst 2) ∧ a ∈ place mc [x]) ∨ ∃ i < 4, a ∈ place mt [q + i]
    | _ => a ∈ s.tileBytes o tenant (s.tileOrder o tenant (tuples o.counts))) ∨
  ∃ off, o.mark = some off ∧ ∃ c b, ((c, some b) ∈ s.tileTargets o ∨ (c = o.core ∧ (s.block? o.block).bind (fun x => s.allocOn x o.core) = some b)) ∧
    inMark (scratchByte c b off) a

/-- R327, R329. The bytes that an entry of the matrix queue that is no computation may store to: a drain's are its tile's elements from its origin, a save's those of
its image. -/
def MatEntry.reach (s : State) (m : MatEntry) (a : Nat) : Prop :=
  let t := s.entryTile m
  let place := fun (lay : BitVec 512) (cs : List Nat) (w : Nat) => elementBytes s (s.entryTenant m) (s.entryBase m lay).1 (s.entryBase m lay).2 lay cs w
  match m.kind with
  | .drain lay _ d0 d1 _ _ _ => ∃ ij ∈ tileElems t, a ∈ place lay [d0 + ij.2, d1 + ij.1] (layElem lay)
  | .save lay _ c0 => ∃ c, c0 ≤ c ∧ c < c0 + t.rows * (t.cols * imageBytes t.format) ∧ a ∈ place lay [c] 1
  | _ => False

/-- The band that a core's computation commits next (R321, R325). -/
def bandOf (s : State) (m : MatEntry) (which : Nat) (w : Word) (pb : BitVec 512) : Except EngBad Band :=
  let seed := pb.extractLsb' 32 32
  if which = 0 then s.mmaBand m (s.entryFormat m) w pb m.row else s.quantBand m which w pb (if seed = 0 then 1 else seed) m.row

/-- The command at the head of a queue. -/
def headOf (s : State) (queue : Nat) (c : CmdEntry) : Prop := ∃ q rest, s.queue? queue = some q ∧ q.pending = c :: rest

/-- The bytes that an instruction or a step may store to: everywhere else memory stays as it is. -/
def Instr.reach (i : Instr) (s : State) (a : Nat) : Prop :=
  match i with
  | .st f => ∃ e, s.env f.guard = some e ∧ reached e (laneChecks s e f (memWidth f) 1 (memZ f)) a
  | .atom f => ∃ e, s.env f.guard = some e ∧ reached e (laneChecks s e f (if ordD (BitVec.ofNat 10 f.b.uimm) then 8 else 4) 2 false) a
  | .red f => ∃ e, s.env f.guard = some e ∧ reached e (laneChecks s e f (if ordD (BitVec.ofNat 10 f.dst.uimm) then 8 else 4) 2 false) a
  | .seamStore f => ∃ e as, s.env f.guard = some e ∧ chkOf (seamCheck s e f 1) (lowLane e.x) = .ok as ∧ a ∈ as
  | .tmInit f | .tmExpect f | .tmArrive f | .tmArrivew f => ∃ e m, s.env f.guard = some e ∧ s.tidemarkAt e f.c.uimm true = .ok m ∧ inMark m a
  | .copy f => ∃ e, s.env f.guard = some e ∧ ∃ c ∈ e.lanes, ∃ as, a ∈ as ∧
      s.access e f.dst.uimm (coords s e f c.1 c.2 0 (layRank (e.layout f.dst.uimm))) (copyWidth f) 1 (f.mod.getLsbD 1) = .ok as
  | .tileOperationCompletion k => ∃ o, findId TileOp.id k s.tileOps = some o ∧ o.reach s a
  | .lnestCompletion k => ∃ o, findId NestOp.id k s.nests = some o ∧ ∃ is ∈ nestOuts o.form,
      a ∈ elementBytes s 0 o.core ((s.block? o.block).bind (fun b => s.allocOn b o.core)) o.lay0 [(nestPos o.form.x0 o.base0 is).toNat] (layElem o.lay0)
  | .wqAskAnswer k => ∃ q, findId Ask.id k s.asks = some q ∧ (a ∈ q.addrs ∨ ∃ m, q.mark = some m ∧ inMark m a)
  | .matrixQueueEntryStart core => ∃ m, s.nextEntry core = some m ∧ (m.reach s a ∨ ∃ w x as pb, m.kind = .compute w x as pb ∧ a ∈ as)
  | .bandCommit core => ∃ m w x as pb, (s.matrixQueue core).find? (·.started) = some m ∧ m.kind = .compute w x as pb ∧
      (a ∈ as ∨ ∃ b, bandOf s m w x pb = .ok b ∧ ∃ c ∈ b.cells, c.1 = a)
  | .blockAdmission k core => ∃ b la p, s.block? k = some b ∧ s.launch? b.launch = some la ∧ s.plan la b core b.groupList = some p ∧
      inRuns p.cores p.base la.rcd.scratch a = true
  | .blockRestore k core => ∃ b la s' p places kept, s.block? k = some b ∧ s.launch? b.launch = some la ∧ b.saved = some kept ∧
      s.restorePlan la b core = some (s', p, places) ∧ (inRuns p.cores p.base la.rcd.scratch a = true ∨ ∃ x ∈ kept.bytes,
        a = scratchAt 0 + (granuleKey (p.cores.getD (x.1 / 512 / 4096) 0) (p.base.getD (x.1 / 512 / 4096) 0 + x.1 / 512 % 4096)) * 512 + x.1 % 512)
  | .windowMap q => ∃ c at_, headOf s q c ∧
      firstFit s.deviceUsed 0 Config.deviceBytes (c.op 3) (if 2 ^ 30 ≤ c.op 3 then 2 ^ 30 else 2 ^ 21) = some at_ ∧ at_ ≤ a ∧ a < at_ + c.op 3
  | .codeLoad q => ∃ c w image x at_, headOf s q c ∧ s.window? (queueTenant q) (c.op 0) = some w ∧ s.windowBytes w (c.op 1) (c.op 2) = some image ∧
      s.checkObject (((s.tenants.find? (fun y => y.num = queueTenant q)).map (·.codeKey)).getD []) (s.symbols (c.op 3) (c.op 4)) image = .ok x ∧
      firstFit s.deviceUsed 0 Config.deviceBytes (roundUp 65536 (x.header.lines * 128)) 65536 = some at_ ∧ at_ ≤ a ∧
      (a < at_ + roundUp 65536 (x.header.lines * 128) ∨ a < at_ + x.bytes.length)
  | .attest q => ∃ c ns ps, headOf s q c ∧ s.placesAt (queueTenant q) (c.op 0) 64 = some ns ∧
      s.placesAt (queueTenant q) (c.op 1) (s.report (queueTenant q) (s.bytes ns)).length = some ps ∧ a ∈ ps
  | .peerAccessArrival x => ∃ w xs, s.window? x.tenant x.window = some w ∧
      s.outsideAt x.tenant (w.base + x.offset) x.op.length = .places xs ∧ a ∈ xs.map (·.1)
  | .hostMemAccess x => ∃ w, s.window? x.tenant x.window = some w ∧ w.backing + x.offset ≤ a ∧ a < w.backing + x.offset + x.op.length
  | .deviceReset => a < hostAt
  | _ => False

/-- R278. A storing instruction that meets a trap, or a missing translation, on some of its lanes: the others are performed, in ascending order, and those left
are %trap.lanes and the lanes on which it runs again. -/
def PartDone (op : Op) (f : Form) (s : State) (e : Env) (cs : List (Nat × Nat × Chk))
    (act : State → Nat → Lane → List Nat → State × List (RegRef × Word)) : Prop :=
  let left := e.x &&& ~~~maskOf ((cs.filter (fun c => c.2.2.good)).map (·.1))
  (∀ c ∈ cs, c.2.2 ≠ .busy) →
    (∀ cause info lanes, verdict cs = .trap cause info lanes → e.g.handler = none → e.rcd.handlers.getD e.g.level 0 ≠ 0 →
      ∃ (t : State) (g' : Group) (h : Handler), exec (op.instr f) s = .next t ∧ t.mem = (inLaneOrder s e cs act).1.mem ∧ t.group? e.gid = some g' ∧
        g'.handler = some h ∧ h.cause = BitVec.ofNat 8 cause ∧ h.trapLanes = left ∧ h.todo = left) ∧
    (∀ va level reason k, verdict cs = .miss va level reason k →
      ∃ (t : State) (g' : Group), exec (op.instr f) s = .next t ∧ t.mem = (inLaneOrder s e cs act).1.mem ∧ t.group? e.gid = some g' ∧
        g'.resumeOn = true ∧ g'.resume = left ∧ g'.resumeAt = e.r.cur)

/-- After a storing instruction, every byte outside the stored ones reads as before, and so does every register: of every lane (but for %clockhi where the
instruction reads %clock), every G register, every held register, every flag but its own, every granule's owner. -/
def StoresOnly (s t : State) (e : Env) (f : Form) (p : Nat → Prop) : Prop :=
  (∀ a, ¬ p a → t.byte a = s.byte a) ∧ t.slots = s.slots ∧ t.blocks = s.blocks ∧ t.owners = s.owners ∧ (∀ k, k ≠ e.gid → t.group? k = s.group? k) ∧
  ∃ g', t.group? e.gid = some g' ∧ g'.g = e.g.g ∧ g'.seams = e.g.seams ∧ (∀ i, some i ≠ e.r.flagOf f.fsel → g'.flag i = e.g.flag i) ∧
    g'.lanes.map (fun ln => { ln with clockHi := 0 }) = e.g.lanes.map (fun ln => { ln with clockHi := 0 })

end Sys2Proof.Machine

open Sys2Proof Sys2Proof.Machine

/-! ### Decoding and encoding -/

/-- R57 to R67: each of these words, as the spec's listings print it, decodes to the instruction that the listing names, whatever follows it. -/
def Obligations.KnownWordsDecode : Prop :=
  ∀ x ∈ knownWords, ∀ bank rest, decodeParcels bank (wordParcels x.1 ++ (x.2.1.map literalParcels).getD [] ++ rest) =
    .ok (x.2.2, if x.2.1.isSome then 6 else 4)

/-- R57 to R70. Decoding the encoding of a well-formed instruction, whatever parcels follow and whatever the bank, gives that instruction and its
length. -/
def Obligations.DecodeOfEncode : Prop :=
  ∀ i bank rest, i.wf = true → encode i ≠ [] → decodeParcels bank (encode i ++ rest) = .ok (i, (encode i).length)

/-- R58 to R75. What decodes is well formed, whatever the bank, and without a bank the parcels are exactly its encoding: each instruction has one encoding, and no reserved
one is read as a neighbour. -/
def Obligations.DecodingIsExact : Prop :=
  ∀ ps i n, (∀ bank, decodeParcels bank ps = .ok (i, n) → i.wf = true ∧ (n = 1 ∨ n = 4 ∨ n = 6 ∨ n = 16) ∧ n ≤ ps.length) ∧
    (decodeParcels [] ps = .ok (i, n) → ps.take n = encode i)

/-- R68, R75. An unassigned opcode is rejected as such, with its guard, with a literal or without one; a dictionary parcel stands for its entry, whose source-c field its patch replaces
where the entry's bit [0] is set, and is rejected beyond the bank (on every lane of the path, log entry 70) or with a patch on a clear bit; a header marker is rejected. -/
def Obligations.RejectionsAndDictionary : Prop :=
  (∀ bank (w : BitVec 64) rest, w.extractLsb' 62 2 = 2 → w.getLsbD 1 = false → Op.decode (w.extractLsb' 54 8).toNat = none →
    decodeParcels bank (wordParcels w ++ rest) = .error (.illegalOpcode { idx := w.extractLsb' 46 3, neg := w.getLsbD 49 } (w.extractLsb' 54 8))) ∧
  (∀ bank (w : BitVec 64) (x : BitVec 32) rest, w.extractLsb' 62 2 = 2 → w.getLsbD 1 = true → Op.decode (w.extractLsb' 54 8).toNat = none →
    decodeParcels bank (wordParcels w ++ literalParcels x ++ rest) =
      .error (.illegalOpcode { idx := w.extractLsb' 46 3, neg := w.getLsbD 49 } (w.extractLsb' 54 8))) ∧
  (∀ bank (p : Parcel) rest, p.getLsbD 15 = false → bank.length ≤ (p.extractLsb' 0 10).toNat →
    decodeParcels bank (p :: rest) = .error (.illegalForm Guard.always)) ∧
  (∀ bank (p : Parcel) rest (e : BitVec 64), p.getLsbD 15 = false → bank[(p.extractLsb' 0 10).toNat]? = some e → e.getLsbD 0 = false →
    decodeParcels bank (p :: rest) =
      if p.extractLsb' 10 5 = 0 then (decodeFull e none).map (·, 1) else .error (.illegalForm { idx := e.extractLsb' 46 3, neg := e.getLsbD 49 })) ∧
  (∀ bank (p : Parcel) rest (e : BitVec 64), p.getLsbD 15 = false → bank[(p.extractLsb' 0 10).toNat]? = some e → e.getLsbD 0 = true →
    ∃ w : BitVec 64, decodeParcels bank (p :: rest) = (decodeFull w none).map (·, 1) ∧ w.getLsbD 0 = false ∧ w.extractLsb' 6 5 = p.extractLsb' 10 5 ∧
      w.extractLsb' 11 53 = e.extractLsb' 11 53 ∧ w.extractLsb' 1 5 = e.extractLsb' 1 5) ∧
  (∀ bank (p : Parcel) rest, p.extractLsb' 13 3 = 7 → decodeParcels bank (p :: rest) = .error .headerMarker)

/-! ### Steps, reset, invariants -/

/-- R25, R58, R76. Where a clause is in progress on the group in focus and the parcels at its place decode, the step after one clock runs exactly that
instruction, with the clause moved past it, and the clause ends when its body is done; where they do not, it raises ILLEGAL_OPCODE with the opcode, or
ILLEGAL_FORM, on the lanes of the path where the guard that the parcels bear is true, and on none it changes but the group's own flags (R75); where the agenda holds a step (log entry 11), that one runs. What
follows of itself (R98, R148, R410), and what then goes to memory (R168, R461), follow either. -/
def Obligations.StepRunsTheDecodedInstruction : Prop :=
  (∀ s gid g r i n, s.agenda = [] → s.focus = some gid → s.group? gid = some g → g.run = some r → decodeParcels (s.bankOf g r) r.body = .ok (i, n) →
    step s = settled (match exec i ((s.tick 1).updGroup gid (fun g => { g with run := some { r with
        cur := r.next, curBody := r.body, next := r.next + 2 * n, body := r.body.drop n } })) with
      | .next t => .next (t.endClause gid)
      | .fault x => .fault x
      | .refused x => .refused x)) ∧
  (∀ s gid g r why, s.agenda = [] → s.focus = some gid → s.group? gid = some g → g.run = some r → decodeParcels (s.bankOf g r) r.body = .error why →
    let n := ((scanOne (s.bankOf g r) r.body).map (·.len)).getD r.body.length
    let u := (s.tick 1).updGroup gid (fun _ => { g with run := some { r with
      cur := r.next, curBody := r.body, next := r.next + 2 * n, body := r.body.drop n } })
    (∀ x : LaneMask, g.resumeOn = false →
      (∀ l, x.getLsbD l = (r.lanes.getLsbD l && (g.lane? l).elim false (fun ln => ln.pred (rejectGuard why).idx.toNat ^^ (rejectGuard why).neg))) →
      (x ≠ 0 → step s = settled (.next ((u.trapAt gid (rejectCause why).1 (rejectCause why).2 x).endClause gid))) ∧
      (x = 0 → ∃ t : State, step s = settled (.next (t.endClause gid)) ∧
        t = { u with groups := t.groups } ∧ t.mem = s.mem ∧ ∀ k, k ≠ gid → t.group? k = u.group? k))) ∧
  (∀ s dt i rest, s.agenda = (dt, i) :: rest → step s = settled (exec i ({ s with agenda := rest }.tick dt)))

/-- R470. At reset memory is empty, and in canonical form; no tenant, page, launch, group or engine operation is there. -/
def Obligations.ResetState : Prop :=
  Memory.wf State.reset.mem = true ∧ State.reset.mem = [] ∧ State.reset.focus = none ∧ State.reset.groups = [] ∧ State.reset.launches = [] ∧
  State.reset.blocks = [] ∧ State.reset.elems = [] ∧ State.reset.ops = [] ∧ State.reset.tenants = [] ∧ State.reset.codes = [] ∧
  State.reset.windows = [] ∧ State.reset.ptes = [] ∧ State.reset.faults = [] ∧ State.reset.completions = [] ∧ State.reset.outbox = [] ∧ State.reset.queues.all (fun q => q.pending.isEmpty) = true ∧ State.reset.stopped = false

/-- Every step keeps memory in canonical form: addresses rising, no listed byte zero. -/
def Obligations.StepKeepsMemoryCanonical : Prop := ∀ s t, Memory.wf s.mem = true → step s = .next t → Memory.wf t.mem = true

/-- R431, R75. Every instruction and step goes on, in every state: it answers a next state, or the one fault, an access to memory that does not exist;
nothing is refused. -/
def Obligations.OnlyMissingMemoryStops : Prop :=
  ∀ i s, (∃ t, exec i s = .next t) ∨ ∃ a, exec i s = .fault (.noSuchMemory a)

/-- R236, R278, R286. Memory changes only where an instruction or a step stores (`Instr.reach`): ST, ATOM and RED, performed in whole or in part, change no
byte but those their lanes' accesses reach, nor does COPY, SEAM.STORE none but those of its image, a tidemark instruction none but the tidemark's 16; a
tile operation, a nest, a band, an answer, an admission, a restore, a command or an access from outside none but its own; every other instruction or step,
whatever it does or traps on, leaves every byte as it was. What settles after a step changes none, and what then goes out changes the rings of completions and the
memory of backing slots. ST, ATOM and RED leave registers and flags alone, and in part they perform the lanes that pass. -/
def Obligations.MemoryChangesOnlyWhereStored : Prop :=
  (∀ i s t a, exec i s = .next t → ¬ Instr.reach i s a → t.byte a = s.byte a) ∧
  (∀ i s t, Instr.stores i = false → exec i s = .next t → t.mem = s.mem) ∧
  (∀ s : State, s.settle.mem = s.mem ∧ ∀ gid, (s.endClause gid).mem = s.mem) ∧
  (∀ (s : State) a, ¬ WrittenOut s a → s.writeOut.byte a = s.byte a) ∧
  (∀ f s e, Runs .st f (coordRun f) s e → allGood (laneChecks s e f (memWidth f) 1 (memZ f)) →
    ∃ t, exec (.st f) s = .next t ∧ StoresOnly s t e f (reached e (laneChecks s e f (memWidth f) 1 (memZ f)))) ∧
  (∀ f s e, Runs .atom f (coordRun f) s e → allGood (laneChecks s e f (if ordD (BitVec.ofNat 10 f.b.uimm) then 8 else 4) 2 false) →
    ∃ t, exec (.atom f) s = .next t ∧ StoresOnly s t e f (reached e (laneChecks s e f (if ordD (BitVec.ofNat 10 f.b.uimm) then 8 else 4) 2 false))) ∧
  (∀ f s e, Runs .red f (coordRun f) s e → allGood (laneChecks s e f (if ordD (BitVec.ofNat 10 f.dst.uimm) then 8 else 4) 2 false) →
    ∃ t, exec (.red f) s = .next t ∧ StoresOnly s t e f (reached e (laneChecks s e f (if ordD (BitVec.ofNat 10 f.dst.uimm) then 8 else 4) 2 false))) ∧
  (∀ f s e, Runs .seamStore f (coordRun f) s e → seamFree s e [f.mod.toNat] → allGood (seamCheck s e f 1) →
    ∃ t, exec (.seamStore f) s = .next t ∧ StoresOnly s t e f (fun a => ∃ as, chkOf (seamCheck s e f 1) (lowLane e.x) = .ok as ∧ a ∈ as)) ∧
  (∀ op f s e a, op ∈ [Op.tmInit, .tmExpect, .tmArrive, .tmArrivew] → Runs op f (noRuns f) s e → s.tidemarkAt e f.c.uimm true = .ok a →
    ∃ t, exec (op.instr f) s = .next t ∧ (∀ x, x < a ∨ a + 16 ≤ x → t.byte x = s.byte x)) ∧
  (∀ f s e, Runs .st f (coordRun f) s e →
    PartDone .st f s e (laneChecks s e f (memWidth f) 1 (memZ f)) (fun t l ln as => (t.store as (storeData s e f (memWidth f) l ln), []))) ∧
  (∀ f s e, Runs .atom f (coordRun f) s e →
    let wide := ordD (BitVec.ofNat 10 f.b.uimm)
    PartDone .atom f s e (laneChecks s e f (if wide then 8 else 4) 2 false) (fun t _ ln as => (t.store as (atomStep f wide ln (t.load as)), []))) ∧
  (∀ f s e, Runs .red f (coordRun f) s e →
    let wide := ordD (BitVec.ofNat 10 f.dst.uimm)
    PartDone .red f s e (laneChecks s e f (if wide then 8 else 4) 2 false) (fun t l ln as =>
      (t.store as (atomNew (if wide then 64 else 32) f.mod.toNat (t.load as) (addend f s e l ln) 0), [])))

/-! ### Registers -/

/-- R25, R28, R31, R64. The fixed-latency arithmetic, logic, moves, conversions and reads (those of the four result statements) change nothing but their group
and, for an h destination, the slots of their lanes' elements: each lane of X holds its result and keeps every other register, every other lane is as it was, and so are the
group's flags and seams, every G register that is no destination, and every slot and held register that is none. A G destination holds the highest lane's result, and an h
destination its lane's. -/
def Obligations.FixedLatencyRegisters : Prop :=
  ∀ r ∈ fixedRows, ∀ f s e, Runs r.op f (noRuns f) s e →
    ∃ (t : State) (g' : Group), exec (r.op.instr f) s = .next t ∧ t.group? e.gid = some g' ∧ t = { s with groups := t.groups, slots := t.slots } ∧
      (∀ k, k ≠ e.gid → t.group? k = s.group? k) ∧ ((∀ i, f.dst ≠ .h i) → t.slots = s.slots) ∧
      g' = { e.g with lanes := g'.lanes, g := g'.g, resumeOn := g'.resumeOn } ∧ ((∀ i, f.dst ≠ .g i) → g'.g = e.g.g) ∧
      (∀ j, (∀ c ∈ e.lanes, RegRef.g j ∉ dests f (r.res f s e c.1 c.2).words.length) → g'.g.get j = e.g.g.get j) ∧
      (∀ c j w, e.lanes.getLast? = some c → f.dst.ref 0 = some (.g j) → (r.res f s e c.1 c.2).words = [w] → g'.g.get j = w) ∧
      t.slots.length = s.slots.length ∧
      (∀ (k : Nat) (sl sl' : Slot), s.slots[k]? = some sl → t.slots[k]? = some sl' → sl' = { sl with h := sl'.h } ∧
        (∀ j, (∀ c ∈ e.lanes, c.2.elem = sl.elem → RegRef.h j ∉ dests f (r.res f s e c.1 c.2).words.length) → sl'.h.get j = sl.h.get j) ∧
        (∀ c ∈ e.lanes, ∀ j w, c.2.elem = sl.elem → (∀ d ∈ e.lanes, d.2.elem = sl.elem → d = c) → f.dst.ref 0 = some (.h j) →
          (r.res f s e c.1 c.2).words = [w] → sl'.h.get j = w)) ∧
      g'.lanes.length = e.g.lanes.length ∧
      ∀ l ln ln', e.g.lane? l = some ln → g'.lane? l = some ln' →
        (e.x.getLsbD l = false → ln' = ln) ∧ (e.x.getLsbD l = true → LaneAfter f (r.res f s e l ln) ln ln')

/-- R23, R98, R440. LANE_COMPLETION of a ready lane that is not being restored, with no earlier write to its G register outstanding (R269): its instruction loses the
lane, and is gone with its last; its flag's count falls by one and every other flag stays; the registers that the instruction writes on the lane hold their words, where each
is written once, but that a lane which has exited writes no held register; memory, every other lane, instruction, group, slot and register is as it was. -/
def Obligations.CompletionFrame : Prop :=
  ∀ (s : State) op lane (o : LongOp) (l : OpLane) (g : Group), s.op? op = some o → o.lanes.find? (fun x => x.lane = lane) = some l → l.cond = .ready →
    s.group? o.group = some g → o.kept = false → s.writesBehind o l = false →
    ∃ (t : State) (g' : Group), exec (.laneCompletion op lane) s = .next t ∧ t = { s with groups := t.groups, slots := t.slots, ops := t.ops } ∧
      t.group? o.group = some g' ∧ (∀ k, k ≠ o.group → t.group? k = s.group? k) ∧
      (∀ k, k ≠ op → t.op? k = s.op? k) ∧
      t.op? op = (let rest := o.lanes.filter (fun x => x.lane ≠ lane)
        if rest = [] then none else some { o with lanes := rest }) ∧
      (∀ j, (∀ w, (RegRef.g j, w) ∉ l.writes) → g'.g.get j = g.g.get j) ∧ t.slots.length = s.slots.length ∧
      (∀ (k : Nat) (sl sl' : Slot), s.slots[k]? = some sl → t.slots[k]? = some sl' → sl' = { sl with h := sl'.h } ∧
        (∀ j, (∀ w, (RegRef.h j, w) ∉ l.writes) → sl'.h.get j = sl.h.get j) ∧
        (∀ ln, g.lane? lane = some ln → ln.elem ≠ sl.elem ∨ ln.st = .exited → sl' = sl) ∧
        (∀ ln j w, g.lane? lane = some ln → ln.elem = sl.elem → ln.st ≠ .exited → (l.writes.map (·.1)).Nodup → (RegRef.h j, w) ∈ l.writes →
          sl'.h.get j = w)) ∧
      (∀ ln ln' : Lane, g.lane? lane = some ln → g'.lane? lane = some ln' →
        ln' = { ln with v := ln'.v, o := ln'.o, p := ln'.p, l := ln'.l, lValid := ln'.lValid, seed := ln'.seed } ∧
        (∀ j, (∀ w, (RegRef.v j, w) ∉ l.writes) → ln'.v.get j = ln.v.get j) ∧ (∀ j, (∀ w, (RegRef.o j, w) ∉ l.writes) → ln'.o.get j = ln.o.get j) ∧
        (∀ j, (∀ w, (RegRef.p j, w) ∉ l.writes) → ln'.pred j = ln.pred j) ∧ (∀ j, (∀ w, (RegRef.l j, w) ∉ l.writes) → ln'.l.get j = ln.l.get j) ∧
        ((∀ w, (RegRef.seed, w) ∉ l.writes) → ln'.seed = ln.seed) ∧
        ((l.writes.map (·.1)).Nodup → ∀ ref w, (ref, w) ∈ l.writes → ln'.holds ref w)) ∧
      ((l.writes.map (·.1)).Nodup → ∀ j w, (RegRef.g j, w) ∈ l.writes → g'.g.get j = w) ∧
      (∀ i, some i ≠ o.flag → g'.flag i = g.flag i) ∧ (∀ i, o.flag = some i → g'.flag i = g.flag i - 1) ∧
      g' = { g with lanes := g'.lanes, g := g'.g, flags := g'.flags } ∧
      ∀ k, k ≠ lane → g'.lane? k = g.lane? k

/-- R14: p7 reads as true, and a write to it is discarded, without a trap: an instruction with p7 as its destination completes, and leaves every lane's
predicates, and its registers, as they were. -/
def Obligations.P7ReadsTrueAndDropsWrites : Prop :=
  (∀ ln : Lane, ln.pred 7 = true) ∧ (∀ (ln : Lane) x, ln.write (.p 7) x = ln) ∧
  (∀ (s : State) (e : Env) v l (ln : Lane) k, s.srcAt e v l ln k (.pred 7) = 1) ∧
  ∀ r ∈ fixedRows, ∀ f s e, Runs r.op f (noRuns f) s e → f.dst = .p 7 → (∀ l ln, (r.res f s e l ln).seed = none) → f.lw = none →
    exec (r.op.instr f) s = .next (s.retire e r.op f)

/-- R26, R76. X is the lanes of the path where the guard's predicate, XOR its negation, is true; index 7 negated names no lane; and an instruction without
lanes takes no effect beside its flag's counts and the resume mask's end, and raises nothing. On some lane, arithmetic that meets one of R76's first causes
traps with it, before any effect of its own. Those are, in this order: a form that no lane may use (R23, R64, R156), an L entry that is not valid (R28), a V register beyond the
budget (R16), MMA outside its role (R158), and a held register that the lane may not read or write (R164). That HELD_READ
comes after ROLE_VIOLATION is log entry 25's reading; that a read of an ancestor's held register gives its newest value is log entry 3's choice. -/
def Obligations.GuardsAndChecksDecide : Prop :=
  (∀ (s : State) gd e, s.env gd = some e → e.g.resumeOn = false → ∀ l ln, e.g.lane? l = some ln → l < 64 →
    e.x.getLsbD l = (e.r.lanes.getLsbD l && (ln.pred gd.idx.toNat ^^ gd.neg))) ∧
  (∀ (s : State) e, s.env { idx := 7, neg := true } = some e → e.x = 0) ∧
  (∀ i op f (s : State) e, parts i = some (op, f) → s.env f.guard = some e → e.x = 0 → exec i s = .next (s.retire e op f)) ∧
  (∀ r ∈ fixedRows ++ slowRows, ∀ f (s : State) e cause info lanes, s.env f.guard = some e → e.x ≠ 0 → s.preCheck e r.op f [] = some (cause, info, lanes) →
    exec (r.op.instr f) s = .next (s.trapAt e.gid cause info lanes)) ∧
  (∀ op f (s : State) e runs, ChecksAnswer op f s e runs) ∧
  (∀ (s : State) (r : LaunchRec) (el : Elem) n, n < 64 →
    let m := r.heldLevel el.level n
    (m = 15 → s.readHeld r el n 0 = .error (BitVec.ofNat 32 (512 + n))) ∧
    (m ≠ 15 → m ≠ el.level → (∀ a, s.ancestor el m = some a → a.id ∉ el.claims) →
      s.readHeld r el n 0 = .error (BitVec.ofNat 32 (2048 + 64 * m + n))) ∧
    (m ≠ 15 → m = el.level → s.readHeld r el n 0 = .ok ((s.slot? el.id).elim 0 (fun sl => sl.h.get n))) ∧
    (∀ a, m ≠ 15 → m ≠ el.level → s.ancestor el m = some a → a.id ∈ el.claims →
      s.readHeld r el n 0 = .ok ((s.slot? a.id).elim 0 (fun sl => sl.h.get n)))) ∧
  (∀ (s : State) e sg (f : Form) (ln : Lane) i rest, sg.a.hRun f.a ++ sg.b.hRun f.b ++ sg.c.hRun f.c = [] → sg.d.hRun f.dst = i :: rest →
    (e.rcd.level e.g.level).held ≤ i → s.heldError e sg f ln = some (BitVec.ofNat 32 (1024 + 64 * e.g.level + i)))

/-! ### Traps -/

/-- R416, R417. A synchronous trap with a handler for the level: the group has an open handler at %trap.pc with the cause, the path's lanes stand at the
handler's entry with their return points, their information and their L entries hidden, and keep every register; the clause's 1 and what had not
executed leave each of its set-flags, A and B, which may be one flag. No clause is in progress in the group, no lane waits to run an instruction again, and the
group is no longer the one in focus; nothing else of the group changes, no other group, and nothing else of the machine. -/
def Obligations.TrapEntersTheHandler : Prop :=
  ∀ (s : State) gid cause info lanes (g : Group) (r : Run) (la : Launch), s.group? gid = some g → g.run = some r → g.handler = none →
    s.launch? g.launch = some la → la.rcd.handlers.getD g.level 0 ≠ 0 →
    let t := s.trapAt gid cause info lanes
    ∃ g', t.group? gid = some g' ∧ t = { s with groups := t.groups, focus := if s.focus = some gid then none else s.focus } ∧
      t.groups.map (·.id) = s.groups.map (·.id) ∧ (∀ k, k ≠ gid → t.group? k = s.group? k) ∧
      g' = { g with
        lanes := g'.lanes, flags := g'.flags, run := none, resumeOn := false, resume := 0, hold := none
        handler := some { cause := BitVec.ofNat 8 cause, pc := r.cur, trapLanes := lanes, lanes := r.lanes, kept := some r, todo := r.lanes
                          atHeader := false, tret := false, preDone := false } } ∧ g'.lanes.length = g.lanes.length ∧
      (∀ i, some i ≠ r.flagA → some i ≠ r.flagB → g'.flag i = g.flag i) ∧
      (∀ i, r.flagA = some i → r.flagB ≠ some i → g'.flag i = g.flag i - (1 + r.remA)) ∧
      (∀ i, r.flagB = some i → r.flagA ≠ some i → g'.flag i = g.flag i - (1 + r.remB)) ∧
      (∀ i, r.flagA = some i → r.flagB = some i → g'.flag i = g.flag i - (1 + r.remA) - (1 + r.remB)) ∧
      ∀ l ln, g.lane? l = some ln → g'.lane? l = some (if r.lanes.getLsbD l then
        { ln with info, retPc := ln.pc, pc := la.rcd.handlers.getD g.level 0, lHidden := ln.lValid, lKept := ln.l, lValid := 0 } else ln)

/-- R174, R416, R419, R437. A trap for a level whose handler entry is 0, or a synchronous trap in a handler, ends the launch: firmware reports the cause, with bit [8] set in
the second case, %trap.pc, %trap.info and %trap.lanes to the launch's queue, and no lane of the launch is there to run again. So it is of a trap at an
instruction, of a trap at a header, of an asynchronous trap, and of SHELF_DEADLOCK, which ends the launch also where no group of it is blocked (R174); that report
then gives pc 0 and no lanes. -/
def Obligations.UnhandledTrapEndsTheLaunch : Prop :=
  (∀ (s : State) gid cause info lanes (g : Group) (r : Run) (la : Launch), s.group? gid = some g → g.run = some r → s.launch? g.launch = some la →
    la.st ≠ .ended → (g.lane? (lowLane lanes)).isSome = true → (g.handler.isSome = true ∨ la.rcd.handlers.getD g.level 0 = 0) →
    EndsReported s (s.trapAt gid cause info lanes) la (BitVec.ofNat 32 (if g.handler.isSome then 256 + cause else cause)) info r.cur lanes) ∧
  (∀ (s : State) gid cause info lanes pc (g : Group) (la : Launch), s.group? gid = some g → s.launch? g.launch = some la →
    la.st ≠ .ended → (g.lane? (lowLane lanes)).isSome = true → (g.handler.isSome = true ∨ la.rcd.handlers.getD g.level 0 = 0) →
    EndsReported s (s.trapHeader gid cause info lanes pc) la (BitVec.ofNat 32 (if g.handler.isSome then 256 + cause else cause)) info pc lanes) ∧
  (∀ (s : State) k (g : Group) (la : Launch) pc, s.group? k = some g → s.launch? g.launch = some la → la.st ≠ .ended →
    la.rcd.handlers.getD g.level 0 = 0 →
    (g.asyncDue = some Cause.preempt → trapPlace s g.freeBlocked pc →
      let lanes := g.freeBlocked.lanesWhere (·.unexited)
      ∀ ln, g.freeBlocked.lane? (lowLane lanes) = some ln →
        ∃ t : State, exec (.asyncTrapDelivery k) s = .next t ∧ EndsReported s t la (BitVec.ofNat 32 Cause.preempt) (BitVec.ofNat 32 ln.pc) pc lanes) ∧
    (g.asyncDue = some Cause.budget → trapPlace s g pc → (g.lane? (lowLane (g.lanesWhere (·.isFree)))).isSome = true →
      ∃ t : State, exec (.asyncTrapDelivery k) s = .next t ∧ EndsReported s t la (BitVec.ofNat 32 Cause.budget) 0 pc (g.lanesWhere (·.isFree))) ∧
    (∀ f rest, g.asyncDue = some Cause.engineFault → trapPlace s g pc → g.faults = f :: rest →
      let free := g.lanesWhere (·.isFree)
      let lanes := maskOf [if free &&& f.lanes ≠ 0 then lowLane (free &&& f.lanes) else lowLane free]
      (g.lane? (lowLane lanes)).isSome = true →
        ∃ t : State, exec (.asyncTrapDelivery k) s = .next t ∧ EndsReported s t la (BitVec.ofNat 32 Cause.engineFault) f.info pc lanes)) ∧
  (∀ (s : State) (p : Pool) info gid (g : Group) (la : Launch) low, s.group? gid = some g → s.launch? g.launch = some la → la.st ≠ .ended →
    la.rcd.handlers.getD g.level 0 = 0 →
    g.lanes.find? (fun ln => ((s.pool la.id p.level p.core).map (·.elem)).contains ln.elem && s.flagBlocked la g ln) = some low →
    let lanes := g.lanesWhere (fun ln => ln.pc = low.pc && s.flagBlocked la g ln)
    (g.lane? (lowLane lanes)).isSome = true →
    EndsReported s (s.deadlockTrap la p info gid) la (BitVec.ofNat 32 Cause.shelfDeadlock) info low.pc lanes) ∧
  (∀ (s : State) (p : Pool) (la : Launch), s.launch? la.id = some la → la.st ≠ .ended →
    (∀ g ∈ s.groups, g.launch = la.id → ∀ ln ∈ g.lanes, s.flagBlocked la g ln = false) →
    EndsReported s (s.breakPool la p) la (BitVec.ofNat 32 Cause.shelfDeadlock) (s.deadlockInfo la p) 0 0)

/-- R422. TRAPI: the trap is SOFTWARE (0x22), on the lanes of X, with b of the lowest lane of X as %trap.info: with a handler for the level, each of its
lanes reads them so. -/
def Obligations.TrapiRaisesSoftware : Prop :=
  ∀ f s e, Runs .trapi f (noRuns f) s e → e.g.handler = none → e.rcd.handlers.getD e.g.level 0 ≠ 0 →
    ∃ t g', exec (.trapi f) s = .next t ∧ t.group? e.gid = some g' ∧ ∀ l ln, g'.lane? l = some ln → e.r.lanes.getLsbD l = true →
      t.special g' l ln 24 = 0x22 ∧ t.special g' l ln 26 = (e.lanes.head?).elim 0 (fun c => s.src e .int c.1 c.2 f.b) ∧
      t.special g' l ln 25 = BitVec.ofNat 32 e.r.cur ∧ t.special g' l ln 27 = e.x.extractLsb' 0 32 ∧ t.special g' l ln 28 = e.x.extractLsb' 32 32

/-- R19, R186, R28, R98. When the body of a clause is done and no handler is open, its free lanes stand at their targets, or at the fall-through; their L
entries end; each set-flag, A and B, loses the clause's 1, and loses 2 where they are one flag; and the group has no clause in progress. -/
def Obligations.ClausesEnd : Prop :=
  ∀ (s : State) gid (g : Group) (r : Run), s.group? gid = some g → g.run = some r → r.body = [] → g.handler = none → r.losers = 0 →
    ∃ g', (s.endClause gid).group? gid = some g' ∧ g'.run = none ∧ (s.endClause gid).mem = s.mem ∧ (s.endClause gid).focus = none ∧
      (∀ i, some i ≠ r.flagA → some i ≠ r.flagB → g'.flag i = g.flag i) ∧
      (∀ i, r.flagA = some i → r.flagB ≠ some i → g'.flag i = g.flag i - 1) ∧
      (∀ i, r.flagB = some i → r.flagA ≠ some i → g'.flag i = g.flag i - 1) ∧
      (∀ i, r.flagA = some i → r.flagB = some i → g'.flag i = g.flag i - 2) ∧
      ∀ l ln ln', g.lane? l = some ln → g'.lane? l = some ln' →
        (r.lanes.getLsbD l = false → ln' = ln) ∧
        (r.lanes.getLsbD l = true → ln'.lValid = 0 ∧ (ln.restoring = false → ln.st = .free →
          ln' = { ln with lValid := 0, pc := ((r.targets.find? (fun t => t.1 = l)).map (·.2)).getD r.ft }))
end

