-- ==== Sys2Proof/Laws/State.lean ====
section
/-!
SUPPORT. What each basic update of the state leaves alone, one lemma for each field (all true by definition), and what it does to its own field.
-/
namespace Sys2Proof.Machine

/-! ### updGroup -/

@[simp] theorem State.updGroup_clock (s : State) (k : Nat) (f : Group → Group) : (s.updGroup k f).clock = s.clock := rfl
@[simp] theorem State.updGroup_focus (s : State) (k : Nat) (f : Group → Group) : (s.updGroup k f).focus = s.focus := rfl
@[simp] theorem State.updGroup_agenda (s : State) (k : Nat) (f : Group → Group) : (s.updGroup k f).agenda = s.agenda := rfl
@[simp] theorem State.updGroup_nextId (s : State) (k : Nat) (f : Group → Group) : (s.updGroup k f).nextId = s.nextId := rfl
@[simp] theorem State.updGroup_free (s : State) (k : Nat) (f : Group → Group) : (s.updGroup k f).free = s.free := rfl
@[simp] theorem State.updGroup_mem (s : State) (k : Nat) (f : Group → Group) : (s.updGroup k f).mem = s.mem := rfl
@[simp] theorem State.updGroup_bad (s : State) (k : Nat) (f : Group → Group) : (s.updGroup k f).bad = s.bad := rfl
@[simp] theorem State.updGroup_ptes (s : State) (k : Nat) (f : Group → Group) : (s.updGroup k f).ptes = s.ptes := rfl
@[simp] theorem State.updGroup_nextTable (s : State) (k : Nat) (f : Group → Group) : (s.updGroup k f).nextTable = s.nextTable := rfl
@[simp] theorem State.updGroup_owners (s : State) (k : Nat) (f : Group → Group) : (s.updGroup k f).owners = s.owners := rfl
@[simp] theorem State.updGroup_engineCounts (s : State) (k : Nat) (f : Group → Group) : (s.updGroup k f).engineCounts = s.engineCounts := rfl
@[simp] theorem State.updGroup_tagCounts (s : State) (k : Nat) (f : Group → Group) : (s.updGroup k f).tagCounts = s.tagCounts := rfl
@[simp] theorem State.updGroup_tagErrs (s : State) (k : Nat) (f : Group → Group) : (s.updGroup k f).tagErrs = s.tagErrs := rfl
@[simp] theorem State.updGroup_blocks (s : State) (k : Nat) (f : Group → Group) : (s.updGroup k f).blocks = s.blocks := rfl
@[simp] theorem State.updGroup_elems (s : State) (k : Nat) (f : Group → Group) : (s.updGroup k f).elems = s.elems := rfl
@[simp] theorem State.updGroup_slots (s : State) (k : Nat) (f : Group → Group) : (s.updGroup k f).slots = s.slots := rfl
@[simp] theorem State.updGroup_ops (s : State) (k : Nat) (f : Group → Group) : (s.updGroup k f).ops = s.ops := rfl
@[simp] theorem State.updGroup_copies (s : State) (k : Nat) (f : Group → Group) : (s.updGroup k f).copies = s.copies := rfl
@[simp] theorem State.updGroup_tileOps (s : State) (k : Nat) (f : Group → Group) : (s.updGroup k f).tileOps = s.tileOps := rfl
@[simp] theorem State.updGroup_nests (s : State) (k : Nat) (f : Group → Group) : (s.updGroup k f).nests = s.nests := rfl
@[simp] theorem State.updGroup_asks (s : State) (k : Nat) (f : Group → Group) : (s.updGroup k f).asks = s.asks := rfl
@[simp] theorem State.updGroup_items (s : State) (k : Nat) (f : Group → Group) : (s.updGroup k f).items = s.items := rfl
@[simp] theorem State.updGroup_matrix (s : State) (k : Nat) (f : Group → Group) : (s.updGroup k f).matrix = s.matrix := rfl
@[simp] theorem State.updGroup_acc (s : State) (k : Nat) (f : Group → Group) : (s.updGroup k f).acc = s.acc := rfl
@[simp] theorem State.updGroup_joins (s : State) (k : Nat) (f : Group → Group) : (s.updGroup k f).joins = s.joins := rfl
@[simp] theorem State.updGroup_contributions (s : State) (k : Nat) (f : Group → Group) : (s.updGroup k f).contributions = s.contributions := rfl
@[simp] theorem State.updGroup_chains (s : State) (k : Nat) (f : Group → Group) : (s.updGroup k f).chains = s.chains := rfl
@[simp] theorem State.updGroup_streams (s : State) (k : Nat) (f : Group → Group) : (s.updGroup k f).streams = s.streams := rfl
@[simp] theorem State.updGroup_prims (s : State) (k : Nat) (f : Group → Group) : (s.updGroup k f).prims = s.prims := rfl
@[simp] theorem State.updGroup_endings (s : State) (k : Nat) (f : Group → Group) : (s.updGroup k f).endings = s.endings := rfl
@[simp] theorem State.updGroup_faults (s : State) (k : Nat) (f : Group → Group) : (s.updGroup k f).faults = s.faults := rfl
@[simp] theorem State.updGroup_raySets (s : State) (k : Nat) (f : Group → Group) : (s.updGroup k f).raySets = s.raySets := rfl
@[simp] theorem State.updGroup_launches (s : State) (k : Nat) (f : Group → Group) : (s.updGroup k f).launches = s.launches := rfl
@[simp] theorem State.updGroup_completions (s : State) (k : Nat) (f : Group → Group) : (s.updGroup k f).completions = s.completions := rfl
@[simp] theorem State.updGroup_written (s : State) (k : Nat) (f : Group → Group) : (s.updGroup k f).written = s.written := rfl
@[simp] theorem State.updGroup_outbox (s : State) (k : Nat) (f : Group → Group) : (s.updGroup k f).outbox = s.outbox := rfl
@[simp] theorem State.updGroup_queues (s : State) (k : Nat) (f : Group → Group) : (s.updGroup k f).queues = s.queues := rfl
@[simp] theorem State.updGroup_tenants (s : State) (k : Nat) (f : Group → Group) : (s.updGroup k f).tenants = s.tenants := rfl
@[simp] theorem State.updGroup_windows (s : State) (k : Nat) (f : Group → Group) : (s.updGroup k f).windows = s.windows := rfl
@[simp] theorem State.updGroup_codes (s : State) (k : Nat) (f : Group → Group) : (s.updGroup k f).codes = s.codes := rfl
@[simp] theorem State.updGroup_dict (s : State) (k : Nat) (f : Group → Group) : (s.updGroup k f).dict = s.dict := rfl
@[simp] theorem State.updGroup_preempts (s : State) (k : Nat) (f : Group → Group) : (s.updGroup k f).preempts = s.preempts := rfl
@[simp] theorem State.updGroup_device (s : State) (k : Nat) (f : Group → Group) : (s.updGroup k f).device = s.device := rfl
@[simp] theorem State.updGroup_members (s : State) (k : Nat) (f : Group → Group) : (s.updGroup k f).members = s.members := rfl
@[simp] theorem State.updGroup_linksDown (s : State) (k : Nat) (f : Group → Group) : (s.updGroup k f).linksDown = s.linksDown := rfl
@[simp] theorem State.updGroup_directory (s : State) (k : Nat) (f : Group → Group) : (s.updGroup k f).directory = s.directory := rfl
@[simp] theorem State.updGroup_timeBase (s : State) (k : Nat) (f : Group → Group) : (s.updGroup k f).timeBase = s.timeBase := rfl
@[simp] theorem State.updGroup_temps (s : State) (k : Nat) (f : Group → Group) : (s.updGroup k f).temps = s.temps := rfl
@[simp] theorem State.updGroup_clockSteps (s : State) (k : Nat) (f : Group → Group) : (s.updGroup k f).clockSteps = s.clockSteps := rfl
@[simp] theorem State.updGroup_hotDies (s : State) (k : Nat) (f : Group → Group) : (s.updGroup k f).hotDies = s.hotDies := rfl
@[simp] theorem State.updGroup_overheated (s : State) (k : Nat) (f : Group → Group) : (s.updGroup k f).overheated = s.overheated := rfl
@[simp] theorem State.updGroup_stopped (s : State) (k : Nat) (f : Group → Group) : (s.updGroup k f).stopped = s.stopped := rfl
@[simp] theorem State.updGroup_powerTotal (s : State) (k : Nat) (f : Group → Group) : (s.updGroup k f).powerTotal = s.powerTotal := rfl
@[simp] theorem State.updGroup_stepping (s : State) (k : Nat) (f : Group → Group) : (s.updGroup k f).stepping = s.stepping := rfl
@[simp] theorem State.updGroup_fwVersion (s : State) (k : Nat) (f : Group → Group) : (s.updGroup k f).fwVersion = s.fwVersion := rfl
@[simp] theorem State.updGroup_cfgVersion (s : State) (k : Nat) (f : Group → Group) : (s.updGroup k f).cfgVersion = s.cfgVersion := rfl
@[simp] theorem State.updGroup_errata (s : State) (k : Nat) (f : Group → Group) : (s.updGroup k f).errata = s.errata := rfl
@[simp] theorem State.updGroup_identity (s : State) (k : Nat) (f : Group → Group) : (s.updGroup k f).identity = s.identity := rfl
@[simp] theorem State.updGroup_fwImage (s : State) (k : Nat) (f : Group → Group) : (s.updGroup k f).fwImage = s.fwImage := rfl
@[simp] theorem State.updGroup_cfgImage (s : State) (k : Nat) (f : Group → Group) : (s.updGroup k f).cfgImage = s.cfgImage := rfl
@[simp] theorem State.updGroup_fwFlash (s : State) (k : Nat) (f : Group → Group) : (s.updGroup k f).fwFlash = s.fwFlash := rfl
@[simp] theorem State.updGroup_cfgFlash (s : State) (k : Nat) (f : Group → Group) : (s.updGroup k f).cfgFlash = s.cfgFlash := rfl
@[simp] theorem State.updGroup_recovery (s : State) (k : Nat) (f : Group → Group) : (s.updGroup k f).recovery = s.recovery := rfl
@[simp] theorem State.updGroup_groups (s : State) (k : Nat) (f : Group → Group) : (s.updGroup k f).groups = updId Group.id k f s.groups := rfl

/-! ### updBlock -/

@[simp] theorem State.updBlock_clock (s : State) (k : Nat) (f : Block → Block) : (s.updBlock k f).clock = s.clock := rfl
@[simp] theorem State.updBlock_focus (s : State) (k : Nat) (f : Block → Block) : (s.updBlock k f).focus = s.focus := rfl
@[simp] theorem State.updBlock_agenda (s : State) (k : Nat) (f : Block → Block) : (s.updBlock k f).agenda = s.agenda := rfl
@[simp] theorem State.updBlock_nextId (s : State) (k : Nat) (f : Block → Block) : (s.updBlock k f).nextId = s.nextId := rfl
@[simp] theorem State.updBlock_free (s : State) (k : Nat) (f : Block → Block) : (s.updBlock k f).free = s.free := rfl
@[simp] theorem State.updBlock_mem (s : State) (k : Nat) (f : Block → Block) : (s.updBlock k f).mem = s.mem := rfl
@[simp] theorem State.updBlock_bad (s : State) (k : Nat) (f : Block → Block) : (s.updBlock k f).bad = s.bad := rfl
@[simp] theorem State.updBlock_ptes (s : State) (k : Nat) (f : Block → Block) : (s.updBlock k f).ptes = s.ptes := rfl
@[simp] theorem State.updBlock_nextTable (s : State) (k : Nat) (f : Block → Block) : (s.updBlock k f).nextTable = s.nextTable := rfl
@[simp] theorem State.updBlock_owners (s : State) (k : Nat) (f : Block → Block) : (s.updBlock k f).owners = s.owners := rfl
@[simp] theorem State.updBlock_engineCounts (s : State) (k : Nat) (f : Block → Block) : (s.updBlock k f).engineCounts = s.engineCounts := rfl
@[simp] theorem State.updBlock_tagCounts (s : State) (k : Nat) (f : Block → Block) : (s.updBlock k f).tagCounts = s.tagCounts := rfl
@[simp] theorem State.updBlock_tagErrs (s : State) (k : Nat) (f : Block → Block) : (s.updBlock k f).tagErrs = s.tagErrs := rfl
@[simp] theorem State.updBlock_groups (s : State) (k : Nat) (f : Block → Block) : (s.updBlock k f).groups = s.groups := rfl
@[simp] theorem State.updBlock_elems (s : State) (k : Nat) (f : Block → Block) : (s.updBlock k f).elems = s.elems := rfl
@[simp] theorem State.updBlock_slots (s : State) (k : Nat) (f : Block → Block) : (s.updBlock k f).slots = s.slots := rfl
@[simp] theorem State.updBlock_ops (s : State) (k : Nat) (f : Block → Block) : (s.updBlock k f).ops = s.ops := rfl
@[simp] theorem State.updBlock_copies (s : State) (k : Nat) (f : Block → Block) : (s.updBlock k f).copies = s.copies := rfl
@[simp] theorem State.updBlock_tileOps (s : State) (k : Nat) (f : Block → Block) : (s.updBlock k f).tileOps = s.tileOps := rfl
@[simp] theorem State.updBlock_nests (s : State) (k : Nat) (f : Block → Block) : (s.updBlock k f).nests = s.nests := rfl
@[simp] theorem State.updBlock_asks (s : State) (k : Nat) (f : Block → Block) : (s.updBlock k f).asks = s.asks := rfl
@[simp] theorem State.updBlock_items (s : State) (k : Nat) (f : Block → Block) : (s.updBlock k f).items = s.items := rfl
@[simp] theorem State.updBlock_matrix (s : State) (k : Nat) (f : Block → Block) : (s.updBlock k f).matrix = s.matrix := rfl
@[simp] theorem State.updBlock_acc (s : State) (k : Nat) (f : Block → Block) : (s.updBlock k f).acc = s.acc := rfl
@[simp] theorem State.updBlock_joins (s : State) (k : Nat) (f : Block → Block) : (s.updBlock k f).joins = s.joins := rfl
@[simp] theorem State.updBlock_contributions (s : State) (k : Nat) (f : Block → Block) : (s.updBlock k f).contributions = s.contributions := rfl
@[simp] theorem State.updBlock_chains (s : State) (k : Nat) (f : Block → Block) : (s.updBlock k f).chains = s.chains := rfl
@[simp] theorem State.updBlock_streams (s : State) (k : Nat) (f : Block → Block) : (s.updBlock k f).streams = s.streams := rfl
@[simp] theorem State.updBlock_prims (s : State) (k : Nat) (f : Block → Block) : (s.updBlock k f).prims = s.prims := rfl
@[simp] theorem State.updBlock_endings (s : State) (k : Nat) (f : Block → Block) : (s.updBlock k f).endings = s.endings := rfl
@[simp] theorem State.updBlock_faults (s : State) (k : Nat) (f : Block → Block) : (s.updBlock k f).faults = s.faults := rfl
@[simp] theorem State.updBlock_raySets (s : State) (k : Nat) (f : Block → Block) : (s.updBlock k f).raySets = s.raySets := rfl
@[simp] theorem State.updBlock_launches (s : State) (k : Nat) (f : Block → Block) : (s.updBlock k f).launches = s.launches := rfl
@[simp] theorem State.updBlock_completions (s : State) (k : Nat) (f : Block → Block) : (s.updBlock k f).completions = s.completions := rfl
@[simp] theorem State.updBlock_written (s : State) (k : Nat) (f : Block → Block) : (s.updBlock k f).written = s.written := rfl
@[simp] theorem State.updBlock_outbox (s : State) (k : Nat) (f : Block → Block) : (s.updBlock k f).outbox = s.outbox := rfl
@[simp] theorem State.updBlock_queues (s : State) (k : Nat) (f : Block → Block) : (s.updBlock k f).queues = s.queues := rfl
@[simp] theorem State.updBlock_tenants (s : State) (k : Nat) (f : Block → Block) : (s.updBlock k f).tenants = s.tenants := rfl
@[simp] theorem State.updBlock_windows (s : State) (k : Nat) (f : Block → Block) : (s.updBlock k f).windows = s.windows := rfl
@[simp] theorem State.updBlock_codes (s : State) (k : Nat) (f : Block → Block) : (s.updBlock k f).codes = s.codes := rfl
@[simp] theorem State.updBlock_dict (s : State) (k : Nat) (f : Block → Block) : (s.updBlock k f).dict = s.dict := rfl
@[simp] theorem State.updBlock_preempts (s : State) (k : Nat) (f : Block → Block) : (s.updBlock k f).preempts = s.preempts := rfl
@[simp] theorem State.updBlock_device (s : State) (k : Nat) (f : Block → Block) : (s.updBlock k f).device = s.device := rfl
@[simp] theorem State.updBlock_members (s : State) (k : Nat) (f : Block → Block) : (s.updBlock k f).members = s.members := rfl
@[simp] theorem State.updBlock_linksDown (s : State) (k : Nat) (f : Block → Block) : (s.updBlock k f).linksDown = s.linksDown := rfl
@[simp] theorem State.updBlock_directory (s : State) (k : Nat) (f : Block → Block) : (s.updBlock k f).directory = s.directory := rfl
@[simp] theorem State.updBlock_timeBase (s : State) (k : Nat) (f : Block → Block) : (s.updBlock k f).timeBase = s.timeBase := rfl
@[simp] theorem State.updBlock_temps (s : State) (k : Nat) (f : Block → Block) : (s.updBlock k f).temps = s.temps := rfl
@[simp] theorem State.updBlock_clockSteps (s : State) (k : Nat) (f : Block → Block) : (s.updBlock k f).clockSteps = s.clockSteps := rfl
@[simp] theorem State.updBlock_hotDies (s : State) (k : Nat) (f : Block → Block) : (s.updBlock k f).hotDies = s.hotDies := rfl
@[simp] theorem State.updBlock_overheated (s : State) (k : Nat) (f : Block → Block) : (s.updBlock k f).overheated = s.overheated := rfl
@[simp] theorem State.updBlock_stopped (s : State) (k : Nat) (f : Block → Block) : (s.updBlock k f).stopped = s.stopped := rfl
@[simp] theorem State.updBlock_powerTotal (s : State) (k : Nat) (f : Block → Block) : (s.updBlock k f).powerTotal = s.powerTotal := rfl
@[simp] theorem State.updBlock_stepping (s : State) (k : Nat) (f : Block → Block) : (s.updBlock k f).stepping = s.stepping := rfl
@[simp] theorem State.updBlock_fwVersion (s : State) (k : Nat) (f : Block → Block) : (s.updBlock k f).fwVersion = s.fwVersion := rfl
@[simp] theorem State.updBlock_cfgVersion (s : State) (k : Nat) (f : Block → Block) : (s.updBlock k f).cfgVersion = s.cfgVersion := rfl
@[simp] theorem State.updBlock_errata (s : State) (k : Nat) (f : Block → Block) : (s.updBlock k f).errata = s.errata := rfl
@[simp] theorem State.updBlock_identity (s : State) (k : Nat) (f : Block → Block) : (s.updBlock k f).identity = s.identity := rfl
@[simp] theorem State.updBlock_fwImage (s : State) (k : Nat) (f : Block → Block) : (s.updBlock k f).fwImage = s.fwImage := rfl
@[simp] theorem State.updBlock_cfgImage (s : State) (k : Nat) (f : Block → Block) : (s.updBlock k f).cfgImage = s.cfgImage := rfl
@[simp] theorem State.updBlock_fwFlash (s : State) (k : Nat) (f : Block → Block) : (s.updBlock k f).fwFlash = s.fwFlash := rfl
@[simp] theorem State.updBlock_cfgFlash (s : State) (k : Nat) (f : Block → Block) : (s.updBlock k f).cfgFlash = s.cfgFlash := rfl
@[simp] theorem State.updBlock_recovery (s : State) (k : Nat) (f : Block → Block) : (s.updBlock k f).recovery = s.recovery := rfl
@[simp] theorem State.updBlock_blocks (s : State) (k : Nat) (f : Block → Block) : (s.updBlock k f).blocks = updId Block.id k f s.blocks := rfl

/-! ### updElem -/

@[simp] theorem State.updElem_clock (s : State) (k : Nat) (f : Elem → Elem) : (s.updElem k f).clock = s.clock := rfl
@[simp] theorem State.updElem_focus (s : State) (k : Nat) (f : Elem → Elem) : (s.updElem k f).focus = s.focus := rfl
@[simp] theorem State.updElem_agenda (s : State) (k : Nat) (f : Elem → Elem) : (s.updElem k f).agenda = s.agenda := rfl
@[simp] theorem State.updElem_nextId (s : State) (k : Nat) (f : Elem → Elem) : (s.updElem k f).nextId = s.nextId := rfl
@[simp] theorem State.updElem_free (s : State) (k : Nat) (f : Elem → Elem) : (s.updElem k f).free = s.free := rfl
@[simp] theorem State.updElem_mem (s : State) (k : Nat) (f : Elem → Elem) : (s.updElem k f).mem = s.mem := rfl
@[simp] theorem State.updElem_bad (s : State) (k : Nat) (f : Elem → Elem) : (s.updElem k f).bad = s.bad := rfl
@[simp] theorem State.updElem_ptes (s : State) (k : Nat) (f : Elem → Elem) : (s.updElem k f).ptes = s.ptes := rfl
@[simp] theorem State.updElem_nextTable (s : State) (k : Nat) (f : Elem → Elem) : (s.updElem k f).nextTable = s.nextTable := rfl
@[simp] theorem State.updElem_owners (s : State) (k : Nat) (f : Elem → Elem) : (s.updElem k f).owners = s.owners := rfl
@[simp] theorem State.updElem_engineCounts (s : State) (k : Nat) (f : Elem → Elem) : (s.updElem k f).engineCounts = s.engineCounts := rfl
@[simp] theorem State.updElem_tagCounts (s : State) (k : Nat) (f : Elem → Elem) : (s.updElem k f).tagCounts = s.tagCounts := rfl
@[simp] theorem State.updElem_tagErrs (s : State) (k : Nat) (f : Elem → Elem) : (s.updElem k f).tagErrs = s.tagErrs := rfl
@[simp] theorem State.updElem_groups (s : State) (k : Nat) (f : Elem → Elem) : (s.updElem k f).groups = s.groups := rfl
@[simp] theorem State.updElem_blocks (s : State) (k : Nat) (f : Elem → Elem) : (s.updElem k f).blocks = s.blocks := rfl
@[simp] theorem State.updElem_slots (s : State) (k : Nat) (f : Elem → Elem) : (s.updElem k f).slots = s.slots := rfl
@[simp] theorem State.updElem_ops (s : State) (k : Nat) (f : Elem → Elem) : (s.updElem k f).ops = s.ops := rfl
@[simp] theorem State.updElem_copies (s : State) (k : Nat) (f : Elem → Elem) : (s.updElem k f).copies = s.copies := rfl
@[simp] theorem State.updElem_tileOps (s : State) (k : Nat) (f : Elem → Elem) : (s.updElem k f).tileOps = s.tileOps := rfl
@[simp] theorem State.updElem_nests (s : State) (k : Nat) (f : Elem → Elem) : (s.updElem k f).nests = s.nests := rfl
@[simp] theorem State.updElem_asks (s : State) (k : Nat) (f : Elem → Elem) : (s.updElem k f).asks = s.asks := rfl
@[simp] theorem State.updElem_items (s : State) (k : Nat) (f : Elem → Elem) : (s.updElem k f).items = s.items := rfl
@[simp] theorem State.updElem_matrix (s : State) (k : Nat) (f : Elem → Elem) : (s.updElem k f).matrix = s.matrix := rfl
@[simp] theorem State.updElem_acc (s : State) (k : Nat) (f : Elem → Elem) : (s.updElem k f).acc = s.acc := rfl
@[simp] theorem State.updElem_joins (s : State) (k : Nat) (f : Elem → Elem) : (s.updElem k f).joins = s.joins := rfl
@[simp] theorem State.updElem_contributions (s : State) (k : Nat) (f : Elem → Elem) : (s.updElem k f).contributions = s.contributions := rfl
@[simp] theorem State.updElem_chains (s : State) (k : Nat) (f : Elem → Elem) : (s.updElem k f).chains = s.chains := rfl
@[simp] theorem State.updElem_streams (s : State) (k : Nat) (f : Elem → Elem) : (s.updElem k f).streams = s.streams := rfl
@[simp] theorem State.updElem_prims (s : State) (k : Nat) (f : Elem → Elem) : (s.updElem k f).prims = s.prims := rfl
@[simp] theorem State.updElem_endings (s : State) (k : Nat) (f : Elem → Elem) : (s.updElem k f).endings = s.endings := rfl
@[simp] theorem State.updElem_faults (s : State) (k : Nat) (f : Elem → Elem) : (s.updElem k f).faults = s.faults := rfl
@[simp] theorem State.updElem_raySets (s : State) (k : Nat) (f : Elem → Elem) : (s.updElem k f).raySets = s.raySets := rfl
@[simp] theorem State.updElem_launches (s : State) (k : Nat) (f : Elem → Elem) : (s.updElem k f).launches = s.launches := rfl
@[simp] theorem State.updElem_completions (s : State) (k : Nat) (f : Elem → Elem) : (s.updElem k f).completions = s.completions := rfl
@[simp] theorem State.updElem_written (s : State) (k : Nat) (f : Elem → Elem) : (s.updElem k f).written = s.written := rfl
@[simp] theorem State.updElem_outbox (s : State) (k : Nat) (f : Elem → Elem) : (s.updElem k f).outbox = s.outbox := rfl
@[simp] theorem State.updElem_queues (s : State) (k : Nat) (f : Elem → Elem) : (s.updElem k f).queues = s.queues := rfl
@[simp] theorem State.updElem_tenants (s : State) (k : Nat) (f : Elem → Elem) : (s.updElem k f).tenants = s.tenants := rfl
@[simp] theorem State.updElem_windows (s : State) (k : Nat) (f : Elem → Elem) : (s.updElem k f).windows = s.windows := rfl
@[simp] theorem State.updElem_codes (s : State) (k : Nat) (f : Elem → Elem) : (s.updElem k f).codes = s.codes := rfl
@[simp] theorem State.updElem_dict (s : State) (k : Nat) (f : Elem → Elem) : (s.updElem k f).dict = s.dict := rfl
@[simp] theorem State.updElem_preempts (s : State) (k : Nat) (f : Elem → Elem) : (s.updElem k f).preempts = s.preempts := rfl
@[simp] theorem State.updElem_device (s : State) (k : Nat) (f : Elem → Elem) : (s.updElem k f).device = s.device := rfl
@[simp] theorem State.updElem_members (s : State) (k : Nat) (f : Elem → Elem) : (s.updElem k f).members = s.members := rfl
@[simp] theorem State.updElem_linksDown (s : State) (k : Nat) (f : Elem → Elem) : (s.updElem k f).linksDown = s.linksDown := rfl
@[simp] theorem State.updElem_directory (s : State) (k : Nat) (f : Elem → Elem) : (s.updElem k f).directory = s.directory := rfl
@[simp] theorem State.updElem_timeBase (s : State) (k : Nat) (f : Elem → Elem) : (s.updElem k f).timeBase = s.timeBase := rfl
@[simp] theorem State.updElem_temps (s : State) (k : Nat) (f : Elem → Elem) : (s.updElem k f).temps = s.temps := rfl
@[simp] theorem State.updElem_clockSteps (s : State) (k : Nat) (f : Elem → Elem) : (s.updElem k f).clockSteps = s.clockSteps := rfl
@[simp] theorem State.updElem_hotDies (s : State) (k : Nat) (f : Elem → Elem) : (s.updElem k f).hotDies = s.hotDies := rfl
@[simp] theorem State.updElem_overheated (s : State) (k : Nat) (f : Elem → Elem) : (s.updElem k f).overheated = s.overheated := rfl
@[simp] theorem State.updElem_stopped (s : State) (k : Nat) (f : Elem → Elem) : (s.updElem k f).stopped = s.stopped := rfl
@[simp] theorem State.updElem_powerTotal (s : State) (k : Nat) (f : Elem → Elem) : (s.updElem k f).powerTotal = s.powerTotal := rfl
@[simp] theorem State.updElem_stepping (s : State) (k : Nat) (f : Elem → Elem) : (s.updElem k f).stepping = s.stepping := rfl
@[simp] theorem State.updElem_fwVersion (s : State) (k : Nat) (f : Elem → Elem) : (s.updElem k f).fwVersion = s.fwVersion := rfl
@[simp] theorem State.updElem_cfgVersion (s : State) (k : Nat) (f : Elem → Elem) : (s.updElem k f).cfgVersion = s.cfgVersion := rfl
@[simp] theorem State.updElem_errata (s : State) (k : Nat) (f : Elem → Elem) : (s.updElem k f).errata = s.errata := rfl
@[simp] theorem State.updElem_identity (s : State) (k : Nat) (f : Elem → Elem) : (s.updElem k f).identity = s.identity := rfl
@[simp] theorem State.updElem_fwImage (s : State) (k : Nat) (f : Elem → Elem) : (s.updElem k f).fwImage = s.fwImage := rfl
@[simp] theorem State.updElem_cfgImage (s : State) (k : Nat) (f : Elem → Elem) : (s.updElem k f).cfgImage = s.cfgImage := rfl
@[simp] theorem State.updElem_fwFlash (s : State) (k : Nat) (f : Elem → Elem) : (s.updElem k f).fwFlash = s.fwFlash := rfl
@[simp] theorem State.updElem_cfgFlash (s : State) (k : Nat) (f : Elem → Elem) : (s.updElem k f).cfgFlash = s.cfgFlash := rfl
@[simp] theorem State.updElem_recovery (s : State) (k : Nat) (f : Elem → Elem) : (s.updElem k f).recovery = s.recovery := rfl
@[simp] theorem State.updElem_elems (s : State) (k : Nat) (f : Elem → Elem) : (s.updElem k f).elems = updId Elem.id k f s.elems := rfl

/-! ### updSlot -/

@[simp] theorem State.updSlot_clock (s : State) (k : Nat) (f : Slot → Slot) : (s.updSlot k f).clock = s.clock := rfl
@[simp] theorem State.updSlot_focus (s : State) (k : Nat) (f : Slot → Slot) : (s.updSlot k f).focus = s.focus := rfl
@[simp] theorem State.updSlot_agenda (s : State) (k : Nat) (f : Slot → Slot) : (s.updSlot k f).agenda = s.agenda := rfl
@[simp] theorem State.updSlot_nextId (s : State) (k : Nat) (f : Slot → Slot) : (s.updSlot k f).nextId = s.nextId := rfl
@[simp] theorem State.updSlot_free (s : State) (k : Nat) (f : Slot → Slot) : (s.updSlot k f).free = s.free := rfl
@[simp] theorem State.updSlot_mem (s : State) (k : Nat) (f : Slot → Slot) : (s.updSlot k f).mem = s.mem := rfl
@[simp] theorem State.updSlot_bad (s : State) (k : Nat) (f : Slot → Slot) : (s.updSlot k f).bad = s.bad := rfl
@[simp] theorem State.updSlot_ptes (s : State) (k : Nat) (f : Slot → Slot) : (s.updSlot k f).ptes = s.ptes := rfl
@[simp] theorem State.updSlot_nextTable (s : State) (k : Nat) (f : Slot → Slot) : (s.updSlot k f).nextTable = s.nextTable := rfl
@[simp] theorem State.updSlot_owners (s : State) (k : Nat) (f : Slot → Slot) : (s.updSlot k f).owners = s.owners := rfl
@[simp] theorem State.updSlot_engineCounts (s : State) (k : Nat) (f : Slot → Slot) : (s.updSlot k f).engineCounts = s.engineCounts := rfl
@[simp] theorem State.updSlot_tagCounts (s : State) (k : Nat) (f : Slot → Slot) : (s.updSlot k f).tagCounts = s.tagCounts := rfl
@[simp] theorem State.updSlot_tagErrs (s : State) (k : Nat) (f : Slot → Slot) : (s.updSlot k f).tagErrs = s.tagErrs := rfl
@[simp] theorem State.updSlot_groups (s : State) (k : Nat) (f : Slot → Slot) : (s.updSlot k f).groups = s.groups := rfl
@[simp] theorem State.updSlot_blocks (s : State) (k : Nat) (f : Slot → Slot) : (s.updSlot k f).blocks = s.blocks := rfl
@[simp] theorem State.updSlot_elems (s : State) (k : Nat) (f : Slot → Slot) : (s.updSlot k f).elems = s.elems := rfl
@[simp] theorem State.updSlot_ops (s : State) (k : Nat) (f : Slot → Slot) : (s.updSlot k f).ops = s.ops := rfl
@[simp] theorem State.updSlot_copies (s : State) (k : Nat) (f : Slot → Slot) : (s.updSlot k f).copies = s.copies := rfl
@[simp] theorem State.updSlot_tileOps (s : State) (k : Nat) (f : Slot → Slot) : (s.updSlot k f).tileOps = s.tileOps := rfl
@[simp] theorem State.updSlot_nests (s : State) (k : Nat) (f : Slot → Slot) : (s.updSlot k f).nests = s.nests := rfl
@[simp] theorem State.updSlot_asks (s : State) (k : Nat) (f : Slot → Slot) : (s.updSlot k f).asks = s.asks := rfl
@[simp] theorem State.updSlot_items (s : State) (k : Nat) (f : Slot → Slot) : (s.updSlot k f).items = s.items := rfl
@[simp] theorem State.updSlot_matrix (s : State) (k : Nat) (f : Slot → Slot) : (s.updSlot k f).matrix = s.matrix := rfl
@[simp] theorem State.updSlot_acc (s : State) (k : Nat) (f : Slot → Slot) : (s.updSlot k f).acc = s.acc := rfl
@[simp] theorem State.updSlot_joins (s : State) (k : Nat) (f : Slot → Slot) : (s.updSlot k f).joins = s.joins := rfl
@[simp] theorem State.updSlot_contributions (s : State) (k : Nat) (f : Slot → Slot) : (s.updSlot k f).contributions = s.contributions := rfl
@[simp] theorem State.updSlot_chains (s : State) (k : Nat) (f : Slot → Slot) : (s.updSlot k f).chains = s.chains := rfl
@[simp] theorem State.updSlot_streams (s : State) (k : Nat) (f : Slot → Slot) : (s.updSlot k f).streams = s.streams := rfl
@[simp] theorem State.updSlot_prims (s : State) (k : Nat) (f : Slot → Slot) : (s.updSlot k f).prims = s.prims := rfl
@[simp] theorem State.updSlot_endings (s : State) (k : Nat) (f : Slot → Slot) : (s.updSlot k f).endings = s.endings := rfl
@[simp] theorem State.updSlot_faults (s : State) (k : Nat) (f : Slot → Slot) : (s.updSlot k f).faults = s.faults := rfl
@[simp] theorem State.updSlot_raySets (s : State) (k : Nat) (f : Slot → Slot) : (s.updSlot k f).raySets = s.raySets := rfl
@[simp] theorem State.updSlot_launches (s : State) (k : Nat) (f : Slot → Slot) : (s.updSlot k f).launches = s.launches := rfl
@[simp] theorem State.updSlot_completions (s : State) (k : Nat) (f : Slot → Slot) : (s.updSlot k f).completions = s.completions := rfl
@[simp] theorem State.updSlot_written (s : State) (k : Nat) (f : Slot → Slot) : (s.updSlot k f).written = s.written := rfl
@[simp] theorem State.updSlot_outbox (s : State) (k : Nat) (f : Slot → Slot) : (s.updSlot k f).outbox = s.outbox := rfl
@[simp] theorem State.updSlot_queues (s : State) (k : Nat) (f : Slot → Slot) : (s.updSlot k f).queues = s.queues := rfl
@[simp] theorem State.updSlot_tenants (s : State) (k : Nat) (f : Slot → Slot) : (s.updSlot k f).tenants = s.tenants := rfl
@[simp] theorem State.updSlot_windows (s : State) (k : Nat) (f : Slot → Slot) : (s.updSlot k f).windows = s.windows := rfl
@[simp] theorem State.updSlot_codes (s : State) (k : Nat) (f : Slot → Slot) : (s.updSlot k f).codes = s.codes := rfl
@[simp] theorem State.updSlot_dict (s : State) (k : Nat) (f : Slot → Slot) : (s.updSlot k f).dict = s.dict := rfl
@[simp] theorem State.updSlot_preempts (s : State) (k : Nat) (f : Slot → Slot) : (s.updSlot k f).preempts = s.preempts := rfl
@[simp] theorem State.updSlot_device (s : State) (k : Nat) (f : Slot → Slot) : (s.updSlot k f).device = s.device := rfl
@[simp] theorem State.updSlot_members (s : State) (k : Nat) (f : Slot → Slot) : (s.updSlot k f).members = s.members := rfl
@[simp] theorem State.updSlot_linksDown (s : State) (k : Nat) (f : Slot → Slot) : (s.updSlot k f).linksDown = s.linksDown := rfl
@[simp] theorem State.updSlot_directory (s : State) (k : Nat) (f : Slot → Slot) : (s.updSlot k f).directory = s.directory := rfl
@[simp] theorem State.updSlot_timeBase (s : State) (k : Nat) (f : Slot → Slot) : (s.updSlot k f).timeBase = s.timeBase := rfl
@[simp] theorem State.updSlot_temps (s : State) (k : Nat) (f : Slot → Slot) : (s.updSlot k f).temps = s.temps := rfl
@[simp] theorem State.updSlot_clockSteps (s : State) (k : Nat) (f : Slot → Slot) : (s.updSlot k f).clockSteps = s.clockSteps := rfl
@[simp] theorem State.updSlot_hotDies (s : State) (k : Nat) (f : Slot → Slot) : (s.updSlot k f).hotDies = s.hotDies := rfl
@[simp] theorem State.updSlot_overheated (s : State) (k : Nat) (f : Slot → Slot) : (s.updSlot k f).overheated = s.overheated := rfl
@[simp] theorem State.updSlot_stopped (s : State) (k : Nat) (f : Slot → Slot) : (s.updSlot k f).stopped = s.stopped := rfl
@[simp] theorem State.updSlot_powerTotal (s : State) (k : Nat) (f : Slot → Slot) : (s.updSlot k f).powerTotal = s.powerTotal := rfl
@[simp] theorem State.updSlot_stepping (s : State) (k : Nat) (f : Slot → Slot) : (s.updSlot k f).stepping = s.stepping := rfl
@[simp] theorem State.updSlot_fwVersion (s : State) (k : Nat) (f : Slot → Slot) : (s.updSlot k f).fwVersion = s.fwVersion := rfl
@[simp] theorem State.updSlot_cfgVersion (s : State) (k : Nat) (f : Slot → Slot) : (s.updSlot k f).cfgVersion = s.cfgVersion := rfl
@[simp] theorem State.updSlot_errata (s : State) (k : Nat) (f : Slot → Slot) : (s.updSlot k f).errata = s.errata := rfl
@[simp] theorem State.updSlot_identity (s : State) (k : Nat) (f : Slot → Slot) : (s.updSlot k f).identity = s.identity := rfl
@[simp] theorem State.updSlot_fwImage (s : State) (k : Nat) (f : Slot → Slot) : (s.updSlot k f).fwImage = s.fwImage := rfl
@[simp] theorem State.updSlot_cfgImage (s : State) (k : Nat) (f : Slot → Slot) : (s.updSlot k f).cfgImage = s.cfgImage := rfl
@[simp] theorem State.updSlot_fwFlash (s : State) (k : Nat) (f : Slot → Slot) : (s.updSlot k f).fwFlash = s.fwFlash := rfl
@[simp] theorem State.updSlot_cfgFlash (s : State) (k : Nat) (f : Slot → Slot) : (s.updSlot k f).cfgFlash = s.cfgFlash := rfl
@[simp] theorem State.updSlot_recovery (s : State) (k : Nat) (f : Slot → Slot) : (s.updSlot k f).recovery = s.recovery := rfl
@[simp] theorem State.updSlot_slots (s : State) (k : Nat) (f : Slot → Slot) : (s.updSlot k f).slots = updId Slot.elem k f s.slots := rfl

/-! ### updLaunch -/

@[simp] theorem State.updLaunch_clock (s : State) (k : Nat) (f : Launch → Launch) : (s.updLaunch k f).clock = s.clock := rfl
@[simp] theorem State.updLaunch_focus (s : State) (k : Nat) (f : Launch → Launch) : (s.updLaunch k f).focus = s.focus := rfl
@[simp] theorem State.updLaunch_agenda (s : State) (k : Nat) (f : Launch → Launch) : (s.updLaunch k f).agenda = s.agenda := rfl
@[simp] theorem State.updLaunch_nextId (s : State) (k : Nat) (f : Launch → Launch) : (s.updLaunch k f).nextId = s.nextId := rfl
@[simp] theorem State.updLaunch_free (s : State) (k : Nat) (f : Launch → Launch) : (s.updLaunch k f).free = s.free := rfl
@[simp] theorem State.updLaunch_mem (s : State) (k : Nat) (f : Launch → Launch) : (s.updLaunch k f).mem = s.mem := rfl
@[simp] theorem State.updLaunch_bad (s : State) (k : Nat) (f : Launch → Launch) : (s.updLaunch k f).bad = s.bad := rfl
@[simp] theorem State.updLaunch_ptes (s : State) (k : Nat) (f : Launch → Launch) : (s.updLaunch k f).ptes = s.ptes := rfl
@[simp] theorem State.updLaunch_nextTable (s : State) (k : Nat) (f : Launch → Launch) : (s.updLaunch k f).nextTable = s.nextTable := rfl
@[simp] theorem State.updLaunch_owners (s : State) (k : Nat) (f : Launch → Launch) : (s.updLaunch k f).owners = s.owners := rfl
@[simp] theorem State.updLaunch_engineCounts (s : State) (k : Nat) (f : Launch → Launch) : (s.updLaunch k f).engineCounts = s.engineCounts := rfl
@[simp] theorem State.updLaunch_tagCounts (s : State) (k : Nat) (f : Launch → Launch) : (s.updLaunch k f).tagCounts = s.tagCounts := rfl
@[simp] theorem State.updLaunch_tagErrs (s : State) (k : Nat) (f : Launch → Launch) : (s.updLaunch k f).tagErrs = s.tagErrs := rfl
@[simp] theorem State.updLaunch_groups (s : State) (k : Nat) (f : Launch → Launch) : (s.updLaunch k f).groups = s.groups := rfl
@[simp] theorem State.updLaunch_blocks (s : State) (k : Nat) (f : Launch → Launch) : (s.updLaunch k f).blocks = s.blocks := rfl
@[simp] theorem State.updLaunch_elems (s : State) (k : Nat) (f : Launch → Launch) : (s.updLaunch k f).elems = s.elems := rfl
@[simp] theorem State.updLaunch_slots (s : State) (k : Nat) (f : Launch → Launch) : (s.updLaunch k f).slots = s.slots := rfl
@[simp] theorem State.updLaunch_ops (s : State) (k : Nat) (f : Launch → Launch) : (s.updLaunch k f).ops = s.ops := rfl
@[simp] theorem State.updLaunch_copies (s : State) (k : Nat) (f : Launch → Launch) : (s.updLaunch k f).copies = s.copies := rfl
@[simp] theorem State.updLaunch_tileOps (s : State) (k : Nat) (f : Launch → Launch) : (s.updLaunch k f).tileOps = s.tileOps := rfl
@[simp] theorem State.updLaunch_nests (s : State) (k : Nat) (f : Launch → Launch) : (s.updLaunch k f).nests = s.nests := rfl
@[simp] theorem State.updLaunch_asks (s : State) (k : Nat) (f : Launch → Launch) : (s.updLaunch k f).asks = s.asks := rfl
@[simp] theorem State.updLaunch_items (s : State) (k : Nat) (f : Launch → Launch) : (s.updLaunch k f).items = s.items := rfl
@[simp] theorem State.updLaunch_matrix (s : State) (k : Nat) (f : Launch → Launch) : (s.updLaunch k f).matrix = s.matrix := rfl
@[simp] theorem State.updLaunch_acc (s : State) (k : Nat) (f : Launch → Launch) : (s.updLaunch k f).acc = s.acc := rfl
@[simp] theorem State.updLaunch_joins (s : State) (k : Nat) (f : Launch → Launch) : (s.updLaunch k f).joins = s.joins := rfl
@[simp] theorem State.updLaunch_contributions (s : State) (k : Nat) (f : Launch → Launch) : (s.updLaunch k f).contributions = s.contributions := rfl
@[simp] theorem State.updLaunch_chains (s : State) (k : Nat) (f : Launch → Launch) : (s.updLaunch k f).chains = s.chains := rfl
@[simp] theorem State.updLaunch_streams (s : State) (k : Nat) (f : Launch → Launch) : (s.updLaunch k f).streams = s.streams := rfl
@[simp] theorem State.updLaunch_prims (s : State) (k : Nat) (f : Launch → Launch) : (s.updLaunch k f).prims = s.prims := rfl
@[simp] theorem State.updLaunch_endings (s : State) (k : Nat) (f : Launch → Launch) : (s.updLaunch k f).endings = s.endings := rfl
@[simp] theorem State.updLaunch_faults (s : State) (k : Nat) (f : Launch → Launch) : (s.updLaunch k f).faults = s.faults := rfl
@[simp] theorem State.updLaunch_raySets (s : State) (k : Nat) (f : Launch → Launch) : (s.updLaunch k f).raySets = s.raySets := rfl
@[simp] theorem State.updLaunch_completions (s : State) (k : Nat) (f : Launch → Launch) : (s.updLaunch k f).completions = s.completions := rfl
@[simp] theorem State.updLaunch_written (s : State) (k : Nat) (f : Launch → Launch) : (s.updLaunch k f).written = s.written := rfl
@[simp] theorem State.updLaunch_outbox (s : State) (k : Nat) (f : Launch → Launch) : (s.updLaunch k f).outbox = s.outbox := rfl
@[simp] theorem State.updLaunch_queues (s : State) (k : Nat) (f : Launch → Launch) : (s.updLaunch k f).queues = s.queues := rfl
@[simp] theorem State.updLaunch_tenants (s : State) (k : Nat) (f : Launch → Launch) : (s.updLaunch k f).tenants = s.tenants := rfl
@[simp] theorem State.updLaunch_windows (s : State) (k : Nat) (f : Launch → Launch) : (s.updLaunch k f).windows = s.windows := rfl
@[simp] theorem State.updLaunch_codes (s : State) (k : Nat) (f : Launch → Launch) : (s.updLaunch k f).codes = s.codes := rfl
@[simp] theorem State.updLaunch_dict (s : State) (k : Nat) (f : Launch → Launch) : (s.updLaunch k f).dict = s.dict := rfl
@[simp] theorem State.updLaunch_preempts (s : State) (k : Nat) (f : Launch → Launch) : (s.updLaunch k f).preempts = s.preempts := rfl
@[simp] theorem State.updLaunch_device (s : State) (k : Nat) (f : Launch → Launch) : (s.updLaunch k f).device = s.device := rfl
@[simp] theorem State.updLaunch_members (s : State) (k : Nat) (f : Launch → Launch) : (s.updLaunch k f).members = s.members := rfl
@[simp] theorem State.updLaunch_linksDown (s : State) (k : Nat) (f : Launch → Launch) : (s.updLaunch k f).linksDown = s.linksDown := rfl
@[simp] theorem State.updLaunch_directory (s : State) (k : Nat) (f : Launch → Launch) : (s.updLaunch k f).directory = s.directory := rfl
@[simp] theorem State.updLaunch_timeBase (s : State) (k : Nat) (f : Launch → Launch) : (s.updLaunch k f).timeBase = s.timeBase := rfl
@[simp] theorem State.updLaunch_temps (s : State) (k : Nat) (f : Launch → Launch) : (s.updLaunch k f).temps = s.temps := rfl
@[simp] theorem State.updLaunch_clockSteps (s : State) (k : Nat) (f : Launch → Launch) : (s.updLaunch k f).clockSteps = s.clockSteps := rfl
@[simp] theorem State.updLaunch_hotDies (s : State) (k : Nat) (f : Launch → Launch) : (s.updLaunch k f).hotDies = s.hotDies := rfl
@[simp] theorem State.updLaunch_overheated (s : State) (k : Nat) (f : Launch → Launch) : (s.updLaunch k f).overheated = s.overheated := rfl
@[simp] theorem State.updLaunch_stopped (s : State) (k : Nat) (f : Launch → Launch) : (s.updLaunch k f).stopped = s.stopped := rfl
@[simp] theorem State.updLaunch_powerTotal (s : State) (k : Nat) (f : Launch → Launch) : (s.updLaunch k f).powerTotal = s.powerTotal := rfl
@[simp] theorem State.updLaunch_stepping (s : State) (k : Nat) (f : Launch → Launch) : (s.updLaunch k f).stepping = s.stepping := rfl
@[simp] theorem State.updLaunch_fwVersion (s : State) (k : Nat) (f : Launch → Launch) : (s.updLaunch k f).fwVersion = s.fwVersion := rfl
@[simp] theorem State.updLaunch_cfgVersion (s : State) (k : Nat) (f : Launch → Launch) : (s.updLaunch k f).cfgVersion = s.cfgVersion := rfl
@[simp] theorem State.updLaunch_errata (s : State) (k : Nat) (f : Launch → Launch) : (s.updLaunch k f).errata = s.errata := rfl
@[simp] theorem State.updLaunch_identity (s : State) (k : Nat) (f : Launch → Launch) : (s.updLaunch k f).identity = s.identity := rfl
@[simp] theorem State.updLaunch_fwImage (s : State) (k : Nat) (f : Launch → Launch) : (s.updLaunch k f).fwImage = s.fwImage := rfl
@[simp] theorem State.updLaunch_cfgImage (s : State) (k : Nat) (f : Launch → Launch) : (s.updLaunch k f).cfgImage = s.cfgImage := rfl
@[simp] theorem State.updLaunch_fwFlash (s : State) (k : Nat) (f : Launch → Launch) : (s.updLaunch k f).fwFlash = s.fwFlash := rfl
@[simp] theorem State.updLaunch_cfgFlash (s : State) (k : Nat) (f : Launch → Launch) : (s.updLaunch k f).cfgFlash = s.cfgFlash := rfl
@[simp] theorem State.updLaunch_recovery (s : State) (k : Nat) (f : Launch → Launch) : (s.updLaunch k f).recovery = s.recovery := rfl
@[simp] theorem State.updLaunch_launches (s : State) (k : Nat) (f : Launch → Launch) : (s.updLaunch k f).launches = updId Launch.id k f s.launches := rfl

/-! ### updOp -/

@[simp] theorem State.updOp_clock (s : State) (k : Nat) (f : LongOp → LongOp) : (s.updOp k f).clock = s.clock := rfl
@[simp] theorem State.updOp_focus (s : State) (k : Nat) (f : LongOp → LongOp) : (s.updOp k f).focus = s.focus := rfl
@[simp] theorem State.updOp_agenda (s : State) (k : Nat) (f : LongOp → LongOp) : (s.updOp k f).agenda = s.agenda := rfl
@[simp] theorem State.updOp_nextId (s : State) (k : Nat) (f : LongOp → LongOp) : (s.updOp k f).nextId = s.nextId := rfl
@[simp] theorem State.updOp_free (s : State) (k : Nat) (f : LongOp → LongOp) : (s.updOp k f).free = s.free := rfl
@[simp] theorem State.updOp_mem (s : State) (k : Nat) (f : LongOp → LongOp) : (s.updOp k f).mem = s.mem := rfl
@[simp] theorem State.updOp_bad (s : State) (k : Nat) (f : LongOp → LongOp) : (s.updOp k f).bad = s.bad := rfl
@[simp] theorem State.updOp_ptes (s : State) (k : Nat) (f : LongOp → LongOp) : (s.updOp k f).ptes = s.ptes := rfl
@[simp] theorem State.updOp_nextTable (s : State) (k : Nat) (f : LongOp → LongOp) : (s.updOp k f).nextTable = s.nextTable := rfl
@[simp] theorem State.updOp_owners (s : State) (k : Nat) (f : LongOp → LongOp) : (s.updOp k f).owners = s.owners := rfl
@[simp] theorem State.updOp_engineCounts (s : State) (k : Nat) (f : LongOp → LongOp) : (s.updOp k f).engineCounts = s.engineCounts := rfl
@[simp] theorem State.updOp_tagCounts (s : State) (k : Nat) (f : LongOp → LongOp) : (s.updOp k f).tagCounts = s.tagCounts := rfl
@[simp] theorem State.updOp_tagErrs (s : State) (k : Nat) (f : LongOp → LongOp) : (s.updOp k f).tagErrs = s.tagErrs := rfl
@[simp] theorem State.updOp_groups (s : State) (k : Nat) (f : LongOp → LongOp) : (s.updOp k f).groups = s.groups := rfl
@[simp] theorem State.updOp_blocks (s : State) (k : Nat) (f : LongOp → LongOp) : (s.updOp k f).blocks = s.blocks := rfl
@[simp] theorem State.updOp_elems (s : State) (k : Nat) (f : LongOp → LongOp) : (s.updOp k f).elems = s.elems := rfl
@[simp] theorem State.updOp_slots (s : State) (k : Nat) (f : LongOp → LongOp) : (s.updOp k f).slots = s.slots := rfl
@[simp] theorem State.updOp_copies (s : State) (k : Nat) (f : LongOp → LongOp) : (s.updOp k f).copies = s.copies := rfl
@[simp] theorem State.updOp_tileOps (s : State) (k : Nat) (f : LongOp → LongOp) : (s.updOp k f).tileOps = s.tileOps := rfl
@[simp] theorem State.updOp_nests (s : State) (k : Nat) (f : LongOp → LongOp) : (s.updOp k f).nests = s.nests := rfl
@[simp] theorem State.updOp_asks (s : State) (k : Nat) (f : LongOp → LongOp) : (s.updOp k f).asks = s.asks := rfl
@[simp] theorem State.updOp_items (s : State) (k : Nat) (f : LongOp → LongOp) : (s.updOp k f).items = s.items := rfl
@[simp] theorem State.updOp_matrix (s : State) (k : Nat) (f : LongOp → LongOp) : (s.updOp k f).matrix = s.matrix := rfl
@[simp] theorem State.updOp_acc (s : State) (k : Nat) (f : LongOp → LongOp) : (s.updOp k f).acc = s.acc := rfl
@[simp] theorem State.updOp_joins (s : State) (k : Nat) (f : LongOp → LongOp) : (s.updOp k f).joins = s.joins := rfl
@[simp] theorem State.updOp_contributions (s : State) (k : Nat) (f : LongOp → LongOp) : (s.updOp k f).contributions = s.contributions := rfl
@[simp] theorem State.updOp_chains (s : State) (k : Nat) (f : LongOp → LongOp) : (s.updOp k f).chains = s.chains := rfl
@[simp] theorem State.updOp_streams (s : State) (k : Nat) (f : LongOp → LongOp) : (s.updOp k f).streams = s.streams := rfl
@[simp] theorem State.updOp_prims (s : State) (k : Nat) (f : LongOp → LongOp) : (s.updOp k f).prims = s.prims := rfl
@[simp] theorem State.updOp_endings (s : State) (k : Nat) (f : LongOp → LongOp) : (s.updOp k f).endings = s.endings := rfl
@[simp] theorem State.updOp_faults (s : State) (k : Nat) (f : LongOp → LongOp) : (s.updOp k f).faults = s.faults := rfl
@[simp] theorem State.updOp_raySets (s : State) (k : Nat) (f : LongOp → LongOp) : (s.updOp k f).raySets = s.raySets := rfl
@[simp] theorem State.updOp_launches (s : State) (k : Nat) (f : LongOp → LongOp) : (s.updOp k f).launches = s.launches := rfl
@[simp] theorem State.updOp_completions (s : State) (k : Nat) (f : LongOp → LongOp) : (s.updOp k f).completions = s.completions := rfl
@[simp] theorem State.updOp_written (s : State) (k : Nat) (f : LongOp → LongOp) : (s.updOp k f).written = s.written := rfl
@[simp] theorem State.updOp_outbox (s : State) (k : Nat) (f : LongOp → LongOp) : (s.updOp k f).outbox = s.outbox := rfl
@[simp] theorem State.updOp_queues (s : State) (k : Nat) (f : LongOp → LongOp) : (s.updOp k f).queues = s.queues := rfl
@[simp] theorem State.updOp_tenants (s : State) (k : Nat) (f : LongOp → LongOp) : (s.updOp k f).tenants = s.tenants := rfl
@[simp] theorem State.updOp_windows (s : State) (k : Nat) (f : LongOp → LongOp) : (s.updOp k f).windows = s.windows := rfl
@[simp] theorem State.updOp_codes (s : State) (k : Nat) (f : LongOp → LongOp) : (s.updOp k f).codes = s.codes := rfl
@[simp] theorem State.updOp_dict (s : State) (k : Nat) (f : LongOp → LongOp) : (s.updOp k f).dict = s.dict := rfl
@[simp] theorem State.updOp_preempts (s : State) (k : Nat) (f : LongOp → LongOp) : (s.updOp k f).preempts = s.preempts := rfl
@[simp] theorem State.updOp_device (s : State) (k : Nat) (f : LongOp → LongOp) : (s.updOp k f).device = s.device := rfl
@[simp] theorem State.updOp_members (s : State) (k : Nat) (f : LongOp → LongOp) : (s.updOp k f).members = s.members := rfl
@[simp] theorem State.updOp_linksDown (s : State) (k : Nat) (f : LongOp → LongOp) : (s.updOp k f).linksDown = s.linksDown := rfl
@[simp] theorem State.updOp_directory (s : State) (k : Nat) (f : LongOp → LongOp) : (s.updOp k f).directory = s.directory := rfl
@[simp] theorem State.updOp_timeBase (s : State) (k : Nat) (f : LongOp → LongOp) : (s.updOp k f).timeBase = s.timeBase := rfl
@[simp] theorem State.updOp_temps (s : State) (k : Nat) (f : LongOp → LongOp) : (s.updOp k f).temps = s.temps := rfl
@[simp] theorem State.updOp_clockSteps (s : State) (k : Nat) (f : LongOp → LongOp) : (s.updOp k f).clockSteps = s.clockSteps := rfl
@[simp] theorem State.updOp_hotDies (s : State) (k : Nat) (f : LongOp → LongOp) : (s.updOp k f).hotDies = s.hotDies := rfl
@[simp] theorem State.updOp_overheated (s : State) (k : Nat) (f : LongOp → LongOp) : (s.updOp k f).overheated = s.overheated := rfl
@[simp] theorem State.updOp_stopped (s : State) (k : Nat) (f : LongOp → LongOp) : (s.updOp k f).stopped = s.stopped := rfl
@[simp] theorem State.updOp_powerTotal (s : State) (k : Nat) (f : LongOp → LongOp) : (s.updOp k f).powerTotal = s.powerTotal := rfl
@[simp] theorem State.updOp_stepping (s : State) (k : Nat) (f : LongOp → LongOp) : (s.updOp k f).stepping = s.stepping := rfl
@[simp] theorem State.updOp_fwVersion (s : State) (k : Nat) (f : LongOp → LongOp) : (s.updOp k f).fwVersion = s.fwVersion := rfl
@[simp] theorem State.updOp_cfgVersion (s : State) (k : Nat) (f : LongOp → LongOp) : (s.updOp k f).cfgVersion = s.cfgVersion := rfl
@[simp] theorem State.updOp_errata (s : State) (k : Nat) (f : LongOp → LongOp) : (s.updOp k f).errata = s.errata := rfl
@[simp] theorem State.updOp_identity (s : State) (k : Nat) (f : LongOp → LongOp) : (s.updOp k f).identity = s.identity := rfl
@[simp] theorem State.updOp_fwImage (s : State) (k : Nat) (f : LongOp → LongOp) : (s.updOp k f).fwImage = s.fwImage := rfl
@[simp] theorem State.updOp_cfgImage (s : State) (k : Nat) (f : LongOp → LongOp) : (s.updOp k f).cfgImage = s.cfgImage := rfl
@[simp] theorem State.updOp_fwFlash (s : State) (k : Nat) (f : LongOp → LongOp) : (s.updOp k f).fwFlash = s.fwFlash := rfl
@[simp] theorem State.updOp_cfgFlash (s : State) (k : Nat) (f : LongOp → LongOp) : (s.updOp k f).cfgFlash = s.cfgFlash := rfl
@[simp] theorem State.updOp_recovery (s : State) (k : Nat) (f : LongOp → LongOp) : (s.updOp k f).recovery = s.recovery := rfl
@[simp] theorem State.updOp_ops (s : State) (k : Nat) (f : LongOp → LongOp) : (s.updOp k f).ops = updId LongOp.id k f s.ops := rfl

/-! ### updQueue -/

@[simp] theorem State.updQueue_clock (s : State) (k : Nat) (f : Queue → Queue) : (s.updQueue k f).clock = s.clock := rfl
@[simp] theorem State.updQueue_focus (s : State) (k : Nat) (f : Queue → Queue) : (s.updQueue k f).focus = s.focus := rfl
@[simp] theorem State.updQueue_agenda (s : State) (k : Nat) (f : Queue → Queue) : (s.updQueue k f).agenda = s.agenda := rfl
@[simp] theorem State.updQueue_nextId (s : State) (k : Nat) (f : Queue → Queue) : (s.updQueue k f).nextId = s.nextId := rfl
@[simp] theorem State.updQueue_free (s : State) (k : Nat) (f : Queue → Queue) : (s.updQueue k f).free = s.free := rfl
@[simp] theorem State.updQueue_mem (s : State) (k : Nat) (f : Queue → Queue) : (s.updQueue k f).mem = s.mem := rfl
@[simp] theorem State.updQueue_bad (s : State) (k : Nat) (f : Queue → Queue) : (s.updQueue k f).bad = s.bad := rfl
@[simp] theorem State.updQueue_ptes (s : State) (k : Nat) (f : Queue → Queue) : (s.updQueue k f).ptes = s.ptes := rfl
@[simp] theorem State.updQueue_nextTable (s : State) (k : Nat) (f : Queue → Queue) : (s.updQueue k f).nextTable = s.nextTable := rfl
@[simp] theorem State.updQueue_owners (s : State) (k : Nat) (f : Queue → Queue) : (s.updQueue k f).owners = s.owners := rfl
@[simp] theorem State.updQueue_engineCounts (s : State) (k : Nat) (f : Queue → Queue) : (s.updQueue k f).engineCounts = s.engineCounts := rfl
@[simp] theorem State.updQueue_tagCounts (s : State) (k : Nat) (f : Queue → Queue) : (s.updQueue k f).tagCounts = s.tagCounts := rfl
@[simp] theorem State.updQueue_tagErrs (s : State) (k : Nat) (f : Queue → Queue) : (s.updQueue k f).tagErrs = s.tagErrs := rfl
@[simp] theorem State.updQueue_groups (s : State) (k : Nat) (f : Queue → Queue) : (s.updQueue k f).groups = s.groups := rfl
@[simp] theorem State.updQueue_blocks (s : State) (k : Nat) (f : Queue → Queue) : (s.updQueue k f).blocks = s.blocks := rfl
@[simp] theorem State.updQueue_elems (s : State) (k : Nat) (f : Queue → Queue) : (s.updQueue k f).elems = s.elems := rfl
@[simp] theorem State.updQueue_slots (s : State) (k : Nat) (f : Queue → Queue) : (s.updQueue k f).slots = s.slots := rfl
@[simp] theorem State.updQueue_ops (s : State) (k : Nat) (f : Queue → Queue) : (s.updQueue k f).ops = s.ops := rfl
@[simp] theorem State.updQueue_copies (s : State) (k : Nat) (f : Queue → Queue) : (s.updQueue k f).copies = s.copies := rfl
@[simp] theorem State.updQueue_tileOps (s : State) (k : Nat) (f : Queue → Queue) : (s.updQueue k f).tileOps = s.tileOps := rfl
@[simp] theorem State.updQueue_nests (s : State) (k : Nat) (f : Queue → Queue) : (s.updQueue k f).nests = s.nests := rfl
@[simp] theorem State.updQueue_asks (s : State) (k : Nat) (f : Queue → Queue) : (s.updQueue k f).asks = s.asks := rfl
@[simp] theorem State.updQueue_items (s : State) (k : Nat) (f : Queue → Queue) : (s.updQueue k f).items = s.items := rfl
@[simp] theorem State.updQueue_matrix (s : State) (k : Nat) (f : Queue → Queue) : (s.updQueue k f).matrix = s.matrix := rfl
@[simp] theorem State.updQueue_acc (s : State) (k : Nat) (f : Queue → Queue) : (s.updQueue k f).acc = s.acc := rfl
@[simp] theorem State.updQueue_joins (s : State) (k : Nat) (f : Queue → Queue) : (s.updQueue k f).joins = s.joins := rfl
@[simp] theorem State.updQueue_contributions (s : State) (k : Nat) (f : Queue → Queue) : (s.updQueue k f).contributions = s.contributions := rfl
@[simp] theorem State.updQueue_chains (s : State) (k : Nat) (f : Queue → Queue) : (s.updQueue k f).chains = s.chains := rfl
@[simp] theorem State.updQueue_streams (s : State) (k : Nat) (f : Queue → Queue) : (s.updQueue k f).streams = s.streams := rfl
@[simp] theorem State.updQueue_prims (s : State) (k : Nat) (f : Queue → Queue) : (s.updQueue k f).prims = s.prims := rfl
@[simp] theorem State.updQueue_endings (s : State) (k : Nat) (f : Queue → Queue) : (s.updQueue k f).endings = s.endings := rfl
@[simp] theorem State.updQueue_faults (s : State) (k : Nat) (f : Queue → Queue) : (s.updQueue k f).faults = s.faults := rfl
@[simp] theorem State.updQueue_raySets (s : State) (k : Nat) (f : Queue → Queue) : (s.updQueue k f).raySets = s.raySets := rfl
@[simp] theorem State.updQueue_launches (s : State) (k : Nat) (f : Queue → Queue) : (s.updQueue k f).launches = s.launches := rfl
@[simp] theorem State.updQueue_completions (s : State) (k : Nat) (f : Queue → Queue) : (s.updQueue k f).completions = s.completions := rfl
@[simp] theorem State.updQueue_written (s : State) (k : Nat) (f : Queue → Queue) : (s.updQueue k f).written = s.written := rfl
@[simp] theorem State.updQueue_outbox (s : State) (k : Nat) (f : Queue → Queue) : (s.updQueue k f).outbox = s.outbox := rfl
@[simp] theorem State.updQueue_tenants (s : State) (k : Nat) (f : Queue → Queue) : (s.updQueue k f).tenants = s.tenants := rfl
@[simp] theorem State.updQueue_windows (s : State) (k : Nat) (f : Queue → Queue) : (s.updQueue k f).windows = s.windows := rfl
@[simp] theorem State.updQueue_codes (s : State) (k : Nat) (f : Queue → Queue) : (s.updQueue k f).codes = s.codes := rfl
@[simp] theorem State.updQueue_dict (s : State) (k : Nat) (f : Queue → Queue) : (s.updQueue k f).dict = s.dict := rfl
@[simp] theorem State.updQueue_preempts (s : State) (k : Nat) (f : Queue → Queue) : (s.updQueue k f).preempts = s.preempts := rfl
@[simp] theorem State.updQueue_device (s : State) (k : Nat) (f : Queue → Queue) : (s.updQueue k f).device = s.device := rfl
@[simp] theorem State.updQueue_members (s : State) (k : Nat) (f : Queue → Queue) : (s.updQueue k f).members = s.members := rfl
@[simp] theorem State.updQueue_linksDown (s : State) (k : Nat) (f : Queue → Queue) : (s.updQueue k f).linksDown = s.linksDown := rfl
@[simp] theorem State.updQueue_directory (s : State) (k : Nat) (f : Queue → Queue) : (s.updQueue k f).directory = s.directory := rfl
@[simp] theorem State.updQueue_timeBase (s : State) (k : Nat) (f : Queue → Queue) : (s.updQueue k f).timeBase = s.timeBase := rfl
@[simp] theorem State.updQueue_temps (s : State) (k : Nat) (f : Queue → Queue) : (s.updQueue k f).temps = s.temps := rfl
@[simp] theorem State.updQueue_clockSteps (s : State) (k : Nat) (f : Queue → Queue) : (s.updQueue k f).clockSteps = s.clockSteps := rfl
@[simp] theorem State.updQueue_hotDies (s : State) (k : Nat) (f : Queue → Queue) : (s.updQueue k f).hotDies = s.hotDies := rfl
@[simp] theorem State.updQueue_overheated (s : State) (k : Nat) (f : Queue → Queue) : (s.updQueue k f).overheated = s.overheated := rfl
@[simp] theorem State.updQueue_stopped (s : State) (k : Nat) (f : Queue → Queue) : (s.updQueue k f).stopped = s.stopped := rfl
@[simp] theorem State.updQueue_powerTotal (s : State) (k : Nat) (f : Queue → Queue) : (s.updQueue k f).powerTotal = s.powerTotal := rfl
@[simp] theorem State.updQueue_stepping (s : State) (k : Nat) (f : Queue → Queue) : (s.updQueue k f).stepping = s.stepping := rfl
@[simp] theorem State.updQueue_fwVersion (s : State) (k : Nat) (f : Queue → Queue) : (s.updQueue k f).fwVersion = s.fwVersion := rfl
@[simp] theorem State.updQueue_cfgVersion (s : State) (k : Nat) (f : Queue → Queue) : (s.updQueue k f).cfgVersion = s.cfgVersion := rfl
@[simp] theorem State.updQueue_errata (s : State) (k : Nat) (f : Queue → Queue) : (s.updQueue k f).errata = s.errata := rfl
@[simp] theorem State.updQueue_identity (s : State) (k : Nat) (f : Queue → Queue) : (s.updQueue k f).identity = s.identity := rfl
@[simp] theorem State.updQueue_fwImage (s : State) (k : Nat) (f : Queue → Queue) : (s.updQueue k f).fwImage = s.fwImage := rfl
@[simp] theorem State.updQueue_cfgImage (s : State) (k : Nat) (f : Queue → Queue) : (s.updQueue k f).cfgImage = s.cfgImage := rfl
@[simp] theorem State.updQueue_fwFlash (s : State) (k : Nat) (f : Queue → Queue) : (s.updQueue k f).fwFlash = s.fwFlash := rfl
@[simp] theorem State.updQueue_cfgFlash (s : State) (k : Nat) (f : Queue → Queue) : (s.updQueue k f).cfgFlash = s.cfgFlash := rfl
@[simp] theorem State.updQueue_recovery (s : State) (k : Nat) (f : Queue → Queue) : (s.updQueue k f).recovery = s.recovery := rfl
@[simp] theorem State.updQueue_queues (s : State) (k : Nat) (f : Queue → Queue) : (s.updQueue k f).queues = updId Queue.num k f s.queues := rfl

/-! ### complete -/

@[simp] theorem State.complete_clock (s : State) (c : Completion) : (s.complete c).clock = s.clock := rfl
@[simp] theorem State.complete_focus (s : State) (c : Completion) : (s.complete c).focus = s.focus := rfl
@[simp] theorem State.complete_agenda (s : State) (c : Completion) : (s.complete c).agenda = s.agenda := rfl
@[simp] theorem State.complete_nextId (s : State) (c : Completion) : (s.complete c).nextId = s.nextId := rfl
@[simp] theorem State.complete_free (s : State) (c : Completion) : (s.complete c).free = s.free := rfl
@[simp] theorem State.complete_mem (s : State) (c : Completion) : (s.complete c).mem = s.mem := rfl
@[simp] theorem State.complete_bad (s : State) (c : Completion) : (s.complete c).bad = s.bad := rfl
@[simp] theorem State.complete_ptes (s : State) (c : Completion) : (s.complete c).ptes = s.ptes := rfl
@[simp] theorem State.complete_nextTable (s : State) (c : Completion) : (s.complete c).nextTable = s.nextTable := rfl
@[simp] theorem State.complete_owners (s : State) (c : Completion) : (s.complete c).owners = s.owners := rfl
@[simp] theorem State.complete_engineCounts (s : State) (c : Completion) : (s.complete c).engineCounts = s.engineCounts := rfl
@[simp] theorem State.complete_tagCounts (s : State) (c : Completion) : (s.complete c).tagCounts = s.tagCounts := rfl
@[simp] theorem State.complete_tagErrs (s : State) (c : Completion) : (s.complete c).tagErrs = s.tagErrs := rfl
@[simp] theorem State.complete_groups (s : State) (c : Completion) : (s.complete c).groups = s.groups := rfl
@[simp] theorem State.complete_blocks (s : State) (c : Completion) : (s.complete c).blocks = s.blocks := rfl
@[simp] theorem State.complete_elems (s : State) (c : Completion) : (s.complete c).elems = s.elems := rfl
@[simp] theorem State.complete_slots (s : State) (c : Completion) : (s.complete c).slots = s.slots := rfl
@[simp] theorem State.complete_ops (s : State) (c : Completion) : (s.complete c).ops = s.ops := rfl
@[simp] theorem State.complete_copies (s : State) (c : Completion) : (s.complete c).copies = s.copies := rfl
@[simp] theorem State.complete_tileOps (s : State) (c : Completion) : (s.complete c).tileOps = s.tileOps := rfl
@[simp] theorem State.complete_nests (s : State) (c : Completion) : (s.complete c).nests = s.nests := rfl
@[simp] theorem State.complete_asks (s : State) (c : Completion) : (s.complete c).asks = s.asks := rfl
@[simp] theorem State.complete_items (s : State) (c : Completion) : (s.complete c).items = s.items := rfl
@[simp] theorem State.complete_matrix (s : State) (c : Completion) : (s.complete c).matrix = s.matrix := rfl
@[simp] theorem State.complete_acc (s : State) (c : Completion) : (s.complete c).acc = s.acc := rfl
@[simp] theorem State.complete_joins (s : State) (c : Completion) : (s.complete c).joins = s.joins := rfl
@[simp] theorem State.complete_contributions (s : State) (c : Completion) : (s.complete c).contributions = s.contributions := rfl
@[simp] theorem State.complete_chains (s : State) (c : Completion) : (s.complete c).chains = s.chains := rfl
@[simp] theorem State.complete_streams (s : State) (c : Completion) : (s.complete c).streams = s.streams := rfl
@[simp] theorem State.complete_prims (s : State) (c : Completion) : (s.complete c).prims = s.prims := rfl
@[simp] theorem State.complete_endings (s : State) (c : Completion) : (s.complete c).endings = s.endings := rfl
@[simp] theorem State.complete_faults (s : State) (c : Completion) : (s.complete c).faults = s.faults := rfl
@[simp] theorem State.complete_raySets (s : State) (c : Completion) : (s.complete c).raySets = s.raySets := rfl
@[simp] theorem State.complete_launches (s : State) (c : Completion) : (s.complete c).launches = s.launches := rfl
@[simp] theorem State.complete_queues (s : State) (c : Completion) : (s.complete c).queues = s.queues := rfl
@[simp] theorem State.complete_tenants (s : State) (c : Completion) : (s.complete c).tenants = s.tenants := rfl
@[simp] theorem State.complete_windows (s : State) (c : Completion) : (s.complete c).windows = s.windows := rfl
@[simp] theorem State.complete_codes (s : State) (c : Completion) : (s.complete c).codes = s.codes := rfl
@[simp] theorem State.complete_dict (s : State) (c : Completion) : (s.complete c).dict = s.dict := rfl
@[simp] theorem State.complete_preempts (s : State) (c : Completion) : (s.complete c).preempts = s.preempts := rfl
@[simp] theorem State.complete_device (s : State) (c : Completion) : (s.complete c).device = s.device := rfl
@[simp] theorem State.complete_members (s : State) (c : Completion) : (s.complete c).members = s.members := rfl
@[simp] theorem State.complete_linksDown (s : State) (c : Completion) : (s.complete c).linksDown = s.linksDown := rfl
@[simp] theorem State.complete_directory (s : State) (c : Completion) : (s.complete c).directory = s.directory := rfl
@[simp] theorem State.complete_timeBase (s : State) (c : Completion) : (s.complete c).timeBase = s.timeBase := rfl
@[simp] theorem State.complete_temps (s : State) (c : Completion) : (s.complete c).temps = s.temps := rfl
@[simp] theorem State.complete_clockSteps (s : State) (c : Completion) : (s.complete c).clockSteps = s.clockSteps := rfl
@[simp] theorem State.complete_hotDies (s : State) (c : Completion) : (s.complete c).hotDies = s.hotDies := rfl
@[simp] theorem State.complete_overheated (s : State) (c : Completion) : (s.complete c).overheated = s.overheated := rfl
@[simp] theorem State.complete_stopped (s : State) (c : Completion) : (s.complete c).stopped = s.stopped := rfl
@[simp] theorem State.complete_powerTotal (s : State) (c : Completion) : (s.complete c).powerTotal = s.powerTotal := rfl
@[simp] theorem State.complete_stepping (s : State) (c : Completion) : (s.complete c).stepping = s.stepping := rfl
@[simp] theorem State.complete_fwVersion (s : State) (c : Completion) : (s.complete c).fwVersion = s.fwVersion := rfl
@[simp] theorem State.complete_cfgVersion (s : State) (c : Completion) : (s.complete c).cfgVersion = s.cfgVersion := rfl
@[simp] theorem State.complete_errata (s : State) (c : Completion) : (s.complete c).errata = s.errata := rfl
@[simp] theorem State.complete_written (s : State) (c : Completion) : (s.complete c).written = s.written := rfl
@[simp] theorem State.complete_outbox (s : State) (c : Completion) : (s.complete c).outbox = s.outbox := rfl
@[simp] theorem State.complete_identity (s : State) (c : Completion) : (s.complete c).identity = s.identity := rfl
@[simp] theorem State.complete_fwImage (s : State) (c : Completion) : (s.complete c).fwImage = s.fwImage := rfl
@[simp] theorem State.complete_cfgImage (s : State) (c : Completion) : (s.complete c).cfgImage = s.cfgImage := rfl
@[simp] theorem State.complete_fwFlash (s : State) (c : Completion) : (s.complete c).fwFlash = s.fwFlash := rfl
@[simp] theorem State.complete_cfgFlash (s : State) (c : Completion) : (s.complete c).cfgFlash = s.cfgFlash := rfl
@[simp] theorem State.complete_recovery (s : State) (c : Completion) : (s.complete c).recovery = s.recovery := rfl
@[simp] theorem State.complete_completions (s : State) (c : Completion) : (s.complete c).completions = s.completions ++ [c] := rfl

/-! ### storeCells -/

@[simp] theorem State.storeCells_clock (s : State) (cs : List Host.Cell) : (s.storeCells cs).clock = s.clock := rfl
@[simp] theorem State.storeCells_focus (s : State) (cs : List Host.Cell) : (s.storeCells cs).focus = s.focus := rfl
@[simp] theorem State.storeCells_agenda (s : State) (cs : List Host.Cell) : (s.storeCells cs).agenda = s.agenda := rfl
@[simp] theorem State.storeCells_nextId (s : State) (cs : List Host.Cell) : (s.storeCells cs).nextId = s.nextId := rfl
@[simp] theorem State.storeCells_free (s : State) (cs : List Host.Cell) : (s.storeCells cs).free = s.free := rfl
@[simp] theorem State.storeCells_bad (s : State) (cs : List Host.Cell) : (s.storeCells cs).bad = s.bad := rfl
@[simp] theorem State.storeCells_ptes (s : State) (cs : List Host.Cell) : (s.storeCells cs).ptes = s.ptes := rfl
@[simp] theorem State.storeCells_nextTable (s : State) (cs : List Host.Cell) : (s.storeCells cs).nextTable = s.nextTable := rfl
@[simp] theorem State.storeCells_owners (s : State) (cs : List Host.Cell) : (s.storeCells cs).owners = s.owners := rfl
@[simp] theorem State.storeCells_engineCounts (s : State) (cs : List Host.Cell) : (s.storeCells cs).engineCounts = s.engineCounts := rfl
@[simp] theorem State.storeCells_tagCounts (s : State) (cs : List Host.Cell) : (s.storeCells cs).tagCounts = s.tagCounts := rfl
@[simp] theorem State.storeCells_tagErrs (s : State) (cs : List Host.Cell) : (s.storeCells cs).tagErrs = s.tagErrs := rfl
@[simp] theorem State.storeCells_groups (s : State) (cs : List Host.Cell) : (s.storeCells cs).groups = s.groups := rfl
@[simp] theorem State.storeCells_blocks (s : State) (cs : List Host.Cell) : (s.storeCells cs).blocks = s.blocks := rfl
@[simp] theorem State.storeCells_elems (s : State) (cs : List Host.Cell) : (s.storeCells cs).elems = s.elems := rfl
@[simp] theorem State.storeCells_slots (s : State) (cs : List Host.Cell) : (s.storeCells cs).slots = s.slots := rfl
@[simp] theorem State.storeCells_ops (s : State) (cs : List Host.Cell) : (s.storeCells cs).ops = s.ops := rfl
@[simp] theorem State.storeCells_copies (s : State) (cs : List Host.Cell) : (s.storeCells cs).copies = s.copies := rfl
@[simp] theorem State.storeCells_tileOps (s : State) (cs : List Host.Cell) : (s.storeCells cs).tileOps = s.tileOps := rfl
@[simp] theorem State.storeCells_nests (s : State) (cs : List Host.Cell) : (s.storeCells cs).nests = s.nests := rfl
@[simp] theorem State.storeCells_asks (s : State) (cs : List Host.Cell) : (s.storeCells cs).asks = s.asks := rfl
@[simp] theorem State.storeCells_items (s : State) (cs : List Host.Cell) : (s.storeCells cs).items = s.items := rfl
@[simp] theorem State.storeCells_matrix (s : State) (cs : List Host.Cell) : (s.storeCells cs).matrix = s.matrix := rfl
@[simp] theorem State.storeCells_acc (s : State) (cs : List Host.Cell) : (s.storeCells cs).acc = s.acc := rfl
@[simp] theorem State.storeCells_joins (s : State) (cs : List Host.Cell) : (s.storeCells cs).joins = s.joins := rfl
@[simp] theorem State.storeCells_contributions (s : State) (cs : List Host.Cell) : (s.storeCells cs).contributions = s.contributions := rfl
@[simp] theorem State.storeCells_chains (s : State) (cs : List Host.Cell) : (s.storeCells cs).chains = s.chains := rfl
@[simp] theorem State.storeCells_streams (s : State) (cs : List Host.Cell) : (s.storeCells cs).streams = s.streams := rfl
@[simp] theorem State.storeCells_prims (s : State) (cs : List Host.Cell) : (s.storeCells cs).prims = s.prims := rfl
@[simp] theorem State.storeCells_endings (s : State) (cs : List Host.Cell) : (s.storeCells cs).endings = s.endings := rfl
@[simp] theorem State.storeCells_faults (s : State) (cs : List Host.Cell) : (s.storeCells cs).faults = s.faults := rfl
@[simp] theorem State.storeCells_raySets (s : State) (cs : List Host.Cell) : (s.storeCells cs).raySets = s.raySets := rfl
@[simp] theorem State.storeCells_launches (s : State) (cs : List Host.Cell) : (s.storeCells cs).launches = s.launches := rfl
@[simp] theorem State.storeCells_completions (s : State) (cs : List Host.Cell) : (s.storeCells cs).completions = s.completions := rfl
@[simp] theorem State.storeCells_written (s : State) (cs : List Host.Cell) : (s.storeCells cs).written = s.written := rfl
@[simp] theorem State.storeCells_outbox (s : State) (cs : List Host.Cell) : (s.storeCells cs).outbox = s.outbox := rfl
@[simp] theorem State.storeCells_queues (s : State) (cs : List Host.Cell) : (s.storeCells cs).queues = s.queues := rfl
@[simp] theorem State.storeCells_tenants (s : State) (cs : List Host.Cell) : (s.storeCells cs).tenants = s.tenants := rfl
@[simp] theorem State.storeCells_windows (s : State) (cs : List Host.Cell) : (s.storeCells cs).windows = s.windows := rfl
@[simp] theorem State.storeCells_codes (s : State) (cs : List Host.Cell) : (s.storeCells cs).codes = s.codes := rfl
@[simp] theorem State.storeCells_dict (s : State) (cs : List Host.Cell) : (s.storeCells cs).dict = s.dict := rfl
@[simp] theorem State.storeCells_preempts (s : State) (cs : List Host.Cell) : (s.storeCells cs).preempts = s.preempts := rfl
@[simp] theorem State.storeCells_device (s : State) (cs : List Host.Cell) : (s.storeCells cs).device = s.device := rfl
@[simp] theorem State.storeCells_members (s : State) (cs : List Host.Cell) : (s.storeCells cs).members = s.members := rfl
@[simp] theorem State.storeCells_linksDown (s : State) (cs : List Host.Cell) : (s.storeCells cs).linksDown = s.linksDown := rfl
@[simp] theorem State.storeCells_directory (s : State) (cs : List Host.Cell) : (s.storeCells cs).directory = s.directory := rfl
@[simp] theorem State.storeCells_timeBase (s : State) (cs : List Host.Cell) : (s.storeCells cs).timeBase = s.timeBase := rfl
@[simp] theorem State.storeCells_temps (s : State) (cs : List Host.Cell) : (s.storeCells cs).temps = s.temps := rfl
@[simp] theorem State.storeCells_clockSteps (s : State) (cs : List Host.Cell) : (s.storeCells cs).clockSteps = s.clockSteps := rfl
@[simp] theorem State.storeCells_hotDies (s : State) (cs : List Host.Cell) : (s.storeCells cs).hotDies = s.hotDies := rfl
@[simp] theorem State.storeCells_overheated (s : State) (cs : List Host.Cell) : (s.storeCells cs).overheated = s.overheated := rfl
@[simp] theorem State.storeCells_stopped (s : State) (cs : List Host.Cell) : (s.storeCells cs).stopped = s.stopped := rfl
@[simp] theorem State.storeCells_powerTotal (s : State) (cs : List Host.Cell) : (s.storeCells cs).powerTotal = s.powerTotal := rfl
@[simp] theorem State.storeCells_stepping (s : State) (cs : List Host.Cell) : (s.storeCells cs).stepping = s.stepping := rfl
@[simp] theorem State.storeCells_fwVersion (s : State) (cs : List Host.Cell) : (s.storeCells cs).fwVersion = s.fwVersion := rfl
@[simp] theorem State.storeCells_cfgVersion (s : State) (cs : List Host.Cell) : (s.storeCells cs).cfgVersion = s.cfgVersion := rfl
@[simp] theorem State.storeCells_errata (s : State) (cs : List Host.Cell) : (s.storeCells cs).errata = s.errata := rfl
@[simp] theorem State.storeCells_identity (s : State) (cs : List Host.Cell) : (s.storeCells cs).identity = s.identity := rfl
@[simp] theorem State.storeCells_fwImage (s : State) (cs : List Host.Cell) : (s.storeCells cs).fwImage = s.fwImage := rfl
@[simp] theorem State.storeCells_cfgImage (s : State) (cs : List Host.Cell) : (s.storeCells cs).cfgImage = s.cfgImage := rfl
@[simp] theorem State.storeCells_fwFlash (s : State) (cs : List Host.Cell) : (s.storeCells cs).fwFlash = s.fwFlash := rfl
@[simp] theorem State.storeCells_cfgFlash (s : State) (cs : List Host.Cell) : (s.storeCells cs).cfgFlash = s.cfgFlash := rfl
@[simp] theorem State.storeCells_recovery (s : State) (cs : List Host.Cell) : (s.storeCells cs).recovery = s.recovery := rfl
@[simp] theorem State.storeCells_mem (s : State) (cs : List Host.Cell) : (s.storeCells cs).mem = s.mem.setAll cs := rfl

/-! ### fresh and draw -/

@[simp] theorem State.fresh_clock (s : State) : s.fresh.2.clock = s.clock := rfl
@[simp] theorem State.fresh_focus (s : State) : s.fresh.2.focus = s.focus := rfl
@[simp] theorem State.fresh_agenda (s : State) : s.fresh.2.agenda = s.agenda := rfl
@[simp] theorem State.fresh_free (s : State) : s.fresh.2.free = s.free := rfl
@[simp] theorem State.fresh_mem (s : State) : s.fresh.2.mem = s.mem := rfl
@[simp] theorem State.fresh_bad (s : State) : s.fresh.2.bad = s.bad := rfl
@[simp] theorem State.fresh_ptes (s : State) : s.fresh.2.ptes = s.ptes := rfl
@[simp] theorem State.fresh_nextTable (s : State) : s.fresh.2.nextTable = s.nextTable := rfl
@[simp] theorem State.fresh_owners (s : State) : s.fresh.2.owners = s.owners := rfl
@[simp] theorem State.fresh_engineCounts (s : State) : s.fresh.2.engineCounts = s.engineCounts := rfl
@[simp] theorem State.fresh_tagCounts (s : State) : s.fresh.2.tagCounts = s.tagCounts := rfl
@[simp] theorem State.fresh_tagErrs (s : State) : s.fresh.2.tagErrs = s.tagErrs := rfl
@[simp] theorem State.fresh_groups (s : State) : s.fresh.2.groups = s.groups := rfl
@[simp] theorem State.fresh_blocks (s : State) : s.fresh.2.blocks = s.blocks := rfl
@[simp] theorem State.fresh_elems (s : State) : s.fresh.2.elems = s.elems := rfl
@[simp] theorem State.fresh_slots (s : State) : s.fresh.2.slots = s.slots := rfl
@[simp] theorem State.fresh_ops (s : State) : s.fresh.2.ops = s.ops := rfl
@[simp] theorem State.fresh_copies (s : State) : s.fresh.2.copies = s.copies := rfl
@[simp] theorem State.fresh_tileOps (s : State) : s.fresh.2.tileOps = s.tileOps := rfl
@[simp] theorem State.fresh_nests (s : State) : s.fresh.2.nests = s.nests := rfl
@[simp] theorem State.fresh_asks (s : State) : s.fresh.2.asks = s.asks := rfl
@[simp] theorem State.fresh_items (s : State) : s.fresh.2.items = s.items := rfl
@[simp] theorem State.fresh_matrix (s : State) : s.fresh.2.matrix = s.matrix := rfl
@[simp] theorem State.fresh_acc (s : State) : s.fresh.2.acc = s.acc := rfl
@[simp] theorem State.fresh_joins (s : State) : s.fresh.2.joins = s.joins := rfl
@[simp] theorem State.fresh_contributions (s : State) : s.fresh.2.contributions = s.contributions := rfl
@[simp] theorem State.fresh_chains (s : State) : s.fresh.2.chains = s.chains := rfl
@[simp] theorem State.fresh_streams (s : State) : s.fresh.2.streams = s.streams := rfl
@[simp] theorem State.fresh_prims (s : State) : s.fresh.2.prims = s.prims := rfl
@[simp] theorem State.fresh_endings (s : State) : s.fresh.2.endings = s.endings := rfl
@[simp] theorem State.fresh_faults (s : State) : s.fresh.2.faults = s.faults := rfl
@[simp] theorem State.fresh_raySets (s : State) : s.fresh.2.raySets = s.raySets := rfl
@[simp] theorem State.fresh_launches (s : State) : s.fresh.2.launches = s.launches := rfl
@[simp] theorem State.fresh_completions (s : State) : s.fresh.2.completions = s.completions := rfl
@[simp] theorem State.fresh_written (s : State) : s.fresh.2.written = s.written := rfl
@[simp] theorem State.fresh_outbox (s : State) : s.fresh.2.outbox = s.outbox := rfl
@[simp] theorem State.fresh_queues (s : State) : s.fresh.2.queues = s.queues := rfl
@[simp] theorem State.fresh_tenants (s : State) : s.fresh.2.tenants = s.tenants := rfl
@[simp] theorem State.fresh_windows (s : State) : s.fresh.2.windows = s.windows := rfl
@[simp] theorem State.fresh_codes (s : State) : s.fresh.2.codes = s.codes := rfl
@[simp] theorem State.fresh_dict (s : State) : s.fresh.2.dict = s.dict := rfl
@[simp] theorem State.fresh_preempts (s : State) : s.fresh.2.preempts = s.preempts := rfl
@[simp] theorem State.fresh_device (s : State) : s.fresh.2.device = s.device := rfl
@[simp] theorem State.fresh_members (s : State) : s.fresh.2.members = s.members := rfl
@[simp] theorem State.fresh_linksDown (s : State) : s.fresh.2.linksDown = s.linksDown := rfl
@[simp] theorem State.fresh_directory (s : State) : s.fresh.2.directory = s.directory := rfl
@[simp] theorem State.fresh_timeBase (s : State) : s.fresh.2.timeBase = s.timeBase := rfl
@[simp] theorem State.fresh_temps (s : State) : s.fresh.2.temps = s.temps := rfl
@[simp] theorem State.fresh_clockSteps (s : State) : s.fresh.2.clockSteps = s.clockSteps := rfl
@[simp] theorem State.fresh_hotDies (s : State) : s.fresh.2.hotDies = s.hotDies := rfl
@[simp] theorem State.fresh_overheated (s : State) : s.fresh.2.overheated = s.overheated := rfl
@[simp] theorem State.fresh_stopped (s : State) : s.fresh.2.stopped = s.stopped := rfl
@[simp] theorem State.fresh_powerTotal (s : State) : s.fresh.2.powerTotal = s.powerTotal := rfl
@[simp] theorem State.fresh_stepping (s : State) : s.fresh.2.stepping = s.stepping := rfl
@[simp] theorem State.fresh_fwVersion (s : State) : s.fresh.2.fwVersion = s.fwVersion := rfl
@[simp] theorem State.fresh_cfgVersion (s : State) : s.fresh.2.cfgVersion = s.cfgVersion := rfl
@[simp] theorem State.fresh_errata (s : State) : s.fresh.2.errata = s.errata := rfl
@[simp] theorem State.fresh_identity (s : State) : s.fresh.2.identity = s.identity := rfl
@[simp] theorem State.fresh_fwImage (s : State) : s.fresh.2.fwImage = s.fwImage := rfl
@[simp] theorem State.fresh_cfgImage (s : State) : s.fresh.2.cfgImage = s.cfgImage := rfl
@[simp] theorem State.fresh_fwFlash (s : State) : s.fresh.2.fwFlash = s.fwFlash := rfl
@[simp] theorem State.fresh_cfgFlash (s : State) : s.fresh.2.cfgFlash = s.cfgFlash := rfl
@[simp] theorem State.fresh_recovery (s : State) : s.fresh.2.recovery = s.recovery := rfl
@[simp] theorem State.fresh_nextId (s : State) : s.fresh.2.nextId = s.nextId + 1 := rfl

@[simp] theorem State.draw_clock (s : State) : s.draw.2.clock = s.clock := rfl
@[simp] theorem State.draw_focus (s : State) : s.draw.2.focus = s.focus := rfl
@[simp] theorem State.draw_agenda (s : State) : s.draw.2.agenda = s.agenda := rfl
@[simp] theorem State.draw_nextId (s : State) : s.draw.2.nextId = s.nextId := rfl
@[simp] theorem State.draw_mem (s : State) : s.draw.2.mem = s.mem := rfl
@[simp] theorem State.draw_bad (s : State) : s.draw.2.bad = s.bad := rfl
@[simp] theorem State.draw_ptes (s : State) : s.draw.2.ptes = s.ptes := rfl
@[simp] theorem State.draw_nextTable (s : State) : s.draw.2.nextTable = s.nextTable := rfl
@[simp] theorem State.draw_owners (s : State) : s.draw.2.owners = s.owners := rfl
@[simp] theorem State.draw_engineCounts (s : State) : s.draw.2.engineCounts = s.engineCounts := rfl
@[simp] theorem State.draw_tagCounts (s : State) : s.draw.2.tagCounts = s.tagCounts := rfl
@[simp] theorem State.draw_tagErrs (s : State) : s.draw.2.tagErrs = s.tagErrs := rfl
@[simp] theorem State.draw_groups (s : State) : s.draw.2.groups = s.groups := rfl
@[simp] theorem State.draw_blocks (s : State) : s.draw.2.blocks = s.blocks := rfl
@[simp] theorem State.draw_elems (s : State) : s.draw.2.elems = s.elems := rfl
@[simp] theorem State.draw_slots (s : State) : s.draw.2.slots = s.slots := rfl
@[simp] theorem State.draw_ops (s : State) : s.draw.2.ops = s.ops := rfl
@[simp] theorem State.draw_copies (s : State) : s.draw.2.copies = s.copies := rfl
@[simp] theorem State.draw_tileOps (s : State) : s.draw.2.tileOps = s.tileOps := rfl
@[simp] theorem State.draw_nests (s : State) : s.draw.2.nests = s.nests := rfl
@[simp] theorem State.draw_asks (s : State) : s.draw.2.asks = s.asks := rfl
@[simp] theorem State.draw_items (s : State) : s.draw.2.items = s.items := rfl
@[simp] theorem State.draw_matrix (s : State) : s.draw.2.matrix = s.matrix := rfl
@[simp] theorem State.draw_acc (s : State) : s.draw.2.acc = s.acc := rfl
@[simp] theorem State.draw_joins (s : State) : s.draw.2.joins = s.joins := rfl
@[simp] theorem State.draw_contributions (s : State) : s.draw.2.contributions = s.contributions := rfl
@[simp] theorem State.draw_chains (s : State) : s.draw.2.chains = s.chains := rfl
@[simp] theorem State.draw_streams (s : State) : s.draw.2.streams = s.streams := rfl
@[simp] theorem State.draw_prims (s : State) : s.draw.2.prims = s.prims := rfl
@[simp] theorem State.draw_endings (s : State) : s.draw.2.endings = s.endings := rfl
@[simp] theorem State.draw_faults (s : State) : s.draw.2.faults = s.faults := rfl
@[simp] theorem State.draw_raySets (s : State) : s.draw.2.raySets = s.raySets := rfl
@[simp] theorem State.draw_launches (s : State) : s.draw.2.launches = s.launches := rfl
@[simp] theorem State.draw_completions (s : State) : s.draw.2.completions = s.completions := rfl
@[simp] theorem State.draw_written (s : State) : s.draw.2.written = s.written := rfl
@[simp] theorem State.draw_outbox (s : State) : s.draw.2.outbox = s.outbox := rfl
@[simp] theorem State.draw_queues (s : State) : s.draw.2.queues = s.queues := rfl
@[simp] theorem State.draw_tenants (s : State) : s.draw.2.tenants = s.tenants := rfl
@[simp] theorem State.draw_windows (s : State) : s.draw.2.windows = s.windows := rfl
@[simp] theorem State.draw_codes (s : State) : s.draw.2.codes = s.codes := rfl
@[simp] theorem State.draw_dict (s : State) : s.draw.2.dict = s.dict := rfl
@[simp] theorem State.draw_preempts (s : State) : s.draw.2.preempts = s.preempts := rfl
@[simp] theorem State.draw_device (s : State) : s.draw.2.device = s.device := rfl
@[simp] theorem State.draw_members (s : State) : s.draw.2.members = s.members := rfl
@[simp] theorem State.draw_linksDown (s : State) : s.draw.2.linksDown = s.linksDown := rfl
@[simp] theorem State.draw_directory (s : State) : s.draw.2.directory = s.directory := rfl
@[simp] theorem State.draw_timeBase (s : State) : s.draw.2.timeBase = s.timeBase := rfl
@[simp] theorem State.draw_temps (s : State) : s.draw.2.temps = s.temps := rfl
@[simp] theorem State.draw_clockSteps (s : State) : s.draw.2.clockSteps = s.clockSteps := rfl
@[simp] theorem State.draw_hotDies (s : State) : s.draw.2.hotDies = s.hotDies := rfl
@[simp] theorem State.draw_overheated (s : State) : s.draw.2.overheated = s.overheated := rfl
@[simp] theorem State.draw_stopped (s : State) : s.draw.2.stopped = s.stopped := rfl
@[simp] theorem State.draw_powerTotal (s : State) : s.draw.2.powerTotal = s.powerTotal := rfl
@[simp] theorem State.draw_stepping (s : State) : s.draw.2.stepping = s.stepping := rfl
@[simp] theorem State.draw_fwVersion (s : State) : s.draw.2.fwVersion = s.fwVersion := rfl
@[simp] theorem State.draw_cfgVersion (s : State) : s.draw.2.cfgVersion = s.cfgVersion := rfl
@[simp] theorem State.draw_errata (s : State) : s.draw.2.errata = s.errata := rfl
@[simp] theorem State.draw_identity (s : State) : s.draw.2.identity = s.identity := rfl
@[simp] theorem State.draw_fwImage (s : State) : s.draw.2.fwImage = s.fwImage := rfl
@[simp] theorem State.draw_cfgImage (s : State) : s.draw.2.cfgImage = s.cfgImage := rfl
@[simp] theorem State.draw_fwFlash (s : State) : s.draw.2.fwFlash = s.fwFlash := rfl
@[simp] theorem State.draw_cfgFlash (s : State) : s.draw.2.cfgFlash = s.cfgFlash := rfl
@[simp] theorem State.draw_recovery (s : State) : s.draw.2.recovery = s.recovery := rfl
@[simp] theorem State.draw_free (s : State) : s.draw.2.free = s.free + 1 := rfl

@[simp] theorem State.fresh_fst (s : State) : s.fresh.1 = s.nextId := rfl

end Sys2Proof.Machine
end

