-- ==== Sys2Proof/Laws/Memory.lean ====
section
/-!
SUPPORT. Laws of sparse maps, of records by identifier, and of memory: a read after a write, what a write leaves alone, and that every operation keeps the
canonical form.
-/
namespace Sys2Proof

/-! ### Sparse maps -/

namespace SMap
variable {n : Nat}

theorem get_del_self (m : SMap n) (k : Nat) : get (del m k) k = 0 := by
  induction m with
  | nil => rfl
  | cons c m ih =>
    by_cases h : c.1 = k
    · simpa [del, h] using ih
    · simpa [del, h, get] using ih

theorem get_del_ne (m : SMap n) {k j : Nat} (h : j ≠ k) : get (del m k) j = get m j := by
  induction m with
  | nil => rfl
  | cons c m ih =>
    by_cases hc : c.1 = k
    · have : c.1 ≠ j := by omega
      simpa [del, hc, get, this, Ne.symm h] using ih
    · simp only [del, ne_eq, hc, not_false_eq_true, decide_true, List.filter_cons_of_pos, get] at *
      rw [ih]

theorem get_ins_self (m : SMap n) (k : Nat) (x : BitVec n) (hk : ∀ c ∈ m, c.1 ≠ k) :
    get (ins k x m) k = x := by
  induction m with
  | nil => simp [ins, get]
  | cons c m ih =>
    have h1 : c.1 ≠ k := hk c (by simp)
    simp only [ins]
    split
    · simp [get]
    · simp only [get, h1, if_false]
      exact ih fun d hd => hk d (by simp [hd])

theorem get_ins_ne (m : SMap n) {k j : Nat} (x : BitVec n) (h : j ≠ k) : get (ins k x m) j = get m j := by
  induction m with
  | nil => simp [ins, get, Ne.symm h]
  | cons c m ih =>
    simp only [ins]
    split
    · simp [get, Ne.symm h]
    · simp only [get, ih]

theorem not_mem_del (m : SMap n) (k : Nat) : ∀ c ∈ del m k, c.1 ≠ k := by
  intro c hc
  simpa [del] using (List.mem_filter.mp hc).2

/-- A read after a write to the same key gives the value written. -/
@[simp] theorem get_set_self (m : SMap n) (k : Nat) (x : BitVec n) : get (set m k x) k = x := by
  unfold set
  split
  · next h => rw [get_del_self, h]
  · exact get_ins_self _ _ _ (not_mem_del m k)

/-- A write leaves every other key alone. -/
theorem get_set_ne (m : SMap n) {k j : Nat} (x : BitVec n) (h : j ≠ k) : get (set m k x) j = get m j := by
  unfold set
  split
  · exact get_del_ne m h
  · rw [get_ins_ne _ _ h, get_del_ne m h]

theorem get_set (m : SMap n) (k j : Nat) (x : BitVec n) : get (set m k x) j = if j = k then x else get m j := by
  split
  · next h => rw [h, get_set_self]
  · next h => exact get_set_ne m x h

@[simp] theorem setAll_nil (m : SMap n) : setAll m [] = m := rfl
@[simp] theorem setAll_cons (m : SMap n) (c : Nat × BitVec n) (l : List (Nat × BitVec n)) : setAll m (c :: l) = setAll (set m c.1 c.2) l := rfl

theorem setAll_append (m : SMap n) (l l' : List (Nat × BitVec n)) : setAll m (l ++ l') = setAll (setAll m l) l' := by
  induction l generalizing m with
  | nil => rfl
  | cons c l ih => exact ih (set m c.1 c.2)

/-- A list of writes leaves every key that it does not name alone. -/
theorem get_setAll_of_not_mem (m : SMap n) (l : List (Nat × BitVec n)) {k : Nat} (h : ∀ c ∈ l, c.1 ≠ k) : get (setAll m l) k = get m k := by
  induction l generalizing m with
  | nil => rfl
  | cons c l ih =>
    rw [setAll_cons, ih _ fun d hd => h d (by simp [hd]), get_set_ne _ _ (Ne.symm (h c (by simp)))]

theorem get_keep (m : SMap n) (p : Nat → Bool) (k : Nat) : get (keep m p) k = if p k then get m k else 0 := by
  induction m with
  | nil => simp [keep, get]
  | cons c m ih =>
    by_cases hc : p c.1 = true
    · by_cases hk : c.1 = k
      · subst hk; simp [keep, hc, get]
      · have : keep (c :: m) p = c :: keep m p := by simp [keep, hc]
        rw [this]; simp only [get, hk, if_false, ih]
    · have : keep (c :: m) p = keep m p := by simp [keep, hc]
      rw [this, ih]
      by_cases hk : c.1 = k
      · subst hk; simp [hc]
      · simp [get, hk]

/-! ### The canonical form -/

/-- A key is above a bound. -/
def above (lo : Option Nat) (k : Nat) : Prop := ∀ j, lo = some j → j < k

theorem wfFrom_cons {lo : Option Nat} {c : Nat × BitVec n} {m : SMap n} : wfFrom lo (c :: m) = true ↔ above lo c.1 ∧ c.2 ≠ 0 ∧ wfFrom (some c.1) m = true := by
  cases lo <;> simp [wfFrom, above, and_assoc]

theorem wfFrom_weaken {lo lo' : Option Nat} {m : SMap n} (h : wfFrom lo m = true) (hl : ∀ k, above lo k → above lo' k) : wfFrom lo' m = true := by
  cases m with
  | nil => simp [wfFrom]
  | cons c m => rw [wfFrom_cons] at *; exact ⟨hl _ h.1, h.2⟩

theorem wfFrom_filter {lo : Option Nat} (m : SMap n) (p : Nat × BitVec n → Bool) (h : wfFrom lo m = true) : wfFrom lo (m.filter p) = true := by
  induction m generalizing lo with
  | nil => exact h
  | cons c m ih =>
    rw [wfFrom_cons] at h
    by_cases hp : p c = true
    · rw [List.filter_cons_of_pos hp, wfFrom_cons]
      exact ⟨h.1, h.2.1, ih h.2.2⟩
    · rw [List.filter_cons_of_neg hp]
      refine wfFrom_weaken (ih h.2.2) fun k hk j hj => ?_
      have h1 := h.1 j hj
      have h2 := hk c.1 rfl
      omega

theorem wfFrom_ins {lo : Option Nat} (m : SMap n) (k : Nat) (x : BitVec n) (hx : x ≠ 0) (hk : ∀ c ∈ m, c.1 ≠ k) (hl : above lo k)
    (h : wfFrom lo m = true) : wfFrom lo (ins k x m) = true := by
  induction m generalizing lo with
  | nil => simp only [ins]; rw [wfFrom_cons]; exact ⟨hl, hx, by simp [wfFrom]⟩
  | cons c m ih =>
    rw [wfFrom_cons] at h
    simp only [ins]
    split
    · next hlt => rw [wfFrom_cons, wfFrom_cons]; exact ⟨hl, hx, fun j hj => by cases hj; exact hlt, h.2⟩
    · next hge =>
      rw [wfFrom_cons]
      refine ⟨h.1, h.2.1, ih (fun d hd => hk d (by simp [hd])) (fun j hj => ?_) h.2.2⟩
      cases hj
      have := hk c (by simp)
      omega

@[simp] theorem wf_nil : wf ([] : SMap n) = true := rfl

theorem wf_del (m : SMap n) (k : Nat) (h : wf m = true) : wf (del m k) = true := wfFrom_filter m _ h

/-- Every write keeps the canonical form. -/
theorem wf_set (m : SMap n) (k : Nat) (x : BitVec n) (h : wf m = true) : wf (set m k x) = true := by
  unfold set
  split
  · exact wf_del m k h
  · next hx => exact wfFrom_ins _ _ _ hx (not_mem_del m k) (fun j hj => nomatch hj) (wf_del m k h)

theorem wf_setAll (m : SMap n) (l : List (Nat × BitVec n)) (h : wf m = true) : wf (setAll m l) = true := by
  induction l generalizing m with
  | nil => exact h
  | cons c l ih => exact ih _ (wf_set m c.1 c.2 h)

theorem wf_keep (m : SMap n) (p : Nat → Bool) (h : wf m = true) : wf (keep m p) = true := wfFrom_filter m _ h

end SMap

/-! ### Records by identifier -/

section records
variable {α : Type} (key : α → Nat)

theorem findId_key {k : Nat} {l : List α} {x : α} (h : findId key k l = some x) : key x = k := by
  induction l with
  | nil => simp [findId] at h
  | cons y l ih =>
    simp only [findId] at h
    split at h
    · cases h; assumption
    · exact ih h

theorem findId_mem {k : Nat} {l : List α} {x : α} (h : findId key k l = some x) : x ∈ l := by
  induction l with
  | nil => simp [findId] at h
  | cons y l ih =>
    simp only [findId] at h
    split at h
    · cases h; simp
    · simp [ih h]

/-- Changing the records of one identifier, which keep it, changes what is found there. -/
theorem findId_updId_self {k : Nat} (f : α → α) (hf : ∀ x, key (f x) = key x) (l : List α) :
    findId key k (updId key k f l) = (findId key k l).map f := by
  induction l with
  | nil => rfl
  | cons y l ih =>
    by_cases h : key y = k
    · simp [updId, findId, h, hf]
    · simp [updId, findId, h, ih]

/-- And leaves every other identifier's record alone. -/
theorem findId_updId_ne {k j : Nat} (f : α → α) (hf : ∀ x, key (f x) = key x) (hjk : j ≠ k) (l : List α) :
    findId key j (updId key k f l) = findId key j l := by
  induction l with
  | nil => rfl
  | cons y l ih =>
    by_cases h : key y = k
    · simp [updId, findId, h, hf, Ne.symm hjk, ih]
    · simp only [updId, h, if_false, findId, ih]

theorem findId_delId_self {k : Nat} (l : List α) : findId key k (delId key k l) = none := by
  induction l with
  | nil => rfl
  | cons y l ih =>
    by_cases h : key y = k
    · simpa [delId, h] using ih
    · simpa [delId, h, findId] using ih

theorem updId_id {k : Nat} (f : α → α) (l : List α) (h : ∀ x ∈ l, key x = k → f x = x) : updId key k f l = l := by
  induction l with
  | nil => rfl
  | cons y l ih =>
    simp only [updId]
    rw [ih fun x hx => h x (by simp [hx])]
    split
    · next hy => rw [h y (by simp) hy]
    · rfl

end records

namespace Machine

/-! ### Memory -/

theorem Memory.wf_nil : Memory.wf [] = true := rfl

/-- Reset memory is in canonical form. -/
theorem Memory.wf_reset : Memory.wf State.reset.mem = true := rfl

/-- Storing bytes keeps the canonical form. -/
theorem Memory.wf_storeCells (s : State) (cs : List Host.Cell) (h : Memory.wf s.mem = true) : Memory.wf (s.storeCells cs).mem = true :=
  SMap.wf_setAll s.mem cs h

theorem Memory.wf_store (s : State) (as : List Nat) (x : Nat) (h : Memory.wf s.mem = true) : Memory.wf (s.store as x).mem = true :=
  Memory.wf_storeCells s _ h

/-- So does clearing bytes. -/
theorem Memory.wf_keep (m : SMap 8) (p : Nat → Bool) (h : Memory.wf m = true) : Memory.wf (m.keep p) = true := SMap.wf_keep m p h

/-- A byte that a store does not name reads as before. -/
theorem State.byte_storeCells (s : State) (cs : List Host.Cell) {a : Nat} (h : ∀ c ∈ cs, c.1 ≠ a) : (s.storeCells cs).byte a = s.byte a :=
  SMap.get_setAll_of_not_mem s.mem cs h

theorem State.byte_store (s : State) (as : List Nat) (x : Nat) {a : Nat} (h : a ∉ as) : (s.store as x).byte a = s.byte a := by
  refine State.byte_storeCells s _ fun c hc hca => h ?_
  subst hca
  exact (List.of_mem_zip hc).1

end Machine

/-- The bytes that a store wrote at distinct places are read back there. -/
theorem SMap.map_get_setAll_zip {n : Nat} (m : SMap n) (as : List Nat) (bs : List (BitVec n)) (hn : as.Nodup) (hl : as.length = bs.length) :
    as.map (SMap.setAll m (as.zip bs)).get = bs := by
  induction as generalizing m bs with
  | nil => cases bs with
    | nil => rfl
    | cons b bs => simp at hl
  | cons a as ih =>
    cases bs with
    | nil => simp at hl
    | cons b bs =>
      rw [List.nodup_cons] at hn
      rw [List.zip_cons_cons, SMap.setAll_cons, List.map_cons, ih _ _ hn.2 (by simpa using hl), SMap.get_setAll_of_not_mem, SMap.get_set_self]
      intro c hc h
      exact hn.1 (h ▸ (List.of_mem_zip hc).1)

namespace Machine

theorem span_nodup (a n : Nat) : (span a n).Nodup := List.Nodup.map (fun _ _ h => Nat.add_left_cancel h) List.nodup_range

theorem span_length (a n : Nat) : (span a n).length = n := by simp [span]

theorem State.bytes_store_span (s : State) (a : Nat) (bs : List Byte) :
    ({ s with mem := SMap.setAll s.mem ((span a bs.length).zip bs) } : State).bytes (span a bs.length) = bs :=
  SMap.map_get_setAll_zip s.mem _ bs (span_nodup a _) (span_length a _)

theorem leBytes_length (n x : Nat) : (leBytes n x).length = n := by
  induction n generalizing x with
  | zero => rfl
  | succ n ih => simp [leBytes, ih]

/-- The bytes of a number give it again. -/
theorem leNat_leBytes (n x : Nat) : leNat (leBytes n x) = x % 2 ^ (8 * n) := by
  induction n generalizing x with
  | zero => simp [leBytes, leNat, Nat.mod_one]
  | succ n ih =>
    rw [leBytes, leNat, ih, BitVec.toNat_ofNat, show 8 * (n + 1) = 8 + 8 * n by ring, pow_add, Nat.mod_mul]
    norm_num

end Machine

end Sys2Proof
end

