-- ==== Sys2Proof/Laws/Frames.lean ====
section
/-!
SUPPORT. The operations that leave memory alone: taking a trap, ending a launch, writing registers, the issue and the completion of instructions, the lives of
elements and blocks, firmware, and everything that settles after a step.
-/
namespace Sys2Proof.Machine

/-- Operations one after the other, none of which changes memory. -/
theorem foldl_mem {α : Type} (f : State → α → State) (h : ∀ s x, (f s x).mem = s.mem) (l : List α) (s : State) : (l.foldl f s).mem = s.mem := by
  induction l generalizing s with
  | nil => rfl
  | cons x l ih => rw [List.foldl_cons, ih, h]

@[simp] theorem State.writeReg_mem (s : State) (gid l : Nat) (ref : RegRef) (x : Word) : (s.writeReg gid l ref x).mem = s.mem := by
  simp only [State.writeReg]
  (repeat' split) <;> simp

@[simp] theorem State.writeRegs_mem (s : State) (gid : Nat) (ws : List (Nat × RegRef × Word)) : (s.writeRegs gid ws).mem = s.mem := by
  induction ws generalizing s with
  | nil => rfl
  | cons w ws ih => obtain ⟨l, ref, x⟩ := w; simp [State.writeRegs, ih]

@[simp] theorem State.holdGranules_mem (s : State) (gs : List Nat) : (s.holdGranules gs).mem = s.mem := by
  rfl

@[simp] theorem State.handBack_mem (s : State) (gs : List Nat) : (s.handBack gs).mem = s.mem := by
  rfl

@[simp] theorem State.post_mem (s : State) (d : Nat) (m : PeerMsg) : (s.post d m).mem = s.mem := rfl

@[simp] theorem State.markChain_mem (s : State) (c : Chain) (on : Bool) : (s.markChain c on).mem = s.mem := by
  simp only [State.markChain]
  rw [foldl_mem _ (fun _ _ => by simp)]
  rfl

@[simp] theorem State.tellAbort_mem (s : State) (c : Chain) : (s.tellAbort c).mem = s.mem := by
  simp only [State.tellAbort]
  rw [foldl_mem _ (fun _ _ => by split <;> rfl)]
  split <;> simp

@[simp] theorem State.clearLaunch_mem (s : State) (k : Nat) : (s.clearLaunch k).mem = s.mem := by
  simp only [State.clearLaunch]
  rw [foldl_mem _ (fun _ _ => by simp), State.handBack_mem]

@[simp] theorem State.endLaunch_mem (s : State) (k : Nat) (word info pc : Word) (lanes : LaneMask) : (s.endLaunch k word info pc lanes).mem = s.mem := by
  simp only [State.endLaunch]
  split
  · rfl
  · split
    · rfl
    · exact State.clearLaunch_mem s k

@[simp] theorem State.takeTrapWith_mem (s : State) (gid cause : Nat) (info : Lane → Word) (tl hl : LaneMask) (site : TrapSite) : (s.takeTrapWith gid cause info tl hl site).mem = s.mem := by
  simp only [State.takeTrapWith]
  (repeat' split) <;> simp

@[simp] theorem State.trapAt_mem (s : State) (gid cause : Nat) (info : Word) (tl : LaneMask) : (s.trapAt gid cause info tl).mem = s.mem := by
  simp [State.trapAt]

@[simp] theorem State.trapHeader_mem (s : State) (gid cause : Nat) (info : Word) (tl : LaneMask) (pc : Nat) : (s.trapHeader gid cause info tl pc).mem = s.mem := by
  simp [State.trapHeader]

@[simp] theorem State.retire_mem (s : State) (e : Env) (op : Op) (f : Form) : (s.retire e op f).mem = s.mem := by
  rfl

@[simp] theorem State.rewind_mem (s : State) (e : Env) : (s.rewind e).mem = s.mem := by
  rfl

@[simp] theorem State.latch_mem (s : State) (e : Env) (f : Form) (done : LaneMask) : (s.latch e f done).mem = s.mem := by
  rfl

@[simp] theorem State.keepCounts_mem (s : State) (e : Env) (op : Op) (f : Form) (done : LaneMask) : (s.keepCounts e op f done).mem = s.mem := by
  unfold State.keepCounts
  split <;> simp

@[simp] theorem State.completeLane_mem (s : State) (o : LongOp) (l : OpLane) (ws : List (RegRef × Word)) : (s.completeLane o l ws).mem = s.mem := by
  simp only [State.completeLane]
  (repeat' split) <;> simp

@[simp] theorem State.addOp_mem (s : State) (e : Env) (f : Form) (fate : Fate) (lane : Nat → Lane → Cond × List (RegRef × Word)) : (s.addOp e f fate lane).2.mem = s.mem := by
  rfl

@[simp] theorem State.doneAtIssue_mem (s : State) (e : Env) (f : Form) (k : Nat) (done : LaneMask) : (s.doneAtIssue e f k done).mem = s.mem := by
  simp [State.doneAtIssue]

@[simp] theorem State.pageFault_mem (s : State) (tenant va level reason layout : Nat) (fetch : Bool) : (s.pageFault tenant va level reason layout fetch).2.mem = s.mem := by
  unfold State.pageFault
  split <;> simp

@[simp] theorem State.addTag_mem (s : State) (core tag n : Nat) : (s.addTag core tag n).mem = s.mem := by
  rfl

@[simp] theorem State.landTag_mem (s : State) (block core tag : Nat) : (s.landTag block core tag).mem = s.mem := by
  unfold State.landTag
  split <;> simp

@[simp] theorem State.address_mem (s : State) (block n : Nat) : (s.address block n).mem = s.mem := by
  rfl

@[simp] theorem State.clearTagErr_mem (s : State) (core tag : Nat) : (s.clearTagErr core tag).mem = s.mem := by
  rfl

@[simp] theorem State.setOwners_mem (s : State) (gs : List Nat) (code : BitVec 3) : (s.setOwners gs code).mem = s.mem := by
  rfl

/-- One lane's copy writes its destination only. -/
theorem State.moveCopy_byte (s : State) (c : LaneCopy) {a : Nat} (h : a ∉ c.dst) : (s.moveCopy c).byte a = s.byte a := by
  unfold State.moveCopy
  split
  · refine State.byte_storeCells _ _ fun x hx hxa => h ?_
    exact hxa ▸ (List.of_mem_zip (a := x.1) (b := x.2) hx).1
  · refine State.byte_storeCells _ _ fun x hx hxa => h ?_
    obtain ⟨y, hy, rfl⟩ := List.mem_map.1 hx
    exact hxa ▸ hy
  · rfl

/-- The copies of an instruction write their destinations only. -/
theorem State.issueCopies_byte (s : State) (e : Env) (block : Nat) (onChip : Bool) (cs : List LaneCopy) {a : Nat} (h : ∀ c ∈ cs, a ∉ c.dst) :
    (s.issueCopies e block onChip cs).byte a = s.byte a := by
  have go : (cs.foldl (fun (s : State) c => s.issueCopy e.g.core block onChip c) s).byte a = s.byte a := by
    induction cs generalizing s with
    | nil => rfl
    | cons c cs ih =>
      rw [List.foldl_cons, ih _ fun d hd => h d (List.mem_cons_of_mem _ hd)]
      exact State.moveCopy_byte _ c (h c List.mem_cons_self)
  unfold State.issueCopies
  split <;> exact go

/-- They keep memory in canonical form. -/
theorem State.issueCopies_wf (s : State) (e : Env) (block : Nat) (onChip : Bool) (cs : List LaneCopy) (h : Memory.wf s.mem = true) :
    Memory.wf (s.issueCopies e block onChip cs).mem = true := by
  have go : Memory.wf (cs.foldl (fun (s : State) c => s.issueCopy e.g.core block onChip c) s).mem = true := by
    induction cs generalizing s with
    | nil => exact h
    | cons c cs ih =>
      refine ih _ ?_
      show Memory.wf (((s.fresh).2.addTag e.g.core c.tag 1).moveCopy c).mem = true
      unfold State.moveCopy
      split <;> first | exact Memory.wf_storeCells _ _ h | exact h
  unfold State.issueCopies
  split <;> exact go

@[simp] theorem State.pageWait_mem (s : State) (w tenant va level reason layout : Nat) (fetch : Bool) :
    (s.pageWait w tenant va level reason layout fetch).mem = s.mem := by
  simp [State.pageWait]

@[simp] theorem State.fetchAnswered_mem (s : State) (g : Group) (pc : Nat) : (s.fetchAnswered g pc).mem = s.mem := by
  unfold State.fetchAnswered
  split <;> rfl

@[simp] theorem State.engWait_mem (s : State) (op tenant va level reason layout : Nat) : (s.engWait op tenant va level reason layout).mem = s.mem := by
  unfold State.engWait
  split <;> simp

@[simp] theorem State.engineFault_mem (s : State) (gid : Nat) (lanes : LaneMask) (engine reason layout granule : Nat) : (s.engineFault gid lanes engine reason layout granule).mem = s.mem := by
  rfl

@[simp] theorem State.engineDone_mem (s : State) (op : Nat) : (s.engineDone op).mem = s.mem := by
  rfl

@[simp] theorem State.tagIssue_mem (s : State) (core : Nat) (tag : Option Nat) : (s.tagIssue core tag).mem = s.mem := by
  unfold State.tagIssue
  split <;> simp

@[simp] theorem State.tagLand_mem (s : State) (block core : Nat) (tag : Option Nat) : (s.tagLand block core tag).mem = s.mem := by
  unfold State.tagLand
  split <;> simp

@[simp] theorem State.issueTile_mem (s : State) (e : Env) (r : Report) (kind : TileKind) (f : Form) (d o n : List Nat) (touch : TileOp → List Nat) :
    (s.issueTile e r kind f d o n touch).mem = s.mem := by
  simp only [State.issueTile]
  (repeat' split) <;> simp

@[simp] theorem State.deliver_mem (s : State) (launch core : Nat) (x : Word) : (s.deliver launch core x).mem = s.mem := by
  simp only [State.deliver]
  (repeat' split) <;> simp

@[simp] theorem State.placeIntegrations_mem (s : State) (core : Nat) : (s.placeIntegrations core).mem = s.mem := by
  unfold State.placeIntegrations
  exact foldl_mem _ (fun _ _ => by (repeat' split) <;> simp) _ _

@[simp] theorem State.reenter_mem (s : State) (launch : Nat) : (s.reenter launch).mem = s.mem := by
  simp only [State.reenter]
  rw [foldl_mem _ (fun _ _ => by simp)]

@[simp] theorem State.releaseFeeds_mem (s : State) (launch : Nat) : (s.releaseFeeds launch).mem = s.mem := by
  rfl

@[simp] theorem State.reenterAt_mem (s : State) (e : Env) (kind : MatKind) : (s.reenterAt e kind).mem = s.mem := by
  unfold State.reenterAt
  split <;> simp

@[simp] theorem State.enqueue_mem (s : State) (e : Env) (f : Form) (block tile : Nat) (cores : List Nat) (kind : MatKind) (lays : List (Nat × BitVec 512)) (gs : List Nat) :
    (s.enqueue e f block tile cores kind lays gs).mem = s.mem := by
  simp only [State.enqueue]
  split <;> simp

@[simp] theorem State.endEntry_mem (s : State) (m : MatEntry) : (s.endEntry m).mem = s.mem := by
  exact foldl_mem _ (fun _ _ => by simp) _ _

@[simp] theorem State.finishEntry_mem (s : State) (m : MatEntry) : (s.finishEntry m).mem = s.mem := by
  unfold State.finishEntry
  split
  · simp
  · rw [foldl_mem _ (fun _ _ => by simp)]
    simp

@[simp] theorem State.failParam_mem (s : State) (e : Env) (f : Form) (which : Nat) (w : Word) (as : List Nat) (kp : Nat) :
    (s.failParam e f which w as kp).mem = s.mem := by
  simp [State.failParam]

@[simp] theorem State.updChain_mem (s : State) (core slot : Nat) (f : Chain → Chain) : (s.updChain core slot f).mem = s.mem := by
  rfl

@[simp] theorem State.answerOp_mem (s : State) (op : Nat) (ws : List (RegRef × Word)) : (s.answerOp op ws).mem = s.mem := by
  rfl

@[simp] theorem State.tellJoin_mem (s : State) (j : Join) (c : Option ChainShape) : (s.tellJoin j c).mem = s.mem := by
  rfl

@[simp] theorem State.answerJoin_mem (s : State) (j : Join) (c : Option Chain) : (s.answerJoin j c).mem = s.mem := by
  simp only [State.answerJoin]
  (repeat' split) <;> simp

@[simp] theorem State.landContribution_mem (s : State) (launch : Nat) (name : Word) (gen rows cols : Nat) (vals : SMap 48) :
    (s.landContribution launch name gen rows cols vals).mem = s.mem := by
  simp only [State.landContribution]
  (repeat' split) <;> simp

@[simp] theorem State.contributionOver_mem (s : State) (c : Contribution) : (s.contributionOver c).mem = s.mem := by
  rfl

@[simp] theorem State.deliverSend_mem (s : State) (c : Contribution) (vals : SMap 48) : (s.deliverSend c vals).mem = s.mem := by
  simp only [State.deliverSend]
  (repeat' split) <;> simp

@[simp] theorem State.suspendChains_mem (s : State) (block : Nat) : (s.suspendChains block).mem = s.mem := by
  exact foldl_mem _ (fun _ _ => by simp) _ _

@[simp] theorem State.closeChain_mem (s : State) (core slot : Nat) : (s.closeChain core slot).mem = s.mem := by
  rfl

@[simp] theorem State.addClaims_mem (s : State) (hs : List Nat) : (s.addClaims hs).mem = s.mem := by
  exact foldl_mem _ (fun _ _ => by simp) _ _

@[simp] theorem State.createElem_mem (s : State) (launch level : Nat) (b : Birth) : (s.createElem launch level b).2.mem = s.mem := by
  simp [State.createElem]

@[simp] theorem State.createElems_mem (s : State) (launch level : Nat) (bs : List Birth) : (s.createElems launch level bs).2.mem = s.mem := by
  induction bs generalizing s with
  | nil => rfl
  | cons b bs ih => simp [State.createElems, ih]

@[simp] theorem State.placeElems_mem (s : State) (ids : List Nat) (block : Nat) : (s.placeElems ids block).mem = s.mem := by
  rfl

@[simp] theorem State.newBlock_mem (s : State) (la : Launch) (level : Nat) (gs : List (List Nat)) (bound : Option Nat) : (s.newBlock la level gs bound).mem = s.mem := by
  rfl

@[simp] theorem State.newBlocks_mem (s : State) (la : Launch) (level : Nat) (ids : List Nat) (bound : Option Nat) :
    (s.newBlocks la level ids bound).mem = s.mem := by
  simp only [State.newBlocks]
  (repeat' split) <;> first | rfl | simp | exact foldl_mem _ (fun _ _ => by simp) _ _

@[simp] theorem State.create_mem (s : State) (la : Launch) (level : Nat) (bs : List Birth) (bound : Option Nat) :
    (s.create la level bs bound).2.mem = s.mem := by
  simp [State.create]

@[simp] theorem State.endClaim_mem (s : State) (h : Nat) : (s.endClaim h).mem = s.mem := by
  simp only [State.endClaim]
  (repeat' split) <;> simp

@[simp] theorem State.endClaims_mem (s : State) (hs : List Nat) : (s.endClaims hs).mem = s.mem := by
  exact foldl_mem _ (fun _ _ => by simp) _ _

@[simp] theorem State.freeSlots_mem (s : State) : (s.freeSlots).mem = s.mem := by
  rfl

@[simp] theorem State.loadDict_mem (s : State) (handle core : Nat) : (s.loadDict handle core).mem = s.mem := by
  unfold State.loadDict
  split <;> simp

@[simp] theorem State.newGroup_mem (s : State) (la : Launch) (b : Block) (num role : Nat) (ms : List Nat) (core part pc : Nat) : (s.newGroup la b num role ms core part pc).mem = s.mem := by
  rfl

@[simp] theorem State.startGroups_mem (s : State) (la : Launch) (b : Block) (p : Plan) : (s.startGroups la b p).mem = s.mem := by
  exact foldl_mem _ (fun _ _ => by simp) _ _

@[simp] theorem State.numberBlock_mem (s : State) (la : Launch) (b : Block) : (s.numberBlock la b).mem = s.mem := by
  unfold State.numberBlock
  split <;> simp

@[simp] theorem State.fixDie_mem (s : State) (la : Launch) (b : Block) (core : Nat) : (s.fixDie la b core).mem = s.mem := by
  simp only [State.fixDie]
  (repeat' split) <;> simp

@[simp] theorem State.updStream_mem (s : State) (core : Nat) (f : Stream → Stream) : (s.updStream core f).mem = s.mem := by
  rfl

@[simp] theorem State.laneDone_mem (s : State) (op lane : Nat) : (s.laneDone op lane).mem = s.mem := by
  simp only [State.laneDone, Option.elim]
  (repeat' split) <;> simp

@[simp] theorem State.readyLane_mem (s : State) (op lane : Nat) (ws : List (RegRef × Word)) : (s.readyLane op lane ws).mem = s.mem := by
  rfl

@[simp] theorem State.enterOne_mem (s : State) (t : Stream) (p : Push) (rest : List Push) : (s.enterOne t p rest).mem = s.mem := by
  simp [State.enterOne]

@[simp] theorem State.feed_mem (s : State) (core k : Nat) : (State.feed core k s).mem = s.mem := by
  induction k generalizing s with
  | zero => rfl
  | succ k ih =>
    unfold State.feed
    (repeat' split) <;> simp [ih]

@[simp] theorem State.endStream_mem (s : State) (core : Nat) : (s.endStream core).mem = s.mem := by
  simp only [State.endStream]
  (repeat' split) <;> simp

@[simp] theorem State.passClaims_mem (s : State) (hs : List Nat) : (s.passClaims hs).mem = s.mem := by
  exact foldl_mem _ (fun _ _ => by simp) _ _

@[simp] theorem State.endClause_mem (s : State) (gid : Nat) : (s.endClause gid).mem = s.mem := by
  simp only [State.endClause]
  (repeat' split) <;> simp

@[simp] theorem State.rasterBlocks_mem (s : State) (la : Launch) (level : Nat) (ids : List Nat) (core : Nat) : (s.rasterBlocks la level ids core).mem = s.mem := by
  exact foldl_mem _ (fun _ _ => by simp) _ _

@[simp] theorem State.resolveOne_mem (s : State) (launch frame : Nat) (ps : List Prim) (n : Nat) : (s.resolveOne launch frame ps n).mem = s.mem := by
  unfold State.resolveOne
  split <;> simp

@[simp] theorem State.createRays_mem (s : State) (la : Launch) (g : Group) (rs : RaySet) : (s.createRays la g rs).mem = s.mem := by
  unfold State.createRays
  split <;> simp

@[simp] theorem State.settleRay_mem (s : State) (la : Launch) (g : Group) (rs : RaySet) (lane : Nat) (regs : List Word) : (s.settleRay la g rs lane regs).mem = s.mem := by
  simp [State.settleRay]

@[simp] theorem State.createFixed_mem (s : State) (la : Launch) (e : Elem) : (s.createFixed la e).mem = s.mem := by
  simp only [State.createFixed]
  split <;> simp

@[simp] theorem State.endGroups_mem (s : State) : s.endGroups.mem = s.mem := by
  simp only [State.endGroups]
  split <;> simp

@[simp] theorem State.endBatches_mem (s : State) : s.endBatches.mem = s.mem := by
  rfl

@[simp] theorem State.endStreams_mem (s : State) : s.endStreams.mem = s.mem := by
  exact foldl_mem _ (fun _ _ => by simp) _ _

@[simp] theorem State.endBlocks_mem (s : State) : s.endBlocks.mem = s.mem := by
  rfl

@[simp] theorem State.leaveCores_mem (s : State) : s.leaveCores.mem = s.mem := by
  rfl

@[simp] theorem State.endPeerFaults_mem (s : State) : s.endPeerFaults.mem = s.mem := by
  rfl

@[simp] theorem State.declareWork_mem (s : State) : s.declareWork.mem = s.mem := by
  rfl

@[simp] theorem State.freeSpace_mem (s : State) : s.freeSpace.mem = s.mem := by
  rfl

@[simp] theorem State.endLaunches_mem (s : State) : s.endLaunches.mem = s.mem := by
  unfold State.endLaunches
  exact foldl_mem _ (fun _ _ => by (repeat' split) <;> simp) _ _

@[simp] theorem State.deadlockTrap_mem (s : State) (la : Launch) (p : Pool) (info : Word) (gid : Nat) : (s.deadlockTrap la p info gid).mem = s.mem := by
  simp only [State.deadlockTrap]
  (repeat' split) <;> simp

@[simp] theorem State.breakPool_mem (s : State) (la : Launch) (p : Pool) : (s.breakPool la p).mem = s.mem := by
  simp only [State.breakPool]
  split
  · simp
  · rw [foldl_mem _ (fun _ _ => by simp)]

@[simp] theorem State.breakDeadlocks_mem (s : State) : s.breakDeadlocks.mem = s.mem := by
  unfold State.breakDeadlocks
  exact foldl_mem _ (fun _ _ => by (repeat' split) <;> simp) _ _

@[simp] theorem State.startLaunch_mem (s : State) (la : Launch) : (s.startLaunch la).mem = s.mem := by
  simp [State.startLaunch]

@[simp] theorem State.startLaunches_mem (s : State) : s.startLaunches.mem = s.mem := by
  simp only [State.startLaunches]
  rw [foldl_mem]
  intros
  (repeat' split) <;> simp

@[simp] theorem State.cancelDone_mem (s : State) : s.cancelDone.mem = s.mem := by
  unfold State.cancelDone
  exact foldl_mem _ (fun _ _ => by (repeat' split) <;> simp) _ _

@[simp] theorem State.completePreempts_mem (s : State) : s.completePreempts.mem = s.mem := by
  rfl

@[simp] theorem State.placeDue_mem (s : State) : s.placeDue.mem = s.mem := foldl_mem _ (fun _ _ => by simp) _ _

@[simp] theorem State.settle_mem (s : State) : s.settle.mem = s.mem := by
  simp [State.settle]

@[simp] theorem State.reject_mem (s : State) (gid : Nat) (g : Group) (r : Run) (sc : Option Scan) (why : Reject) : (s.reject gid g r sc why).mem = s.mem := by
  simp only [State.reject]
  (repeat' split) <;> simp

@[simp] theorem State.issuePath_mem (s : State) (g : Group) (p : Path) (losers : LaneMask) : (s.issuePath g p losers).mem = s.mem := by
  simp only [State.issuePath]
  (repeat' split) <;> simp

@[simp] theorem State.issueGroup_mem (s : State) (g : Group) : (s.issueGroup g).mem = s.mem := by
  simp only [State.issueGroup]
  (repeat' split) <;> simp

@[simp] theorem State.reenterFor_mem (s : State) (g : Group) : (s.reenterFor g).mem = s.mem := by
  simp only [State.reenterFor]
  split <;> simp

@[simp] theorem State.observeTags_mem (s : State) (o : LongOp) (core : Nat) (set : BitVec 64) : (s.observeTags o core set).mem = s.mem := by
  simp only [State.observeTags]
  repeat' split
  all_goals first | rfl | (rw [foldl_mem]; intros; (repeat' split) <;> rfl)

/-- Taking an item of work leaves memory alone. -/
theorem takeWork_mem {s t : State} {launch core op lane : Nat} {x : Word} {b : Bool} (h : s.takeWork launch core op lane = some (x, b, t)) : t.mem = s.mem := by
  unfold State.takeWork at h
  simp only [] at h
  (repeat' split at h) <;> simp_all <;> obtain ⟨-, -, rfl⟩ := h <;> simp

/-- Accepting a launch leaves memory alone. -/
theorem accept_mem {s t : State} {u : Submission} {c : Code} {bs : List Byte} {k : Nat} (h : s.accept u c bs = .ok (k, t)) : t.mem = s.mem := by
  unfold State.accept at h
  simp only [] at h
  (repeat' split at h) <;> simp_all <;> obtain ⟨-, rfl⟩ := h <;> rfl

@[simp] theorem State.completeWork_mem (s : State) (o : LongOp) (l : OpLane) : (s.completeWork o l).mem = s.mem := by
  simp only [State.completeWork]
  split
  · rfl
  · split
    · rfl
    · rename_i h
      simp [takeWork_mem h]

@[simp] theorem State.completeIf_mem (s : State) (o : LongOp) (l : OpLane) : (s.completeIf o l).mem = s.mem := by
  simp only [State.completeIf]
  (repeat' split) <;> first | simp | exact foldl_mem _ (fun _ _ => by split <;> simp) _ _

@[simp] theorem State.suspendEntries_mem (s : State) (launch : Nat) : (s.suspendEntries launch).mem = s.mem := by
  rfl

@[simp] theorem State.deliverPreempt_mem (s : State) (g : Group) : (s.deliverPreempt g).mem = s.mem := by
  simp [State.deliverPreempt]

@[simp] theorem State.deliverBudget_mem (s : State) (g : Group) : (s.deliverBudget g).mem = s.mem := by
  simp [State.deliverBudget]

@[simp] theorem State.deliverFault_mem (s : State) (g : Group) : (s.deliverFault g).mem = s.mem := by
  unfold State.deliverFault
  split <;> simp

@[simp] theorem State.preemptBlock_mem (s : State) (block : Nat) : (s.preemptBlock block).mem = s.mem := by
  simp only [State.preemptBlock]
  (repeat' split) <;> simp

@[simp] theorem State.saveBlock_mem (s : State) (r : LaunchRec) (b : Block) : (s.saveBlock r b).mem = s.mem := by
  rfl

@[simp] theorem State.movePool_mem (s : State) (la : Launch) (x y : Nat) : (s.movePool la x y).mem = s.mem := by
  unfold State.movePool
  split <;> rfl

@[simp] theorem State.restartGroup_mem (s : State) (r : LaunchRec) (g : Group) (core part : Nat) : (s.restartGroup r g core part).mem = s.mem := by
  rfl

@[simp] theorem State.placeEngines_mem (s : State) (o n : Block) (k : Nat) : (s.placeEngines o n k).mem = s.mem := by
  simp only [State.placeEngines]
  rw [foldl_mem _ (fun _ _ => by simp), State.holdGranules_mem]
  exact foldl_mem _ (fun _ _ => by simp) _ _

@[simp] theorem State.discard_mem (s : State) (block : Nat) : (s.discard block).mem = s.mem := by
  simp only [State.discard]
  (repeat' split) <;> rfl

@[simp] theorem State.renumber_mem (s : State) (own : Nat) : (s.renumber own).mem = s.mem := by
  rfl

@[simp] theorem State.tellExports_mem (s : State) (w : Window) : (s.tellExports w).mem = s.mem := by
  exact foldl_mem _ (fun _ _ => by simp) _ _

@[simp] theorem State.done_mem (s : State) (q : Nat) (c : CmdEntry) (v : Nat) (d : BitVec 128) : (s.done q c v d).mem = s.mem := by
  rfl

@[simp] theorem State.refuseWord_mem (s : State) (q : Nat) (c : CmdEntry) (w : Word) (d : Nat) : (s.refuseWord q c w d).mem = s.mem := by
  rfl

@[simp] theorem State.refuse_mem (s : State) (q : Nat) (c : CmdEntry) (k : Nat) : (s.refuse q c k).mem = s.mem := by
  rfl

@[simp] theorem State.skipBad_mem (s : State) (q : Nat) : (s.skipBad q).mem = s.mem := by
  simp only [State.skipBad]
  split
  · rfl
  · rw [foldl_mem]
    · rfl
    · exact fun _ _ => rfl

@[simp] theorem State.unmapRange_mem (s : State) (t lo hi : Nat) : (s.unmapRange t lo hi).mem = s.mem := by
  rfl

@[simp] theorem State.mapFrom_mem (s : State) (target va : Nat) (entry : BitVec 64) (fuel level table : Nat) : (s.mapFrom target va entry fuel level table).mem = s.mem := by
  induction fuel generalizing s level table with
  | zero => rfl
  | succ fuel ih =>
    unfold State.mapFrom
    simp only []
    (repeat' split) <;> simp [ih]

@[simp] theorem State.mapPage_mem (s : State) (t level va : Nat) (entry : BitVec 64) : (s.mapPage t level va entry).mem = s.mem := by
  simp [State.mapPage]

@[simp] theorem State.removeTenant_mem (s : State) (t : Nat) : (s.removeTenant t).mem = s.mem := by
  rfl

@[simp] theorem State.offerAgain_mem (s : State) (o r l : Nat) : (s.offerAgain o r l).mem = s.mem := by
  rfl

@[simp] theorem State.mapCode_mem (s : State) (c : Code) : (s.mapCode c).mem = s.mem := by
  exact foldl_mem _ (fun _ _ => by simp) _ _

@[simp] theorem State.share_mem (s : State) (as : List Nat) (d : Nat) : (s.share as d).mem = s.mem := by
  rfl

@[simp] theorem State.losePeer_mem (s : State) (p : Nat) : (s.losePeer p).mem = s.mem := by
  exact foldl_mem _ (fun _ _ => by simp) _ _

@[simp] theorem State.regroup_mem (s : State) (own : Nat) (ms : BitVec 8) : (s.regroup own ms).mem = s.mem := by
  exact foldl_mem _ (fun _ _ => by simp) _ _

@[simp] theorem State.endByHeat_mem (s : State) (k : Nat) : (s.endByHeat k).mem = s.mem := by
  simp [State.endByHeat]

@[simp] theorem State.submit_mem (s : State) (e : Env) (mode : Nat) (bs : List Byte) : (s.submit e mode bs).2.mem = s.mem := by
  unfold State.submit
  split
  · rfl
  · split
    · rfl
    · rename_i h
      exact accept_mem h

@[simp] theorem State.completeAll_mem (s : State) (op : Nat) (ls : List Nat) : (s.completeAll op ls).mem = s.mem := by
  unfold State.completeAll
  exact foldl_mem _ (fun _ _ => by (repeat' split) <;> simp) _ _

@[simp] theorem State.tick_mem (s : State) (n : Nat) : (s.tick n).mem = s.mem := by
  rfl

/-! ### What goes out after a step (R168, R433, R461) -/

/-- Writing sectors changes no byte that none of the cells names. -/
theorem State.byte_writeSectors (s : State) (cs : List Host.Cell) {a : Nat} (h : ∀ c ∈ cs, c.1 ≠ a) : (s.writeSectors cs).byte a = s.byte a := by
  simp only [State.writeSectors]
  split
  · rfl
  · exact State.byte_storeCells s _ fun c hc => h c (List.mem_of_mem_filter hc)

/-- A write from outside changes no other byte, and none at all where a damaged sector is not wholly written (R433). -/
theorem State.byte_writeOutside (s : State) (as : List Nat) (data : List Byte) {a : Nat} (h : a ∉ as) : (s.writeOutside as data).byte a = s.byte a := by
  unfold State.writeOutside
  split
  · exact State.byte_storeCells s _ fun c hc hca => h (hca ▸ (List.of_mem_zip hc).1)
  · rfl

/-- Both keep the canonical form of memory. -/
theorem State.wf_writeSectors {s : State} (cs : List Host.Cell) (h : Memory.wf s.mem = true) : Memory.wf (s.writeSectors cs).mem = true := by
  simp only [State.writeSectors]
  split
  · exact h
  · exact Memory.wf_storeCells s _ h

theorem State.wf_writeOutside {s : State} (as : List Nat) (data : List Byte) (h : Memory.wf s.mem = true) : Memory.wf (s.writeOutside as data).mem = true := by
  unfold State.writeOutside
  split
  · exact Memory.wf_storeCells s _ h
  · exact h

/-! ### The store of visibility (R385) -/

/-- R385: a sample that nothing has taken holds the clear depth and the id 0xFFFFFFFF. -/
theorem Launch.sample_unset {la : Launch} {key : Nat} (hd : la.depths.get key = 0) (hi : la.ids.get key = 0) :
    la.depthAt key = la.rcd.draw.clear ∧ la.idAt key = 0xFFFFFFFF := by
  simp [Launch.depthAt, Launch.idAt, hd, hi]

end Sys2Proof.Machine
end

