-- ==== Sys2Proof/Laws/Ops.lean ====
section
/-!
SUPPORT. What the shared operations can do, once for all instructions: the environment of an encoded instruction, the outcomes of `runWith`, what completing
changes, what a register write leaves alone, and the granules that an issue holds.
-/
namespace Sys2Proof.Machine

/-! ### The environment -/

/-- The environment names the group in focus, its clause in progress, its block and its launch, and X. -/
theorem State.env_spec {s : State} {gd : Guard} {e : Env} (h : s.env gd = some e) :
    s.focus = some e.gid ∧ s.group? e.gid = some e.g ∧ e.g.run = some e.r ∧ s.block? e.g.block = some e.b ∧ s.launch? e.g.launch = some e.la ∧
      e.x = e.g.active e.r gd := by
  unfold State.env at h
  (repeat' split at h) <;> simp_all
  subst h
  simp_all

/-! ### The outcomes of an encoded instruction -/

/-- Without an ILLEGAL_FORM of the entry's own, the checks of R76 report what they find. -/
@[simp] theorem firstCause_none (found : Option (Nat × Word × LaneMask)) : firstCause none found = found := rfl

/-- An ILLEGAL_FORM of the entry's own is reported, if nothing ranks before it (R76). -/
theorem firstCause_own (info : Word) (lanes : LaneMask) : firstCause (some (info, lanes)) none = some (Cause.illegalForm, info, lanes) := rfl

variable {op : Op} {f : Form} {runs : Env → List (Nat × Nat)} {s : State} {e : Env} {own : Env → Option (Word × LaneMask)}

/-- On no lane an instruction only retires (R26, R76). -/
theorem runWith_idle (body : Env → Res) (he : s.env f.guard = some e) (hx : e.x = 0) :
    runWith op f runs s body own = .next (s.retire e op f) := by
  simp only [runWith, he, hx, if_true]

/-- An instruction that a check of R76 stops takes that trap. -/
theorem runWith_checked {cause : Nat} {info : Word} {lanes : LaneMask} (body : Env → Res) (he : s.env f.guard = some e) (hx : e.x ≠ 0)
    (hc : firstCause (own e) (s.preCheck e op f (runs e)) = some (cause, info, lanes)) :
    runWith op f runs s body own = .next (s.trapAt e.gid cause info lanes) := by
  simp only [runWith, he, hx, if_false, hc]

/-- Past the checks, the body decides. -/
theorem runWith_effect (body : Env → Res) (he : s.env f.guard = some e) (hx : e.x ≠ 0)
    (hc : firstCause (own e) (s.preCheck e op f (runs e)) = none) : runWith op f runs s body own = s.finish e op f (body e) := by
  simp only [runWith, he, hx, if_false, hc]

/-- Everything that an encoded instruction can do: nothing without a group in focus, retire, trap, or what its body answers. -/
theorem runWith_cases (op : Op) (f : Form) (runs : Env → List (Nat × Nat)) (s : State) (body : Env → Res) (own : Env → Option (Word × LaneMask)) :
    (s.env f.guard = none ∧ runWith op f runs s body own = .next s) ∨
    (∃ e, s.env f.guard = some e ∧ e.x = 0 ∧ runWith op f runs s body own = .next (s.retire e op f)) ∨
    (∃ e cause info lanes, s.env f.guard = some e ∧ e.x ≠ 0 ∧ firstCause (own e) (s.preCheck e op f (runs e)) = some (cause, info, lanes) ∧
      runWith op f runs s body own = .next (s.trapAt e.gid cause info lanes)) ∨
    (∃ e, s.env f.guard = some e ∧ e.x ≠ 0 ∧ firstCause (own e) (s.preCheck e op f (runs e)) = none ∧
      runWith op f runs s body own = s.finish e op f (body e)) := by
  cases he : s.env f.guard with
  | none => exact .inl ⟨rfl, by simp only [runWith, he]⟩
  | some e =>
    by_cases hx : e.x = 0
    · exact .inr (.inl ⟨e, rfl, hx, runWith_idle body he hx⟩)
    · match hc : firstCause (own e) (s.preCheck e op f (runs e)) with
      | some (cause, info, lanes) => exact .inr (.inr (.inl ⟨e, cause, info, lanes, rfl, hx, hc, runWith_checked body he hx hc⟩))
      | none => exact .inr (.inr (.inr ⟨e, rfl, hx, hc, runWith_effect body he hx hc⟩))

@[simp] theorem State.finish_ok (s : State) (e : Env) (op : Op) (f : Form) (t : State) : s.finish e op f (.ok t) = .next (t.retire e op f) := rfl
@[simp] theorem State.finish_trap (s : State) (e : Env) (op : Op) (f : Form) (cause : Nat) (info : Word) (lanes : LaneMask) :
    s.finish e op f (.trap cause info lanes) = .next (s.trapAt e.gid cause info lanes) := rfl
@[simp] theorem State.finish_stall (s : State) (e : Env) (op : Op) (f : Form) : s.finish e op f .stall = .next (s.rewind e) := rfl
@[simp] theorem State.finish_stallIn (s : State) (e : Env) (op : Op) (f : Form) (t : State) : s.finish e op f (.stallIn t) = .next (t.rewind e) := rfl
@[simp] theorem State.finish_stop (s : State) (e : Env) (op : Op) (f : Form) (r : Fault) : s.finish e op f (.stop r) = .fault r := rfl

/-- A body answers a stop, or the instruction answers a next state. -/
theorem State.finish_next (s : State) (e : Env) (op : Op) (f : Form) (r : Res) : (∃ t, s.finish e op f r = .next t) ∨ ∃ x, r = .stop x := by
  cases r <;> simp [State.finish]

/-! ### Memory -/

/-- The states that a body answers have this memory. -/
def Res.memIs (m : SMap 8) : Res → Prop
  | .ok t => t.mem = m
  | .trapIn t _ _ _ _ => t.mem = m
  | .part t _ _ _ _ => t.mem = m
  | .partHold t _ _ _ => t.mem = m
  | .hold t _ => t.mem = m
  | .stallIn t => t.mem = m
  | .trap _ _ _ => True
  | .stall => True
  | .stop _ => True

@[simp] theorem Res.memIs_ok (m : SMap 8) (t : State) : (Res.ok t).memIs m ↔ t.mem = m := Iff.rfl
@[simp] theorem Res.memIs_trap (m : SMap 8) (cause : Nat) (info : Word) (lanes : LaneMask) : (Res.trap cause info lanes).memIs m := trivial
@[simp] theorem Res.memIs_stall (m : SMap 8) : Res.stall.memIs m := trivial
@[simp] theorem Res.memIs_stop (m : SMap 8) (r : Fault) : (Res.stop r).memIs m := trivial
@[simp] theorem Res.memIs_stallIn (m : SMap 8) (t : State) : (Res.stallIn t).memIs m ↔ t.mem = m := Iff.rfl
@[simp] theorem Res.memIs_trapIn (m : SMap 8) (t : State) (done : LaneMask) (cause : Nat) (info : Word) (lanes : LaneMask) :
    (Res.trapIn t done cause info lanes).memIs m ↔ t.mem = m := Iff.rfl
@[simp] theorem Res.memIs_part (m : SMap 8) (t : State) (done : LaneMask) (cause : Nat) (info : Word) (lanes : LaneMask) :
    (Res.part t done cause info lanes).memIs m ↔ t.mem = m := Iff.rfl
@[simp] theorem Res.memIs_partHold (m : SMap 8) (t : State) (done lanes : LaneMask) (fault : Nat) :
    (Res.partHold t done lanes fault).memIs m ↔ t.mem = m := Iff.rfl
@[simp] theorem Res.memIs_hold (m : SMap 8) (t : State) (fault : Nat) : (Res.hold t fault).memIs m ↔ t.mem = m := Iff.rfl

@[simp] theorem State.leaveTodo_mem (s : State) (gid : Nat) (lanes : LaneMask) : (s.leaveTodo gid lanes).mem = s.mem := rfl

/-- An encoded instruction whose body leaves memory alone leaves it alone, traps and stalls included. -/
theorem runWith_mem {t : State} {body : Env → Res} (h : ∀ e, (body e).memIs s.mem) (ht : runWith op f runs s body own = .next t) : t.mem = s.mem := by
  obtain ⟨-, h0⟩ | ⟨e, -, -, h0⟩ | ⟨e, _, _, _, -, -, -, h0⟩ | ⟨e, -, -, -, h0⟩ := runWith_cases op f runs s body own
  · simp_all
  · have := h0.symm.trans ht
    simp only [Host.Outcome.next.injEq] at this
    simp [← this]
  · have := h0.symm.trans ht
    simp only [Host.Outcome.next.injEq] at this
    simp [← this]
  · have hb := h e
    rw [h0] at ht
    cases hr : body e <;> simp only [hr, State.finish, Host.Outcome.next.injEq, reduceCtorEq] at ht hb <;> subst ht <;> (try split) <;> simp_all [Res.memIs]

/-- A fixed-latency instruction that writes registers leaves memory alone. -/
theorem runFixed_mem {t : State} {fn : Env → Nat → Lane → LaneRes} (ht : runFixed op f s fn = .next t) : t.mem = s.mem :=
  runWith_mem (fun e => by simp) ht

/-- A long-latency instruction leaves memory alone where it issues. -/
theorem runLong_mem {t : State} {fn : Env → Nat → Lane → LaneRes} (ht : runLong op f s fn = .next t) : t.mem = s.mem :=
  runWith_mem (fun e => by simp) ht

/-! ### Completing, and register writes -/

/-- Retiring changes the group of the instruction and nothing else. -/
theorem State.retire_eq (s : State) (e : Env) (op : Op) (f : Form) : s.retire e op f = { s with groups := (s.retire e op f).groups } := rfl

/-- Retiring leaves every other group as it is. -/
theorem State.retire_group_ne (s : State) (e : Env) (op : Op) (f : Form) {k : Nat} (h : k ≠ e.gid) : (s.retire e op f).group? k = s.group? k := by
  refine findId_updId_ne Group.id _ (fun g => ?_) h s.groups
  simp only [Group.latchClock]
  (repeat' split) <;> (try rfl) <;> simp only [Group.settle, Group.updLanes, Group.subFlag?] <;> (repeat' split) <;> rfl

/-- A register write changes groups and slots, and nothing else. -/
theorem State.writeReg_eq (s : State) (gid l : Nat) (ref : RegRef) (x : Word) :
    s.writeReg gid l ref x = { s with groups := (s.writeReg gid l ref x).groups, slots := (s.writeReg gid l ref x).slots } := by
  unfold State.writeReg
  (repeat' split) <;> rfl

/-- Register writes change groups and slots, and nothing else. -/
theorem State.writeRegs_eq (s : State) (gid : Nat) (ws : List (Nat × RegRef × Word)) :
    s.writeRegs gid ws = { s with groups := (s.writeRegs gid ws).groups, slots := (s.writeRegs gid ws).slots } := by
  induction ws generalizing s with
  | nil => rfl
  | cons w ws ih =>
    obtain ⟨l, ref, x⟩ := w
    rw [State.writeRegs, ih, State.writeReg_eq]

/-- A write to p7 is discarded (R14). -/
@[simp] theorem Lane.write_p7 (ln : Lane) (x : Word) : ln.write (.p 7) x = ln := rfl
@[simp] theorem Lane.pred_p7 (ln : Lane) : ln.pred 7 = true := rfl
/-- A V register reads the word last written to it. -/
@[simp] theorem Lane.write_v_self (ln : Lane) (i : Nat) (x : Word) : (ln.write (.v i) x).v.get i = x := SMap.get_set_self _ _ _
/-- A write to a V register leaves the others. -/
theorem Lane.write_v_ne (ln : Lane) {i j : Nat} (x : Word) (h : j ≠ i) : (ln.write (.v i) x).v.get j = ln.v.get j := SMap.get_set_ne _ _ h
/-- An O register reads the word last written to it. -/
@[simp] theorem Lane.write_o_self (ln : Lane) (i : Nat) (x : Word) : (ln.write (.o i) x).o.get i = x := SMap.get_set_self _ _ _
/-- A write to an O register leaves the others. -/
theorem Lane.write_o_ne (ln : Lane) {i j : Nat} (x : Word) (h : j ≠ i) : (ln.write (.o i) x).o.get j = ln.o.get j := SMap.get_set_ne _ _ h

/-- A long-latency instruction that issues is added to those outstanding, with a name of its own, and changes nothing else. -/
theorem State.addOp_eq (s : State) (e : Env) (f : Form) (fate : Fate) (lane : Nat → Lane → Cond × List (RegRef × Word)) :
    s.addOp e f fate lane = (s.nextId, { s with
      nextId := s.nextId + 1
      ops := s.ops ++ [{ id := s.nextId, group := e.gid, flag := e.r.flagOf f.fsel
                         lanes := e.lanes.map (fun c => { lane := c.1, cond := (lane c.1 c.2).1, writes := (lane c.1 c.2).2 })
                         fate, run := 0, dst := f.dst.ref 0, pdst := none, kept := false }] }) := rfl

/-! ### Granules that operations hold (R290) -/

/-- `dedup` keeps every member, once. -/
theorem mem_dedup {x : Nat} {l : List Nat} : x ∈ dedup l ↔ x ∈ l := by
  induction l with
  | nil => rfl
  | cons y ys ih => by_cases h : x = y <;> simp [dedup, ih, h]

theorem dedup_nodup (l : List Nat) : (dedup l).Nodup := by
  induction l with
  | nil => exact List.nodup_nil
  | cons y ys ih => exact List.nodup_cons.mpr ⟨by simp, ih.filter _⟩

/-- Each granule that an operation takes its place on counts it once; no other count changes. -/
theorem State.get_holdGranules {gs : List Nat} (h : gs.Nodup) (s : State) (g : Nat) :
    (s.holdGranules gs).engineCounts.get g = s.engineCounts.get g + (if g ∈ gs then 1 else 0) := by
  suffices ∀ m : SMap 32, (gs.foldl (fun m g => m.set g (m.get g + 1)) m).get g = m.get g + (if g ∈ gs then 1 else 0) from this _
  intro m
  induction gs generalizing m with
  | nil => simp
  | cons x xs ih =>
    obtain ⟨hx, hn⟩ := List.nodup_cons.mp h
    rw [List.foldl_cons, ih hn, SMap.get_set]
    by_cases hg : g = x
    · subst hg; simp [hx]
    · simp [hg]

/-- What an engine holds of a footprint: the granules of it that the engine owns, each once. -/
theorem State.mem_heldBy_ {s : State} {owner g : Nat} {gs : List Nat} : g ∈ s.heldBy_ owner gs ↔ g ∈ gs ∧ (s.owners.get g).toNat = owner := by
  simp [State.heldBy_]

end Sys2Proof.Machine
end

