-- ==== Sys2Proof/Laws/PerInstr.lean ====
section
/-!
SUPPORT. One statement for every instruction, as syntax: an encoded instruction is its opcode's constructor applied to its form, and its encoding is four
parcels, six with a literal, or the sixteen of the loop nest; a step that is no encoded instruction has no encoding (R57, R58, R60, R62, R70).
-/
namespace Sys2Proof.Laws

/-- An instruction has the opcode and the form that `parts` gives, and the length of R58. -/
def EncodingLength.Statement (i : Instr) : Prop :=
  match parts i with
  | some (op, f) => op.instr f = i ∧ (encode i).length = if f.literal.isSome then 6 else 4
  | none => (encode i).length = match i with
    | .lnest _ => 16
    | _ => 0

/-- Four or two parcels of a number. -/
theorem splitParcels_length (k w : Nat) : (splitParcels k w).length = k := by
  induction k with
  | zero => rfl
  | succ k ih => simp [splitParcels, ih]

/-- The statement of an instruction that a full word encodes. -/
theorem statement_of_parts {i : Instr} {op : Op} {f : Form} (hp : parts i = some (op, f)) (hi : op.instr f = i) : EncodingLength.Statement i := by
  simp only [EncodingLength.Statement, hp, hi, true_and, encode, List.length_append, splitParcels_length]
  cases f.literal <;> simp [splitParcels_length]

namespace EncodingLength

theorem iadd (f : Form) : Statement (.iadd f) := statement_of_parts rfl rfl
theorem isub (f : Form) : Statement (.isub f) := statement_of_parts rfl rfl
theorem iadd64 (f : Form) : Statement (.iadd64 f) := statement_of_parts rfl rfl
theorem isub64 (f : Form) : Statement (.isub64 f) := statement_of_parts rfl rfl
theorem imul (f : Form) : Statement (.imul f) := statement_of_parts rfl rfl
theorem imulh (f : Form) : Statement (.imulh f) := statement_of_parts rfl rfl
theorem imad (f : Form) : Statement (.imad f) := statement_of_parts rfl rfl
theorem imad64 (f : Form) : Statement (.imad64 f) := statement_of_parts rfl rfl
theorem imadw (f : Form) : Statement (.imadw f) := statement_of_parts rfl rfl
theorem imin (f : Form) : Statement (.imin f) := statement_of_parts rfl rfl
theorem imax (f : Form) : Statement (.imax f) := statement_of_parts rfl rfl
theorem iabs (f : Form) : Statement (.iabs f) := statement_of_parts rfl rfl
theorem idiv (f : Form) : Statement (.idiv f) := statement_of_parts rfl rfl
theorem irem (f : Form) : Statement (.irem f) := statement_of_parts rfl rfl
theorem lut3 (f : Form) : Statement (.lut3 f) := statement_of_parts rfl rfl
theorem shl (f : Form) : Statement (.shl f) := statement_of_parts rfl rfl
theorem shr (f : Form) : Statement (.shr f) := statement_of_parts rfl rfl
theorem sar (f : Form) : Statement (.sar f) := statement_of_parts rfl rfl
theorem shf (f : Form) : Statement (.shf f) := statement_of_parts rfl rfl
theorem bfe (f : Form) : Statement (.bfe f) := statement_of_parts rfl rfl
theorem bfi (f : Form) : Statement (.bfi f) := statement_of_parts rfl rfl
theorem popc (f : Form) : Statement (.popc f) := statement_of_parts rfl rfl
theorem clz (f : Form) : Statement (.clz f) := statement_of_parts rfl rfl
theorem brev (f : Form) : Statement (.brev f) := statement_of_parts rfl rfl
theorem findlsb (f : Form) : Statement (.findlsb f) := statement_of_parts rfl rfl
theorem icmp (f : Form) : Statement (.icmp f) := statement_of_parts rfl rfl
theorem isel (f : Form) : Statement (.isel f) := statement_of_parts rfl rfl
theorem plut3 (f : Form) : Statement (.plut3 f) := statement_of_parts rfl rfl
theorem mov (f : Form) : Statement (.mov f) := statement_of_parts rfl rfl
theorem movi (f : Form) : Statement (.movi f) := statement_of_parts rfl rfl
theorem movl (f : Form) : Statement (.movl f) := statement_of_parts rfl rfl
theorem movs (f : Form) : Statement (.movs f) := statement_of_parts rfl rfl
theorem movg (f : Form) : Statement (.movg f) := statement_of_parts rfl rfl
theorem bra (f : Form) : Statement (.bra f) := statement_of_parts rfl rfl
theorem brai (f : Form) : Statement (.brai f) := statement_of_parts rfl rfl
theorem call (f : Form) : Statement (.call f) := statement_of_parts rfl rfl
theorem calli (f : Form) : Statement (.calli f) := statement_of_parts rfl rfl
theorem ret (f : Form) : Statement (.ret f) := statement_of_parts rfl rfl
theorem exit (f : Form) : Statement (.exit f) := statement_of_parts rfl rfl
theorem yield (f : Form) : Statement (.yield f) := statement_of_parts rfl rfl
theorem nop (f : Form) : Statement (.nop f) := statement_of_parts rfl rfl
theorem fadd (f : Form) : Statement (.fadd f) := statement_of_parts rfl rfl
theorem fsub (f : Form) : Statement (.fsub f) := statement_of_parts rfl rfl
theorem fmul (f : Form) : Statement (.fmul f) := statement_of_parts rfl rfl
theorem ffma (f : Form) : Statement (.ffma f) := statement_of_parts rfl rfl
theorem fmin (f : Form) : Statement (.fmin f) := statement_of_parts rfl rfl
theorem fmax (f : Form) : Statement (.fmax f) := statement_of_parts rfl rfl
theorem fcmp (f : Form) : Statement (.fcmp f) := statement_of_parts rfl rfl
theorem frnd (f : Form) : Statement (.frnd f) := statement_of_parts rfl rfl
theorem fclass (f : Form) : Statement (.fclass f) := statement_of_parts rfl rfl
theorem fscale (f : Form) : Statement (.fscale f) := statement_of_parts rfl rfl
theorem frcp (f : Form) : Statement (.frcp f) := statement_of_parts rfl rfl
theorem frsq (f : Form) : Statement (.frsq f) := statement_of_parts rfl rfl
theorem fsqrt (f : Form) : Statement (.fsqrt f) := statement_of_parts rfl rfl
theorem fdiv (f : Form) : Statement (.fdiv f) := statement_of_parts rfl rfl
theorem f2sum (f : Form) : Statement (.f2sum f) := statement_of_parts rfl rfl
theorem f2prd (f : Form) : Statement (.f2prd f) := statement_of_parts rfl rfl
theorem hadd2 (f : Form) : Statement (.hadd2 f) := statement_of_parts rfl rfl
theorem hmul2 (f : Form) : Statement (.hmul2 f) := statement_of_parts rfl rfl
theorem hfma2 (f : Form) : Statement (.hfma2 f) := statement_of_parts rfl rfl
theorem fdot2 (f : Form) : Statement (.fdot2 f) := statement_of_parts rfl rfl
theorem idot4 (f : Form) : Statement (.idot4 f) := statement_of_parts rfl rfl
theorem cvt (f : Form) : Statement (.cvt f) := statement_of_parts rfl rfl
theorem cvti (f : Form) : Statement (.cvti f) := statement_of_parts rfl rfl
theorem packn (f : Form) : Statement (.packn f) := statement_of_parts rfl rfl
theorem unpackn (f : Form) : Statement (.unpackn f) := statement_of_parts rfl rfl
theorem fex2 (f : Form) : Statement (.fex2 f) := statement_of_parts rfl rfl
theorem flg2 (f : Form) : Statement (.flg2 f) := statement_of_parts rfl rfl
theorem fsin (f : Form) : Statement (.fsin f) := statement_of_parts rfl rfl
theorem fcos (f : Form) : Statement (.fcos f) := statement_of_parts rfl rfl
theorem cadd (f : Form) : Statement (.cadd f) := statement_of_parts rfl rfl
theorem cmul (f : Form) : Statement (.cmul f) := statement_of_parts rfl rfl
theorem ccmul (f : Form) : Statement (.ccmul f) := statement_of_parts rfl rfl
theorem cfma (f : Form) : Statement (.cfma f) := statement_of_parts rfl rfl
theorem cabs2 (f : Form) : Statement (.cabs2 f) := statement_of_parts rfl rfl
theorem cexpi (f : Form) : Statement (.cexpi f) := statement_of_parts rfl rfl
theorem vote (f : Form) : Statement (.vote f) := statement_of_parts rfl rfl
theorem shfl (f : Form) : Statement (.shfl f) := statement_of_parts rfl rfl
theorem redux (f : Form) : Statement (.redux f) := statement_of_parts rfl rfl
theorem scan (f : Form) : Statement (.scan f) := statement_of_parts rfl rfl
theorem seamJoin (f : Form) : Statement (.seamJoin f) := statement_of_parts rfl rfl
theorem seamQuit (f : Form) : Statement (.seamQuit f) := statement_of_parts rfl rfl
theorem seamQuitm (f : Form) : Statement (.seamQuitm f) := statement_of_parts rfl rfl
theorem seamWait (f : Form) : Statement (.seamWait f) := statement_of_parts rfl rfl
theorem seamRead (f : Form) : Statement (.seamRead f) := statement_of_parts rfl rfl
theorem seamStore (f : Form) : Statement (.seamStore f) := statement_of_parts rfl rfl
theorem seamLoad (f : Form) : Statement (.seamLoad f) := statement_of_parts rfl rfl
theorem serOpen (f : Form) : Statement (.serOpen f) := statement_of_parts rfl rfl
theorem serClose (f : Form) : Statement (.serClose f) := statement_of_parts rfl rfl
theorem regroup (f : Form) : Statement (.regroup f) := statement_of_parts rfl rfl
theorem reorderPoint (block : Nat) (role : BitVec 2) : Statement (.reorderPoint block role) := rfl
theorem emit (f : Form) : Statement (.emit f) := statement_of_parts rfl rfl
theorem spawn (f : Form) : Statement (.spawn f) := statement_of_parts rfl rfl
theorem spawnReturn (op lane : Nat) : Statement (.spawnReturn op lane) := rfl
theorem ebb (f : Form) : Statement (.ebb f) := statement_of_parts rfl rfl
theorem hlerp (f : Form) : Statement (.hlerp f) := statement_of_parts rfl rfl
theorem ld (f : Form) : Statement (.ld f) := statement_of_parts rfl rfl
theorem st (f : Form) : Statement (.st f) := statement_of_parts rfl rfl
theorem ldu (f : Form) : Statement (.ldu f) := statement_of_parts rfl rfl
theorem atom (f : Form) : Statement (.atom f) := statement_of_parts rfl rfl
theorem red (f : Form) : Statement (.red f) := statement_of_parts rfl rfl
theorem fence (f : Form) : Statement (.fence f) := statement_of_parts rfl rfl
theorem pref (f : Form) : Statement (.pref f) := statement_of_parts rfl rfl
theorem laysub (f : Form) : Statement (.laysub f) := statement_of_parts rfl rfl
theorem layinfo (f : Form) : Statement (.layinfo f) := statement_of_parts rfl rfl
theorem copy (f : Form) : Statement (.copy f) := statement_of_parts rfl rfl
theorem copyLanding (copy : Nat) : Statement (.copyLanding copy) := rfl
theorem twait (f : Form) : Statement (.twait f) := statement_of_parts rfl rfl
theorem tfirst (f : Form) : Statement (.tfirst f) := statement_of_parts rfl rfl
theorem tmInit (f : Form) : Statement (.tmInit f) := statement_of_parts rfl rfl
theorem tmArrive (f : Form) : Statement (.tmArrive f) := statement_of_parts rfl rfl
theorem tmArrivew (f : Form) : Statement (.tmArrivew f) := statement_of_parts rfl rfl
theorem tmWait (f : Form) : Statement (.tmWait f) := statement_of_parts rfl rfl
theorem tmExpect (f : Form) : Statement (.tmExpect f) := statement_of_parts rfl rfl
theorem ownGive (f : Form) : Statement (.ownGive f) := statement_of_parts rfl rfl
theorem ownTake (f : Form) : Statement (.ownTake f) := statement_of_parts rfl rfl
theorem tcopy (f : Form) : Statement (.tcopy f) := statement_of_parts rfl rfl
theorem tcopyMc (f : Form) : Statement (.tcopyMc f) := statement_of_parts rfl rfl
theorem scatb (f : Form) : Statement (.scatb f) := statement_of_parts rfl rfl
theorem tileOperationCompletion (op : Nat) : Statement (.tileOperationCompletion op) := rfl
theorem wqAsk (f : Form) : Statement (.wqAsk f) := statement_of_parts rfl rfl
theorem wqAskAnswer (ask : Nat) : Statement (.wqAskAnswer ask) := rfl
theorem wqTake (f : Form) : Statement (.wqTake f) := statement_of_parts rfl rfl
theorem wqAdd (f : Form) : Statement (.wqAdd f) := statement_of_parts rfl rfl
theorem queueRefill (launch core : Nat) : Statement (.queueRefill launch core) := rfl
theorem tokenPass (launch : Nat) : Statement (.tokenPass launch) := rfl
theorem lnest (n : NestForm) : Statement (.lnest n) := splitParcels_length 16 _
theorem lnestCompletion (op : Nat) : Statement (.lnestCompletion op) := rfl
theorem mma (f : Form) : Statement (.mma f) := statement_of_parts rfl rfl
theorem quant (f : Form) : Statement (.quant f) := statement_of_parts rfl rfl
theorem had (f : Form) : Statement (.had f) := statement_of_parts rfl rfl
theorem accZero (f : Form) : Statement (.accZero f) := statement_of_parts rfl rfl
theorem accDrain (f : Form) : Statement (.accDrain f) := statement_of_parts rfl rfl
theorem accSave (f : Form) : Statement (.accSave f) := statement_of_parts rfl rfl
theorem accLoad (f : Form) : Statement (.accLoad f) := statement_of_parts rfl rfl
theorem matrixQueueEntryStart (core : Nat) : Statement (.matrixQueueEntryStart core) := rfl
theorem bandCommit (core : Nat) : Statement (.bandCommit core) := rfl
theorem chainOpen (f : Form) : Statement (.chainOpen f) := statement_of_parts rfl rfl
theorem chainJoin (f : Form) : Statement (.chainJoin f) := statement_of_parts rfl rfl
theorem joinRequestArrival (join : Arrival) : Statement (.joinRequestArrival join) := rfl
theorem chainSend (f : Form) : Statement (.chainSend f) := statement_of_parts rfl rfl
theorem contributionLanding (contribution : Arrival) : Statement (.contributionLanding contribution) := rfl
theorem chainWait (f : Form) : Statement (.chainWait f) := statement_of_parts rfl rfl
theorem integrationEntry (core slot : Nat) : Statement (.integrationEntry core slot) := rfl
theorem chainStatus (f : Form) : Statement (.chainStatus f) := statement_of_parts rfl rfl
theorem chainAbort (f : Form) : Statement (.chainAbort f) := statement_of_parts rfl rfl
theorem chainSuspension (name : BitVec 32) (notice : ChainNotice) : Statement (.chainSuspension name notice) := rfl
theorem batOpen (f : Form) : Statement (.batOpen f) := statement_of_parts rfl rfl
theorem batPush (f : Form) : Statement (.batPush f) := statement_of_parts rfl rfl
theorem batClose (f : Form) : Statement (.batClose f) := statement_of_parts rfl rfl
theorem batDone (f : Form) : Statement (.batDone f) := statement_of_parts rfl rfl
theorem batStat (f : Form) : Statement (.batStat f) := statement_of_parts rfl rfl
theorem batchFormation (core : Nat) : Statement (.batchFormation core) := rfl
theorem batchAdmission (core batch : Nat) : Statement (.batchAdmission core batch) := rfl
theorem bodyClaimRelease (core batch lane : Nat) : Statement (.bodyClaimRelease core batch lane) := rfl
theorem primEmit (f : Form) : Statement (.primEmit f) := statement_of_parts rfl rfl
theorem primitiveBinning (prim : Nat) : Statement (.primitiveBinning prim) := rfl
theorem passResolution (launch pass : Nat) : Statement (.passResolution launch pass) := rfl
theorem trace (f : Form) : Statement (.trace f) := statement_of_parts rfl rfl
theorem traversalCompletion (op lane : Nat) : Statement (.traversalCompletion op lane) := rfl
theorem retv (f : Form) : Statement (.retv f) := statement_of_parts rfl rfl
theorem tex (f : Form) : Statement (.tex f) := statement_of_parts rfl rfl
theorem texl (f : Form) : Statement (.texl f) := statement_of_parts rfl rfl
theorem texf (f : Form) : Statement (.texf f) := statement_of_parts rfl rfl
theorem trapi (f : Form) : Statement (.trapi f) := statement_of_parts rfl rfl
theorem tret (f : Form) : Statement (.tret f) := statement_of_parts rfl rfl
theorem preemptDone (f : Form) : Statement (.preemptDone f) := statement_of_parts rfl rfl
theorem sliceYield (f : Form) : Statement (.sliceYield f) := statement_of_parts rfl rfl
theorem launch (f : Form) : Statement (.launch f) := statement_of_parts rfl rfl
theorem hintSucc (f : Form) : Statement (.hintSucc f) := statement_of_parts rfl rfl
theorem waitp (f : Form) : Statement (.waitp f) := statement_of_parts rfl rfl
theorem budgetRead (f : Form) : Statement (.budgetRead f) := statement_of_parts rfl rfl
theorem partitionIssue (core part : Nat) : Statement (.partitionIssue core part) := rfl
theorem laneCompletion (op lane : Nat) : Statement (.laneCompletion op lane) := rfl
theorem asyncTrapDelivery (group : Nat) : Statement (.asyncTrapDelivery group) := rfl
theorem sliceBudgetExpiry (block : Nat) : Statement (.sliceBudgetExpiry block) := rfl
theorem blockAdmission (block core : Nat) : Statement (.blockAdmission block core) := rfl
theorem elementAdmission (elem : Nat) : Statement (.elementAdmission elem) := rfl
theorem elementFinish (elem : Nat) : Statement (.elementFinish elem) := rfl
theorem claimEndingArrival (ending : Nat) : Statement (.claimEndingArrival ending) := rfl
theorem powerWindow (w : PowerReport) : Statement (.powerWindow w) := rfl
theorem translationFaultOffer (fault : Nat) : Statement (.translationFaultOffer fault) := rfl
theorem blockSave (block : Nat) : Statement (.blockSave block) := rfl
theorem hardStop (block : Nat) : Statement (.hardStop block) := rfl
theorem blockRestore (block core : Nat) : Statement (.blockRestore block core) := rfl
theorem icacheFillAuth (code line : Nat) : Statement (.icacheFillAuth code line) := rfl
theorem peerAccessArrival (a : PeerAccess) : Statement (.peerAccessArrival a) := rfl
theorem hostMemAccess (a : HostAccess) : Statement (.hostMemAccess a) := rfl
theorem linkDown (peer : BitVec 3) (link : Bool) : Statement (.linkDown peer link) := rfl
theorem thermalEmergency (die : BitVec 2) (celsius : BitVec 8) : Statement (.thermalEmergency die celsius) := rfl
theorem thermalShutdown : Statement .thermalShutdown := rfl
theorem deviceReset : Statement .deviceReset := rfl
theorem doorbellWrite (queue : Nat) (bell : Doorbell) : Statement (.doorbellWrite queue bell) := rfl
theorem groupSet (queue : Nat) : Statement (.groupSet queue) := rfl
theorem tenantCreate (queue : Nat) : Statement (.tenantCreate queue) := rfl
theorem tenantDestroy (queue : Nat) : Statement (.tenantDestroy queue) := rfl
theorem budgetSet (queue : Nat) : Statement (.budgetSet queue) := rfl
theorem timeSet (queue : Nat) : Statement (.timeSet queue) := rfl
theorem fwUpdate (queue : Nat) : Statement (.fwUpdate queue) := rfl
theorem windowMap (queue : Nat) : Statement (.windowMap queue) := rfl
theorem windowUnmap (queue : Nat) : Statement (.windowUnmap queue) := rfl
theorem pageMap (queue : Nat) : Statement (.pageMap queue) := rfl
theorem faultDone (queue : Nat) : Statement (.faultDone queue) := rfl
theorem codeLoad (queue : Nat) : Statement (.codeLoad queue) := rfl
theorem codeUnload (queue : Nat) : Statement (.codeUnload queue) := rfl
theorem launchCommand (queue : Nat) : Statement (.launchCommand queue) := rfl
theorem preemptCommand (queue : Nat) : Statement (.preemptCommand queue) := rfl
theorem resume (queue : Nat) : Statement (.resume queue) := rfl
theorem query (queue : Nat) : Statement (.query queue) := rfl
theorem attest (queue : Nat) : Statement (.attest queue) := rfl
theorem itemArrival (item : Nat) : Statement (.itemArrival item) := rfl
theorem peerWindowConfirmation (tenant window : Nat) (exported : Bool) : Statement (.peerWindowConfirmation tenant window exported) := rfl
theorem fabricLineInvalidation (line : Nat) (sharer : BitVec 3) : Statement (.fabricLineInvalidation line sharer) := rfl
theorem uncorrectableErrorRecovery (blocks : List Nat) : Statement (.uncorrectableErrorRecovery blocks) := rfl

end EncodingLength

end Sys2Proof.Laws
end

