-- ==== Sys2Proof/Tests/Slice0.lean ====
section
/-!
SUPPORT. The model's own tests. First, ill-formed terms that each check of WellFormed refuses, and words of every family written out from R57 to R70;
then, for every statement and every instruction, a state and operands that meet its hypotheses (`witness_…`), with results taken from the rules
(`test_…`). The states are small: the group that `withFetchWord` places, with what the instruction needs.
-/
set_option Elab.async false

namespace Sys2Proof.Tests
open Sys2Proof Sys2Proof.Machine

/-! ### Small states -/

/-- A group of eight lanes of one block of a launch runs a clause with set-flags f0 and f1. -/
def base : State := State.reset.withFetchWord 0 0

/-- A form without L write, with set-flag A, unguarded. -/
def form (mod : BitVec 4) (dst : Dst) (a b c : Opnd) : Form := { mod, guard := Guard.always, dst, a, b, c, lw := none, fsel := false }
/-- The field that an instruction does not use. -/
def nil : Opnd := .field 0
/-- A layout or immediate field. -/
def fld (n : Nat) : Opnd := .field (BitVec.ofNat 10 n)

/-- The state with its launch's record changed. -/
def withRec (f : LaunchRec → LaunchRec) (s : State) : State := { s with launches := s.launches.map (fun la => { la with rcd := f la.rcd }) }
/-- The state with its groups changed. -/
def withGroup (f : Group → Group) (s : State) : State := { s with groups := s.groups.map f }
/-- The state with the V registers of every lane given, by lane. -/
def withV (f : Nat → List (Nat × BitVec 32)) (s : State) : State :=
  withGroup (fun g => { g with lanes := g.lanes.mapIdx (fun l ln => { ln with v := SMap.setAll ln.v (f l) }) }) s
/-- The state with the block changed. -/
def withBlock (f : Block → Block) (s : State) : State := { s with blocks := s.blocks.map f }

/-- A layout entry (R228): valid, A, W and R set; space, element code, extents, strides and base. -/
def lay (space code : Nat) (exts strides : List Nat) (at0 : Nat) : BitVec 512 :=
  BitVec.ofNat 512 (at0 + exts.zipIdx.foldl (fun x c => x + c.1 * 2 ^ (64 + 32 * c.2)) 0 +
    strides.zipIdx.foldl (fun x c => x + c.1 * 2 ^ (224 + 32 * c.2)) 0 + 2 ^ 200 * (15 * 2 ^ 190 + code * 2 ^ 194 + exts.length * 2 ^ 197 + space * 2 ^ 200))

/-- The state with sixteen granules of scratchpad and these root layouts. -/
def withRoots (ms : List (BitVec 512)) (s : State) : State := withRec (fun r => { r with scratch := 16, roots := ms }) s

/-! ### Meeting the hypotheses of a completion statement -/

/-- The instruction runs in the state, and `cond` holds. -/
def Meets (op : Op) (runs : Form → Env → List (Nat × Nat)) (cond : Form → State → Env → Prop) (f : Form) (s : State) : Prop :=
  ∃ e, Runs op f (runs f) s e ∧ cond f s e

/-- What `meets` evaluates. -/
def meetsB (op : Op) (runs : Env → List (Nat × Nat)) (cond : Env → Bool) (f : Form) (s : State) : Bool :=
  match s.env f.guard with
  | none => false
  | some e => decide (e.x ≠ 0) && (s.preCheck e op f (runs e)).isNone && cond e

/-- A state meets hypotheses where evaluating them says so. -/
theorem meets_of {op : Op} {runs : Form → Env → List (Nat × Nat)} {cond : Form → State → Env → Prop} {f : Form} {s : State} (p : Env → Bool)
    (hp : ∀ e, p e = true → cond f s e) (h : meetsB op (runs f) p f s = true) : Meets op runs cond f s := by
  unfold meetsB at h
  split at h
  · simp at h
  · rename_i e he
    simp only [Bool.and_eq_true, decide_eq_true_eq, Option.isNone_iff_eq_none] at h
    exact ⟨e, ⟨he, h.1.1, h.1.2⟩, hp e h.2⟩

/-- The same where the hypotheses are decidable. -/
theorem meets {op : Op} {runs : Form → Env → List (Nat × Nat)} {cond : Form → State → Env → Prop} {f : Form} {s : State} [dec : ∀ e, Decidable (cond f s e)]
    (h : meetsB op (runs f) (fun e => decide (cond f s e)) f s = true) : Meets op runs cond f s :=
  meets_of _ (fun _ => of_decide_eq_true) h

/-- Every instruction of a list runs in a state. -/
def runAll (fs : List (Op × Form)) (s : State) : Bool := fs.all (fun x => meetsB x.1 (fun _ => []) (fun _ => true) x.2 s)

/-- What `runAll` shows. -/
theorem runs_of_runAll {fs : List (Op × Form)} {s : State} (h : runAll fs s = true) {op : Op} {f : Form} (hm : (op, f) ∈ fs) : ∃ e, Runs op f (noRuns f) s e := by
  obtain ⟨e, he, -⟩ := meets_of (runs := noRuns) (cond := always) (fun _ => true) (fun _ _ => trivial) (List.all_eq_true.mp h _ hm)
  exact ⟨e, he⟩

/-! ### Results -/

/-- The state that an outcome is, or the given one. -/
def next (o : Out) (s : State) : State :=
  match o with
  | .next t => t
  | _ => s

/-- A lane that is not there. -/
def noLane : Lane :=
  { st := .missing, elem := 0, pc := 0, v := [], o := [], l := [], lValid := 0, lHidden := 0, p := 0, seed := 0, clockHi := 0, wait := 0, info := 0, retPc := 0
    restoring := false, late := [], lKept := [] }

/-- Lane `l` of the first group of a state after an instruction. -/
def laneAfter (i : Instr) (s : State) (l : Nat) : Lane :=
  let t := next (exec i s) s
  ((t.groups.head?).bind (·.lane? l)).getD noLane

/-- The words of v4 and v5 that lane 0 holds after an instruction, from v0, v1, v8, v9 and v16, v17. -/
def gives (i : Instr) (a b c : DWord) : List Word :=
  let ln := laneAfter i (withV (fun _ => [(0, loWord a), (1, hiWord a), (8, loWord b), (9, hiWord b), (16, loWord c), (17, hiWord c)]) base) 0
  [ln.v.get 4, ln.v.get 5]
/-- The predicate p1 that lane 0 holds after an instruction. -/
def givesP (i : Instr) (a b c : DWord) : Bool :=
  (laneAfter i (withV (fun _ => [(0, loWord a), (1, hiWord a), (8, loWord b), (9, hiWord b), (16, loWord c), (17, hiWord c)]) base) 0).pred 1
/-- What the long-latency instruction that has just issued is to write on lane 0. -/
def issued (i : Instr) (a b : DWord) : List (RegRef × Word) :=
  let s := withV (fun _ => [(0, loWord a), (1, hiWord a), (8, loWord b), (9, hiWord b)]) base
  ((((next (exec i s) s).ops.head?).bind (fun o => o.lanes.head?)).map (·.writes)).getD []

/-! ### Ill-formed terms: one for each check -/

/-- An instruction of two sources with every operand as its entry wants it. -/
def two : Form := form 0 (.v 4) (.v 0) (.v 8) nil

theorem test_wf_two : Instr.wf (.iadd two) = true := by decide
/-- R81: variant 2 is not accepted by IADD. -/
theorem test_wf_modifier : Instr.wf (.iadd { two with mod := 2 }) = false := by decide
/-- R199: SER.OPEN takes only the unguarded form. -/
theorem test_wf_guard : Instr.wf (.serOpen { form 0 (.field 0) nil nil nil with guard := { idx := 1, neg := false } }) = false := by decide
/-- R79: a g register is no destination of IADD. -/
theorem test_wf_destination : Instr.wf (.iadd { two with dst := .g 4 }) = false := by decide
/-- R79: a pair has an even index. -/
theorem test_wf_pair : Instr.wf (.iadd64 { two with dst := .v 5 }) = false := by decide
/-- R17: special register 40 is reserved. -/
theorem test_wf_source_a : Instr.wf (.iadd { two with a := .sr 40 }) = false := by decide
/-- R62: a literal stands at source b only. -/
theorem test_wf_literal : Instr.wf (.iadd { two with a := .lit 1 }) = false := by decide
/-- R61: an unused source field is zero. -/
theorem test_wf_source_b : Instr.wf (.iabs { two with b := .field 1 }) = false := by decide
theorem test_wf_source_c : Instr.wf (.iadd { two with c := .field 1 }) = false := by decide
/-- R80: IDIV has no L write. -/
theorem test_wf_write_l : Instr.wf (.idiv { two with lw := some 0 }) = false := by decide
/-- R61: bit [2] is for long-latency instructions. -/
theorem test_wf_flag_select : Instr.wf (.iadd { two with fsel := true }) = false := by decide
/-- R265: an acquire order on ST is not accepted. -/
theorem test_wf_order : Instr.wf (.st (form 0 (.field 0x100) (.v 0) (.v 8) nil)) = false := by decide
/-- R117: CVT of an integer type is not accepted. -/
theorem test_wf_type : Instr.wf (.cvt (form 0 (.v 4) (.v 0) nil (.field 0x2C0))) = false := by decide

/-- A nest operand of layout 1. -/
def nestOpnd : NestOpnd := { layout := 1, base := 0, s0 := 0, s1 := 0, s2 := 0, s3 := 0, s4 := 0 }
/-- The operand that is not there. -/
def noOpnd : NestOpnd := { nestOpnd with layout := 0 }
/-- A copy of INT32 elements, one at each level. -/
def nest : NestForm :=
  { op := 0, dtype := 11, rnd := 0, red := 0, ext0 := 0, ext1 := 0, ext2 := 0, ext3 := 0, ext4 := 0
    x0 := nestOpnd, x1 := nestOpnd, x2 := noOpnd, fsel := false }

theorem test_wf_nest : Instr.wf (.lnest nest) = true := by decide
/-- R299: operation codes 0 to 8. -/
theorem test_wf_nest_op : Instr.wf (.lnest { nest with op := 9 }) = false := by decide
/-- R299: data type 12 is not accepted. -/
theorem test_wf_nest_type : Instr.wf (.lnest { nest with dtype := 12 }) = false := by decide
/-- R299: bitwise operations are of integer types. -/
theorem test_wf_nest_bits : Instr.wf (.lnest { nest with op := 6, dtype := 9, x2 := nestOpnd }) = false := by decide
/-- R299: an integer nest has rounding code 0. -/
theorem test_wf_nest_round : Instr.wf (.lnest { nest with rnd := 1 }) = false := by decide
/-- R300: a copy does not reduce. -/
theorem test_wf_nest_reduce : Instr.wf (.lnest { nest with red := 1 }) = false := by decide
/-- R299: a unary nest has no third operand. -/
theorem test_wf_nest_third : Instr.wf (.lnest { nest with x2 := nestOpnd }) = false := by decide
/-- R300: the destination's stride is 0 at a reduced level. -/
theorem test_wf_nest_stride : Instr.wf (.lnest { nest with op := 1, red := 1, x0 := { nestOpnd with s0 := 1 } }) = false := by decide

/-! ### Words written out from R60, field by field: format, opcode, modifier, guard negation and predicate, destination, a, b, c, L index, write L,
flag select, literal, bit 0 -/

/-- What a word without a literal decodes to. -/
def reads (w : BitVec 64) : Option Instr := decodeTableWord 64 ((wordParcels w).zipIdx.foldl (fun x p => x + p.1.toNat * 65536 ^ p.2) 0)

/-- IADD v4, v0, v8. -/
theorem test_word_iadd : reads (0b10#2 ++ 0x00#8 ++ 0#4 ++ 0#1 ++ 7#3 ++ 4#10 ++ 0#10 ++ 8#10 ++ 0#10 ++ 0#2 ++ 0#1 ++ 0#1 ++ 0#1 ++ 0#1) = some (.iadd two) := by decide
/-- @!p2 FMUL.RZ v4, g1, o3, also to l1. -/
theorem test_word_fmul : reads (0b10#2 ++ 0x42#8 ++ 1#4 ++ 1#1 ++ 2#3 ++ 4#10 ++ (0b01#2 ++ 1#8) ++ (0b10000000#8 ++ 3#2) ++ 0#10 ++ 1#2 ++ 1#1 ++ 0#1 ++ 0#1 ++ 0#1)
    = some (.fmul { form 1 (.v 4) (.g 1) (.o 3) nil with guard := { idx := 2, neg := true }, lw := some 1 }) := by decide
/-- SEAM.JOIN seam 3. -/
theorem test_word_seamJoin : reads (0b10#2 ++ 0x74#8 ++ 3#4 ++ 0#1 ++ 7#3 ++ 0#10 ++ 0#10 ++ 0#10 ++ 0#10 ++ 0#2 ++ 0#1 ++ 0#1 ++ 0#1 ++ 0#1)
    = some (.seamJoin (form 3 (.field 0) nil nil nil)) := by decide
/-- SPAWN p1, v0, return run v16, set-flag B. -/
theorem test_word_spawn : reads (0b10#2 ++ 0x81#8 ++ 0#4 ++ 0#1 ++ 7#3 ++ (0b11#2 ++ 0#5 ++ 1#3) ++ 0#10 ++ 0#10 ++ 16#10 ++ 0#2 ++ 0#1 ++ 1#1 ++ 0#1 ++ 0#1)
    = some (.spawn { form 0 (.p 1) (.v 0) nil (.v 16) with fsel := true }) := by decide
/-- HLERP.FLAT v4, h5. -/
theorem test_word_hlerp : reads (0b10#2 ++ 0x83#8 ++ 0#4 ++ 0#1 ++ 7#3 ++ 4#10 ++ (0b10#2 ++ 0b10#2 ++ 5#6) ++ 0#10 ++ 0#10 ++ 0#2 ++ 0#1 ++ 0#1 ++ 0#1 ++ 0#1)
    = some (.hlerp (form 0 (.v 4) (.h 5) nil nil)) := by decide
/-- ST of a word, release at scope 2, from v8 to layout 5 at v0: the order field stands in the destination. -/
theorem test_word_st : reads (0b10#2 ++ 0x91#8 ++ 2#4 ++ 0#1 ++ 7#3 ++ (2#2 ++ 2#3 ++ 0#5) ++ 0#10 ++ 8#10 ++ (0#2 ++ 5#8) ++ 0#2 ++ 0#1 ++ 0#1 ++ 0#1 ++ 0#1)
    = some (.st (form 2 (.field 0x240) (.v 0) (.v 8) (.field 5))) := by decide
/-- TM.EXPECT of tidemark field 0x14 with v0. -/
theorem test_word_tmExpect : reads (0b10#2 ++ 0xA7#8 ++ 0#4 ++ 0#1 ++ 7#3 ++ 0#10 ++ 0#10 ++ 0#10 ++ 0x14#10 ++ 0#2 ++ 0#1 ++ 0#1 ++ 0#1 ++ 0#1)
    = some (.tmExpect (form 0 (.field 0) (.v 0) nil (.field 0x14))) := by decide
/-- TCOPY.Z to layout 1 from layout 2 with coordinates from v0 and report immediate 3. -/
theorem test_word_tcopy : reads (0b10#2 ++ 0xAA#8 ++ 1#4 ++ 0#1 ++ 7#3 ++ (0#2 ++ 1#8) ++ 0#10 ++ (0b11#2 ++ 3#8) ++ (0#2 ++ 2#8) ++ 0#2 ++ 0#1 ++ 0#1 ++ 0#1 ++ 0#1)
    = some (.tcopy (form 1 (.field 1) (.v 0) (.imm 3) (.field 2))) := by decide
/-- WQ.TAKE v4 with p3 for an item. -/
theorem test_word_wqTake : reads (0b10#2 ++ 0xAE#8 ++ 0#4 ++ 0#1 ++ 7#3 ++ 4#10 ++ 0#10 ++ 0#10 ++ (0b11#2 ++ 0#5 ++ 3#3) ++ 0#2 ++ 0#1 ++ 0#1 ++ 0#1 ++ 0#1)
    = some (.wqTake (form 0 (.v 4) nil nil (.field 0x303))) := by decide
/-- CHAIN.JOIN p1, g2, v8. -/
theorem test_word_chainJoin : reads (0b10#2 ++ 0xC1#8 ++ 0#4 ++ 0#1 ++ 7#3 ++ (0b11#2 ++ 0#5 ++ 1#3) ++ (0b01#2 ++ 2#8) ++ 8#10 ++ 0#10 ++ 0#2 ++ 0#1 ++ 0#1 ++ 0#1 ++ 0#1)
    = some (.chainJoin (form 0 (.p 1) (.g 2) (.v 8) nil)) := by decide
/-- BAT.STAT v4, also to l3. -/
theorem test_word_batStat : reads (0b10#2 ++ 0xCC#8 ++ 0#4 ++ 0#1 ++ 7#3 ++ 4#10 ++ 0#10 ++ 0#10 ++ 0#10 ++ 3#2 ++ 1#1 ++ 0#1 ++ 0#1 ++ 0#1)
    = some (.batStat { form 0 (.v 4) nil nil nil with lw := some 3 }) := by decide
/-- TRACE.FIRST p1, inputs v0, payload v12, layout 9. -/
theorem test_word_trace : reads (0b10#2 ++ 0xD1#8 ++ 1#4 ++ 0#1 ++ 7#3 ++ (0b11#2 ++ 0#5 ++ 1#3) ++ 0#10 ++ 12#10 ++ (0#2 ++ 9#8) ++ 0#2 ++ 0#1 ++ 0#1 ++ 0#1 ++ 0#1)
    = some (.trace (form 1 (.p 1) (.v 0) (.v 12) (.field 9))) := by decide
/-- TEX v4, v0, v8, layout 6. -/
theorem test_word_tex : reads (0b10#2 ++ 0xD3#8 ++ 0#4 ++ 0#1 ++ 7#3 ++ 4#10 ++ 0#10 ++ 8#10 ++ (0#2 ++ 6#8) ++ 0#2 ++ 0#1 ++ 0#1 ++ 0#1 ++ 0#1)
    = some (.tex (form 0 (.v 4) (.v 0) (.v 8) (.field 6))) := by decide
/-- LAUNCH v4, v0, v8, layout 2. -/
theorem test_word_launch : reads (0b10#2 ++ 0xE4#8 ++ 0#4 ++ 0#1 ++ 7#3 ++ 4#10 ++ 0#10 ++ 8#10 ++ (0#2 ++ 2#8) ++ 0#2 ++ 0#1 ++ 0#1 ++ 0#1 ++ 0#1)
    = some (.launch (form 0 (.v 4) (.v 0) (.v 8) (.field 2))) := by decide
/-- The loop-nest word (R70): 110, operation, type, rounding, reduce mask, extents of levels 4 to 0, layouts and bases of X2, X1, X0, their strides from
level 4 down, flag select, four zeros. -/
theorem test_word_lnest : decodeParcels [] (splitParcels 16 ((0b110#3 ++ 0#8 ++ 11#4 ++ 0#3 ++ 0#5 ++ 0#12 ++ 0#12 ++ 0#12 ++ 0#12 ++ 0#12 ++ 0#8 ++ 1#8 ++ 1#8 ++
    0#8 ++ 0#8 ++ 0#8 ++ 0#40 ++ 0#40 ++ 0#40 ++ 0#1 ++ 0#4 : BitVec 256)).toNat) = .ok (.lnest nest, 16) := by decide
/-- R68: a dictionary parcel is its entry, with the entry's source c patched where bit [0] is set: IADD v4, v0, immediate 5. -/
theorem test_dictionary : decodeParcels [0b10#2 ++ 0x00#8 ++ 8#4 ++ 0#1 ++ 7#3 ++ 4#10 ++ 0#10 ++ 0#10 ++ 0#10 ++ 0#5 ++ 1#1] [0#1 ++ 5#5 ++ 0#10] =
    .ok (.iadd (form 8 (.v 4) (.v 0) nil (.field 5)), 1) := by decide
/-- R75: opcode 0x0E is unassigned. -/
theorem test_unassigned : reads (0b10#2 ++ 0x0E#8 ++ 0#4 ++ 0#1 ++ 7#3 ++ 0#10 ++ 0#10 ++ 0#10 ++ 0#10 ++ 0#6) = none := by decide
/-- R75: a reserved source specifier is refused. -/
theorem test_reserved_source : reads (0b10#2 ++ 0x00#8 ++ 0#4 ++ 0#1 ++ 7#3 ++ 4#10 ++ (0b10#2 ++ 0b00#2 ++ 4#6) ++ 8#10 ++ 0#10 ++ 0#6) = none := by decide

/-! ### Arithmetic: every instruction of fixedRows and slowRows runs in `base` -/

def one : Form := form 0 (.v 4) (.v 0) nil nil
def three : Form := form 0 (.v 4) (.v 0) (.v 8) (.v 16)
/-- A comparison into p1, combined with p7. -/
def cmp (m : BitVec 4) : Form := form m (.p 1) (.v 0) (.v 8) (.pred 7)

def arith1 : List (Op × Form) := [.iabs, .popc, .clz, .brev, .findlsb, .mov, .frnd, .cabs2].map (fun op => (op, one))
def arith2 : List (Op × Form) := [.iadd, .isub, .iadd64, .isub64, .imul, .imulh, .imin, .imax, .shl, .shr, .sar, .bfe, .fadd, .fsub, .fmul, .fmin, .fmax, .fscale, .f2sum, .f2prd, .hadd2, .hmul2, .cadd, .cmul, .ccmul].map (fun op => (op, two))
def arith3 : List (Op × Form) := [.imad, .imad64, .imadw, .shf, .bfi, .ffma, .hfma2, .fdot2, .idot4, .cfma].map (fun op => (op, three))
def arith4 : List (Op × Form) :=
  [(.lut3, form 0 (.v 4) (.v 0) (.v 8) (fld 16)), (.plut3, form 0 (.p 1) (.pred 0) (.pred 2) (fld 3)), (.icmp, cmp 0), (.fcmp, cmp 0),
   (.isel, form 0 (.v 4) (.v 0) (.v 8) (.pred 7)), (.movi, form 8 (.v 4) nil nil (fld 5)), (.movl, form 0 (.v 4) nil (.lit 7) nil),
   (.movs, form 0 (.v 4) (.sr 1) nil nil), (.fclass, form 1 (.v 4) (.v 0) nil nil), (.cvt, form 0 (.v 4) (.v 0) nil (fld 0x064)),
   (.cvti, form 0 (.v 4) (.v 0) nil (fld 0x2E4)), (.packn, form 0 (.v 4) (.v 0) (.imm 127) (fld 0x1C0)), (.unpackn, form 0 (.v 4) (.v 0) (.imm 127) (fld 0x1C0)),
   (.layinfo, form 1 (.v 4) nil nil nil), (.budgetRead, form 0 (.v 4) nil nil nil)]
def slow : List (Op × Form) := [.frcp, .frsq, .fsqrt, .fex2, .flg2, .fsin, .fcos, .cexpi].map (fun op => (op, one)) ++ [.idiv, .irem, .fdiv].map (fun op => (op, two))

theorem witness_fixed_unary : runAll arith1 base = true := by decide +kernel
theorem witness_fixed_binary : runAll arith2 base = true := by decide +kernel
theorem witness_fixed_ternary : runAll arith3 base = true := by decide +kernel
theorem witness_fixed_others : runAll arith4 base = true := by decide +kernel
theorem witness_slow : runAll slow base = true := by decide +kernel

/-- For every row of the arithmetic statements, a state and operands on which its instruction runs. -/
theorem witness_arithmetic : ∀ r ∈ fixedRows ++ slowRows, ∃ f s e, Runs r.op f (noRuns f) s e := by
  intro r hr
  have hc : (fixedRows ++ slowRows).all (fun r => (arith1 ++ arith2 ++ arith3 ++ arith4 ++ slow).any (fun x => decide (x.1 = r.op))) = true := by decide
  have ha : runAll (arith1 ++ arith2 ++ arith3 ++ arith4 ++ slow) base = true := by
    have h1 := witness_fixed_unary
    have h2 := witness_fixed_binary
    have h3 := witness_fixed_ternary
    have h4 := witness_fixed_others
    have h5 := witness_slow
    simp only [runAll, List.all_append, Bool.and_eq_true] at *
    exact ⟨⟨⟨⟨h1, h2⟩, h3⟩, h4⟩, h5⟩
  obtain ⟨x, hx, he⟩ := List.any_eq_true.mp (List.all_eq_true.mp hc r hr)
  have he : x.1 = r.op := of_decide_eq_true he
  obtain ⟨e, h⟩ := runs_of_runAll ha (op := x.1) (f := x.2) hx
  exact ⟨x.2, base, e, he ▸ h⟩

/-- P7ReadsTrueAndDropsWrites: ICMP into p7. -/
theorem witness_p7 : Meets .icmp noRuns (fun f _ _ => f.dst = .p 7 ∧ f.lw = none) { cmp 0 with dst := .p 7 } base := meets (by decide +kernel)
theorem test_p7_icmp : (laneAfter (.icmp { cmp 0 with dst := .p 7 }) base 0).p = 0 := by decide +kernel

/-! Results, from the rules -/
/-- R82: the sum wraps. -/
theorem test_iadd : gives (.iadd two) 0xFFFFFFFF 2 0 = [1, 0] := by decide +kernel

/-- R34: .SAT, signed. -/
theorem test_iadd_sat : gives (.iadd { two with mod := 1 }) 0x7FFFFFFF 1 0 = [0x7FFFFFFF, 0] := by decide +kernel

/-- R82 -/
theorem test_isub : gives (.isub two) 0 1 0 = [0xFFFFFFFF, 0] := by decide +kernel

/-- R34: .U.SAT. -/
theorem test_isub_sat : gives (.isub { two with mod := 5 }) 0 1 0 = [0, 0] := by decide +kernel

/-- R82: the carry enters the high word. -/
theorem test_iadd64 : gives (.iadd64 two) 0xFFFFFFFF 1 0 = [0, 1] := by decide +kernel

/-- R82 -/
theorem test_isub64 : gives (.isub64 two) 0x100000000 1 0 = [0xFFFFFFFF, 0] := by decide +kernel

/-- R82: the low 32 bits. -/
theorem test_imul : gives (.imul two) 0x10001 0x10001 0 = [0x00020001, 0] := by decide +kernel

/-- R82: −1 × 2, the high half. -/
theorem test_imulh : gives (.imulh two) 0xFFFFFFFF 2 0 = [0xFFFFFFFF, 0] := by decide +kernel

/-- R82: .U. -/
theorem test_imulh_u : gives (.imulh { two with mod := 4 }) 0xFFFFFFFF 2 0 = [1, 0] := by decide +kernel

/-- R82 -/
theorem test_imad : gives (.imad three) 3 5 7 = [22, 0] := by decide +kernel

/-- R82: −2 + 1 as a pair. -/
theorem test_imadw : gives (.imadw three) 0xFFFFFFFF 2 1 = [0xFFFFFFFF, 0xFFFFFFFF] := by decide +kernel

/-- R82 -/
theorem test_imad64 : gives (.imad64 three) 0x100000000 3 0x500000001 = [1, 8] := by decide +kernel

/-- R82: −1 is the less. -/
theorem test_imin : gives (.imin two) 0xFFFFFFFF 1 0 = [0xFFFFFFFF, 0] := by decide +kernel

/-- R82: .U. -/
theorem test_imax : gives (.imax { two with mod := 4 }) 0xFFFFFFFF 1 0 = [0xFFFFFFFF, 0] := by decide +kernel

/-- R82 -/
theorem test_iabs : gives (.iabs one) 0xFFFFFFFB 0 0 = [5, 0] := by decide +kernel

/-- R82: .SAT. -/
theorem test_iabs_sat : gives (.iabs { one with mod := 1 }) 0x80000000 0 0 = [0x7FFFFFFF, 0] := by decide +kernel

/-- R85 -/
theorem test_lut3 : gives (.lut3 (form 0x8 (.v 4) (.v 0) (.v 8) (fld 0x010))) 0b1100 0b1010 0 = [0, 0] := by decide +kernel

/-- R86: a count beyond 31 clamps. -/
theorem test_shl : gives (.shl two) 1 33 0 = [0, 0] := by decide +kernel

/-- R86: .WRAP takes the count modulo 32. -/
theorem test_shl_wrap : gives (.shl { two with mod := 1 }) 1 33 0 = [2, 0] := by decide +kernel

/-- R86 -/
theorem test_shr : gives (.shr two) 0x80000000 31 0 = [1, 0] := by decide +kernel

/-- R86 -/
theorem test_sar : gives (.sar two) 0x80000000 31 0 = [0xFFFFFFFF, 0] := by decide +kernel

/-- R89 -/
theorem test_popc : gives (.popc one) 0xF0F0 0 0 = [8, 0] := by decide +kernel

/-- R89: no bit is set. -/
theorem test_clz : gives (.clz one) 0 0 0 = [32, 0] := by decide +kernel

/-- R89 -/
theorem test_brev : gives (.brev one) 1 0 0 = [0x80000000, 0] := by decide +kernel

/-- R89: no bit is set. -/
theorem test_findlsb : gives (.findlsb one) 0 0 0 = [0xFFFFFFFF, 0] := by decide +kernel

/-- R89 -/
theorem test_findlsb_four : gives (.findlsb one) 0x50 0 0 = [4, 0] := by decide +kernel

/-- R90: −1 < 1, signed. -/
theorem test_icmp : givesP (.icmp (cmp 4)) 0xFFFFFFFF 1 0 = true := by decide +kernel

/-- R90: not unsigned. -/
theorem test_icmp_u : givesP (.icmp (cmp 5)) 0xFFFFFFFF 1 0 = false := by decide +kernel

/-- R91: p0 is false. -/
theorem test_isel : gives (.isel (form 0 (.v 4) (.v 0) (.v 8) (.pred 0))) 1 2 0 = [2, 0] := by decide +kernel

/-- R92 -/
theorem test_mov : gives (.mov one) 0x1234 0 0 = [0x1234, 0] := by decide +kernel

/-- R92: the signed immediate. -/
theorem test_movi : gives (.movi (form 8 (.v 4) nil nil (fld 0x3FF))) 0 0 0 = [0xFFFFFFFF, 0] := by decide +kernel

/-- R92: unsigned. -/
theorem test_movi_u : gives (.movi (form 12 (.v 4) nil nil (fld 0x3FF))) 0 0 0 = [0x3FF, 0] := by decide +kernel

/-- R92 -/
theorem test_movl : gives (.movl (form 0 (.v 4) nil (.lit 0xDEADBEEF) nil)) 0 0 0 = [0xDEADBEEF, 0] := by decide +kernel

/-- R17: %width. -/
theorem test_movs : gives (.movs (form 0 (.v 4) (.sr 1) nil nil)) 0 0 0 = [8, 0] := by decide +kernel

/-- 1 + 2 = 3 -/
theorem test_fadd : gives (.fadd two) 0x3F800000 0x40000000 0 = [0x40400000, 0] := by decide +kernel

/-- R36, R104: ∞ − ∞ is the canonical NaN. -/
theorem test_fadd_nan : gives (.fadd two) 0x7F800000 0xFF800000 0 = [0x7FC00000, 0] := by decide +kernel

/-- 1 − 1 = +0 -/
theorem test_fsub : gives (.fsub two) 0x3F800000 0x3F800000 0 = [0, 0] := by decide +kernel

/-- 3 × −1 -/
theorem test_fmul : gives (.fmul two) 0x40400000 0xBF800000 0 = [0xC0400000, 0] := by decide +kernel

/-- 2 × 3 + 1 = 7 -/
theorem test_ffma : gives (.ffma three) 0x40000000 0x40400000 0x3F800000 = [0x40E00000, 0] := by decide +kernel

/-- R106: the other operand of a NaN. -/
theorem test_fmin : gives (.fmin two) 0x7FC00000 0x3F800000 0 = [0x3F800000, 0] := by decide +kernel

/-- R106: +0 is the greater zero. -/
theorem test_fmax : gives (.fmax two) 0x80000000 0 0 = [0, 0] := by decide +kernel

/-- R108: 1 < 2. -/
theorem test_fcmp : givesP (.fcmp (cmp 4)) 0x3F800000 0x40000000 0 = true := by decide +kernel

/-- 2.5 to the nearest even: 2 -/
theorem test_frnd : gives (.frnd one) 0x40200000 0 0 = [0x40000000, 0] := by decide +kernel

/-- R48, R107: 2.5 upwards: 3 -/
theorem test_frnd_up : gives (.frnd { one with mod := 2 }) 0x40200000 0 0 = [0x40400000, 0] := by decide +kernel

/-- 1 × 2^3 -/
theorem test_fscale : gives (.fscale two) 0x3F800000 3 0 = [0x41000000, 0] := by decide +kernel

/-- 2^24 + 1: the sum and its error. -/
theorem test_f2sum : gives (.f2sum two) 0x4B800000 0x3F800000 0 = [0x4B800000, 0x3F800000] := by decide +kernel

/-- (1 + 2^−23)²: the product and its error 2^−46. -/
theorem test_f2prd : gives (.f2prd two) 0x3F800001 0x3F800001 0 = [0x3F800002, 0x28800000] := by decide +kernel

/-- FP16: 1 + 1 and 1 + 2. -/
theorem test_hadd2 : gives (.hadd2 two) 0x3C003C00 0x3C004000 0 = [0x40004200, 0] := by decide +kernel

/-- FP16: 2 × 2 and 1 × 2. -/
theorem test_hmul2 : gives (.hmul2 two) 0x40003C00 0x40004000 0 = [0x44004000, 0] := by decide +kernel

/-- FP16: 1 × 2 + 1 and 1 × 2 + 0. -/
theorem test_hfma2 : gives (.hfma2 three) 0x3C003C00 0x40004000 0x3C000000 = [0x42004000, 0] := by decide +kernel

/-- R116: 1 + 2 + 3 + 4 + 10. -/
theorem test_idot4 : gives (.idot4 three) 0x01020304 0x01010101 10 = [20, 0] := by decide +kernel

/-- (1 + 2i) + (1 + i) -/
theorem test_cadd : gives (.cadd two) 0x400000003F800000 0x3F8000003F800000 0 = [0x40000000, 0x40400000] := by decide +kernel

/-- i × i = −1 -/
theorem test_cmul : gives (.cmul two) 0x3F80000000000000 0x3F80000000000000 0 = [0xBF800000, 0] := by decide +kernel

/-- R125: the conjugate: −i × i = 1. -/
theorem test_ccmul : gives (.ccmul two) 0x3F80000000000000 0x3F80000000000000 0 = [0x3F800000, 0] := by decide +kernel

/-- |3 + 4i|² = 25 -/
theorem test_cabs2 : gives (.cabs2 one) 0x4080000040400000 0 0 = [0x41C80000, 0] := by decide +kernel

/-- R119: FP32 2.5 to INT32, to the nearest even. -/
theorem test_cvti : gives (.cvti (form 0 (.v 4) (.v 0) nil (fld 0x2E4))) 0x40200000 0 0 = [2, 0] := by decide +kernel

/-- R83: −7 / 2 truncates to −3. -/
theorem test_idiv : issued (.idiv two) 0xFFFFFFF9 2 = [(.v 4, 0xFFFFFFFD)] := by decide +kernel

/-- R83: −7 mod 2 has the sign of the dividend. -/
theorem test_irem : issued (.irem two) 0xFFFFFFF9 2 = [(.v 4, 0xFFFFFFFF)] := by decide +kernel

/-- 1 / 2 -/
theorem test_fdiv : issued (.fdiv two) 0x3F800000 0x40000000 = [(.v 4, 0x3F000000)] := by decide +kernel

/-- 1 / 4 -/
theorem test_frcp : issued (.frcp one) 0x40800000 0 = [(.v 4, 0x3E800000)] := by decide +kernel

/-- The root of 4. -/
theorem test_fsqrt : issued (.fsqrt one) 0x40800000 0 = [(.v 4, 0x40000000)] := by decide +kernel

/-- 1 / the root of 4. -/
theorem test_frsq : issued (.frsq one) 0x40800000 0 = [(.v 4, 0x3F000000)] := by decide +kernel

/-- R110: 2^3 is exact. -/
theorem test_fex2 : issued (.fex2 one) 0x40400000 0 = [(.v 4, 0x41000000)] := by decide +kernel

/-- R110: the logarithm of 8. -/
theorem test_flg2 : issued (.flg2 one) 0x41000000 0 = [(.v 4, 0x40400000)] := by decide +kernel

/-! ### Control -/

/-- A resident code object of one line. -/
def code0 : Code :=
  { handle := 0, tenant := 0, objectId := 0, lines := 1, codeLines := 1, banks := [], va := 2 ^ 47, place := 0, codeLine := 0, tags := [], digest := [] }
/-- The launch's code is resident and mapped, with headers of level 0 at bytes 0 and 64 (R20: the first parcel is 0xE000). -/
def coded : State := ({ base with codes := [code0], mem := [(1, 0xE0), (65, 0xE0)] } : State).mapCode code0

/-- What `targetsGood` says, evaluated. -/
def targetsB (s : State) (target : Nat → Lane → Int) (e : Env) : Bool :=
  match s.codeOf e with
  | none => false
  | some c => e.lanes.all (fun x => decide (0 ≤ target x.1 x.2 ∧ s.targetAt c (target x.1 x.2).toNat = .header e.g.level))

theorem targets_of {s : State} {e : Env} {target : Nat → Lane → Int} (h : targetsB s target e = true) : targetsGood s e target := by
  unfold targetsB at h
  split at h
  · simp at h
  · rename_i c hc
    exact ⟨c, hc, fun x hx => of_decide_eq_true (List.all_eq_true.mp h x hx)⟩

theorem witness_bra : Meets .bra noRuns (fun f s e => targetsGood s e (fun _ _ => nearFar e f)) (form 0 (.field 0) nil nil (fld 8)) coded :=
  meets_of _ (fun e h => targets_of (e := e) h) (by decide +kernel)
theorem witness_brai : Meets .brai noRuns (fun f s e => targetsGood s e (aTarget s e f)) (form 0 (.field 0) (.v 0) nil nil)
    (withV (fun l => [(0, if l < 4 then 0 else 64)]) coded) :=
  meets_of _ (fun e h => targets_of (e := e) h) (by decide +kernel)
theorem witness_ret : Meets .ret noRuns (fun f s e => targetsGood s e (aTarget s e f)) (form 0 (.field 0) (.imm 64) nil nil) coded :=
  meets_of _ (fun e h => targets_of (e := e) h) (by decide +kernel)
theorem witness_call : Meets .call noRuns (fun f s e => targetsGood s e (fun _ _ => nearFar e f)) (form 1 (.v 4) nil (.lit 8) nil) coded :=
  meets_of _ (fun e h => targets_of (e := e) h) (by decide +kernel)
theorem witness_calli : Meets .calli noRuns (fun f s e => targetsGood s e (aTarget s e f)) (form 0 (.v 4) (.v 0) nil nil) coded :=
  meets_of _ (fun e h => targets_of (e := e) h) (by decide +kernel)
theorem witness_nop : Meets .nop noRuns always (form 0 (.field 0) nil nil nil) base := meets_of (fun _ => true) (fun _ _ => trivial) (by decide +kernel)
theorem witness_yield : Meets .yield noRuns always (form 0 (.field 0) nil nil nil) base := meets_of (fun _ => true) (fun _ _ => trivial) (by decide +kernel)

/-- R97: the link is the fall-through header, 40 here. -/
theorem test_call_link : (laneAfter (.call (form 0 (.v 4) nil nil (fld 8))) coded 0).v.get 4 = 40 := by decide +kernel
/-- R95, R94: every lane is to go to byte 64 = 8 × 8. -/
theorem test_bra_target : ((next (exec (.bra (form 0 (.field 0) nil nil (fld 8))) coded) coded).groups.head?.bind (·.run)).map (·.targets) =
    some ((List.range 8).map (fun l => (l, 64))) := by decide +kernel
/-- R94: byte 8 holds no header: ILLEGAL_FORM, and with no handler the launch ends (R419). -/
theorem test_bra_illegal : (next (exec (.bra (form 0 (.field 0) nil nil (fld 1))) coded) coded).completions.map (·.status) = [2] := by decide +kernel

/-- R17: what MOVS of these special registers reads on lane 3 of a group 2 on core 31, partition 5, of a CORE-domain level: element 3 of level 0, nothing at level 1. -/
def placed : State := withGroup (fun g => { g with core := 31, part := 5, num := 2, flags := [(3, 1)] })
  (withRec (fun r => { r with levels := r.levels.map (fun v => { v with domain := 3 }), tagBase := 1, tagCount := 2 }) { base with dict := [(4 * 31 + 1, 1)] })
theorem witness_specials : ∃ g ln la b el, placed.groups.head? = some g ∧ g.lane? 3 = some ln ∧ placed.launch? g.launch = some la ∧ placed.block? g.block = some b ∧
    placed.elem? ln.elem = some el ∧ g.handler = none ∧ (placed.dict.get (4 * g.core + 1)).toNat = la.code + 1 ∧ (placed.dict.get (4 * g.core)).toNat ≠ la.code + 1 :=
  ⟨_, _, _, _, _, rfl, rfl, rfl, rfl, rfl, rfl, by decide +kernel, by decide +kernel⟩
theorem test_specials : placed.groups.head?.bind (fun g => (g.lane? 3).map (fun ln => [0, 1, 2, 3, 4, 5, 6, 13, 14, 15, 20, 21, 22, 23, 24, 30, 31].map (placed.special g 3 ln))) =
    some [3, 8, 2, 0, 0, 3, 0xFFFFFFFF, 31, 1, 1, 6, 0, 8, 5, 0, 1, 1] := by decide +kernel
theorem witness_reserved : parts (.iadd { two with a := .sr 40 }) = some (.iadd, { two with a := .sr 40 }) ∧ 32 ≤ (40 : BitVec 6).toNat := ⟨rfl, by decide⟩

theorem witness_movg : Meets .movg noRuns (fun f _ _ => ∃ i, f.dst = .g i) (form 1 (.g 8) (.v 0) nil nil) base :=
  meets_of (fun _ => true) (fun _ _ => ⟨8, rfl⟩) (by decide +kernel)
/-- R93: .LAST takes the highest lane. -/
theorem test_movg_last : let s := withV (fun l => [(0, BitVec.ofNat 32 l)]) base
    ((next (exec (.movg (form 1 (.g 8) (.v 0) nil nil)) s) s).groups.head?.map (·.g.get 8)) = some 7 := by decide +kernel
theorem witness_exit : Meets .exit noRuns (fun _ s e =>
      seamFree s e (List.range 12) ∧ (e.g.exitLanes e.x).orphaned = false ∧
      ∀ c ∈ e.lanes, ∀ el, s.elem? c.2.elem = some el →
        let n := e.g.level + 1
        let k := s.countOf e.rcd el
        (e.rcd.level n).present = true → (e.rcd.level n).gen = 0 → (e.rcd.level n).countSrc = true → k ≠ 0 →
          k ≤ domainLimit (e.rcd.level n).domain (e.rcd.level n).width ∧ e.rcd.fits n (e.rcd.groupsOf n k) = true) (form 0 (.field 0) nil nil nil) base :=
  meets_of (fun e => !e.serialLane && (List.range 12).all (fun n => !base.seamBusy e.gid n) && !(e.g.exitLanes e.x).orphaned &&
      !(e.rcd.level (e.g.level + 1)).present)
    (fun e h => by
      simp only [Bool.and_eq_true, Bool.not_eq_eq_eq_not, Bool.not_true, List.all_eq_true] at h
      obtain ⟨⟨⟨h1, h2⟩, h3⟩, h4⟩ := h
      exact ⟨⟨h1, fun n hn => by simpa using h2 n hn⟩, h3, fun _ _ _ _ hp => by simp [h4] at hp⟩) (by decide +kernel)
/-- R98. -/
theorem test_exit : (laneAfter (.exit (form 0 (.field 0) nil nil nil)) base 3).st = .exited := by decide +kernel

/-! ### Collectives and seams -/

/-- The membership mask of all eight lanes. -/
def all8 : Opnd := .lit 0xFF

theorem witness_vote : Meets .vote noRuns maskGood (form 2 (.v 4) (.pred 0) all8 nil) base := meets (dec := fun _ => by unfold maskGood; infer_instance) (by decide +kernel)
theorem witness_shfl : Meets .shfl noRuns maskGood (form 2 (.v 4) (.v 0) all8 (.imm 1)) base := meets (dec := fun _ => by unfold maskGood; infer_instance) (by decide +kernel)
theorem witness_redux : Meets .redux noRuns maskGood (form 0 (.v 4) (.v 0) all8 nil) base := meets (dec := fun _ => by unfold maskGood; infer_instance) (by decide +kernel)
theorem witness_scan : Meets .scan noRuns maskGood (form 8 (.v 4) (.v 0) all8 nil) base := meets (dec := fun _ => by unfold maskGood; infer_instance) (by decide +kernel)

/-- Lane l holds l + 1 in v0. -/
def ramp : State := withV (fun l => [(0, BitVec.ofNat 32 (l + 1))]) base
/-- R209: .BALLOT of p7 gives all eight lanes. -/
theorem test_vote : (laneAfter (.vote (form 2 (.v 4) (.pred 7) all8 nil)) ramp 0).v.get 4 = 0xFF := by decide +kernel
/-- R210: .DOWN by 1; lane 7 keeps its own. -/
theorem test_shfl : [0, 7].map (fun l => (laneAfter (.shfl (form 2 (.v 4) (.v 0) all8 (.imm 1))) ramp l).v.get 4) = [2, 8] := by decide +kernel
/-- R211: 1 + … + 8. -/
theorem test_redux : (laneAfter (.redux (form 0 (.v 4) (.v 0) all8 nil)) ramp 5).v.get 4 = 36 := by decide +kernel
/-- R212: exclusive at lane 3; inclusive with .INC. -/
theorem test_scan : (laneAfter (.scan (form 0 (.v 4) (.v 0) all8 nil)) ramp 3).v.get 4 = 6 := by decide +kernel
theorem test_scan_inc : (laneAfter (.scan (form 8 (.v 4) (.v 0) all8 nil)) ramp 3).v.get 4 = 10 := by decide +kernel

/-- A scratchpad layout of 16-byte elements, and one of words. -/
def lay16 : BitVec 512 := lay 1 4 [64] [16] 0
def lay4 : BitVec 512 := lay 1 2 [256] [4] 0
/-- Lanes use words 0 to 7 of m1, and m0 has 16-byte elements. -/
def scr : State := withV (fun l => [(0, BitVec.ofNat 32 l)]) (withRoots [lay16, lay4] base)
/-- All lanes are members of seam 3 and none has arrived. -/
def seamed : State := withGroup (fun g => g.setSeam 3 0xFF 0) scr
def seamF : Form := form 3 (.field 0) nil nil nil

theorem witness_seamJoin : Meets .seamJoin noRuns (fun f s e => seamFree s e [f.mod.toNat]) seamF base := meets (dec := fun _ => by unfold seamFree; infer_instance) (by decide +kernel)
theorem witness_seamQuit : Meets .seamQuit noRuns (fun f s e => seamFree s e [f.mod.toNat]) seamF seamed := meets (dec := fun _ => by unfold seamFree; infer_instance) (by decide +kernel)
theorem witness_seamQuitm : Meets .seamQuitm noRuns (fun _ s e => seamFree s e (List.range 12)) (form 0 (.field 0) nil (.imm 8) nil) seamed :=
  meets (dec := fun _ => by unfold seamFree; infer_instance) (by decide +kernel)
theorem witness_seamWait : Meets .seamWait noRuns (fun f s e =>
    seamFree s e [f.mod.toNat] ∧ e.x &&& ~~~e.g.members f.mod.toNat = 0 ∧ (e.g.arrive f.mod.toNat e.x e.r.ft).orphaned = false) seamF seamed :=
  meets (dec := fun _ => by unfold seamFree; infer_instance) (by decide +kernel)
theorem witness_seamRead : Meets .seamRead noRuns (fun f s e => seamFree s e [f.mod.toNat]) (form 3 (.v 4) nil nil nil) seamed :=
  meets (dec := fun _ => by unfold seamFree; infer_instance) (by decide +kernel)
theorem witness_seamStore : Meets .seamStore coordRun (fun f s e => seamFree s e [f.mod.toNat] ∧ allGood (seamCheck s e f 1))
    (form 3 (.field 0) (.v 0) nil (fld 0)) seamed := meets (dec := fun _ => by unfold seamFree allGood; infer_instance) (by decide +kernel)
theorem witness_seamLoad : Meets .seamLoad coordRun (fun f s e => e.serialLane = false ∧ allGood (seamCheck s e f 0))
    (form 3 (.field 0) (.v 0) nil (fld 0)) seamed := meets (dec := fun _ => by unfold allGood; infer_instance) (by decide +kernel)
/-- R192: the last member that arrives releases the seam: the lanes stand free at the fall-through. -/
theorem test_seamWait_releases : ((laneAfter (.seamWait seamF) seamed 2).st, (laneAfter (.seamWait seamF) seamed 2).pc) = (.free, 40) := by decide +kernel
/-- R192: a lane that is no member: MASK_MISMATCH (7). -/
theorem test_seamWait_outside : (next (exec (.seamWait seamF) base) base).completions.map (·.status) = [7] := by decide +kernel
/-- R216: members in the high half. -/
theorem test_seamRead : [4, 5, 6, 7].map ((laneAfter (.seamRead (form 3 (.v 4) nil nil nil)) seamed 0).v.get ·) = [0, 0, 0xFF, 0] := by decide +kernel
/-- R217: the image is stored in 16 bytes, members at byte 8. -/
theorem test_seamStore : (next (exec (.seamStore (form 3 (.field 0) (.v 0) nil (fld 0))) seamed) seamed).mem = [(scratchAt 0 + 8, 0xFF)] := by decide +kernel

theorem witness_serOpen : Meets .serOpen noRuns (fun _ _ e => e.g.serial = none) (form 0 (.field 0) nil nil nil) base := meets (by decide +kernel)
/-- A region whose serial lane is lane 0; the path is that lane alone. -/
def inRegion : State := withGroup (fun g => { g with serial := some { lanes := 0xFF, lane := 0, start := 40 }, run := g.run.map (fun r => { r with lanes := 1 })
                                                     lanes := g.lanes.mapIdx (fun l ln => if l = 0 then ln else { ln with st := .pending }) }) base
theorem witness_serClose : Meets .serClose noRuns (fun _ _ e => e.g.serial = some { lanes := 0xFF, lane := 0, start := 40 } ∧ e.x &&& ~~~maskOf [0] = 0)
    (form 0 (.field 0) nil nil nil) inRegion := meets (by decide +kernel)
/-- R200: the next lane's turn starts at the region's start. -/
theorem test_serClose : ((laneAfter (.serClose (form 0 (.field 0) nil nil nil)) inRegion 1).st, (laneAfter (.serClose (form 0 (.field 0) nil nil nil)) inRegion 0).st) =
    (.free, .held 40) := by decide +kernel
theorem test_serOpen : ((laneAfter (.serOpen (form 0 (.field 0) nil nil nil)) base 0).st, (laneAfter (.serOpen (form 0 (.field 0) nil nil nil)) base 1).st) =
    (.free, .pending) := by decide +kernel
theorem witness_regroup : Meets .regroup noRuns (fun _ s e =>
    e.serialLane = false ∧ (∀ n < 12, e.g.members n &&& e.x = 0) ∧
    ∀ g ∈ s.roleGroups e.g.block e.g.level e.g.role, ∀ ln ∈ g.lanes, ∀ x, ln.regroup? = some x → x.2.1 = e.r.cur) (form 0 (.field 0) (.v 0) nil nil) ramp :=
  meets_of (fun e => !e.serialLane && (List.range 12).all (fun n => decide (e.g.members n &&& e.x = 0)) &&
      (ramp.roleGroups e.g.block e.g.level e.g.role).all (fun g => g.lanes.all (fun ln => ln.regroup?.isNone)))
    (fun e h => by
      simp only [Bool.and_eq_true, Bool.not_eq_eq_eq_not, Bool.not_true, decide_eq_true_eq, List.all_eq_true] at h
      obtain ⟨⟨h1, h2⟩, h3⟩ := h
      exact ⟨h1, fun n hn => h2 n (List.mem_range.mpr hn), fun g hg ln hl x hx => by have := h3 g hg ln hl; simp [hx] at this⟩) (by decide +kernel)
theorem test_regroup : (laneAfter (.regroup (form 0 (.field 0) (.v 0) nil nil)) ramp 4).st = .regrouping 40 8 5 := by decide +kernel

/-! ### The Shelf -/

/-- A level 1 of this generator, of GROUP domain. -/
def child (gen : Nat) : Level := { Level.absent with present := true, domain := 5, gen }
/-- The launch declares a level 1. -/
def twoLevels (gen : Nat) (s : State) : State := withRec (fun r => { r with levels := r.levels.set 1 (child gen) }) s

/-- R177: eight children in all, the most that a GROUP domain of width 8 takes. -/
theorem witness_emit : Meets .emit noRuns (fun f s e =>
    let n := e.g.level + 1
    let lv := e.rcd.level n
    let counts := e.lanes.map (fun c => (c.1, c.2.elem, (s.src e .int c.1 c.2 f.a).toNat))
    let total := counts.foldl (fun t c => t + c.2.2) 0
    let done := fun (el : Nat) => (s.elem? el).elim 0 (·.emitted)
    n < 8 ∧ lv.present = true ∧ lv.gen = 1 ∧ (2 ≤ lv.domain → total ≤ domainLimit lv.domain lv.width) ∧
      (total ≠ 0 → e.rcd.fits n (e.rcd.groupsOf n total) = true) ∧ (∀ c ∈ counts, done c.2.1 + c.2.2 ≤ 0xFFFFFFFF) ∧ total = 8)
    (form 0 (.field 0) (.imm 1) nil nil) (twoLevels 1 base) := meets (dec := fun _ => by dsimp only; infer_instance) (by decide +kernel)
theorem test_emit : ((next (exec (.emit (form 0 (.field 0) (.imm 1) nil nil)) (twoLevels 1 base)) base).elems.map (fun el => (el.level, el.parents))).drop 8 =
    (List.range 8).map (fun l => (1, [4 + l])) := by decide +kernel
/-- R177: sixteen do not fit: BOUNDS (0x10). -/
theorem test_emit_bounds : (next (exec (.emit (form 0 (.field 0) (.imm 2) nil nil)) (twoLevels 1 base)) base).completions.map (·.status) = [0x10] := by decide +kernel

theorem witness_spawn : Meets .spawn noRuns (fun f _ e =>
    let n := if decide (f.mod = 1) then e.g.level else e.g.level + 1
    n < 8 ∧ (e.rcd.level n).present = true ∧ (e.rcd.level n).gen = 3) (form 0 (.p 1) (.v 0) nil (.v 16)) (twoLevels 3 base) :=
  meets (dec := fun _ => by dsimp only; infer_instance) (by decide +kernel)
/-- R178: every child fits, so p1 is true; the child has depth 1 and the lane's arguments. -/
theorem test_spawn : let t := next (exec (.spawn (form 0 (.p 1) (.v 0) nil (.v 16))) (twoLevels 3 (withV (fun _ => [(2, 9)]) base))) base
    ((t.elems.getLast?).map (fun el => (el.depth, el.init)), (t.groups.head?.bind (·.lane? 7)).map (·.pred 1)) =
      (some (1, [(0, 0), (1, 0), (2, 9), (3, 0)]), some true) := by decide +kernel

/-- The lanes are fragments of a triangle of three vertices, elements 20 to 22, whose slots hold h5 = 1, 2, 3. -/
def fragments : State :=
  let s := withRec (fun r => { r with levels := (r.levels.set 1 { child 2 with spans := true }).set 0 { Level.absent with present := true, domain := 5, held := 8 }
                                      heldMap := (List.replicate 512 15).set 69 0 }) (withGroup (fun g => { g with level := 1 }) base)
  let vertex : Elem := { fetchElem 1 0 with level := 0 }
  { s with elems := s.elems.map (fun el => { el with level := 1, parents := [20, 21, 22], claims := [20, 21, 22] }) ++
             [{ vertex with id := 20 }, { vertex with id := 21 }, { vertex with id := 22 }]
           slots := [20, 21, 22].map (fun k => { elem := k, launch := 3, level := 0, core := 0, index := k, h := [(5, BitVec.ofNat 32 (k - 19))], holds := 8 }) }

theorem witness_ebb : Meets .ebb noRuns (fun f _ e => f.mod.toNat < e.g.level) (form 0 (.field 0) nil nil nil) fragments := meets (by decide +kernel)
/-- R180: eight lanes' claims on each vertex end. -/
theorem test_ebb : (next (exec (.ebb (form 0 (.field 0) nil nil nil)) fragments) fragments).slots.map (·.holds) = [0, 0, 0] := by decide +kernel
theorem witness_hlerp : Meets .hlerp noRuns (fun f s e => ∀ c ∈ e.lanes, ∃ el, s.laneElem c.2 = some el ∧
    s.heldThree e.rcd el (heldIndex f.a) = .ok ((fun _ => ([1, 2, 3], [])) c.2 : List Word × List Word)) (form 0 (.v 4) (.h 5) nil nil) fragments :=
  meets_of (fun e => e.lanes.all (fun c => match fragments.laneElem c.2 with
      | none => false
      | some el => match fragments.heldThree e.rcd el 5 with
        | .ok x => x = ([1, 2, 3], [])
        | .error _ => false))
    (fun e h c hc => by
      have := List.all_eq_true.mp h c hc
      split at this
      · simp at this
      · rename_i el hel
        split at this
        · rename_i x hx
          exact ⟨el, hel, by rw [show heldIndex (form 0 (.v 4) (.h 5) nil nil).a = 5 from rfl, hx, of_decide_eq_true this]⟩
        · simp at this) (by decide +kernel)
/-- R181: .FLAT gives the provoking vertex's value. -/
theorem test_hlerp_flat : (laneAfter (.hlerp (form 0 (.v 4) (.h 5) nil nil)) fragments 6).v.get 4 = 1 := by decide +kernel

/-! ### Memory -/

/-- A word access of layout 1 at v0, order plain. -/
def memF (d : Dst) (b : Opnd) : Form := form 2 d (.v 0) b (fld 1)

theorem witness_ld : Meets .ld coordRun (fun f s e => allGood (laneChecks s e f (memWidth f) 0 (memZ f))) (memF (.v 4) nil) scr :=
  meets (dec := fun _ => by unfold allGood; infer_instance) (by decide +kernel)
theorem witness_ldu : Meets .ldu noRuns (fun f s e => Opnd.first f.a + layRank (e.layout (layC f)) ≤ 256 ∧
    (s.access e (layC f) ((List.range (layRank (e.layout (layC f)))).map (fun i => (e.g.g.get (Opnd.first f.a + i)).toNat)) (memWidth f) 0 (memZ f)).good = true)
    (form 2 (.g 8) (.g 255) nil (fld 1)) scr := meets (by decide +kernel)
theorem witness_st : Meets .st coordRun (fun f s e => allGood (laneChecks s e f (memWidth f) 1 (memZ f))) (memF (.field 0x240) (.imm 0x7F)) scr :=
  meets (dec := fun _ => by unfold allGood; infer_instance) (by decide +kernel)
theorem witness_atom : Meets .atom coordRun (fun f s e => allGood (laneChecks s e f (if ordD (BitVec.ofNat 10 f.b.uimm) then 8 else 4) 2 false))
    (form 0 (.v 4) (.v 0) nil (fld 1)) scr := meets (dec := fun _ => by unfold allGood; infer_instance) (by decide +kernel)
theorem witness_red : Meets .red coordRun (fun f s e => allGood (laneChecks s e f (if ordD (BitVec.ofNat 10 f.dst.uimm) then 8 else 4) 2 false))
    (form 0 (.field 0) (.v 0) (.imm 1) (fld 1)) scr := meets (dec := fun _ => by unfold allGood; infer_instance) (by decide +kernel)

/-- Words 0 and 1 of the scratchpad hold 0x80 and 2. -/
def scrM : State := { scr with mem := [(scratchAt 0, 0x80), (scratchAt 0 + 4, 2)] }
/-- What lane l is to write when a long-latency instruction has issued. -/
def issuedIn (i : Instr) (s : State) (l : Nat) : List (RegRef × Word) :=
  ((((next (exec i s) s).ops.getLast?).bind (fun o => o.lanes[l]?)).map (·.writes)).getD []
theorem test_ld : issuedIn (.ld (memF (.v 4) nil)) scrM 1 = [(.v 4, 2)] := by decide +kernel
/-- R268: .B8 of 0x80 is extended by its sign. -/
theorem test_ld_b8 : issuedIn (.ld (form 0 (.v 4) (.v 0) nil (fld 1))) scrM 0 = [(.v 4, 0xFFFFFF80)] := by decide +kernel
theorem test_ldu : issuedIn (.ldu (form 2 (.g 8) (.g 255) nil (fld 1))) scrM 0 = [(.g 8, 0x80)] := by decide +kernel
theorem test_st : (next (exec (.st (memF (.field 0) (.imm 0x7F))) (withV (fun _ => [(0, 3)]) scr)) scr).mem = [(scratchAt 0 + 12, 0x7F)] := by decide +kernel
/-- R231: coordinate 256 lies beyond the extent: BOUNDS, dimension 0 of a write through m1. -/
theorem test_st_bounds : (next (exec (.st (memF (.field 0) (.imm 1))) (withV (fun _ => [(0, 256)]) scr)) scr).completions.map (fun c => (c.status, c.detail.extractLsb' 0 32)) =
    [(0x10, 0x20001)] := by decide +kernel
/-- R270, R236: eight lanes add 1 to one word in ascending order: lane 3 reads 2 + 3. -/
theorem test_atom : issuedIn (.atom (form 0 (.v 4) (.v 0) nil (fld 1))) (withV (fun _ => [(0, 1), (4, 1)]) scrM) 3 = [(.v 4, 5)] := by decide +kernel
theorem test_red : (next (exec (.red (form 0 (.field 0) (.v 0) (.imm 1) (fld 1))) (withV (fun _ => [(0, 1)]) scrM)) scrM).mem =
    [(scratchAt 0, 0x80), (scratchAt 0 + 4, 10)] := by decide +kernel

theorem witness_fence : Meets .fence noRuns always (form 0 (.field 0) nil (fld 0x140) nil) base := meets_of (fun _ => true) (fun _ _ => trivial) (by decide +kernel)
theorem witness_pref : Meets .pref coordRun always (form 0 (.field 0) (.v 0) nil (fld 1)) scr := meets_of (fun _ => true) (fun _ _ => trivial) (by decide +kernel)
/-- Words 4 to 11 of m1 become m2: rank 1 with every permit; first, count, step. -/
def subbed : State := withV (fun _ => [(8, 0x1C0001), (9, 4), (10, 8), (11, 1)]) (withRec (fun r => { r with derived := 4 }) scr)
theorem witness_laysub : Meets .laysub (fun f e => [(Opnd.first f.a, 1 + 3 * layRank (e.layout (layC f)))])
    (fun f s e => layValid (e.layout (layC f)) = true ∧ e.isDerived f.dst.uimm = true ∧
      (subDesc s e f (layRank (e.layout (layC f)))).shapeOk (e.layout (layC f)) = true ∧
      (subDesc s e f (layRank (e.layout (layC f)))).rangeFail (e.layout (layC f)) = none) (form 0 (.field 2) (.v 8) nil (fld 1)) subbed := meets (by decide +kernel)

/-- R233: eight elements from byte 16. -/
theorem test_laysub : ((next (exec (.laysub (form 0 (.field 2) (.v 8) nil (fld 1))) subbed) subbed).groups.head?.map (fun g =>
    let m := g.derived.get 2
    (layBase m, layExt m 0, layStride m 0, layValid m, layDerived m, layW m))) = some (16, 8, 4, true, true, true) := by decide +kernel

/-! ### Copies, tags, tidemarks, owner bits -/

theorem witness_copy : Meets .copy (fun f e => [(Opnd.first f.a, layRank (e.layout f.dst.uimm) + layRank (e.layout (layC f)))]) (fun f s e =>
    let md := e.layout f.dst.uimm
    let ms := e.layout (layC f)
    let w := copyWidth f
    let z := f.mod.getLsbD 1
    let tag := fun (c : Nat × Lane) => (s.src e .int c.1 c.2 f.b).toNat % 64
    let dst := fun (c : Nat × Lane) => s.access e f.dst.uimm (coords s e f c.1 c.2 0 (layRank md)) w 1 z
    let src := fun (c : Nat × Lane) => s.access e (layC f) (coords s e f c.1 c.2 (layRank md) (layRank ms)) w 0 z
    let made := e.lanes.filterMap (fun c => laneCopy (tag c) (src c) (dst c))
    (∀ c ∈ e.lanes, tagOk e.rcd (tag c) = true ∧ (dst c).good = true ∧ (src c).eccAsError.good = true) ∧
    (∀ t < 64, s.tagFull e.g.core t (made.filter (fun c => c.tag = t)).length = false)) (form 0 (.field 1) (.v 0) (.imm 63) (fld 1)) scr :=
  meets (dec := fun _ => by dsimp only; infer_instance) (by decide +kernel)
theorem witness_twait : Meets .twait noRuns (fun f s e => badTag e.rcd (s.lowPair e f.a) = none) (form 0 (.field 0) (.v 0) nil nil) base := meets (by decide +kernel)
theorem witness_tfirst : Meets .tfirst noRuns (fun f s e => badTag e.rcd (s.lowPair e f.a) = none ∧
      ∀ t, (lanesOf (s.setTags e.rcd e.g.core (s.lowPair e f.a))).head? = some t → s.tagErrs.contains (tagKey e.g.core t) = false)
    (form 0 (.v 4) (.imm 0x60) nil nil) base :=
  meets_of (fun e => decide (badTag e.rcd (base.lowPair e (.imm 0x60)) = none)) (fun e h => ⟨of_decide_eq_true h, fun _ _ => rfl⟩) (by decide +kernel)
/-- R283: the lowest set tag of 0x60. -/
theorem test_tfirst : (laneAfter (.tfirst (form 0 (.v 4) (.imm 0x60) nil nil)) base 2).v.get 4 = 5 := by decide +kernel
/-- R281: lane l's word goes from m1's element l to m1's element l + 8, and is there for the next access of the lane. -/
def copyS : State := withV (fun l => [(0, BitVec.ofNat 32 (l + 8)), (1, BitVec.ofNat 32 l)]) scrM
theorem test_copy : (let t := next (exec (.copy (form 0 (.field 1) (.v 0) (.imm 63) (fld 1))) copyS) base
    (t.byte (scratchAt 0 + 36), t.byte (scratchAt 0 + 32), t.copies.length, t.tagCounts)) = (2, 0x80, 8, [(63, 8)]) := by decide +kernel
/-- A copy is in flight on tag 3. -/
def inFlight (k : Nat) : CopyOp := { id := k, block := 2, core := 0, tag := 3, error := true, onChip := false }
def copying : State := { base with copies := [inFlight 50], tagCounts := [(3, 1)] }
theorem witness_copyLanding : ∃ c, findId CopyOp.id 50 copying.copies = some c ∧ ∃ b, copying.block? c.block = some b ∧ b.st ≠ .ended :=
  ⟨_, rfl, _, rfl, by decide⟩
/-- R281, R282: its tag is at zero again, and bears an error. -/
theorem test_copyLanding : (let t := next (exec (.copyLanding 50) copying) base
    (t.copies, t.tagCounts, t.tagErrs.contains (tagKey 0 3))) = ([], [], true) := by decide +kernel

/-- The tidemark instructions of tidemark 2, with operand 3. -/
def tmF (d : Dst) : Form := form 0 d (.imm 3) nil (fld 2)
theorem witness_tmInit : Meets .tmInit noRuns (fun f s e => s.tidemarkAt e f.c.uimm true = .ok (scratchAt 0 + 32)) (tmF (.field 0)) scr := meets (by decide +kernel)
theorem witness_tmExpect : Meets .tmExpect noRuns (fun f s e => s.tidemarkAt e f.c.uimm true = .ok (scratchAt 0 + 32)) (tmF (.field 0)) scr := meets (by decide +kernel)
theorem witness_tmArrive : Meets .tmArrive noRuns (fun f s e => s.tidemarkAt e f.c.uimm true = .ok (scratchAt 0 + 32)) (tmF (.v 4)) scr := meets (by decide +kernel)
theorem witness_tmArrivew : Meets .tmArrivew noRuns (fun f s e => s.tidemarkAt e f.c.uimm true = .ok (scratchAt 0 + 32)) (tmF (.field 0)) scr := meets (by decide +kernel)
/-- R280: the last tidemark of sixteen granules is 511. -/
theorem witness_tmWait : Meets .tmWait noRuns (fun f s e => s.tidemarkAt e f.c.uimm false = .ok (scratchAt 0 + 16 * 511)) (form 0 (.field 0) (.imm 3) nil (fld 511)) scr :=
  meets (by decide +kernel)
/-- Tidemark 2 lies in sector 1 of the scratchpad, which is damaged; the word of the trap says that an access wrote, or that it read. -/
def tmBad : State := { scr with bad := [scratchAt 0 / 32 + 1] }
theorem witness_tmBad : Meets .tmInit noRuns (fun f s e => s.tidemarkAt e f.c.uimm true = .error (Cause.uncorrectable, 0x100)) (tmF (.field 0)) tmBad ∧
    Meets .tmExpect noRuns (fun f s e => s.tidemarkAt e f.c.uimm true = .error (Cause.uncorrectable, 0x100)) (tmF (.field 0)) tmBad ∧
    Meets .tmArrive noRuns (fun f s e => s.tidemarkAt e f.c.uimm true = .error (Cause.uncorrectable, 0x100)) (tmF (.v 4)) tmBad ∧
    Meets .tmArrivew noRuns (fun f s e => s.tidemarkAt e f.c.uimm true = .error (Cause.uncorrectable, 0x100)) (tmF (.field 0)) tmBad ∧
    Meets .tmWait noRuns (fun f s e => s.tidemarkAt e f.c.uimm false = .error (Cause.uncorrectable, 0)) (tmF (.field 0)) tmBad :=
  ⟨meets (by decide +kernel), meets (by decide +kernel), meets (by decide +kernel), meets (by decide +kernel), meets (by decide +kernel)⟩
theorem witness_tidemarkAt : Meets .tmInit noRuns (fun _ s e => 16 * 2 + 16 ≤ allocBytes e.rcd ∧ s.allocOn e.b e.g.core = some 0 ∧
    s.owners.get (granuleOf (scratchByte e.g.core 0 32)) = 0) (tmF (.field 0)) tmBad := meets (by decide +kernel)
/-- R284, R286: TM.INIT with 3 arrivals: reload in [111:96], arrivals in [95:80]. -/
theorem test_tmInit : (next (exec (.tmInit (tmF (.field 0))) scr) scr).mem = [(scratchAt 0 + 42, 3), (scratchAt 0 + 44, 3)] := by decide +kernel
/-- R285: the only arrival completes the phase: phase 1 in [127:124], arrivals reloaded. -/
theorem test_tmArrive : (next (exec (.tmArrive (form 0 (.v 4) (.imm 0) nil (fld 2))) { scr with mem := [(scratchAt 0 + 42, 1), (scratchAt 0 + 44, 1)] }) scr).mem =
    [(scratchAt 0 + 42, 1), (scratchAt 0 + 44, 1), (scratchAt 0 + 47, 0x10)] := by decide +kernel

/-- Layout 0 has four 16-byte elements, in granule 0. -/
def own : State := withRoots [lay 1 4 [4] [16] 0, lay 1 4 [4] [512] 0] base
theorem witness_ownGive : Meets .ownGive noRuns (fun f s e => layValid (e.layout (layC f)) = true ∧ laySpace (e.layout (layC f)) = spScratch ∧
      ∀ g ∈ s.footprint e.b e.g.core (e.layout (layC f)), s.owners.get g = 0) (form 2 (.field 0) nil nil (fld 0)) own :=
  meets (by decide +kernel)
/-- R288, R238: the matrix engine owns granules 1 and 3 of the four. -/
def ownHeld : State := { own with owners := [(1, 2), (3, 2)] }
theorem witness_ownGive_held : Meets .ownGive noRuns (fun f s e => layValid (e.layout (layC f)) = true ∧ laySpace (e.layout (layC f)) = spScratch ∧
      (s.footprint e.b e.g.core (e.layout (layC f))).filter (fun g => s.owners.get g ≠ 0) = [1, 3]) (form 3 (.field 0) nil nil (fld 1)) ownHeld :=
  meets (by decide +kernel)
theorem test_ownGive_held : (let t := next (exec (.ownGive (form 3 (.field 0) nil nil (fld 1))) ownHeld) base
    (t.owners, t.completions.map (fun c => (c.status, c.detail.extractLsb' 0 32)))) = ([(1, 2), (3, 2)], [(0x13, 0xA001)]) := by decide +kernel
theorem witness_ownTake : Meets .ownTake noRuns (fun f _ e => layValid (e.layout (layC f)) = true ∧ laySpace (e.layout (layC f)) = spScratch)
    (form 0 (.field 0) nil nil (fld 0)) own := meets (by decide +kernel)
/-- R288: a stride of 512 reaches granules 0 to 3. -/
theorem test_ownGive : (next (exec (.ownGive (form 2 (.field 0) nil nil (fld 1))) own) own).owners = [(0, 2), (1, 2), (2, 2), (3, 2)] := by decide +kernel

/-! ### Engines -/

/-- A tile copy of `n` words of m1 from 0 to 8; its report is tag 3. -/
def tileS (n : Nat) : State := withV (fun _ => [(0, 8), (1, 0), (2, BitVec.ofNat 32 n), (3, 1), (4, 0), (8, 0x20003)]) { scr with mem := [(scratchAt 0, 7), (scratchAt 0 + 4, 9)] }
def tileF : Form := form 0 (.field 1) (.v 0) (.v 8) (fld 1)
/-- What TCOPY asks, of a copy of `n` elements. -/
def tileGood (f : Form) (s : State) (e : Env) : Prop :=
  tileCheck s e f (decide (f.mod = 1)) (tileRun s e f 0) (tileRun s e f 1) (tileRun s e f 2) = none ∧
    s.reportOf e (s.lowSrc e f.b) = .ok { tag := some 3, mark := none } ∧ s.tagFull e.g.core 3 1 = false
theorem witness_tcopy_none : Meets .tcopy (fun f e => [(Opnd.first f.a, 3 * tileRank e f)]) (fun f s e => tileGood f s e ∧ 0 ∈ tileRun s e f 2) tileF (tileS 0) :=
  meets (dec := fun _ => by unfold tileGood; infer_instance) (by decide +kernel)
theorem witness_tcopy : Meets .tcopy (fun f e => [(Opnd.first f.a, 3 * tileRank e f)]) (fun f s e => tileGood f s e ∧ 0 ∉ tileRun s e f 2) tileF (tileS 2) :=
  meets (dec := fun _ => by unfold tileGood; infer_instance) (by decide +kernel)
/-- What TCOPY.MC asks beside: mask 1 and block 0 of the launch, which is the lanes' own. -/
def castGood (f : Form) (s : State) (e : Env) : Prop :=
  tileGood f s e ∧ laySpace (e.layout f.dst.uimm) = spScratch ∧
    (s.blocks.find? (fun b => b.launch = e.g.launch && b.level = e.g.level && b.num = BitVec.ofNat 32 (s.lowAt e f (3 * tileRank e f + 1)) && (b.st = .admitted || b.st = .ended))) =
      s.blocks.head? ∧ BitVec.ofNat 4 (s.lowAt e f (3 * tileRank e f)) = 1 ∧ ((s.blocks.head?).map (fun b => (s.allocOn b (e.g.core / 4 * 4)).isSome)) = some true
theorem witness_tcopyMc_none : Meets .tcopyMc (fun f e => [(Opnd.first f.a, 3 * tileRank e f + 2)]) (fun f s e => castGood f s e ∧ 0 ∈ tileRun s e f 2) tileF (tileS 0) :=
  meets (dec := fun _ => by unfold castGood tileGood; infer_instance) (by decide +kernel)
theorem witness_tcopyMc : Meets .tcopyMc (fun f e => [(Opnd.first f.a, 3 * tileRank e f + 2)]) (fun f s e => castGood f s e ∧ 0 ∉ tileRun s e f 2) tileF (tileS 2) :=
  meets (dec := fun _ => by unfold castGood tileGood; infer_instance) (by decide +kernel)
/-- Two rows of S (m3, one word each) go to the bins of m2 (one word, one slot, two bins) that m4 names; counters m5, status m6. Every entry is words of one granule. -/
def scatS : State := withV (fun _ => [(0, 2), (1, 0), (2, 4), (3, 0), (4, 5), (5, 1), (6, 6), (7, 0)])
  (withRoots [0, 0, lay 1 2 [1, 1, 2] [4, 4, 4] 0, lay 1 2 [1, 2] [4, 4] 16, lay 1 2 [2] [4] 32, lay 1 2 [2] [4] 48, lay 1 2 [4] [4] 64]
    { base with mem := [(scratchAt 0 + 16, 7), (scratchAt 0 + 20, 9), (scratchAt 0 + 32, 1)], owners := [(0, 1)] })
def scatF : Form := form 0 (.field 2) (.v 0) (.imm 0) (fld 3)
theorem witness_scatb : Meets .scatb (fun f _ => [(Opnd.first f.a, 8)]) (fun f s e => scatCheck s e f (s.lowAt e f) = none ∧
    s.reportOf e (s.lowSrc e f.b) = .ok { tag := none, mark := none }) scatF scatS := meets (by decide +kernel)

/-- The granule of the copy is COPY's, and the operation has been issued. -/
def tiled (i : Instr) (s : State) : State := next (exec i { s with owners := [(0, 1)] }) s
/-- The end of a tile copy. -/
def tileEndOk (t : TileEnd) : Bool := match t with
  | .done _ => true
  | _ => false
/-- The only tile operation of a state ends well. -/
def tileEnds (s : State) : Bool := match s.tileOps with
  | [o] =>
    let tenant := ((s.block? o.block).bind (fun b => s.launch? b.launch)).elim 0 (·.tenant)
    let ts := s.tileOrder o tenant (tuples o.counts)
    let u := s.clearBad (s.coveredBad (s.tileBytes o tenant ts) (s.tileReads o tenant))
    match o.kind with
    | .copy z => tileEndOk (u.tileCopy o tenant z ts)
    | .multicast z _ _ => tileEndOk (u.tileCopy o tenant z ts)
    | .scatter mi mc mt ks i0 n r0 ov q =>
      let a := (s.clearBad (s.scatClears o tenant mi mc mt i0 n r0 ov q (s.scatCells o tenant mi mc i0 n ov))).scatter o tenant mi mc mt ks i0 n r0 ov q
      a.stop.isNone && a.wait.isNone && a.bad.isNone
  | _ => false
theorem witness_tileCopyEnd : tileEnds (tiled (.tcopy tileF) (tileS 2)) = true := by decide +kernel
theorem witness_multicastEnd : tileEnds (tiled (.tcopyMc tileF) (tileS 2)) = true := by decide +kernel
theorem witness_scatterEnd : tileEnds (tiled (.scatb scatF) scatS) = true := by decide +kernel
/-- R294, R281: two words arrive, and tag 3 falls to zero. -/
theorem test_tcopy : let t := next (exec (.tileOperationCompletion 12) (tiled (.tcopy tileF) (tileS 2))) base
    ((t.mem.filter (fun c => scratchAt 0 + 32 ≤ c.1)), t.tagCounts, t.tileOps) = ([(scratchAt 0 + 32, 7), (scratchAt 0 + 36, 9)], [], []) := by decide +kernel
/-- R302: row 0 goes to bin 1, row 1 to bin 0; counters 1 and 1; two placed. -/
theorem test_scatb : let t := next (exec (.tileOperationCompletion 12) (tiled (.scatb scatF) scatS)) base
    [0, 4, 48, 52, 64, 68, 72].map (fun a => t.byte (scratchAt 0 + a)) = [9, 7, 1, 1, 2, 0, 0] := by decide +kernel

/-- A nest of two words: from m1 at position g8 = 0, stride 1 at level 0, to position 8; FP32 or INT32. -/
def nestAt1 (b : Nat) : NestOpnd := { layout := 1, base := BitVec.ofNat 8 b, s0 := 1, s1 := 0, s2 := 0, s3 := 0, s4 := 0 }
/-- X0 at 8, X1 at 0, X2 at 4. -/
def nestTwo (op : BitVec 8) : NestForm := { nest with op, ext0 := 1, x0 := nestAt1 9, x1 := nestAt1 8, x2 := if op = 0 then noOpnd else nestAt1 10 }
def nestS : State := withGroup (fun g => { g with g := [(9, 8), (10, 4)] })
  { scr with mem := [(scratchAt 0, 7), (scratchAt 0 + 4, 9), (scratchAt 0 + 16, 1)], owners := [(0, 2)] }
/-- LNEST's hypotheses. -/
def nestGood (n : NestForm) (s : State) : Bool := match s.env Guard.always with
  | none => false
  | some e => decide (e.x ≠ 0) && (e.r.flagOf n.fsel).isSome && ([(n.x0, 1), (n.x1, 0)] ++ (if nestBinary n then [(n.x2, 0)] else [])).all (fun x =>
      (nestCheck n x.1 (e.layout x.1.layout.toNat) (e.g.g.get x.1.base.toNat).toNat x.2).isNone)
theorem witness_lnest_unary : nestGood (nestTwo 0) nestS = true := by decide +kernel
theorem witness_lnest_binary : nestGood (nestTwo 1) nestS = true := by decide +kernel
def nested : State := next (exec (.lnest (nestTwo 1)) nestS) nestS
theorem witness_lnestCompletion : ∃ o, findId NestOp.id 12 nested.nests = some o ∧ (nested.nestRun o).2 = none := by
  have h : (findId NestOp.id 12 nested.nests).map (fun o => (nested.nestRun o).2.isNone) = some true := by decide +kernel
  rw [Option.map_eq_some_iff] at h
  obtain ⟨o, ho, h⟩ := h
  exact ⟨o, ho, Option.isNone_iff_eq_none.mp h⟩
/-- R37: a fold that leaves a signalling NaN of FP32 leaves the canonical one; of INT32 it leaves the bits. -/
theorem test_lnest_nan : [9, 11].map (fun t => nestCanon { nest with dtype := t } 0xFFA00001) = [0x7FC00000, 0xFFA00001] := by decide +kernel
/-- R299: sums 7 + 1 and 9 + 0. -/
theorem test_lnest : (let t := next (exec (.lnestCompletion 12) nested) base
    (t.byte (scratchAt 0 + 32), t.byte (scratchAt 0 + 36), t.ops.map (fun o => o.lanes.map (·.cond)))) = (8, 9, [List.replicate 8 .ready]) := by decide +kernel

/-! ### The work distributor -/

/-- The launch has dynamic work: items 100 to 102, prefetch depth 1. -/
def workS : State := withV (fun _ => [(0, 5), (1, 0)]) (withRoots [0, lay 1 4 [4] [16] 0] (withRec (fun r => { r with work := { count := 3, first := 100, depth := 1, dynamic := true } }) base))
theorem witness_wqAsk : Meets .wqAsk noRuns (fun f s e => askCheck s e f.dst.uimm = none ∧ s.reportOf e (s.lowSrc e f.b) = .ok { tag := none, mark := none })
    (form 0 (.field 1) nil (.imm 0) nil) workS := meets (by decide +kernel)
theorem witness_wqTake : Meets .wqTake noRuns always (form 0 (.v 4) nil nil (.field 0x303)) workS := meets_of (fun _ => true) (fun _ _ => trivial) (by decide +kernel)
/-- What WQ.ADD asks. -/
def addGood (f : Form) (s : State) (e : Env) : Prop := e.rcd.work.dynamic = true ∧ ∀ c ∈ e.lanes,
  s.src e .int c.1 c.2 f.a ≠ workToken ∧ e.la.runsOn (if f.mod = 1 then (s.src e .int c.1 c.2 f.b).toNat else e.g.core) = true
theorem witness_wqAdd_local : Meets .wqAdd noRuns addGood (form 0 (.field 0) (.v 0) nil nil) workS := meets (dec := fun _ => by unfold addGood; infer_instance) (by decide +kernel)
theorem witness_wqAdd_core : Meets .wqAdd noRuns addGood (form 1 (.field 0) (.v 0) (.v 1) nil) workS := meets (dec := fun _ => by unfold addGood; infer_instance) (by decide +kernel)
/-- R308: eight items of value 5. -/
theorem test_wqAdd : (next (exec (.wqAdd (form 0 (.field 0) (.v 0) nil nil)) workS) base).launches.map (·.dist.queues) = [[(0, List.replicate 8 5)]] := by decide +kernel
/-- R308: the end-of-work token is no item: BOUNDS. -/
theorem test_wqAdd_token : (next (exec (.wqAdd (form 0 (.field 0) (.v 0) nil nil)) (withV (fun _ => [(0, 0xFFFFFFFF)]) workS)) base).completions.map (·.status) = [0x10] := by
  decide +kernel
/-- An item is on its way. -/
def sent : State := next (exec (.wqAdd (form 1 (.field 0) (.v 0) (.v 1) nil)) workS) base
theorem witness_itemArrival : ∃ i, findId Item.id 12 sent.items = some i ∧ ∀ j ∈ sent.items, ¬ (j.first = i.first ∧ j.core = i.core ∧ j.id < i.id) := by
  have h : (findId Item.id 12 sent.items).map (fun i => sent.items.all (fun j => !(j.first = i.first && j.core = i.core && decide (j.id < i.id)))) = some true := by decide +kernel
  rw [Option.map_eq_some_iff] at h
  obtain ⟨i, hi, h⟩ := h
  exact ⟨i, hi, fun j hj hb => by simpa [hb.1, hb.2.1, hb.2.2] using List.all_eq_true.mp h j hj⟩
/-- R308: the second lane's item waits for the first's. -/
theorem witness_itemArrival_waits : ((findId Item.id 13 sent.items).map (fun i => sent.items.any (fun j => j.first = i.first && j.core = i.core && decide (j.id < i.id)))) = some true ∧
    (next (exec (.itemArrival 13) sent) base).items.length = 8 := by decide +kernel
theorem test_itemArrival : let t := next (exec (.itemArrival 12) sent) base
    (t.items.length, t.launches.map (·.dist.queues)) = (7, [[(0, [5])]]) := by decide +kernel
theorem witness_queueRefill : ∃ la, workS.launch? 3 = some la ∧ la.st = .running ∧ la.runsOn 0 = true ∧ la.hasItem = true ∧ (la.queueOf 0).length < la.rcd.work.depth ∧ workS.heldAsks 3 = [] :=
  ⟨_, rfl, by decide, by decide, by decide, by decide, rfl⟩
/-- R305: the first item of the static range. -/
theorem test_queueRefill : (next (exec (.queueRefill 3 0) workS) base).launches.map (·.dist.queues) = [[(0, [100])]] := by decide +kernel
/-- A query has been put, with the granule COPY's. -/
def asking : State := next (exec (.wqAsk (form 0 (.field 1) nil (.imm 0) nil)) { workS with owners := [(0, 1)] }) base
theorem witness_wqAskAnswer : ∃ a la, findId Ask.id 12 asking.asks = some a ∧ asking.launch? a.launch = some la ∧ la.answers = true ∧ a.mark = none ∧
    (∀ p ∈ a.addrs, (asking.owners.get (granuleOf p)).toNat = ownCopy) ∧ asking.damaged a.addrs = false ∧ a.seq = none ∧ asking.heldAsks a.launch = [] := by
  have h : (findId Ask.id 12 asking.asks).map (fun a => ((asking.launch? a.launch).map (fun la => la.answers && a.mark.isNone &&
      a.addrs.all (fun p => (asking.owners.get (granuleOf p)).toNat = ownCopy) && !asking.damaged a.addrs), a.seq, asking.heldAsks a.launch)) = some (some true, none, []) := by decide +kernel
  rw [Option.map_eq_some_iff] at h
  obtain ⟨a, ha, h⟩ := h
  rw [Prod.mk.injEq, Prod.mk.injEq, Option.map_eq_some_iff] at h
  obtain ⟨⟨la, hl, h⟩, hs, hh⟩ := h
  simp only [Bool.and_eq_true, List.all_eq_true, decide_eq_true_eq, Option.isNone_iff_eq_none, Bool.not_eq_true'] at h
  exact ⟨a, la, ha, hl, h.1.1.1, h.1.1.2, h.1.2, h.2, hs, hh⟩
/-- R306: item 100, sequence 0, two static items left. -/
theorem test_wqAskAnswer : (next (exec (.wqAskAnswer 12) asking) base).mem = [(scratchAt 0, 100), (scratchAt 0 + 8, 2)] := by decide +kernel
/-- The query names a tidemark at byte 32 beside. -/
def marked : State := { asking with mem := [(scratchAt 0 + 40, 5)], asks := asking.asks.map (fun a => { a with mark := some (scratchAt 0 + 32) }) }
theorem witness_wqAskAnswer_mark : (findId Ask.id 12 marked.asks).map (fun a => ((marked.launch? a.launch).map (fun la => la.answers &&
    a.addrs.all (fun p => (marked.owners.get (granuleOf p)).toNat = ownCopy) && !marked.damaged a.addrs), a.mark, a.seq, (marked.heldAsks a.launch).length)) =
    some (some true, some (scratchAt 0 + 32), none, 0) := by decide +kernel
/-- All three items have been handed out, and work may still come: the query is held, with number 0. -/
def emptyAsk : State := { asking with launches := asking.launches.map (fun la => { la with dist := { la.dist with handed := 3 } }) }
theorem witness_wqAskAnswer_held : ∃ a la, findId Ask.id 12 emptyAsk.asks = some a ∧ emptyAsk.launch? a.launch = some la ∧ la.answers = false ∧ a.seq = none := by
  have h : (findId Ask.id 12 emptyAsk.asks).map (fun a => (emptyAsk.launch? a.launch).map (fun la => (la.answers, a.seq))) = some (some (false, none)) := by decide +kernel
  rw [Option.map_eq_some_iff] at h
  obtain ⟨a, ha, h⟩ := h
  rw [Option.map_eq_some_iff] at h
  obtain ⟨la, hl, h⟩ := h
  exact ⟨a, la, ha, hl, (Prod.mk.inj h).1, (Prod.mk.inj h).2⟩
/-- The held query, once an item has been spilled: it is first, and answers with the number it took. -/
def heldAsk : State := { asking with asks := (next (exec (.wqAskAnswer 12) emptyAsk) base).asks }
theorem witness_wqAskAnswer_turn : ∃ a la, findId Ask.id 12 heldAsk.asks = some a ∧ heldAsk.launch? a.launch = some la ∧ la.answers = true ∧ a.mark = none ∧
    (∀ p ∈ a.addrs, (heldAsk.owners.get (granuleOf p)).toNat = ownCopy) ∧ heldAsk.damaged a.addrs = false ∧ a.seq = some 0 ∧
    (heldAsk.heldAsks a.launch).head?.map (·.id) = some 12 := by
  have h : (findId Ask.id 12 heldAsk.asks).map (fun a => ((heldAsk.launch? a.launch).map (fun la => la.answers && a.mark.isNone &&
      a.addrs.all (fun p => (heldAsk.owners.get (granuleOf p)).toNat = ownCopy) && !heldAsk.damaged a.addrs), a.seq, (heldAsk.heldAsks a.launch).head?.map (·.id))) = some (some true, some 0, some 12) := by decide +kernel
  rw [Option.map_eq_some_iff] at h
  obtain ⟨a, ha, h⟩ := h
  rw [Prod.mk.injEq, Prod.mk.injEq, Option.map_eq_some_iff] at h
  obtain ⟨⟨la, hl, h⟩, hs, hh⟩ := h
  simp only [Bool.and_eq_true, List.all_eq_true, decide_eq_true_eq, Option.isNone_iff_eq_none, Bool.not_eq_true'] at h
  exact ⟨a, la, ha, hl, h.1.1.1, h.1.1.2, h.1.2, h.2, hs, hh⟩
/-- Nothing is left, every lane has exited, and a round ends at core 0. -/
def ending : State := withGroup (fun g => { g with run := none, lanes := g.lanes.map (fun ln => { ln with st := .exited }) })
  { workS with launches := workS.launches.map (fun la => { la with dist := { la.dist with handed := 3, circulating := true } }) }
/-- What a step of the token asks, and `p` of the launch. -/
def TokenAt (s : State) (low at_ next : Nat) (cs : List Nat) (p : Launch → Prop) : Prop :=
  ∃ la, s.launch? 3 = some la ∧ s.circuit la = low :: cs ∧ la.st = .running ∧ la.rcd.work.dynamic = true ∧ la.dist.declared = false ∧
    s.blocks.any (fun b => b.launch = 3 && b.st = .saved) = false ∧ la.dist.leaving = [] ∧ Follows (s.circuit la) at_ next ∧ p la
/-- Is the token back on the circuit? -/
def backIn (s : State) (la : Launch) : Prop := la.dist.circulating = true ∧ la.dist.token ∈ s.circuit la
theorem witness_tokenPass : TokenAt ending 0 0 0 [] (fun la => backIn ending la ∧ la.dist.token = 0 ∧ ending.passive la 0 = true ∧ la.dist.tokenBlack = false ∧
    0 ∉ la.dist.black ∧ la.hasItem = false) :=
  ⟨_, rfl, by decide +kernel, by decide, by decide, by decide, by decide +kernel, by decide, by unfold Follows; decide +kernel, by unfold backIn; decide +kernel⟩
/-- A lane runs at core 0, and no token is on its way. -/
theorem witness_tokenPass_keeps : TokenAt workS 0 0 0 [] (fun la => ¬ backIn workS la ∧ workS.passive la 0 = false) :=
  ⟨_, rfl, by decide +kernel, by decide, by decide, by decide, by decide +kernel, by decide, by unfold Follows; decide +kernel, by unfold backIn; decide +kernel⟩
/-- Core 1 has a block too; it is black, and holds the token. -/
def passing (circulating : Bool) : State :=
  { ending with
    blocks := ending.blocks ++ ending.blocks.map (fun b => { b with id := 77, cores := [1] })
    launches := ending.launches.map (fun la => { la with dist := { la.dist with queues := [(0, []), (1, [])], token := 1, black := [1], circulating } }) }
theorem witness_tokenPass_on : TokenAt (passing true) 0 1 0 [1] (fun la => backIn (passing true) la ∧ la.dist.token = 1 ∧ (passing true).passive la 1 = true) :=
  ⟨_, rfl, by decide +kernel, by decide, by decide, by decide, by decide +kernel, by decide, by unfold Follows; decide +kernel, by unfold backIn; decide +kernel⟩
theorem witness_tokenPass_starts : TokenAt (passing false) 0 0 1 [1] (fun la => ¬ backIn (passing false) la ∧ (passing false).passive la 0 = true) :=
  ⟨_, rfl, by decide +kernel, by decide, by decide, by decide, by decide +kernel, by decide, by unfold Follows; decide +kernel, by unfold backIn; decide +kernel⟩
theorem test_tokenPass : (next (exec (.tokenPass 3) ending) base).launches.map (·.dist.declared) = [true] := by decide +kernel
/-- R309: a black core turns the token black, and turns white; the token goes from the highest core to the lowest. -/
theorem test_tokenPass_on : (next (exec (.tokenPass 3) (passing true)) base).launches.map (fun la => (la.dist.token, la.dist.tokenBlack, la.dist.black)) = [(0, true, [])] := by
  decide +kernel

/-! ### The matrix engine -/

/-- A format word: types of A and B, accumulator, scale, Hadamard and rounding codes (R314). -/
def fmtWord (a b acc scale had rnd : Nat) : Nat := a * 2 ^ 28 + b * 2 ^ 24 + acc * 2 ^ 20 + scale * 2 ^ 18 + had * 2 ^ 16 + rnd * 2 ^ 12
/-- A parameter block of K, M, N, with A and B through m3 (R317). -/
def pbWord (k m n : Nat) : Nat := k * 2 ^ 96 + m * 2 ^ 80 + n * 2 ^ 64 + 0x03030000
/-- A group of the MMA role (R157); a 64 × 64 tile of FP32 on position 0; the parameter block, in granule 8, is m2, and m3 has 64 rows of 32 bytes. -/
def matS (w pb : Nat) : State := withGroup (fun g => { g with role := 1 }) (withV (fun _ => [(0, BitVec.ofNat 32 w), (1, 0), (2, 0)])
  (withRec (fun r => { r with
      roles := true, roleEntries := List.replicate 3 { entry := 0, budget := 32, groups := 1 }, scratch := 64, levels := r.levels.set 0 { Level.absent with present := true, domain := 4, count := 8 }
      tiles := [{ format := 9, rows := 64, cols := 64, split := false, home := 0 }]
      roots := [0, 0, lay 1 2 [16] [4] 4096, lay 1 0 [32, 64] [1, 32] 0, lay 1 2 [64, 64] [4, 256] 8192, lay 1 0 [16384] [1] 8192] })
    { base with mem := (leBytes 64 pb).zipIdx.filterMap (fun x => if x.1 = 0 then none else some (scratchAt 0 + 4096 + x.2, x.1))
                owners := (List.range 64).map (fun g => (g, 3)) }))
def matF : Form := form 0 (.field 0) (.v 0) (.v 1) (fld 2)

/-- An entry of core 0's queue. -/
def entryOf (kind : MatKind) (started : Bool) : MatEntry :=
  { id := 50, op := 50, group := 1, block := 2, launch := 3, cores := [0], core := 0, lanes := 0xFF, tile := 0, kind
    lays := [(3, lay 1 0 [32, 64] [1, 32] 0), (3, lay 1 0 [32, 64] [1, 32] 0)], started, row := 0, suspended := false, granules := [] }
/-- Sixteen entries fill core 0's queue (R313). -/
def crowd (s : State) : State := { s with matrix := (List.range 16).map (fun i => { entryOf .zero false with id := 50 + i }) }

/-- The queues have room. -/
def roomB (s : State) (cores : List Nat) : Bool := cores.all (fun c => !s.matrixFull c)
theorem room_of {s : State} {cores : List Nat} (h : roomB s cores = true) : queuesFree s cores := fun c hc => by simpa using List.all_eq_true.mp h c hc
/-- A queue is full. -/
def fullB (s : State) (cores : List Nat) : Bool := cores.any s.matrixFull

/-- What `computeGood` asks, evaluated, and `q` of the queues behind what re-enters them. -/
def compB (which : Nat) (q : State → List Nat → Bool) (f : Form) (s : State) (e : Env) : Bool :=
  match paramBlock s e (layC f) (s.lowSrc e f.b).toNat with
  | .error _ => false
  | .ok as =>
    let w := s.lowSrc e f.a
    let pb := BitVec.ofNat 512 (s.load as)
    let tile := if which = 0 then s.tileOf e (pbTile pb) else none
    let cores := match tile with
      | some t => tileCores t.2 t.1
      | none => [e.g.core]
    (formatFault s e f which).isNone && !s.damaged as && (decide (which ≠ 0) || tile.elim false (fun t => decide (t.1.format = bitsOf w.toNat 23 20))) &&
      pbOk which w ((kGranule which w).getD 1) (tile.map (·.1)) pb && (matOpnds which w pb).all (fun o => (matOpndCheck s e o).isNone) &&
      q (s.reenterAt e (.compute which w as pb)) cores

/-- What it shows. -/
theorem comp_of {which : Nat} {q : State → List Nat → Bool} {f : Form} {s : State} {e : Env} (h : compB which q f s e = true) :
    ∃ as pb cores, computeGood which f s e as pb cores ∧ q (s.reenterAt e (.compute which (s.lowSrc e f.a) as pb)) cores = true := by
  unfold compB at h
  split at h
  · simp at h
  · rename_i as has
    simp only [Bool.and_eq_true, Option.isNone_iff_eq_none, List.all_eq_true, Bool.not_eq_true'] at h
    obtain ⟨⟨⟨⟨⟨h1, hd⟩, h2⟩, h3⟩, h4⟩, h5⟩ := h
    refine ⟨as, _, _, ⟨h1, has, hd, rfl, fun hw => ?_, h3, h4, rfl⟩, h5⟩
    simp only [hw, ne_eq, not_true_eq_false, decide_false, Bool.false_or, if_true] at h2 ⊢
    cases ht : s.tileOf e (pbTile (BitVec.ofNat 512 (s.load as))) with
    | none => simp [ht] at h2
    | some t => exact ⟨t.1, t.2, rfl, by simpa [ht] using h2⟩

/-- MMA, QUANT or HAD may be queued. -/
def mayCompute (which : Nat) (f : Form) (s : State) (e : Env) : Prop :=
  ∃ as pb cores, computeGood which f s e as pb cores ∧ queuesFree (s.reenterAt e (.compute which (s.lowSrc e f.a) as pb)) cores
/-- It waits at issue. -/
def computeWaits (which : Nat) (f : Form) (s : State) (e : Env) : Prop :=
  ∃ as pb cores, computeGood which f s e as pb cores ∧ ∃ c ∈ cores, (s.reenterAt e (.compute which (s.lowSrc e f.a) as pb)).matrixFull c = true
theorem may_of {which : Nat} {f : Form} {s : State} {e : Env} (h : compB which roomB f s e = true) : mayCompute which f s e :=
  let ⟨as, pb, cores, hg, hr⟩ := comp_of h
  ⟨as, pb, cores, hg, room_of hr⟩
theorem waits_of {which : Nat} {f : Form} {s : State} {e : Env} (h : compB which fullB f s e = true) : computeWaits which f s e :=
  let ⟨as, pb, cores, hg, hr⟩ := comp_of h
  ⟨as, pb, cores, hg, List.any_eq_true.mp hr⟩

/-- FP16 by FP16 into FP32. -/
def mulS : State := matS (fmtWord 0 0 9 0 0 0) (pbWord 16 64 64)
theorem witness_mma : Meets .mma noRuns (mayCompute 0) matF mulS := meets_of (compB 0 roomB _ _) (fun _ => may_of) (by decide +kernel)
theorem witness_mma_waits : Meets .mma noRuns (computeWaits 0) matF (crowd mulS) := meets_of (compB 0 fullB _ _) (fun _ => waits_of) (by decide +kernel)
/-- FP16 to FP4, K = 192, through wider entries. -/
def wideS (w pb : Nat) : State := withRec (fun r => { r with roots := r.roots.set 3 (lay 1 0 [512, 64] [1, 512] 0) }) (matS w pb)
def quantS : State := wideS (fmtWord 0 2 0 1 0 0) (pbWord 192 64 0 + 3)
theorem witness_quant : Meets .quant noRuns (mayCompute 1) matF quantS := meets_of (compB 1 roomB _ _) (fun _ => may_of) (by decide +kernel)
theorem witness_quant_waits : Meets .quant noRuns (computeWaits 1) matF (crowd quantS) := meets_of (compB 1 fullB _ _) (fun _ => waits_of) (by decide +kernel)
def hadS : State := wideS (fmtWord 0 0 0 0 1 0) (pbWord 16 64 0)
theorem witness_had : Meets .had noRuns (mayCompute 2) matF hadS := meets_of (compB 2 roomB _ _) (fun _ => may_of) (by decide +kernel)
theorem witness_had_waits : Meets .had noRuns (computeWaits 2) matF (crowd hadS) := meets_of (compB 2 fullB _ _) (fun _ => waits_of) (by decide +kernel)
/-- The parameter block can be read in part only (R433). -/
def paramBad (s : State) : State := { s with bad := [(scratchAt 0 + 4096) / 32] }
def paramBadB (which : Nat) (f : Form) (s : State) (e : Env) : Bool := match paramBlock s e (layC f) (s.lowSrc e f.b).toNat with
  | .ok as => (formatFault s e f which).isNone && s.damaged as
  | .error _ => false
theorem paramBad_of {which : Nat} {f : Form} {s : State} {e : Env} (h : paramBadB which f s e = true) :
    ∃ as, formatFault s e f which = none ∧ paramBlock s e (layC f) (s.lowSrc e f.b).toNat = .ok as ∧ s.damaged as = true := by
  unfold paramBadB at h
  split at h
  · simp only [Bool.and_eq_true, Option.isNone_iff_eq_none] at h
    exact ⟨_, h.1, by assumption, h.2⟩
  · simp at h
theorem witness_mma_damaged : Meets .mma noRuns (fun f s e => ∃ as, formatFault s e f 0 = none ∧ paramBlock s e (layC f) (s.lowSrc e f.b).toNat = .ok as ∧ s.damaged as = true)
    matF (paramBad mulS) := meets_of (paramBadB 0 _ _) (fun _ => paramBad_of) (by decide +kernel)
theorem witness_quant_damaged : Meets .quant noRuns (fun f s e => ∃ as, formatFault s e f 1 = none ∧ paramBlock s e (layC f) (s.lowSrc e f.b).toNat = .ok as ∧ s.damaged as = true)
    matF (paramBad quantS) := meets_of (paramBadB 1 _ _) (fun _ => paramBad_of) (by decide +kernel)
theorem witness_had_damaged : Meets .had noRuns (fun f s e => ∃ as, formatFault s e f 2 = none ∧ paramBlock s e (layC f) (s.lowSrc e f.b).toNat = .ok as ∧ s.damaged as = true)
    matF (paramBad hadS) := meets_of (paramBadB 2 _ _) (fun _ => paramBad_of) (by decide +kernel)
/-- Nothing is queued, the lanes may complete, and ENGINE_FAULT is pending. -/
theorem test_mma_damaged : (let t := next (exec (.mma matF) (paramBad mulS)) base
    (t.matrix.length, t.ops.map (fun o => o.lanes.map (·.cond)), t.groups.map (fun g => g.faults.length))) = (0, [List.replicate 8 .ready], [1]) := by decide +kernel
/-- R16, R76: a format word beyond the budget is REG_BUDGET (4), and no ILLEGAL_FORM. -/
theorem test_mma_budget : (next (exec (.mma { matF with a := .v 255 }) (withRec (fun r => { r with roleEntries := List.replicate 3 { entry := 0, budget := 8, groups := 1 } }) mulS)) base).completions.map (·.status) =
    [4] := by decide +kernel
/-- R28, R320: lane 0 alone has l0 written: MMA reports on every lane of X, IADD on the others. -/
def partL : State := withGroup (fun g => { g with lanes := g.lanes.mapIdx (fun l ln => { ln with lValid := if l = 0 then 1 else 0 }) }) mulS
theorem test_mma_l : (partL.env Guard.always).map (fun e => [partL.preCheck e .mma { matF with a := .l 0 } [], partL.preCheck e .iadd { two with a := .l 0 } []]) =
    some [some (2, 0, 0xFF), some (2, 0, 0xFE)] := by decide +kernel
/-- R48, R315: rounding code 5 of MMA's format word is ILLEGAL_FORM (2). -/
theorem test_mma_rounding : (next (exec (.mma matF) (matS (fmtWord 0 0 9 0 0 5) (pbWord 16 64 64))) base).completions.map (·.status) = [2] := by decide +kernel

/-- The tile that an ACC instruction names, evaluated; `q` of the queues. -/
def tileB (f : Form) (s : State) (kind : Env → MatKind) (q : State → List Nat → Bool) (p : Env → TileDesc → Block → Bool) (e : Env) : Bool :=
  (s.tileOf e (accTile s e f)).elim false (fun t => p e t.1 t.2 && q (s.reenterAt e (kind e)) (tileCores t.2 t.1))
theorem tile_of {f : Form} {s : State} {kind : Env → MatKind} {q : State → List Nat → Bool} {p : Env → TileDesc → Block → Bool} {e : Env}
    (h : tileB f s kind q p e = true) :
    ∃ d b, s.tileOf e (accTile s e f) = some (d, b) ∧ p e d b = true ∧ q (s.reenterAt e (kind e)) (tileCores b d) = true := by
  unfold tileB at h
  cases ht : s.tileOf e (accTile s e f) with
  | none => simp [ht] at h
  | some t =>
    simp only [ht, Option.elim_some, Bool.and_eq_true] at h
    exact ⟨t.1, t.2, rfl, h.1, h.2⟩

/-- Tile 0 in v1; coordinates from v1. -/
def accS : State := matS 0 0
/-- An ACC instruction, its entry and its checks. -/
def zeroF : Form := form 0 (.field 0) nil (.v 1) nil
def drainF : Form := form 0 (.field 4) (.v 1) (.v 1) (.field 0x240)
def imageF : Form := form 0 (.field 5) (.v 1) (.v 1) nil
def drainKind (e : Env) : MatKind := .drain (e.layout 4) 4 (accS.lowAt e drainF 0) (accS.lowAt e drainF 1) 9 0 false
def drainOk (s : State) (e : Env) (d : TileDesc) (_ : Block) : Bool :=
  decide (drainSuits d.format (drainF.c.uimm / 64) = true ∧ (drainF.c.uimm / 4 % 16 = 0 ∨ (drainF.c.uimm / 64 ≠ 11 ∧ drainF.c.uimm / 64 ≠ 12)) ∧
    regionCheck s e 4 1 2 (drainBytes (drainF.c.uimm / 64)) (drainBytes (drainF.c.uimm / 64)) [(s.lowAt e drainF 0, d.cols), (s.lowAt e drainF 1, d.rows)] false
      (layW (e.layout 4) && (decide (drainF.mod ≠ 1) || layA (e.layout 4))) = none)
def imageKind (save : Bool) (e : Env) : MatKind := if save then .save (e.layout 5) 5 (accS.lowAt e imageF 0) else .load (e.layout 5) 5 (accS.lowAt e imageF 0)
def imageOk (write : Bool) (s : State) (e : Env) (d : TileDesc) (_ : Block) : Bool :=
  decide (regionCheck s e 5 (if write then 1 else 0) 1 1 16 [(s.lowAt e imageF 0, d.rows * d.cols * imageBytes d.format)] true
    (if write then layW (e.layout 5) else layR (e.layout 5)) = none)
/-- The entry may be queued, or, with `fullB`, waits at issue. -/
def accMeets (op : Op) (run : Nat) (f : Form) (kind : Env → MatKind) (q : State → List Nat → Bool) (p : State → Env → TileDesc → Block → Bool) (s : State) : Prop :=
  Meets op (fun f _ => if run = 0 then [] else [(Opnd.first f.a, run)])
    (fun f s e => ∃ d b, s.tileOf e (accTile s e f) = some (d, b) ∧ p s e d b = true ∧ q (s.reenterAt e (kind e)) (tileCores b d) = true) f s
theorem acc_meets {op : Op} {run : Nat} {f : Form} {kind : Env → MatKind} {q : State → List Nat → Bool} {p : State → Env → TileDesc → Block → Bool} {s : State}
    (h : meetsB op (fun _ => if run = 0 then [] else [(Opnd.first f.a, run)]) (tileB f s kind q (p s)) f s = true) : accMeets op run f kind q p s :=
  meets_of (tileB f s kind q (p s)) (fun _ => tile_of) h
theorem witness_accZero : accMeets .accZero 0 zeroF (fun _ => .zero) roomB (fun _ _ _ _ => true) accS := acc_meets (by decide +kernel)
theorem witness_accZero_waits : accMeets .accZero 0 zeroF (fun _ => .zero) fullB (fun _ _ _ _ => true) (crowd accS) := acc_meets (by decide +kernel)
/-- FP32 to m4, not adding. -/
theorem witness_accDrain : accMeets .accDrain 2 drainF drainKind roomB drainOk accS := acc_meets (by decide +kernel)
theorem witness_accDrain_waits : accMeets .accDrain 2 drainF drainKind fullB drainOk (crowd accS) := acc_meets (by decide +kernel)
theorem witness_accSave : accMeets .accSave 1 imageF (imageKind true) roomB (imageOk true) accS := acc_meets (by decide +kernel)
theorem witness_accSave_waits : accMeets .accSave 1 imageF (imageKind true) fullB (imageOk true) (crowd accS) := acc_meets (by decide +kernel)
theorem witness_accLoad : accMeets .accLoad 1 imageF (imageKind false) roomB (imageOk false) accS := acc_meets (by decide +kernel)
theorem witness_accLoad_waits : accMeets .accLoad 1 imageF (imageKind false) fullB (imageOk false) (crowd accS) := acc_meets (by decide +kernel)
/-- R313: with its queue full the instruction waits: nothing is queued. -/
theorem test_accZero_waits : (next (exec (.accZero zeroF) (crowd accS)) base).matrix.length = 16 := by decide +kernel
/-- R312: tile 1 is not declared: PERMISSION, resource 1, number 0x101. -/
theorem test_accZero_undeclared : (next (exec (.accZero (form 0 (.field 0) nil (.v 1) nil)) (withV (fun _ => [(1, 1)]) accS)) base).completions.map (fun c => (c.status, c.detail.extractLsb' 0 32)) =
    [(0x12, 0x40000101)] := by decide +kernel

/-- It alone is queued. -/
def queued (kind : MatKind) (started : Bool) (s : State) : State := { s with matrix := [entryOf kind started] }
/-- Element (0, 1) of the tile holds 1.0. -/
def zeroing : State := queued .zero false { accS with acc := [(accKey 2 0 0 1, 0x3F800000)] }
theorem witness_entryStart : ∃ m, zeroing.nextEntry 0 = some m ∧ (∀ w p as pb, m.kind ≠ .compute w p as pb) ∧ (∀ n, m.kind ≠ .integrate n) ∧ (zeroing.runEntry m).2 = none :=
  ⟨_, rfl, by simp [entryOf], by simp [entryOf], rfl⟩
/-- A save of the tile to bytes that THREADS own. -/
def savingBad : State := queued (.save (lay 1 0 [4096] [1] 0) 5 0) false { accS with owners := [] }
/-- Does an entry fail? -/
def entryFails (x : Option EngBad) : Bool := match x with
  | some (.fail _ _ _) => true
  | _ => false
theorem entryFail_of {x : Option EngBad} (h : entryFails x = true) : ∃ reason k g, x = some (.fail reason k g) := by
  unfold entryFails at h
  split at h
  · exact ⟨_, _, _, rfl⟩
  · simp at h
theorem witness_entryStart_fails : ∃ m reason k g, savingBad.nextEntry 0 = some m ∧ (∀ w p as pb, m.kind ≠ .compute w p as pb) ∧ (∀ n, m.kind ≠ .integrate n) ∧
    (savingBad.runEntry m).2 = some (.fail reason k g) := by
  obtain ⟨reason, k, g, h⟩ := entryFail_of (x := (savingBad.runEntry (entryOf (.save (lay 1 0 [4096] [1] 0) 5 0) false)).2) (by decide +kernel)
  exact ⟨_, reason, k, g, rfl, by simp [entryOf], by simp [entryOf], h⟩
/-- R326. -/
theorem test_accZero : ((next (exec (.matrixQueueEntryStart 0) zeroing) base).acc, (next (exec (.matrixQueueEntryStart 0) zeroing) base).matrix) = ([], []) := by decide +kernel
/-- A computation of 128 rows, its parameter block read at issue, of which the first `row` are done. -/
def mulKind : MatKind := .compute 0 0x00900000 (span (scratchAt 0 + 4096) 64) (BitVec.ofNat 512 (pbWord 16 128 64))
def multiplying (started : Bool) (row : Nat) : State :=
  { matS 0x00900000 (pbWord 16 128 64) with matrix := [{ entryOf mulKind started with row }] }
theorem witness_computeStart : ∃ m w p as pb, (multiplying false 0).nextEntry 0 = some m ∧ m.kind = .compute w p as pb ∧ m.row = 0 ∧
    (if pbDone pb then 0 else pbRows pb) < pbM pb := ⟨_, _, _, _, _, rfl, rfl, rfl, by decide +kernel⟩
theorem witness_computeStart_resumed : ∃ m w p as pb, (multiplying false 64).nextEntry 0 = some m ∧ m.kind = .compute w p as pb ∧ m.row ≠ 0 ∧ m.row < pbM pb :=
  ⟨_, _, _, _, _, rfl, rfl, by decide, by decide +kernel⟩
/-- The sector of word 13, rows completed, is damaged. -/
def startBad : State := { multiplying false 0 with bad := [(scratchAt 0 + 4096 + 52) / 32] }
theorem witness_computeStart_damaged : ∃ m w p as pb, startBad.nextEntry 0 = some m ∧ m.kind = .compute w p as pb ∧ startBad.paramLost as [13] = true :=
  ⟨_, _, _, _, _, rfl, rfl, by decide +kernel⟩
theorem witness_computeStart_sound : (multiplying false 0).paramLost (span (scratchAt 0 + 4096) 64) [13] = false := by decide +kernel
theorem witness_computeStart_over : ∃ m w p as pb, (multiplying false 128).nextEntry 0 = some m ∧ m.kind = .compute w p as pb ∧ m.row ≠ 0 ∧ pbM pb ≤ m.row :=
  ⟨_, _, _, _, _, rfl, rfl, by decide, by decide +kernel⟩

/-- A band of MMA that can be read. -/
def bandOk (r : Except EngBad Band) : Bool := match r with
  | .ok _ => true
  | .error _ => false
theorem band_of {r : Except EngBad Band} (h : bandOk r = true) : ∃ b, r = .ok b := by
  unfold bandOk at h
  split at h
  · exact ⟨_, rfl⟩
  · simp at h
/-- One that fails. -/
def bandFails (r : Except EngBad Band) : Bool := match r with
  | .error (.fail _ _ _) => true
  | _ => false
theorem fail_of {r : Except EngBad Band} (h : bandFails r = true) : ∃ reason k g, r = .error (.fail reason k g) := by
  unfold bandFails at h
  split at h
  · exact ⟨_, _, _, rfl⟩
  · simp at h
/-- The band of computation `which` at the row that an entry has reached. -/
def bandAt (s : State) (m : MatEntry) (which : Nat) (w : Word) (pb : BitVec 512) (seed : Word) : Except EngBad Band :=
  if which = 0 then s.mmaBand m (s.entryFormat m) w pb m.row else s.quantBand m which w pb seed m.row
/-- Core 0 runs an entry whose band can be read; more rows follow, or none; the words of its parameter block can be written, or are lost. -/
def Committing (s : State) (which : Nat) (more lost : Bool) : Prop :=
  ∃ m p as pb b, (s.matrixQueue 0).find? (·.started) = some m ∧ m.kind = .compute which p as pb ∧
    (let seed := pb.extractLsb' 32 32
     bandAt s m which p pb (if seed = 0 then 1 else seed) = .ok b) ∧ decide (m.row + 64 < pbM pb) = more ∧
    s.paramLost as (13 :: 14 :: (if b.seed.isSome then [1] else [])) = lost
/-- What it says, evaluated. -/
def committingB (s : State) (which : Nat) (more lost : Bool) : Bool := match (s.matrixQueue 0).find? (·.started) with
  | some m => match m.kind with
    | .compute w p as pb =>
      let seed := pb.extractLsb' 32 32
      decide (w = which) && bandOk (bandAt s m which p pb (if seed = 0 then 1 else seed)) && decide (decide (m.row + 64 < pbM pb) = more) &&
        decide (s.paramLost as [13, 14] = lost) && decide (s.paramLost as [13, 14, 1] = lost)
    | _ => false
  | none => false
theorem committing_of {s : State} {which : Nat} {more lost : Bool} (h : committingB s which more lost = true) : Committing s which more lost := by
  unfold committingB at h
  split at h
  · rename_i m hm
    split at h
    · rename_i w p as pb hk
      simp only [Bool.and_eq_true, decide_eq_true_eq] at h
      obtain ⟨⟨⟨⟨hw, hb⟩, hr⟩, hl⟩, hl'⟩ := h
      obtain ⟨b, hb⟩ := band_of hb
      exact ⟨m, p, _, pb, b, hm, hw ▸ hk, hb, hr, by split <;> assumption⟩
    · simp at h
  · simp at h
/-- A state in which core 0 runs a computation from its first row, with A, B and SB through one entry. -/
def running (s : State) (which w pb : Nat) (m : BitVec 512) : State :=
  { s with matrix := [{ entryOf (.compute which (BitVec.ofNat 32 w) (span (scratchAt 0 + 4096) 64) (BitVec.ofNat 512 pb)) true with lays := [(3, m), (3, m), (3, m)] }] }
def narrow : BitVec 512 := lay 1 0 [32, 64] [1, 32] 0
theorem witness_bandCommit : Committing (running mulS 0 0x00900000 (pbWord 16 128 64) narrow) 0 true false := committing_of (by decide +kernel)
theorem witness_bandCommit_lost : Committing (running { mulS with bad := startBad.bad } 0 0x00900000 (pbWord 16 128 64) narrow) 0 true true := committing_of (by decide +kernel)
theorem witness_bandCommit_last : Committing (running mulS 0 0x00900000 (pbWord 16 64 64) narrow) 0 false false := committing_of (by decide +kernel)
theorem witness_bandCommit_had : Committing (running hadS 2 0x10000 (pbWord 16 64 0) narrow) 2 false false := committing_of (by decide +kernel)
/-- Granule 0, which the band reads, is back with THREADS. -/
def mulFails : State := { multiplying true 0 with owners := [(8, 3)] }
theorem witness_bandCommit_fails : ∃ m p as pb reason k g, (mulFails.matrixQueue 0).find? (·.started) = some m ∧ m.kind = .compute 0 p as pb ∧
    mulFails.mmaBand m (mulFails.entryFormat m) p pb m.row = .error (.fail reason k g) := by
  obtain ⟨reason, k, g, h⟩ := fail_of (r := mulFails.mmaBand { entryOf mulKind true with row := 0 } 9 0x00900000 (BitVec.ofNat 512 (pbWord 16 128 64)) 0) (by decide +kernel)
  exact ⟨_, _, _, _, reason, k, g, rfl, rfl, h⟩
theorem witness_bandCommit_quant : Committing (running quantS 1 0x02040000 (pbWord 16 64 0 + 3) (lay 1 0 [512, 64] [1, 512] 0)) 1 false false :=
  committing_of (by decide +kernel)

/-! ### The Tideway -/

/-- The name of slot 1 of core 0 of device 0 (R332), and an open chain there, of one contribution of 64 × 64 elements. -/
def name1 : Word := 0x10000
def chain1 : Chain :=
  { core := 0, slot := 1, launch := 3, block := 2, isOpen := true, gen := 1, exact := false, set := true, scale := 0, count := 2, acked := 1, tile := 0, i0 := 0, j0 := 0
    rows := 64, cols := 64, landed := 0, sums := [], stat := [], aborted := false, waiter := none, placed := false, suspended := false, saved := false
    held := false, peers := [], awaited := [] }
/-- A binding to it. -/
def bound1 : Binding := { name := name1, gen := 1, exact := false, rows := 64, cols := 64, share := 1, pending := false, suspended := false }
/-- The lanes hold the descriptor of a chain in slot 1 (R335) at v0, the name at v2, a share at v3, and the slot at v4. -/
def chainS : State := withV (fun _ => [(0, 0x00044000), (1, 0x04000001), (2, name1), (3, 1), (4, 1), (5, 0)]) accS
/-- The chain is open and the group bound to it. -/
def joined : State := withGroup (fun g => { g with bindings := [bound1] }) { chainS with chains := [chain1] }

theorem witness_chainOpen : Meets .chainOpen noRuns (fun f s e => ∃ t b, s.tileOf e (Chain.ofDesc (s.lowPair e f.a) e.g.core e.la.id e.b.id 1).tile = some (t, b) ∧
    chainGood e (s.lowPair e f.a) (Chain.ofDesc (s.lowPair e f.a) e.g.core e.la.id e.b.id 1) t b) (form 0 (.p 1) (.v 0) nil nil) chainS :=
  meets_of (fun e => match chainS.tileOf e 0 with
      | none => false
      | some t =>
        let c := Chain.ofDesc (chainS.lowPair e (.v 0)) e.g.core e.la.id e.b.id 1
        decide (c.tile = 0) && decide (bitsOf (chainS.lowPair e (.v 0)).toNat 13 0 = 0 ∧ c.count ≠ 0 ∧ 0 < c.rows ∧ c.rows ≤ 384 ∧ 0 < c.cols ∧ c.cols ≤ 640 ∧ (c.exact = false → c.scale = 0) ∧
          t.1.format ≠ 11 ∧ regionHeld t.2 t.1 e.g.core c.i0 c.j0 c.rows c.cols = true))
    (fun e h => by
      split at h
      · simp at h
      · rename_i t ht
        simp only [Bool.and_eq_true, decide_eq_true_eq] at h
        exact ⟨t.1, t.2, by rw [show (form 0 (.p 1) (.v 0) nil nil).a = .v 0 from rfl, h.1, ht], h.2⟩) (by decide +kernel)
/-- R336: 32 KiB are reserved, and p1 is true. -/
theorem test_chainOpen : (next (exec (.chainOpen (form 0 (.p 1) (.v 0) nil nil)) chainS) base).chains.map (fun c => (c.slot, c.gen, c.count, c.bytes)) = [(1, 1, 1, 32768)] ∧
    (laneAfter (.chainOpen (form 0 (.p 1) (.v 0) nil nil)) chainS 0).pred 1 = true := by decide +kernel
theorem witness_chainJoin : Meets .chainJoin noRuns (fun f s e => s.nameKnown e.la (s.lowSrc e f.a) = true ∧ 0 < (s.lowSrc e f.b).toNat ∧ (s.lowSrc e f.b).toNat ≤ 65535 ∧
    (∀ b, e.g.binding? (s.lowSrc e f.a) = some b → b.pending = false) ∧ (e.g.binding? (s.lowSrc e f.a) = none → e.g.bindings.length < 16)) (form 0 (.p 1) (.v 2) (.v 3) nil) chainS :=
  meets_of (fun e => chainS.nameKnown e.la (chainS.lowSrc e (.v 2)) && decide (0 < (chainS.lowSrc e (.v 3)).toNat ∧ (chainS.lowSrc e (.v 3)).toNat ≤ 65535) && e.g.bindings.isEmpty)
    (fun e h => by
      simp only [Bool.and_eq_true, decide_eq_true_eq, List.isEmpty_iff] at h
      exact ⟨h.1.1, h.1.2.1, h.1.2.2, fun b hb => by simp [Group.binding?, h.2] at hb, fun _ => by simp [h.2]⟩) (by decide +kernel)
/-- What CHAIN.SEND.ACC asks, with `q` of the queue behind what re-enters it. -/
def sendB (q : State → List Nat → Bool) (s : State) (e : Env) : Bool := match s.tileOf e ((s.lowSrc e (.v 5)).toNat % 16) with
  | none => false
  | some t => decide ((e.g.binding? (s.lowSrc e (.v 2))).map (fun b => (b.pending, b.suspended)) = some (false, false)) &&
    decide (t.1.format ≠ 11 ∧ (s.lowSrc e (.v 5)).toNat / 2 ^ 11 = 0 ∧ regionHeld t.2 t.1 e.g.core 0 0 64 64 = true) && q (s.reenterAt e (.send 0 0 0 64 64)) [e.g.core]
def sendF : Form := form 0 (.field 0) (.v 2) (.v 5) nil
def sendGood (q : State → List Nat → Bool) (f : Form) (s : State) (e : Env) : Prop :=
  (e.g.binding? (s.lowSrc e f.a)).map (fun b => (b.pending, b.suspended)) = some (false, false) ∧ f.mod = 0 ∧
    ∃ d blk, s.tileOf e ((s.lowSrc e f.b).toNat % 16) = some (d, blk) ∧ (d.format ≠ 11 ∧ (s.lowSrc e f.b).toNat / 2 ^ 11 = 0 ∧ regionHeld blk d e.g.core 0 0 64 64 = true) ∧
      q (s.reenterAt e (.send 0 0 0 64 64)) [e.g.core] = true
theorem send_of {q : State → List Nat → Bool} {s : State} {e : Env} (h : sendB q s e = true) : sendGood q sendF s e := by
  unfold sendB at h
  split at h
  · simp at h
  · rename_i t ht
    simp only [Bool.and_eq_true, decide_eq_true_eq] at h
    exact ⟨h.1.1, rfl, t.1, t.2, ht, h.1.2, h.2⟩
theorem witness_chainSend_acc : Meets .chainSend noRuns (sendGood roomB) sendF joined := meets_of (sendB roomB joined) (fun _ => send_of) (by decide +kernel)
theorem witness_chainSend_acc_waits : Meets .chainSend noRuns (sendGood fullB) sendF (crowd joined) :=
  meets_of (sendB fullB (crowd joined)) (fun _ => send_of) (by decide +kernel)
/-- R338: the only share is taken, and the binding goes. -/
theorem test_chainSend_share : (next (exec (.chainSend sendF) joined) base).groups.map (fun g => g.bindings.length) = [0] := by decide +kernel
/-- A binding of one element, to be sent through m1. -/
def boundSp : Binding := { bound1 with rows := 1, cols := 1 }
def sendSp : State := withGroup (fun g => { g with bindings := [boundSp] }) (withRec (fun r => { r with roots := r.roots.set 1 (lay 1 2 [1, 1] [4, 4] 0) }) joined)
theorem witness_chainSend_sp : Meets .chainSend noRuns (fun f s e => e.g.binding? (s.lowSrc e f.a) = some boundSp ∧ f.mod ≠ 0 ∧ layValid (e.layout (layC f)) = true ∧
    sendShape (e.layout (layC f)) boundSp = true ∧ layR (e.layout (layC f)) = true ∧ ∀ c ∈ sendElems boundSp.rows boundSp.cols, layAddr (e.layout (layC f)) c % 4 = 0)
    (form 1 (.field 0) (.v 2) nil (fld 1)) sendSp := meets (by decide +kernel)
theorem witness_chainWait : Meets .chainWait noRuns (fun f s e => ownChain s e f = some chain1 ∧ chain1.waiter = none) (form 0 (.field 0) (.v 4) nil nil) joined := meets (by decide +kernel)
theorem witness_chainAbort : Meets .chainAbort noRuns (fun f s e => ownChain s e f = some chain1) (form 0 (.field 0) (.v 4) nil nil) joined := meets (by decide +kernel)
theorem witness_chainStatus : Meets .chainStatus noRuns always (form 0 (.v 8) (.v 4) nil nil) joined := meets_of (fun _ => true) (fun _ _ => trivial) (by decide +kernel)
/-- The chain is suspended, and the binding marked. -/
def suspendedS : State := withGroup (fun g => { g with bindings := [{ bound1 with suspended := true }] }) { joined with chains := [{ chain1 with suspended := true }] }
theorem witness_chainAbort_suspended : Meets .chainAbort noRuns (fun f s e => ownChain s e f = some { chain1 with suspended := true }) (form 0 (.field 0) (.v 4) nil nil) suspendedS :=
  meets (by decide +kernel)
/-- R349, R353: the mark goes with the chain. -/
theorem test_chainAbort_unmarks : (next (exec (.chainAbort (form 0 (.field 0) (.v 4) nil nil)) suspendedS) base).groups.map (fun g => g.bindings.map (·.suspended)) =
    [[false]] := by decide +kernel
/-- R348: open, floating, nothing landed. -/
theorem test_chainStatus : (laneAfter (.chainStatus (form 0 (.v 8) (.v 4) nil nil)) joined 0).v.get 8 = 0x80000000 := by decide +kernel
/-- R349: the record says aborted, and the slot is free. -/
theorem test_chainAbort : (next (exec (.chainAbort (form 0 (.field 0) (.v 4) nil nil)) joined) base).chains.map (fun c => (c.isOpen, c.aborted)) = [(false, true)] := by decide +kernel

/-- A join request of one share, and one of two, which exceeds the count. -/
def joining (share : Nat) : State := { joined with joins := [{ id := 60, peer := none, op := 61, group := 1, launch := 3, name := name1, share, parked := false }] }
theorem witness_joinArrival : ∃ j, findId Join.id 60 (joining 1).joins = some j ∧ nameDevice j.name = (joining 1).device ∧
    (joining 1).openChain (nameCore j.name) (nameSlot j.name) j.launch = some chain1 ∧ chain1.suspended = false := ⟨_, rfl, by decide +kernel, by decide +kernel, rfl⟩
theorem witness_joinArrival_parks : ∃ j, findId Join.id 60 (joining 1).joins = some j ∧ nameDevice j.name = (joining 1).device ∧
    ({ joining 1 with chains := [] } : State).openChain (nameCore j.name) (nameSlot j.name) j.launch = none := ⟨_, rfl, by decide +kernel, by decide +kernel⟩
/-- R337: one more share within the count of 2; two more are refused. -/
theorem test_joinArrival : ((next (exec (.joinRequestArrival (.here 60)) (joining 1)) base).chains.map (·.acked), (next (exec (.joinRequestArrival (.here 60)) (joining 2)) base).chains.map (·.acked)) =
    ([2], [1]) := by decide +kernel
/-- Device 2 is a member of the group, to which tenant 0 is bound; the launch has link id 5. -/
def peerWindow : Window :=
  { tenant := 0, num := 4, kind := .peer 2 0 1, base := 2 ^ 30, size := 2 ^ 21, backing := 0, waiting := none, exports := [] }
def link5 : PeerLink := { tenant := 0, link := 5 }
def linkedS (s : State) : State := { s with members := 4, windows := [peerWindow], launches := s.launches.map (fun la => { la with link := 5 }) }
/-- Slot 1 of core 0 of device 2. -/
def farName : Word := 0x40010000
def farJoin : State := linkedS { joined with joins := [{ id := 60, peer := none, op := 61, group := 1, launch := 3, name := farName, share := 1, parked := false }] }
/-- A join of a peer's chain leaves, is refused where both links are down, and is answered. -/
theorem witness_joinArrival_far : ∃ j, findId Join.id 60 farJoin.joins = some j ∧ j.id = 60 ∧ nameDevice j.name ≠ farJoin.device ∧
    farJoin.peerCut (nameDevice j.name) = false ∧ j.parked = false ∧ j.peer = none ∧ nameDevice j.name = (2 : BitVec 3).toNat :=
  ⟨_, rfl, rfl, by decide, by decide, rfl, rfl, by decide⟩
theorem witness_joinArrival_cut : ∃ j, findId Join.id 60 ({ farJoin with linksDown := [4, 5] } : State).joins = some j ∧
    nameDevice j.name ≠ farJoin.device ∧ ({ farJoin with linksDown := [4, 5] } : State).peerCut (nameDevice j.name) = true := ⟨_, rfl, by decide, by decide⟩
theorem test_joinArrival_far : (next (exec (.joinRequestArrival (.here 60)) farJoin) base).outbox = [(2, .join 60 link5 farName 1)] := by decide +kernel
/-- A join of device 2 finds the chain, or none open. -/
theorem witness_joinArrival_peer : nameDevice name1 = (linkedS joined).device ∧ ∃ la, (linkedS joined).linked link5 (2 : BitVec 3).toNat = some la ∧
    (linkedS joined).openChain (nameCore name1) (nameSlot name1) la.id = some chain1 ∧ chain1.suspended = false :=
  ⟨by decide, _, rfl, by decide +kernel, rfl⟩
theorem witness_joinArrival_peer_parks : ∃ la, (linkedS { joined with chains := [] }).linked link5 (2 : BitVec 3).toNat = some la ∧
    (linkedS { joined with chains := [] }).openChain (nameCore name1) (nameSlot name1) la.id = none ∧ ∀ x ∈ (linkedS { joined with chains := [] }).joins, x.id ≠
      (linkedS { joined with chains := [] }).nextId := ⟨_, rfl, by decide +kernel, by decide⟩
theorem test_joinArrival_peer : (let t := next (exec (.joinRequestArrival (.peer 2 (.join 9 link5 name1 1))) (linkedS joined)) base
    (t.outbox, t.chains.map (fun c => (c.acked, c.peers)))) = ([(2, .joined 9 (some { gen := 1, exact := false, rows := 64, cols := 64 }))], [(2, [2])]) := by decide +kernel
/-- R457: a window that is exported to a tenant of device 2 binds the tenants too. -/
theorem test_linked_export : (({ linkedS joined with windows := [{ peerWindow with kind := .device, exports := [(2, 0)] }] } : State).linked link5 2).isSome = true := by decide +kernel
/-- A contribution of one element: read by its queue entry already, or of m1, in a granule that TIDEWAY owns. -/
def onWay (vals : Option (SMap 48)) : Contribution :=
  { id := 70, op := 71, group := 1, launch := 3, name := name1, gen := 1, rows := 1, cols := 1, vals, lay := lay 1 2 [1, 1] [4, 4] 0, entry := 1, block := 2, core := 0
    lanes := 0xFF, granules := [], away := false }
def landing (vals : Option (SMap 48)) : State := { joined with mem := [(scratchAt 0 + 2, 0x80), (scratchAt 0 + 3, 0x3F)], owners := [(0, 4)], contributions := [onWay vals] }
theorem witness_contributionLanding_read : ∃ x vals ch, findId Contribution.id 70 (landing (some [])).contributions = some x ∧ x.vals = some vals ∧
    nameDevice x.name = (landing (some [])).device ∧ (landing (some [])).openChain (nameCore x.name) (nameSlot x.name) x.launch = some ch ∧ ch.gen = x.gen :=
  ⟨onWay (some []), _, chain1, rfl, rfl, by decide +kernel, by decide +kernel, rfl⟩
/-- Reading gives elements. -/
def spOk (s : State) (x : Contribution) : Bool := match s.readSp x with
  | .ok _ => true
  | .error _ => false
theorem sp_of {s : State} {x : Contribution} (h : spOk s x = true) : ∃ v, s.readSp x = .ok v := by
  unfold spOk at h
  split at h
  · exact ⟨_, by assumption⟩
  · simp at h
theorem witness_contributionLanding_sp : ∃ x vals ch, findId Contribution.id 70 (landing none).contributions = some x ∧ x.vals = none ∧
    layValid x.lay = true ∧ (landing none).readSp x = .ok vals ∧ nameDevice x.name = (landing none).device ∧
    (landing none).openChain (nameCore x.name) (nameSlot x.name) x.launch = some ch ∧ ch.gen = x.gen := by
  obtain ⟨v, hv⟩ := sp_of (s := landing none) (x := onWay none) (by decide +kernel)
  exact ⟨onWay none, v, chain1, rfl, rfl, by decide +kernel, hv, by decide +kernel, by decide +kernel, rfl⟩
/-- Its generation is over; and one of a peer's chain, and one from a peer. -/
theorem witness_contributionLanding_late : ∃ x vals, findId Contribution.id 70 ({ landing (some []) with chains := [{ chain1 with gen := 2 }] } : State).contributions = some x ∧
    x.id = 70 ∧ x.away = false ∧ x.vals = some vals ∧ nameDevice x.name = (landing (some [])).device ∧
    ∀ ch, ({ landing (some []) with chains := [{ chain1 with gen := 2 }] } : State).openChain (nameCore x.name) (nameSlot x.name) x.launch = some ch → ch.gen ≠ x.gen :=
  ⟨onWay (some []), _, rfl, rfl, rfl, rfl, by decide, fun ch h => by
    rw [show ({ landing (some []) with chains := [{ chain1 with gen := 2 }] } : State).openChain (nameCore (onWay (some [])).name) (nameSlot (onWay (some [])).name)
      (onWay (some [])).launch = some { chain1 with gen := 2 } by decide +kernel] at h
    obtain rfl := Option.some.inj h
    decide⟩
def farSend : State := linkedS { joined with contributions := [{ onWay (some []) with name := farName }] }
theorem witness_contributionLanding_far : ∃ x vals, findId Contribution.id 70 farSend.contributions = some x ∧ x.away = false ∧ x.vals = some vals ∧
    nameDevice x.name ≠ farSend.device ∧ farSend.peerCut (nameDevice x.name) = false := ⟨_, _, rfl, rfl, rfl, by decide, by decide⟩
theorem witness_contributionLanding_peer : ∃ la ch, nameDevice name1 = (linkedS joined).device ∧ (linkedS joined).linked link5 (2 : BitVec 3).toNat = some la ∧
    (linkedS joined).openChain (nameCore name1) (nameSlot name1) la.id = some ch ∧ ch.gen = 1 := ⟨_, chain1, by decide, rfl, by decide +kernel, rfl⟩
theorem test_contributionLanding_peer : (let t := next (exec (.contributionLanding (.peer 2 (.send 8 link5 name1 1 1 1 [(0, 0x3F8000000000)]))) (linkedS joined)) base
    (t.outbox, t.chains.map (fun c => (c.landed, c.sums)))) = ([(2, .landed 8)], [(1, [(0, 0x3F8000000000)])]) := by decide +kernel
/-- R341: FP32 1.0 lands as TX48 1.0 (R35: exponent 127 above 39 fraction bits). -/
theorem test_contributionLanding : (next (exec (.contributionLanding (.here 70)) (landing none)) base).chains.map (fun c => (c.landed, c.sums)) = [(1, [(0, 0x3F8000000000)])] := by decide +kernel
/-- The integration of slot 1 is next on core 0. -/
def integrating : State := queued (.integrate 1) false joined
theorem witness_integrationEntry : ∃ m c, integrating.nextEntry 0 = some m ∧ integrating.chainAt 0 1 = some c ∧ m.kind = .integrate 1 ∧ c.isOpen = true := ⟨_, _, rfl, rfl, rfl, rfl⟩
/-- A chain that suspends. -/
def suspending : State := { joined with chains := [{ chain1 with suspended := true }] }
theorem witness_chainSuspension : ∃ c, nameDevice name1 = suspending.device ∧ suspending.chainAt (nameCore name1) (nameSlot name1) = some c ∧ c.isOpen = true ∧
    c.suspended = true ∧ c.saved = false ∧ suspending.sendsTo c.launch name1 c.gen = false ∧ ∀ d ∈ c.awaited, suspending.peerCut d = true := ⟨_, by decide, rfl, rfl, rfl, rfl, by decide, by decide⟩
/-- A send is on its way; and a peer has not acknowledged. -/
theorem witness_chainSuspension_waits : ({ suspending with contributions := [onWay none] } : State).sendsTo 3 name1 1 = true ∧
    ∃ d ∈ [2], suspending.peerCut d = false := by decide +kernel
/-- R352: the chain is saved once nothing is on its way; not before. -/
theorem test_chainSuspension : ((next (exec (.chainSuspension name1 .due) suspending) base).chains.map (·.saved),
    (next (exec (.chainSuspension name1 .due) { suspending with contributions := [onWay none] }) base).chains.map (·.saved)) = ([true], [false]) := by decide +kernel
/-- A peer acknowledges; and a peer says that its chain is suspended: its binding is marked, and the acknowledgement goes out. -/
def awaitingS : State := { suspending with chains := [{ chain1 with suspended := true, awaited := [2, 3] }] }
theorem witness_chainSuspension_acknowledged : ∃ c, nameDevice name1 = awaitingS.device ∧ awaitingS.chainAt (nameCore name1) (nameSlot name1) = some c ∧ c.gen = 1 :=
  ⟨_, by decide, rfl, rfl⟩
theorem test_chainSuspension_acknowledged : (next (exec (.chainSuspension name1 (.acknowledged 2 1)) awaitingS) base).chains.map (·.awaited) = [[3]] := by decide +kernel
def farBound : State := withGroup (fun g => { g with bindings := [{ bound1 with name := farName }] }) (linkedS joined)
theorem witness_chainSuspension_told : ∃ la, farBound.linked link5 (2 : BitVec 3).toNat = some la ∧ farBound.sendsTo la.id farName 1 = false := ⟨_, rfl, rfl⟩
theorem test_chainSuspension_told : (let t := next (exec (.chainSuspension farName (.told 2 link5 1 true)) farBound) base
    (t.outbox, t.groups.map (fun g => g.bindings.map (·.suspended)))) = ([(2, .suspended farName 1)], [[true]]) := by decide +kernel
theorem witness_suspendChains : ∃ c ∈ joined.chains, c.block = 2 ∧ c.isOpen = true ∧ c.suspended = false ∧ ∃ g ∈ (joined.suspendChains 2).groups, g.launch = c.launch ∧
    ∃ b ∈ g.bindings, b.name = joined.slotName c.core c.slot ∧ b.gen = c.gen := by decide +kernel

/-! ### The batcher -/

/-- Level 1 is batched, eight wide; v0 holds a stream descriptor of depth 8 with one body (R372), or a key, and v1 a body. -/
def batS : State := withV (fun l => [(0, 0x70), (1, BitVec.ofNat 32 (l / 2)), (2, 0)]) (withRec (fun r => { r with levels := r.levels.set 1 { child 4 with width := 8 } }) base)
theorem witness_batOpen : Meets .batOpen noRuns (fun f s e => e.g.level < 7 ∧ (e.rcd.level (e.g.level + 1)).present = true ∧ (e.rcd.level (e.g.level + 1)).gen = 4 ∧
    bitsOf (s.lowSrc e f.a).toNat 31 12 = 0 ∧ bitsOf (s.lowSrc e f.a).toNat 3 2 = 0) (form 0 (.p 1) (.v 0) nil nil) batS := meets (by decide +kernel)
/-- The stream is open. -/
def streaming : State := next (exec (.batOpen (form 0 (.p 1) (.v 0) nil nil)) batS) base
def stream0 : Stream :=
  { core := 0, launch := 3, block := 2, level := 0, depth := 8, bodies := 1, closed := false, closeOp := none, seq := 0, formed := 0, window := [], pushes := [], batches := [] }
theorem test_batOpen : streaming.streams = [stream0] := by decide +kernel
theorem witness_batPush : Meets .batPush noRuns (fun f s e => s.ownStream e = some stream0 ∧ stream0.closed = false ∧ pushRunFault e f stream0.bodies = none) (form 0 (.field 0) (.v 0) nil nil) streaming :=
  meets (by decide +kernel)
theorem witness_batClose : Meets .batClose noRuns (fun _ s e => s.ownStream e = some stream0 ∧ stream0.closed = false) (form 0 (.field 0) nil nil nil) streaming := meets (by decide +kernel)
theorem witness_batStat : Meets .batStat noRuns always (form 0 (.v 4) nil nil nil) streaming := meets_of (fun _ => true) (fun _ _ => trivial) (by decide +kernel)
/-- The lanes are batched elements of level 1. -/
def batched : State := withGroup (fun g => { g with level := 1 }) { streaming with elems := streaming.elems.map (fun el => { el with level := 1 }) }
theorem witness_batDone : Meets .batDone noRuns (fun _ _ e => (e.rcd.level e.g.level).gen = 4) (form 0 (.field 0) nil nil nil) batched := meets (by decide +kernel)
/-- R376: an open stream of this level. -/
theorem test_batStat : (laneAfter (.batStat (form 0 (.v 4) nil nil nil)) streaming 0).v.get 4 = 0x80000000 := by decide +kernel
/-- Eight constraints of bodies 0, 0, 1, 1, … fill the window. -/
def pushed : State := next (exec (.batPush (form 0 (.field 0) (.v 0) nil nil)) streaming) base
theorem witness_batchFormation : ∃ t la bk, pushed.stream? 0 = some t ∧ pushed.launch? t.launch = some la ∧ pushed.block? t.block = some bk ∧ bk.st = .admitted ∧ bk.preemptAt = none ∧ t.due = true ∧
    t.claimCount + ((cutBatch (la.rcd.level (t.level + 1)).width [] [] t.window).1.map (·.bodySet.length)).sum ≤ Config.claimTable := ⟨_, _, _, rfl, rfl, rfl, rfl, rfl, by decide +kernel, by decide +kernel⟩
/-- R362: one constraint of each body is cut, the lower sequence number first; the others stay. -/
def formed : State := next (exec (.batchFormation 0) pushed) base
theorem test_batchFormation : formed.streams.map (fun t => (t.window.map (·.seq), t.batches.map (fun b => b.members.map (·.seq)))) = [([1, 3, 5, 7], [[0, 2, 4, 6]])] := by decide +kernel
theorem witness_batchAdmission : ∃ t la bk b, formed.stream? 0 = some t ∧ formed.launch? t.launch = some la ∧ formed.block? t.block = some bk ∧
    t.batches.find? (fun b => b.num = 0) = some b ∧ (formed.batchPlace t b).isSome = true ∧ ∀ x ∈ t.batches, ¬ x.num < 0 := ⟨_, _, _, _, rfl, rfl, rfl, rfl, by decide +kernel, fun _ _ => by omega⟩
/-- R367: the batch's group has four lanes with elements, in order of sequence. -/
theorem test_batchAdmission : ((next (exec (.batchAdmission 0 0) formed) base).groups.drop 1).map (fun g => g.lanes.map (fun ln => decide (ln.st = .free))) =
    [[true, true, true, true, false, false, false, false]] := by decide +kernel
/-- Lane 0 leaves: its body claims end. -/
theorem test_bodyClaimRelease : (next (exec (.bodyClaimRelease 0 0 0) { formed with streams := formed.streams.map (fun t => { t with batches := t.batches.map (fun b =>
    { b with claims := [.leaving, .held, .held, .held] }) }) }) base).streams.map (fun t => t.batches.map (·.claims)) = [[[.ended, .held, .held, .held]]] := by decide +kernel

/-! ### Draws -/

/-- A draw of 2 × 2 pixels, one sample each, coarse pixels of 2 × 2: vertices at level 1, coarse and sample elements at levels 2 and 3; every
element has emitted three vertices. -/
def drawS : State := withV (fun _ => [(1, 1), (2, 2)]) (withRec (fun r => { r with
    levels := ((r.levels.set 1 { child 1 with held := 8 }).set 2 { child 2 with spans := true, domain := 3 }).set 3 { child 2 with domain := 3 }
    draw := { present := true, x0 := 0, y0 := 0, width := 2, height := 2, clear := 0x3F800000, home := 0, pass := 0, coarse := 2, samples := 1, capacity := 8 } })
  { base with elems := base.elems.map (fun el => { el with emitted := 3 }) })
/-- Indices v0 to v2, id v3, position h0. -/
def primF : Form := form 0 (.field 0) (.v 0) (.v 3) (.h 0)
theorem witness_primEmit : Meets .primEmit noRuns (fun f s e => e.rcd.draw.present = true ∧ e.g.level + 2 = e.rcd.rasterLevel ∧ heldIndex f.c ≤ 60 ∧
    heldIndex f.c + 3 < (e.rcd.level (e.rcd.rasterLevel - 1)).held ∧ (∀ c ∈ e.lanes, ∀ i ∈ vertIdx s e f c, i < (s.laneElem c.2).elim 0 (·.emitted)) ∧
    (s.prims.filter (fun p => p.launch = e.la.id)).length + e.lanes.length ≤ e.rcd.draw.capacity) primF drawS := meets (by decide +kernel)
/-- R382: index 3 is not emitted: BOUNDS with the index. -/
theorem test_primEmit_bounds : (next (exec (.primEmit primF) (withV (fun _ => [(2, 3)]) drawS)) base).completions.map (fun c => (c.status, c.detail.extractLsb' 0 32)) = [(0x10, 3)] := by
  decide +kernel
/-- The one primitive of element 4, lane 0 of instruction 70: vertices 20 to 22 have finished, at (0, 0), (4, 0) and (0, 4), depth 0.5, w 1. -/
def prim0 : Prim :=
  { id := 71, launch := 3, op := 70, lane := 0, emitter := 4, verts := [20, 21, 22], primId := 9, cull := 0, reg := 0, claims := [20, 21, 22], binned := false
    resolved := false, pts := [], zs := [], ws := [] }
def primed (p : Prim) : State :=
  let vertex : Elem := { fetchElem 1 0 with level := 1, parents := [4], st := .finished, exited := true }
  let pos := fun (x y : Word) => SMap.setAll [] [(0, x), (1, y), (2, 0x3F000000), (3, 0x3F800000)]
  { drawS with
    elems := drawS.elems.map (fun el => { el with st := .finished, exited := true }) ++ [{ vertex with id := 20 }, { vertex with id := 21, idx := 1 }, { vertex with id := 22, idx := 2 }]
    slots := [(20, pos 0 0), (21, pos 0x40800000 0), (22, pos 0 0x40800000)].map (fun v => { elem := v.1, launch := 3, level := 1, core := 0, index := v.1, h := v.2, holds := 1 })
    prims := [p] }
theorem witness_primitiveBinning : ∃ p la, findId Prim.id 71 (primed prim0).prims = some p ∧ (primed prim0).launch? p.launch = some la ∧ p.binned = false ∧
    (∀ v ∈ p.verts, ∃ e, (primed prim0).elem? v = some e ∧ e.st = .finished) ∧ ((primed prim0).binned la.rcd.draw p).isSome = true :=
  ⟨prim0, _, rfl, rfl, rfl, fun v hv => by
    have h : v = 20 ∨ v = 21 ∨ v = 22 := by simpa [prim0] using hv
    rcases h with rfl | rfl | rfl <;> exact ⟨_, rfl, by decide⟩, by decide +kernel⟩
/-- .CULLF discards a triangle of positive area. -/
theorem witness_primitiveBinning_discards : ((primed { prim0 with cull := 2 }).binned ((drawS.launches.head?).elim fetchRec.draw (·.rcd.draw)) { prim0 with cull := 2 }).isNone = true := by decide +kernel
/-- Binned: points in 1/256 of a pixel. -/
def binnedS : State := next (exec (.primitiveBinning 71) (primed prim0)) base
theorem test_primitiveBinning : binnedS.prims.map (fun p => (p.binned, p.pts)) = [(true, [(0, 0), (1024, 0), (0, 1024)])] := by decide +kernel
theorem witness_passResolution : ∃ la p, binnedS.launch? 3 = some la ∧ binnedS.elem? 4 = some p ∧ la.rcd.draw.present = true ∧ la.st = .running ∧ p.launch = 3 ∧ binnedS.passReady la p = true :=
  ⟨_, _, rfl, rfl, by decide +kernel, by decide +kernel, by decide +kernel, by decide +kernel⟩
/-- R388, R389: all four samples are won; they make one coarse pixel, element 0 of level 2, and four sample elements. -/
theorem test_passResolution : (next (exec (.passResolution 3 4) binnedS) base).elems.filterMap (fun el => if 2 ≤ el.level then some (el.level, el.idx) else none) =
    [(2, 0), (3, 0), (3, 1), (3, 2), (3, 3)] := by decide +kernel

/-! ### Rays -/

/-- Level 1 is of rays, and m0 is a hierarchy in global memory; every direction is zero. -/
def rayS : State := withRoots [lay 0 4 [16] [16] 0] (twoLevels 3 base)
def traceF : Form := form 0 (.p 1) (.v 0) (.v 12) (fld 0)
theorem witness_trace : Meets .trace noRuns (fun f _ e =>
    let n := if decide ((e.rcd.level e.g.level).gen = 3) then e.g.level else e.g.level + 1
    n < 8 ∧ (e.rcd.level n).present = true ∧ (e.rcd.level n).gen = 3 ∧ bvhFault (e.layout (layC f)) (layC f) = none) traceF rayS :=
  meets (dec := fun _ => by dsimp only; infer_instance) (by decide +kernel)
def traced : State := next (exec (.trace traceF) rayS) base
theorem test_trace : traced.raySets.map (fun r => (r.op, r.rays.map (·.lane))) = [(12, List.range 8)] := by decide +kernel
/-- The first ray of instruction 12 has inputs that miss. -/
def rayB (s : State) : Bool := match s.raySets.find? (fun r => r.op = 12) with
  | none => false
  | some rs => match rs.rays.find? (fun r => r.lane = 0 && r.result.isNone), s.group? rs.group with
    | some ray, some g => (s.launch? g.launch).isSome && rayMisses ray.inputs
    | _, _ => false
theorem witness_traversalCompletion : ∃ rs ray g la, traced.raySets.find? (fun r => r.op = 12) = some rs ∧ rs.rays.find? (fun r => r.lane = 0 && r.result.isNone) = some ray ∧
    traced.group? rs.group = some g ∧ traced.launch? g.launch = some la ∧ rayMisses ray.inputs = true ∧ (Walker.mk traced la g ray).traverse = .done none := by
  have h : rayB traced = true := by decide +kernel
  unfold rayB at h
  split at h
  · simp at h
  · rename_i rs hrs
    split at h
    · rename_i ray g hray hg
      simp only [Bool.and_eq_true, Option.isSome_iff_exists] at h
      obtain ⟨⟨la, hla⟩, hm⟩ := h
      exact ⟨rs, ray, g, la, hrs, hray, hg, hla, hm, by simp [Walker.traverse, hm]⟩
    · simp at h
/-- Rays along +z whose root reference has kind 3 (R397). -/
def tracedBad : State := next (exec (.trace traceF) (withV (fun _ => [(5, 0x3F800000), (7, 0x3F800000), (9, 0xC0000000)]) rayS)) base
/-- The first of them is to be traversed. -/
def rayBad (s : State) : Bool := match s.raySets.find? (fun r => r.op = 12) with
  | none => false
  | some rs => match rs.rays.find? (fun r => r.lane = 0 && r.result.isNone), s.group? rs.group with
    | some ray, some g => (s.launch? g.launch).isSome && !rayMisses ray.inputs &&
      decide (((ray.inputs.getD 9 0 ++ ray.inputs.getD 8 0 : BitVec 64).extractLsb' 62 2).toNat = 3)
    | _, _ => false
theorem witness_traversalFails : ∃ rs ray g la, tracedBad.raySets.find? (fun r => r.op = 12) = some rs ∧ rs.rays.find? (fun r => r.lane = 0 && r.result.isNone) = some ray ∧
    tracedBad.group? rs.group = some g ∧ tracedBad.launch? g.launch = some la ∧ rayMisses ray.inputs = false ∧
    (Walker.mk tracedBad la g ray).traverse = .failed 5 := by
  have h : rayBad tracedBad = true := by decide +kernel
  unfold rayBad at h
  split at h
  · simp at h
  · rename_i rs hrs
    split at h
    · rename_i ray g hray hg
      simp only [Bool.and_eq_true, Bool.not_eq_eq_eq_not, Bool.not_true, decide_eq_true_eq, Option.isSome_iff_exists] at h
      obtain ⟨⟨⟨la, hla⟩, hm⟩, hk⟩ := h
      refine ⟨rs, ray, g, la, hrs, hray, hg, hla, hm, ?_⟩
      rw [Walker.traverse, if_neg (by simp [hm]), show (2 ^ 70 : Nat) = 1180591620717411303423 + 1 from rfl]
      simp only [Walker.go, Visit.skipped, hk]
      rfl
    · simp at h
/-- R394: a ray along +z from (0.25, 0.25, −1) meets the triangle (0, 0, 0), (1, 0, 0), (0, 1, 0) at t = 1 with b1 = b2 = 0.25. -/
theorem test_triangle : (rayLine [0x3E800000, 0x3E800000, 0xBF800000, 0, 0, 0x3F800000, 0, 0x40000000, 0, 0]).triangle
    (BitVec.ofNat 512 (0x3F800000 * 2 ^ 96 + 0x3F800000 * 2 ^ 224)) = some { t := 0x3F800000, b1 := 0x3E800000, b2 := 0x3E800000, front := true } := by decide +kernel
/-- The lanes are ray elements. -/
theorem witness_retv : Meets .retv noRuns (fun _ _ e => (e.rcd.level e.g.level).gen = 3) (form 0 (.field 0) (.v 4) (.imm 5) nil) (withGroup (fun g => { g with level := 1 }) rayS) := meets (by decide +kernel)
/-- R401: components 0 and 2. -/
theorem test_retv : (next (exec (.retv (form 0 (.field 0) (.v 4) (.imm 5) nil)) (withV (fun _ => [(4, 7), (6, 8)]) (withGroup (fun g => { g with level := 1 }) rayS))) base).elems.map (·.rets) =
    List.replicate 8 [(0, 7), (2, 8)] := by decide +kernel

/-! ### Textures -/

/-- The page at 0 is mapped, readable and writable; m0 is a texture of 2 × 2 texels of four bytes, the first of them (1, 0, 0, 1). -/
def paged (s : State) : State := s.mapPage 0 3 0 (pteLeafOf 0 0xC00)
def texS : State := withV (fun _ => [(0, 0x3E800000), (1, 0x3E800000)]) (withRec (fun r => { r with roots := [(lay 3 2 [2, 2] [4, 8] 0) &&& ~~~(3#512 <<< 391)] })
  (paged { base with mem := [(0, 0xFF), (3, 0xFF)] }))
def texF (mod : BitVec 4) : Form := form mod (.v 4) (.v 0) (.v 8) (fld 0)
/-- What `texReady` asks, evaluated. -/
def texB (f : Form) (s : State) (taps : Env → Word → Nat → Lane → Except Word (List Tap)) (e : Env) : Bool := e.lanes.all (fun c =>
  samplerOk (s.src e .int c.1 c.2 f.b) && (handleFault e.layout (layC f) (samplerLevels (s.src e .int c.1 c.2 f.b))).isNone &&
  (match taps e (s.src e .int c.1 c.2 f.b) c.1 c.2 with
    | .ok ts => ts.all (fun t => (s.access e (layC f + t.level) [t.i, t.j] (layElem (e.layout (layC f))) 0 false).good)
    | .error _ => false))
theorem tex_of {f : Form} {s : State} {taps : Env → Word → Nat → Lane → Except Word (List Tap)} {e : Env} (h : texB f s taps e = true) : texReady s e f taps := by
  intro c hc
  have := List.all_eq_true.mp h c hc
  simp only [Bool.and_eq_true, Option.isNone_iff_eq_none] at this
  refine ⟨this.1.1, this.1.2, ?_⟩
  have h3 := this.2
  split at h3
  · rename_i ts hts
    exact ⟨ts, hts, fun t ht => List.all_eq_true.mp h3 t ht⟩
  · simp at h3
theorem witness_tex : Meets .tex noRuns (fun f s e => texReady s e f (texTapsOf f s)) (texF 0) texS := meets_of (texB _ texS (texTapsOf _ texS)) (fun _ => tex_of) (by decide +kernel)
theorem witness_texl : Meets .texl noRuns (fun f s e => texReady s e f (texlTapsOf f s)) (texF 0) texS := meets_of (texB _ texS (texlTapsOf _ texS)) (fun _ => tex_of) (by decide +kernel)
theorem witness_texf : Meets .texf noRuns (fun f s e => texReady s e f (texfTapsOf f s)) (texF 0) (withV (fun _ => [(0, 0), (1, 0)]) texS) :=
  meets_of (texB _ _ (texfTapsOf _ _)) (fun _ => tex_of) (by decide +kernel)
/-- R403: (0.25, 0.25) is the centre of texel (0, 0). -/
theorem test_tex : issuedIn (.tex (texF 0)) texS 0 = [(.v 4, 0x3F800000), (.v 5, 0), (.v 6, 0), (.v 7, 0x3F800000)] := by decide +kernel
/-- Half way to the next column, whose texel is zero. -/
theorem test_texl : issuedIn (.texl (texF 0)) (withV (fun _ => [(0, 0x3F000000)]) texS) 0 = [(.v 4, 0x3F000000), (.v 5, 0), (.v 6, 0), (.v 7, 0x3F000000)] := by decide +kernel
/-- Beyond the extent without .Z: BOUNDS, dimension 0. -/
theorem test_texf_bounds : (next (exec (.texf (texF 0)) (withV (fun _ => [(0, 2), (1, 0)]) texS)) base).completions.map (·.status) = [0x10] := by decide +kernel

/-! ### System instructions -/

theorem witness_trapi : Meets .trapi noRuns always (form 0 (.field 0) nil (.imm 5) nil) base := meets_of (fun _ => true) (fun _ _ => trivial) (by decide +kernel)
/-- The lanes are in a handler of a trap at their clause's second instruction. -/
def handler0 : Handler :=
  { cause := 0x22, pc := 8, trapLanes := 0xFF, lanes := 0xFF, kept := (base.groups.head?).bind (·.run), todo := 0, atHeader := false, tret := false, preDone := false }
def handling (h : Handler) (s : State) : State := withGroup (fun g => { g with handler := some h }) s
theorem witness_tret : Meets .tret noRuns (fun f _ e => e.g.handler = some handler0 ∧ handler0.preDone = false ∧ f.mod = 0) (form 0 (.field 0) nil nil nil) (handling handler0 base) := meets (by decide +kernel)
theorem witness_tret_next : Meets .tret noRuns (fun f _ e => e.g.handler = some handler0 ∧ handler0.preDone = false ∧ f.mod = 1) (form 1 (.field 0) nil nil nil) (handling handler0 base) := meets (by decide +kernel)
theorem witness_tret_to : Meets .tret noRuns (fun f s e => e.g.handler = some handler0 ∧ f.mod = 2 ∧ targetsGood s e (aTarget s e f)) (form 2 (.field 0) (.v 0) nil nil)
    (handling handler0 coded) :=
  meets_of (fun e => decide (e.g.handler = some handler0) && targetsB (handling handler0 coded) (aTarget (handling handler0 coded) e (form 2 (.field 0) (.v 0) nil nil)) e)
    (fun _ h => by
      simp only [Bool.and_eq_true, decide_eq_true_eq] at h
      exact ⟨h.1, rfl, targets_of h.2⟩) (by decide +kernel)
theorem test_tret : (laneAfter (.tret (form 0 (.field 0) nil nil nil)) (handling handler0 base) 1).st = .returned .retry := by decide +kernel
/-- R423: past the trapped instruction, whose clause is not at its end here. -/
theorem test_tret_next : (laneAfter (.tret (form 1 (.field 0) nil nil nil)) (handling { handler0 with kept := handler0.kept.map (fun r => { r with body := [0] }) } base) 1).st = .returned .skip := by
  decide +kernel
/-- R423: TRET outside a handler: ILLEGAL_FORM, word 8. -/
theorem test_tret_outside : (next (exec (.tret (form 0 (.field 0) nil nil nil)) base) base).completions.map (fun c => (c.status, c.detail.extractLsb' 0 32)) = [(2, 8)] := by decide +kernel
theorem witness_preemptDone : Meets .preemptDone noRuns (fun _ _ e => e.g.handler = some { handler0 with cause := BitVec.ofNat 8 Cause.preempt } ∧ (BitVec.ofNat 8 Cause.preempt).toNat = Cause.preempt ∧
    handler0.tret = false) (form 0 (.field 0) nil nil nil) (handling { handler0 with cause := BitVec.ofNat 8 Cause.preempt } base) := meets (by decide +kernel)
theorem test_preemptDone : (laneAfter (.preemptDone (form 0 (.field 0) nil nil nil)) (handling { handler0 with cause := BitVec.ofNat 8 Cause.preempt } base) 1).st = .done := by decide +kernel
theorem witness_sliceYield : Meets .sliceYield noRuns always (form 0 (.field 0) nil nil nil) base := meets_of (fun _ => true) (fun _ _ => trivial) (by decide +kernel)
theorem witness_hintSucc : Meets .hintSucc noRuns always (form 0 (.field 0) nil nil nil) base := meets_of (fun _ => true) (fun _ _ => trivial) (by decide +kernel)
theorem test_hintSucc : (next (exec (.hintSucc (form 0 (.field 0) nil nil nil)) base) base).launches.map (·.hinted) = [true] := by decide +kernel
theorem witness_waitp : Meets .waitp noRuns always (form 0 (.p 1) nil nil nil) base := meets_of (fun _ => true) (fun _ _ => trivial) (by decide +kernel)
/-- R427: no predecessor is left. -/
theorem test_waitp : (next (exec (.waitp (form 0 (.p 1) nil nil nil)) base) base).ops = [] := by decide +kernel

/-- A launch record: one GROUP level of eight elements, budget 32, entry 0, no held register readable (R404, R405). -/
def record : List Byte := List.replicate 28 0 ++ ([32] ++ (List.replicate 39 0 ++ ([8, 0, 0, 0, 0, 0, 0, 0xD0] ++ (List.replicate 180 0 ++ (List.replicate 256 0xFF ++ List.replicate 304 0)))))
/-- It stands at device byte 65,536, mapped there; m0 reaches it, as element 0. -/
def recordMem : SMap 8 := [(1, 0xE0), (65, 0xE0), (65564, 32), (65604, 8), (65611, 0xD0)] ++ (List.range 256).map (fun i => (65792 + i, 0xFF))
def recordS : State := { withRoots [lay 0 4 [64] [16] 65536] (coded.mapPage 0 3 65536 (pteLeafOf 65536 0xC00)) with mem := recordMem }
theorem witness_launch : Meets .launch noRuns (fun f s e =>
    let m := e.layout (layC f)
    let at_ := (s.lowSrc e f.a).toNat
    let head := recordChecks s e (layC f) at_ 4
    let n := recLength (s.recordBytes head)
    let all := recordChecks s e (layC f) at_ ((n + 15) / 16)
    (s.lowSrc e f.b).toNat % 4 ≠ 3 ∧ layValid m = true ∧ layRank m = 1 ∧ layElem m = 16 ∧ laySpace m = spGlobal ∧ layR m = true ∧
    pastExtent m at_ 64 = false ∧ pastExtent m at_ n = false ∧ allGood head ∧ allGood all) (form 0 (.v 4) (.v 0) (.v 1) (fld 0)) recordS :=
  meets (dec := fun _ => by dsimp only; unfold allGood; infer_instance) (by decide +kernel)

/-! ### Elements, lanes, blocks -/

/-- A long-latency instruction of one lane, on f0. -/
def op70 (c : Cond) (ws : List (RegRef × Word)) : LongOp :=
  { id := 70, group := 1, flag := some 0, lanes := [{ lane := 0, cond := c, writes := ws }], fate := .held, run := 16, dst := none, pdst := none, kept := false }
/-- It waits for child 50, which has retired and returned 9 as component 1. -/
def spawned : State :=
  { base with ops := [op70 (.child 50) []], elems := base.elems ++ [{ fetchElem 1 0 with id := 50, level := 1, parents := [4], st := .finished, exited := true, rets := [(1, 9)] }] }
theorem witness_spawnReturn : ∃ o l, spawned.op? 70 = some o ∧ o.lanes.find? (fun l => l.lane = 0) = some l ∧ l.cond = .child 50 ∧ spawned.retired 50 = true := ⟨_, _, rfl, rfl, rfl, by decide +kernel⟩
/-- R178: v17 receives component 1, and the flag's count falls. -/
theorem test_spawnReturn : (next (exec (.spawnReturn 70 0) spawned) base).groups.map (fun g => (g.flag 0, (g.lane? 0).map (·.v.get 17))) = [(32, some 9)] := by decide +kernel
/-- Element 4 waits for a slot of level 0's pool of two slots on core 0. -/
def slotless : State := { withRec (fun r => { r with levels := r.levels.set 0 { Level.absent with present := true, domain := 5, held := 8 }
                                                     shelf := List.replicate 8 { slots := 2, backing := none, backSlots := 0 } }) base with
  elems := base.elems.map (fun el => if el.id = 4 then { el with st := .waiting } else el) }
theorem witness_elementAdmission : ∃ e la, slotless.elem? 4 = some e ∧ slotless.launch? e.launch = some la ∧ slotless.poolOf e = some 0 ∧ e.st = .waiting ∧ la.st = .running ∧
    slotless.poolHere la.id 0 = true ∧ ((slotless.awaiting e.launch e.level 0).head?).map (·.id) = some 4 ∧ 0 < la.rcd.poolSize e.level ∧ 0 ∉ (slotless.pool e.launch e.level 0).map (·.index) :=
  ⟨_, _, rfl, rfl, by decide +kernel, rfl, rfl, by decide +kernel, by decide +kernel, by decide +kernel, by decide +kernel⟩
theorem test_elementAdmission : (next (exec (.elementAdmission 4) slotless) base).slots.map (fun sl => (sl.elem, sl.index, sl.h)) = [(4, 0, [])] := by decide +kernel
/-- Element 4 has exited. -/
def exited : State := { base with elems := base.elems.map (fun el => if el.id = 4 then { el with exited := true } else el) }
theorem witness_elementFinish : ∃ e la, exited.elem? 4 = some e ∧ exited.launch? e.launch = some la ∧ e.exited = true ∧ e.st ≠ .finished ∧ la.st = .running ∧ exited.elemBusy e = false :=
  ⟨_, _, rfl, rfl, rfl, by decide, rfl, by decide +kernel⟩
theorem test_elementFinish : ((next (exec (.elementFinish 4) exited) base).elem? 4).map (·.st) = some .finished := by decide +kernel
/-- An ending is on its way to the slot of element 20. -/
def endingOn : State := { fragments with endings := [{ id := 80, holder := 20 }] }
theorem witness_claimEndingArrival : (findId Ending.id 80 endingOn.endings).isSome = true := by decide
theorem test_claimEndingArrival : (next (exec (.claimEndingArrival 80) endingOn) base).slots.map (·.holds) = [7, 8, 8] := by decide +kernel
/-- An instruction's lane may complete, with 5 for v4. -/
def completable : State := { base with ops := [op70 .ready [(.v 4, 5)]] }
theorem witness_laneCompletion : ∃ o l g, completable.op? 70 = some o ∧ o.lanes.find? (fun l => l.lane = 0) = some l ∧ l.cond = .ready ∧ completable.group? o.group = some g ∧ o.kept = false ∧
    completable.writesBehind o l = false := ⟨_, _, _, rfl, rfl, rfl, rfl, rfl, by decide +kernel⟩
/-- An LDU to g8 issued earlier is outstanding. -/
def later : State := { base with ops := [{ op70 .ready [(.g 8, 1)] with id := 69 }, op70 .ready [(.g 8, 5)]] }
theorem witness_laneCompletion_behind : ∃ o l, later.op? 70 = some o ∧ o.lanes.find? (fun l => l.lane = 0) = some l ∧ l.cond = .ready ∧ later.writesBehind o l = true :=
  ⟨_, _, rfl, rfl, rfl, by decide +kernel⟩
/-- R337, R355: the lanes of a join complete together, with true for p1. -/
def jointly : State := { base with ops := [{ op70 .joint [] with lanes := [{ lane := 0, cond := .joint, writes := [(.p 1, 1)] }, { lane := 3, cond := .joint, writes := [(.p 1, 1)] }] }] }
theorem witness_laneCompletion_joint : ∃ o l, jointly.op? 70 = some o ∧ o.lanes.find? (fun l => l.lane = 0) = some l ∧ l.cond = .joint := ⟨_, _, rfl, rfl, rfl⟩
theorem test_laneCompletion_joint : (let t := next (exec (.laneCompletion 70 0) jointly) base
    (t.ops, t.groups.map (fun g => (g.flag 0, (g.lane? 0).map (·.pred 1), (g.lane? 1).map (·.pred 1), (g.lane? 3).map (·.pred 1))))) =
      ([], [(31, some true, some false, some true)]) := by decide +kernel
theorem witness_laneCompletion_joint_pd : ∃ o g, jointly.op? 70 = some o ∧ jointly.group? o.group = some g ∧ o.kept = false ∧
    ∀ y ∈ o.lanes, 1 < 7 ∧ y.writes = [(RegRef.p 1, if true then 1 else 0)] := ⟨_, _, rfl, rfl, rfl, by decide⟩
/-- R336, R440: the lanes of CHAIN.OPEN write nothing more, or pd once more where it was held. -/
def opening (kept : Bool) : State := { base with ops := [{ op70 .opened [] with kept, lanes := [{ lane := 0, cond := .opened, writes := [(.p 1, 1)] }] }] }
theorem witness_laneCompletion_opened : ∃ o l, (opening false).op? 70 = some o ∧ o.lanes.find? (fun l => l.lane = 0) = some l ∧ l.cond = .opened := ⟨_, _, rfl, rfl, rfl⟩
theorem test_laneCompletion_opened : (let after := fun (kept : Bool) => (next (exec (.laneCompletion 70 0) (opening kept)) base).groups.map (fun g => (g.lane? 0).map (·.pred 1))
    (after false, after true)) = ([some false], [some true]) := by decide +kernel
/-- R273: a fence's lane waits for instruction 69, or no longer. -/
def fenced (ops : List LongOp) : State := { base with ops := ops ++ [op70 (.after [69]) []] }
theorem witness_laneCompletion_after : ∃ o l, (fenced [{ op70 .ready [] with id := 69 }]).op? 70 = some o ∧ o.lanes.find? (fun l => l.lane = 0) = some l ∧
    l.cond = .after [69] ∧ ∃ k ∈ [69], ∃ x, (fenced [{ op70 .ready [] with id := 69 }]).op? k = some x ∧ ∃ y ∈ x.lanes, y.lane = l.lane :=
  ⟨_, _, rfl, rfl, rfl, 69, by decide, _, rfl, _, List.mem_singleton.mpr rfl, rfl⟩
theorem witness_laneCompletion_after_done : ∃ o l, (fenced []).op? 70 = some o ∧ o.lanes.find? (fun l => l.lane = 0) = some l ∧ l.cond = .after [69] ∧
    (fenced []).op? 69 = none := ⟨_, _, rfl, rfl, rfl, rfl⟩
/-- Lane 0's instruction is to write a G register and a held register of its element's slot. -/
def completableH : State :=
  { base with ops := [op70 .ready [(.g 8, 5), (.h 3, 6)]]
              slots := [{ elem := 4, launch := 3, level := 0, core := 0, index := 0, h := [], holds := 0 }] }
theorem witness_laneCompletion_held : ∃ o l g ln sl, completableH.op? 70 = some o ∧ o.lanes.find? (fun l => l.lane = 0) = some l ∧ l.cond = .ready ∧
    completableH.group? o.group = some g ∧ o.kept = false ∧ completableH.writesBehind o l = false ∧ (l.writes.map (·.1)).Nodup ∧ (RegRef.h 3, 6) ∈ l.writes ∧
    completableH.slots[0]? = some sl ∧ g.lane? 0 = some ln ∧ ln.elem = sl.elem ∧ ln.st ≠ .exited :=
  ⟨_, _, _, _, _, rfl, rfl, rfl, rfl, rfl, by decide +kernel, by decide, by decide, rfl, rfl, by decide, by decide⟩
theorem test_laneCompletion_held : (let t := next (exec (.laneCompletion 70 0) completableH) base
    (t.slots.map (fun sl => sl.h.get 3), t.groups.map (fun g => g.g.get 8))) = ([6], [5]) := by decide +kernel
theorem test_laneCompletion : (let t := next (exec (.laneCompletion 70 0) completable) base
    (t.ops, t.groups.map (fun g => (g.flag 0, (g.lane? 0).map (·.v.get 4))))) = ([], [(32, some 5)]) := by decide +kernel
/-- Every lane regroups, by the parity of its lane. -/
def regrouping : State := withGroup (fun g => { g with run := none, flags := [] }) (next (exec (.regroup (form 0 (.field 0) (.v 0) nil nil)) (withV (fun l => [(0, BitVec.ofNat 32 (l % 2))]) base)) base)
theorem witness_reorderPoint : ∃ t, regrouping.reorderAt 2 0 3 = some t :=
  Option.isSome_iff_exists.mp (show (regrouping.reorderAt 2 0 3).isSome = true by decide +kernel)
theorem witness_reorderPoint_sorted : (regrouping.groups.map (·.id)).Nodup ∧ ∃ la, ∀ g ∈ sortBy (fun (a b : Group) => decide (a.num < b.num))
    ((regrouping.roleGroups 2 0 3).filter (fun g => g.lanes.any (·.unexited))), g.width = 8 ∧ regrouping.launch? g.launch = some la :=
  ⟨by decide +kernel, _, by
    have h : (sortBy (fun (a b : Group) => decide (a.num < b.num)) ((regrouping.roleGroups 2 0 3).filter (fun g => g.lanes.any (·.unexited)))).all
      (fun g => g.width = 8 ∧ regrouping.launch? g.launch = some ((regrouping.launch? 3).getD (fetchLaunch 1))) = true := by decide +kernel
    exact fun g hg => of_decide_eq_true (List.all_eq_true.mp h g hg)⟩
/-- R159: lanes are ordered by key, then by group and lane. -/
theorem test_reorderPoint : (next (exec (.reorderPoint 2 3) regrouping) base).groups.map (fun g => g.lanes.map (·.elem)) = [[4, 6, 8, 10, 5, 7, 9, 11]] := by decide +kernel
/-- The block waits. -/
def waiting : State := { base with groups := [], focus := none, blocks := base.blocks.map (fun b => { b with st := .waiting, cores := [], base := [] }) }
theorem witness_blockAdmission : ∃ b la p, waiting.block? 2 = some b ∧ waiting.launch? b.launch = some la ∧ b.st = .waiting ∧ la.st = .running ∧ la.preempted = false ∧
    waiting.stopped = false ∧ waiting.plan la b 5 b.groupList = some p ∧ waiting.outranked b 5 = false := by
  obtain ⟨p, hp⟩ := Option.isSome_iff_exists.mp (show (waiting.plan (fetchLaunch 1) ((waiting.blocks.head?).getD (fetchBlock 1)) 5 ((waiting.blocks.head?).getD (fetchBlock 1)).groupList).isSome = true by decide +kernel)
  exact ⟨_, _, p, rfl, rfl, rfl, rfl, rfl, rfl, hp, by decide +kernel⟩
/-- Block 40 waits too, with a deadline, and block 2 has none. -/
def rivals : State := { waiting with blocks := waiting.blocks ++ waiting.blocks.map (fun b => { b with id := 40, num := 1, deadline := some 9 }) }
theorem witness_blockAdmission_outranked : ∃ b, rivals.block? 2 = some b ∧ rivals.outranked b 5 = true := ⟨_, rfl, by decide +kernel⟩
theorem test_blockAdmission : (let t := next (exec (.blockAdmission 2 5) waiting) base
    (t.blocks.map (fun b => (b.st, b.cores, b.base)), t.groups.map (fun g => (g.core, g.lanes.length)))) = ([(.admitted, [5], [0])], [(5, 8)]) := by decide +kernel

/-! ### Issue, and asynchronous events -/

/-- The group stands at the header of a clause of four parcels at byte 0: NOPs from a bank would follow; its body is zero here. -/
def standing (s : State) : State := withGroup (fun g => { g with run := none, flags := [] }) { s with focus := none }
/-- A line of code: the header of a level-0 clause of four parcels, and EXIT. -/
def line1 : List Byte := [0, 0xE0, 1, 0, 0, 0, 0, 0, 0x41, 0x8D, 0, 0xC0, 0, 0, 0, 0] ++ List.replicate 112 0
/-- The object of that line, tagged with what the tag function gives for it, whatever that is. -/
def code1 : Code := { code0 with banks := [[]], tags := [Config.lineTag [] (line1 ++ leBytes 8 0 ++ leBytes 8 0)] }
def issuable : State := ({ standing base with codes := [code1], mem := [(1, 0xE0), (2, 1), (8, 0x41), (9, 0x8D), (11, 0xC0)] } : State).mapCode code0
def group1 : Group := { fetchGroup 1 (parcelsOfNat 16 0) with run := none, flags := [] }
def clause1 : Clause := { hdr := Header.ofWord 0xE000000100000000, body := [0x8D41, 0xC000, 0, 0], longA := 0, longB := 0 }
def path1 : Path := { pc := 0, lanes := 0xFF }

theorem line_ok : issuable.lineOk code1 0 = true := by
  have ht : issuable.translate 0 (2 ^ 47 + 0 * 128) = .at_ 0 (pteLeafOf 0 0x200) := by decide +kernel
  have hb : issuable.bytes (span 0 128) = line1 := by decide +kernel
  have hk : ((issuable.tenants.find? (fun t => t.num = code1.tenant)).map (·.codeKey)).getD [] = ([] : List Byte) := by decide +kernel
  unfold State.lineOk
  rw [hk, show code1.tenant = 0 from rfl, show code1.va = 2 ^ 47 from rfl, ht]
  simp only [hb]
  exact decide_eq_true rfl
/-- A fetch whose lines' tags hold gives what a fetch without tags gives. -/
theorem fetch_auth {s : State} {c : Code} {off n : Nat} (h : (List.range ((off + n - 1) / 128 - off / 128 + 1)).find? (fun i => !s.lineOk c (c.lineOf off + i)) = none) :
    s.fetchCode c off n true = s.fetchCode c off n false := by
  simp [State.fetchCode, h]
theorem clause_of : issuable.clauseOf group1 0 = .clause clause1 := by
  have f1 : issuable.fetchCode code1 0 8 true = .bytes [0, 0xE0, 1, 0, 0, 0, 0, 0] := by
    rw [fetch_auth (by simp [show code1.lineOf 0 = 0 from rfl, line_ok])]
    decide +kernel
  have f2 : issuable.fetchCode code1 8 8 true = .bytes [0x41, 0x8D, 0, 0xC0, 0, 0, 0, 0] := by
    rw [fetch_auth (by simp [show code1.lineOf 8 = 0 from rfl, line_ok])]
    decide +kernel
  have hc : (issuable.launch? group1.launch).bind (fun la => issuable.code? la.code) = some code1 := by
    rw [show (issuable.launch? group1.launch) = some { fetchLaunch 1 with rcd := fetchRec } by decide +kernel]
    rfl
  unfold State.clauseOf
  rw [hc]
  simp only [State.clauseAt, f1]
  rw [if_neg (by decide), if_pos (by decide +kernel)]
  unfold State.bodyAt
  rw [show 2 * (Header.ofWord (BitVec.ofNat 64 (parcelsWord [0, 0xE0, 1, 0, 0, 0, 0, 0]))).len = 8 by decide +kernel, f2]
  decide +kernel
theorem witness_partitionIssue : (∀ x ∈ issuable.groups, issuable.reenterFor x = issuable) ∧
    firstBy (fun (g h : Group) => lexLt (issuable.issueKey g) (issuable.issueKey h)) ((issuable.groups.filter (fun g => g.core = 0 && g.part = 0)).filter issuable.groupReady) = some group1 ∧
    issuable.group? group1.id = some group1 ∧ group1.run = none ∧ group1.choose (issuable.readyPaths group1) = some path1 ∧ issuable.clauseOf group1 path1.pc = .clause clause1 ∧
    group1.tagErrors = [] := by
  have hg : issuable.groups = [group1] := by decide +kernel
  have hp : issuable.pathReady group1 path1 = true := by
    unfold State.pathReady
    rw [show path1.pc = 0 from rfl, clause_of]
    decide +kernel
  have hr : issuable.readyPaths group1 = [path1] := by
    unfold State.readyPaths
    rw [show group1.paths = [path1] by decide +kernel, List.filter_cons_of_pos hp, List.filter_nil]
  have hq : issuable.groupReady group1 = true := by
    unfold State.groupReady
    rw [hr]
    decide +kernel
  refine ⟨fun x _ => by simp [State.reenterFor, show issuable.matrix = [] by decide +kernel, show issuable.chains = [] by decide +kernel], ?_, by decide +kernel, rfl, ?_, clause_of, rfl⟩
  · rw [hg]
    simp [hq, firstBy, show group1.core = 0 from rfl, show group1.part = 0 from rfl]
  · rw [hr]
    decide +kernel
/-- BUDGET is pending. -/
def overspent : State := withGroup (fun g => { g with budgetPending := true }) (standing (withRec (fun r => { r with handlers := List.replicate 8 64 }) coded))
theorem witness_asyncTrapDelivery : ∃ g, overspent.group? 1 = some g ∧ g.asyncDue = some Cause.budget := ⟨_, rfl, by decide +kernel⟩
theorem test_asyncTrapDelivery : (next (exec (.asyncTrapDelivery 1) overspent) base).groups.map (fun g => (g.handler.map (·.cause.toNat), (g.lane? 0).map (·.pc), g.budgetPending)) =
    [(some Cause.budget, some 64, false)] := by decide +kernel
/-- There is always a place for an asynchronous trap. -/
theorem place_of (s : State) (g : Group) : ∃ pc, trapPlace s g pc := by
  unfold trapPlace
  cases h : g.choose (s.readyPaths g) with
  | none => exact ⟨_, fun _ hp => by simp at hp, fun _ => rfl⟩
  | some p => exact ⟨p.pc, fun q hq => by rw [← Option.some.inj hq], fun hn => by simp at hn⟩
/-- BUDGET, PREEMPT or a report of the engines is due in a group with a handler. -/
theorem witness_delivers_budget : ∃ g la, overspent.group? 1 = some g ∧ overspent.launch? g.launch = some la ∧ la.rcd.handlers.getD g.level 0 ≠ 0 ∧
    g.asyncDue = some Cause.budget ∧ ∃ pc, trapPlace overspent g pc := ⟨_, _, rfl, rfl, by decide, by decide +kernel, place_of _ _⟩
def preempting : State := withGroup (fun g => { g with preemptPending := true, budgetPending := false }) overspent
theorem witness_delivers_preempt : ∃ g la, preempting.group? 1 = some g ∧ preempting.launch? g.launch = some la ∧ la.rcd.handlers.getD g.level 0 ≠ 0 ∧
    g.asyncDue = some Cause.preempt ∧ ∃ pc, trapPlace preempting g.freeBlocked pc := ⟨_, _, rfl, rfl, by decide, by decide +kernel, place_of _ _⟩
def reported : State := withGroup (fun g => { g with faults := [{ info := 7, lanes := 6 }], budgetPending := false }) overspent
theorem witness_delivers_fault : ∃ g la f rest, reported.group? 1 = some g ∧ reported.launch? g.launch = some la ∧ la.rcd.handlers.getD g.level 0 ≠ 0 ∧
    g.asyncDue = some Cause.engineFault ∧ g.faults = f :: rest ∧ ∃ pc, trapPlace reported g pc := ⟨_, _, _, _, rfl, rfl, by decide, by decide +kernel, rfl, place_of _ _⟩
/-- R292: %trap.lanes names lane 1, the lowest of the path that issued. -/
theorem test_delivers_fault : (next (exec (.asyncTrapDelivery 1) reported) base).groups.map (fun g => (g.handler.map (fun h => (h.cause.toNat, h.trapLanes, h.lanes)), (g.lane? 0).map (·.info))) =
    [(some (Cause.engineFault, 2, 0xFF), some 7)] := by decide +kernel
/-- A missing translation holds the clause's instruction, and BUDGET is pending. -/
def heldS : State := withGroup (fun g => { g with run := base.groups.head?.bind (·.run), hold := some 90 })
  { overspent with faults := [{ id := 90, tenant := 0, page := 3, va := 0x30005, offered := true, level := 2, reason := 0, fetch := false, layout := 1, unresolvable := false, waiters := [] }] }
theorem witness_delivers_held : ∃ g la r, heldS.group? 1 = some g ∧ heldS.launch? g.launch = some la ∧ la.rcd.handlers.getD g.level 0 ≠ 0 ∧
    g.asyncDue = none ∧ heldS.budgetEndsWait g = true ∧ g.run = some r := ⟨_, _, _, rfl, rfl, by decide, by decide +kernel, by decide +kernel, rfl⟩
/-- The slice's count has run out. -/
def spent : State := withRec (fun r => { r with budget := 3 }) base
theorem witness_sliceBudgetExpiry : ∃ b, spent.block? 2 = some b ∧ (spent.recOf b.launch).elim 0 (·.budget) = 3 ∧ b.st = .admitted ∧ b.counting = true ∧ b.budgetLeft = 0 ∧ b.refilled = false :=
  ⟨_, rfl, rfl, rfl, rfl, rfl, rfl⟩
theorem test_sliceBudgetExpiry : (next (exec (.sliceBudgetExpiry 2) spent) base).blocks.map (fun b => (b.budgetLeft, b.refilled)) = [(3072, true)] := by decide +kernel
/-- It runs out again (R412). -/
theorem witness_sliceBudgetExpiry_again : ∃ b la, (withBlock (fun b => { b with refilled := true }) spent).block? 2 = some b ∧
    (withBlock (fun b => { b with refilled := true }) spent).launch? b.launch = some la ∧ la.st ≠ .ended ∧ la.rcd.budget ≠ 0 ∧ b.st = .admitted ∧ b.counting = true ∧
    b.budgetLeft = 0 ∧ b.refilled = true := ⟨_, _, rfl, rfl, by decide, by decide, rfl, rfl, rfl, rfl⟩
/-- BUDGET is cause 0x20 (R420). -/
theorem test_sliceBudgetExpiry_again : (let t := next (exec (.sliceBudgetExpiry 2) (withBlock (fun b => { b with refilled := true }) spent)) base
    (t.launches.map (·.st), t.completions.map (fun c => (c.kind, c.status)))) = ([.ended], [(2, 0x20)]) := by decide +kernel
/-- R414: a queue at twice its budget has half of the opportunities. -/
theorem test_powerWindow : (next (exec (.powerWindow { total := 9, queues := [(0, 200)] }) { base with queues := [{ Queue.fresh 0 with budget := 100 }] }) base).queues.map (fun q => (q.estimate, q.fraction)) = [(200, 8)] := by
  decide +kernel
/-- A fault that has not been offered. -/
def faulting : State := { base with faults := [{ id := 90, tenant := 0, page := 3, va := 0x30005, offered := false, level := 2, reason := 0, fetch := false, layout := 1, unresolvable := false, waiters := [] }] }
theorem witness_translationFaultOffer : ∃ p, findId PageFault.id 90 faulting.faults = some p ∧ p.offered = false ∧ p.reason ≠ 3 := ⟨_, rfl, rfl, by decide⟩
/-- R455: one that a peer device's host is offered. -/
theorem witness_translationFaultOffer_peer : ∃ p, findId PageFault.id 90 ({ faulting with faults := faulting.faults.map (fun p => { p with reason := 3 }) } : State).faults = some p ∧
    p.reason = 3 := ⟨_, rfl, rfl⟩
theorem test_translationFaultOffer : (next (exec (.translationFaultOffer 90) faulting) base).completions.map (fun c => (c.queue, c.kind, c.value, c.detail)) = [(1, 3, 0x30005, 90)] := by decide +kernel
/-- A code object none of whose lines can be read. -/
def lost : State := standing { base with codes := [code0] }
theorem witness_icacheFillAuth : ∃ c g p, lost.code? 0 = some c ∧ lost.lineOk c 0 = false ∧
    (lost.groups.filter (fun g => g.run.isNone && g.asyncDue.isNone && !g.done && ((lost.launch? g.launch).elim false (fun la => la.code = 0)))).head? = some g ∧
    g.paths.find? (fun p => lost.clauseIn c p.pc 0) = some p :=
  ⟨code0, _, { pc := 0, lanes := 0xFF }, rfl, by decide +kernel, rfl, by decide +kernel⟩

/-! ### Pre-emption -/

/-- The block has been asked to leave at clock 0; its lanes are done. -/
def leaving (clock : Nat) (s : State) : State := withGroup (fun g => { g with run := none, done := true, flags := [], lanes := g.lanes.map (fun ln => { ln with st := .done }) })
  { s with clock, focus := none, blocks := s.blocks.map (fun b => { b with preemptAt := some 0 }) }
theorem witness_blockSave : ∃ b r, (leaving 0 base).block? 2 = some b ∧ (leaving 0 base).recOf b.launch = some r ∧ (leaving 0 base).savable b = true := ⟨_, _, rfl, rfl, by decide +kernel⟩
/-- Granule 0 of its allocation of sixteen is the copy engine's, and holds 9 at byte 4. -/
def leavingOwn : State := leaving 0 { own with owners := [(0, 1)], mem := [(scratchAt 0 + 4, 9)] }
theorem witness_blockSave_own : ∃ b r p, leavingOwn.block? 2 = some b ∧ leavingOwn.recOf b.launch = some r ∧ leavingOwn.savable b = true ∧
    SMap.wf leavingOwn.owners = true ∧ r.scratch ≤ 4096 ∧ b.place r.scratch 0 = some p ∧ leavingOwn.owners.get 0 ≠ 0 :=
  ⟨_, _, 0, rfl, rfl, by decide +kernel, by decide +kernel, by decide, by decide +kernel, by decide +kernel⟩
def savedS : State := next (exec (.blockSave 2) leavingOwn) base
/-- R442: owner and bytes are kept by position. -/
theorem test_blockSave : savedS.blocks.map (fun b => (b.st, b.saved)) = [(.saved, some { owners := [(0, 1)], bytes := [(4, 9)] })] := by decide +kernel
/-- R434: 350,000 clocks are 200 µs. -/
theorem witness_hardStop : ∃ b la, (leaving 350000 base).block? 2 = some b ∧ b.preemptAt = some 0 ∧ b.st = .admitted ∧ 0 + 350000 ≤ (leaving 350000 base).clock ∧
    (leaving 350000 base).launch? b.launch = some la ∧ la.st ≠ .ended := ⟨_, _, rfl, rfl, rfl, by decide, rfl, by decide⟩
/-- The launch has a chain open, and a join of device 2 has been parked for it (it is suspended). -/
def stopping : State := leaving 350000 (linkedS { joined with
  chains := [{ chain1 with suspended := true }]
  joins := [{ id := 60, peer := some (2, 9, link5), op := 0, group := 0, launch := 0, name := name1, share := 1, parked := true }] })
theorem witness_hardStop_chain : ∃ c ∈ stopping.chains, c.launch = 3 ∧ c.isOpen = true ∧ ∃ j ∈ stopping.parkedAt c, j.peer = some (2, 9, link5) := by decide +kernel
/-- R349, R445: the chain is aborted, and the join refused. -/
theorem test_hardStop_chain : (let t := next (exec (.hardStop 2) stopping) base
    (t.chains.map (fun c => (c.isOpen, c.aborted)), t.joins, t.outbox)) = ([(false, true)], [], [(2, .joined 9 none)]) := by decide +kernel
theorem test_hardStop_early : (next (exec (.hardStop 2) (leaving 349999 base)) base).launches.map (·.st) = [.running] := by decide +kernel
/-- What blockRestore asks of a state, with its plan's cores and allocation. -/
def restoreB (s : State) (k core : Nat) : Bool := match s.block? k with
  | none => false
  | some b => match s.launch? b.launch, b.saved with
    | some la, some kept => decide (b.st = .saved ∧ la.st = .running ∧ la.preempted = false ∧ s.stopped = false ∧ s.outranked b core = false) &&
      (match s.restorePlan la b core with
       | none => false
       | some (_, p, places) => decide ((places.map (·.1)).Nodup ∧ places ≠ [] ∧ SMap.wf kept.owners = true ∧ SMap.wf kept.bytes = true ∧ p.cores.Nodup ∧
           p.base.length = p.cores.length ∧ (∀ y ∈ p.base, y + la.rcd.scratch ≤ 4096) ∧
           (∀ y ∈ kept.owners, y.1 / 4096 < p.cores.length ∧ y.1 % 4096 < la.rcd.scratch) ∧ (∀ y ∈ kept.bytes, kept.owners.get (y.1 / 512) ≠ 0) ∧
           kept.owners.get 0 ≠ 0))
    | _, _ => false
theorem witness_blockRestore : restoreB savedS 2 7 = true := by decide +kernel
/-- R446: the granule is back in core 7, with its owner and its byte. -/
theorem test_blockRestore_own : (let t := next (exec (.blockRestore 2 7) savedS) base
    (t.owners.get (granuleKey 7 0), t.byte (scratchAt 7 + 4))) = (1, 9) := by decide +kernel
theorem test_blockRestore : (let t := next (exec (.blockRestore 2 7) savedS) base
    (t.blocks.map (fun b => (b.st, b.cores)), t.groups.map (fun g => g.lanes.map (fun ln => (ln.st, ln.restoring))))) = ([(.admitted, [7])], [List.replicate 8 (.free, true)]) := by decide +kernel
/-- R442: recovery asks a pre-emptible block to leave. -/
theorem test_recovery : (next (exec (.uncorrectableErrorRecovery [2]) (withRec (fun r => { r with handlers := List.replicate 8 64, restores := List.replicate 8 64 }) base)) base).blocks.map (·.preemptAt) = [some 0] := by
  decide +kernel

/-! ### Accesses and events from outside -/

/-- Window 5 of tenant 0: device memory at 65,536, at virtual address 0, whose first page is mapped; exported to device 2 and to the host. -/
def window5 : Window :=
  { tenant := 0, num := 5, kind := .device, base := 0, size := 2 ^ 21, backing := 65536, waiting := none, exports := [(2, 0), (0xFF, 0xFF)] }
def exportedS : State := ({ base with windows := [window5], mem := [(65536 + 8, 7)] } : State).mapPage 0 3 0 (pteLeafOf 65536 0xC00)
/-- Tenant 0 of device 2 adds 3 to the word at offset 8. -/
def peerAdd : PeerAccess := { device := 2, sender := 0, tenant := 0, window := 5, offset := 8, op := .atom 0 false 3 0 }
/-- What an access from outside reaches, as data. -/
def placesOf (s : State) (a : PeerAccess) : Option (List (Nat × BitVec 64)) := match s.window? a.tenant a.window with
  | none => none
  | some w => match s.outsideAt a.tenant (w.base + a.offset) a.op.length with
    | .places xs => some xs
    | _ => none
/-- The addresses of fabric-coherent pages among them. -/
def coherent (xs : List (Nat × BitVec 64)) : List Nat := (xs.filter (fun x => pteShared x.2)).map (·.1)
/-- What `outsideGood` asks, evaluated, and `q` of the places. -/
def outsideB (s : State) (a : PeerAccess) (q : List (Nat × BitVec 64) → Bool) : Bool := match s.window? a.tenant a.window, placesOf s a with
  | some w, some xs => decide ((a.device.toNat, a.sender) ∈ w.exports) && decide (a.offset + a.op.length ≤ w.size) && decide (a.op.length ≠ 0) &&
      xs.all (fun x => (!a.op.reads || pteR x.2) && (!a.op.writes || pteW x.2)) && q xs
  | _, _ => false
theorem outside_of {s : State} {a : PeerAccess} {q : List (Nat × BitVec 64) → Bool} (h : outsideB s a q = true) :
    ∃ xs, outsideGood s a xs ∧ q xs = true := by
  unfold outsideB at h
  split at h
  · rename_i w xs hw hp
    simp only [Bool.and_eq_true, List.all_eq_true, Bool.or_eq_true, Bool.not_eq_eq_eq_not, Bool.not_true, decide_eq_true_eq] at h
    obtain ⟨⟨⟨⟨h1, h2⟩, h3⟩, h4⟩, h6⟩ := h
    unfold placesOf at hp
    rw [hw] at hp
    simp only at hp
    split at hp
    · rename_i hp'
      simp only [Option.some.injEq] at hp
      subst hp
      exact ⟨_, ⟨w, hw, h1, h2, h3, hp', fun x hx => ⟨fun hr => by simpa [hr] using (h4 x hx).1, fun hr => by simpa [hr] using (h4 x hx).2⟩⟩, h6⟩
    · simp at hp
  · simp at h
theorem witness_peerAccessArrival : ∃ xs, outsideGood exportedS peerAdd xs ∧ (coherent xs).isEmpty = true := outside_of (q := fun xs => (coherent xs).isEmpty) (by decide +kernel)
/-- The page is fabric-coherent, and devices 1 and 2, or 2 alone, hold its line. -/
def sharedS (m : BitVec 8) : State := ({ base with windows := [window5], mem := [(65536 + 8, 7)], directory := [(512, m)] } : State).mapPage 0 3 0 (pteLeafOf 65536 0xC80)
theorem witness_peerAccessArrival_shared : ∃ xs, outsideGood (sharedS 4) peerAdd xs ∧ (!(coherent xs).isEmpty && !(sharedS 4).sharedBeside (coherent xs) 2) = true :=
  outside_of (q := fun xs => !(coherent xs).isEmpty && !(sharedS 4).sharedBeside (coherent xs) 2) (by decide +kernel)
theorem witness_peerAccessArrival_waits : ∃ xs, outsideGood (sharedS 6) peerAdd xs ∧ (sharedS 6).sharedBeside (coherent xs) 2 = true :=
  outside_of (q := fun xs => (sharedS 6).sharedBeside (coherent xs) 2) (by decide +kernel)
/-- R456: a read sets the reader's bit. -/
theorem test_peerAccessArrival_shares : (next (exec (.peerAccessArrival { peerAdd with op := .read 4 }) (sharedS 2)) base).directory = [(512, 6)] := by decide +kernel
/-- Device 3, and tenant 1 of device 2, have no export; offset 2^21 − 2 leaves two bytes; and a page without the W bit. -/
theorem witness_peerAccessArrival_refused : exportedS.window? 0 5 = some window5 ∧ ((3 : BitVec 3).toNat, 0) ∉ window5.exports ∧ (2, 1) ∉ window5.exports ∧
    window5.size < 2 ^ 21 - 2 + peerAdd.op.length := by decide +kernel
def readOnlyS : State := ({ base with windows := [window5] } : State).mapPage 0 3 0 (pteLeafOf 65536 0x800)
theorem witness_peerAccessArrival_forbidden : (match placesOf readOnlyS peerAdd with
    | some xs => peerAdd.op.writes && xs.any (fun x => !pteW x.2)
    | none => false) = true := by decide +kernel
theorem test_peerAccessArrival_refused : ((next (exec (.peerAccessArrival { peerAdd with device := 3 }) exportedS) base).outbox,
    (next (exec (.peerAccessArrival { peerAdd with sender := 1 }) exportedS) base).outbox,
    (next (exec (.peerAccessArrival peerAdd) readOnlyS) base).outbox) = ([(3, .reply false [])], [(2, .reply false [])], [(2, .reply false [])]) := by decide +kernel
theorem test_peerAccessArrival : (next (exec (.peerAccessArrival peerAdd) exportedS) base).mem = [(65536 + 8, 10)] := by decide +kernel
theorem witness_hostMemAccess : exportedS.window? 0 5 = some window5 ∧ window5.kind = .device ∧ (0xFF, 0xFF) ∈ window5.exports ∧ 8 + (OutsideOp.write [1, 2]).length ≤ window5.size := by decide +kernel
/-- R456: the host's write waits while a peer holds a copy. -/
theorem witness_hostMemAccess_waits : (OutsideOp.write [1, 2]).writes = true ∧ ∃ k ∈ linesOf ((List.range 2).map (fun i => window5.backing + 9 + i)),
    (sharedS 4).directory.get k ≠ 0 := by decide +kernel
theorem test_hostMemAccess : (next (exec (.hostMemAccess { tenant := 0, window := 5, offset := 9, op := .write [1, 2] }) exportedS) base).mem = [(65544, 7), (65545, 1), (65546, 2)] := by decide +kernel
/-- R456: sharer 2 of two leaves. -/
theorem test_fabricLineInvalidation : (next (exec (.fabricLineInvalidation 3 2) { base with directory := [(3, 6)] }) base).directory = [(3, 2)] := by decide +kernel
/-- A peer window waits. -/
def waitingWindow : State := { base with windows := [{ window5 with kind := .peer 2 0 1, waiting := some (9, 1) }] }
theorem witness_peerWindowConfirmation : ∃ w, waitingWindow.windows.find? (fun w => w.tenant = 0 && w.num = 5) = some w ∧ w.waiting = some (9, 1) := ⟨_, rfl, rfl⟩
theorem test_peerWindowConfirmation : (next (exec (.peerWindowConfirmation 0 5 true) waitingWindow) base).completions.map (fun c => (c.queue, c.tag, c.opcode, c.kind)) = [(1, 9, 0x10, 0)] := by decide +kernel
theorem witness_linkDown : (2 : BitVec 3).toNat ≠ base.device ∧ 2 * (2 : BitVec 3).toNat + true.toNat ∉ base.linksDown := by decide
/-- R451: a fault of a page of device 2; with both links down it holds no access any more. -/
def peerFaulted (down : List Nat) : State := (({ base with windows := [peerWindow], linksDown := down
                                                           faults := [{ id := 9, tenant := 0, va := 2 ^ 30, page := 2 ^ 14, reason := 3, level := 0, fetch := false, layout := 0, offered := false, unresolvable := false, waiters := [] }] } : State).mapPage
  0 2 (2 ^ 30) (pteLeafOf 0 0xC00))
theorem witness_peerFault_cut : ∃ place pte, (peerFaulted [4, 5]).translate 0 (2 ^ 30) = .at_ place pte ∧ (peerFaulted [4, 5]).peerCut (peerDevice place) = true :=
  ⟨peerAt 2 0 1, pteLeafOf 0 0xC00, by decide +kernel, by decide +kernel⟩
theorem test_peerFault_cut : ((peerFaulted [4, 5]).endPeerFaults.faults) = [] := by decide +kernel
/-- R474: 106 °C is an emergency, and the clock falls by an eighth; at 99 °C it ends. -/
theorem test_thermalEmergency : (let t := next (exec (.thermalEmergency 1 106) base) base
    (t.hotDies, t.clockSteps, (next (exec (.thermalEmergency 1 99) t) base).hotDies)) = ([1], [8, 7, 8, 8], []) := by decide +kernel
/-- R474: 115 °C has been reached, and 40 °C measured since. -/
def hot : State := next (exec (.thermalEmergency 1 40) (next (exec (.thermalEmergency 1 115) base) base)) base
theorem witness_thermalShutdown : hot.stopped = false ∧ hot.overheated = true := by decide +kernel
theorem test_thermalShutdown : (let t := next (exec .thermalShutdown hot) base
    (t.stopped, t.launches.map (·.st))) = (true, [.ended]) := by decide +kernel
/-- R462: code 0x10 is no command of the management queue. -/
def ringS : State := { base with mem := [(hostAt + 60, 7), (hostAt + 63, 0x10), (hostAt + 124, 8), (hostAt + 127, 1)] }
def rings1 : Rings := { base := 0, size := 4, doneBase := 256, doneSize := 4 }
theorem witness_doorbellWrite : ∃ q, (ringS.updQueue 0 (fun q => if q.rings = rings1 then q else { q with rings := rings1, head := 0, tail := 0 })).queue? 0 = some q :=
  ⟨_, rfl⟩
def rung : State := next (exec (.doorbellWrite 0 { rings := rings1, count := 2 }) ringS) base
theorem test_doorbellWrite : (rung.queues.map (fun q => (q.head, q.pending.map (·.tag))), rung.completions.map (fun c => (c.tag, c.kind, c.status))) =
    ([(2, [8])], [(7, 1, 11)]) := by decide +kernel
/-- R461: the completion is written to its ring: tag from byte 30, opcode at byte 29, kind at byte 28, code from byte 24. -/
theorem test_completion_ring : [31, 30, 29, 28, 24].map (fun i => rung.writeOut.byte (hostAt + 256 + i)) = [0, 7, 0x10, 1, 11] := by decide +kernel

/-- R433: a write of a whole damaged sector clears its error; one of a part of it writes nothing. -/
theorem test_writeSectors : (let s : State := { base with bad := [hostAt / 32] }
    ((s.writeSectors ((span hostAt 32).map (·, 1))).bad, (s.writeSectors [(hostAt, 1)]).bad, (s.writeSectors [(hostAt, 1)]).byte hostAt)) = ([], [hostAt / 32], 0) := by decide +kernel

/-! ### Commands -/

/-- One command at the head of a queue, tag 7. -/
def cmd (code : BitVec 8) (ops : List Nat) : CmdEntry := { opcode := code, tag := 7, operands := ops.map (BitVec.ofNat 64 ·) }
def asked (queue : Nat) (c : CmdEntry) (s : State) : State := { s with queues := [{ Queue.fresh queue with pending := [c] }] }
/-- A command's hypotheses are met. -/
def CmdMeets (code : Nat) (cond : State → Nat → CmdEntry → Nat × BitVec 128 → Prop) (queue : Nat) (c : CmdEntry) (s : State) : Prop :=
  AtHead (asked queue c s) queue code c [] ∧ ∃ v, cond ((asked queue c s).taken queue []) queue c v
theorem at_head {queue code : Nat} {c : CmdEntry} {s : State} (h : s.recovery = false ∧ c.opcode.toNat = code) : AtHead (asked queue c s) queue code c [] :=
  ⟨h.1, { Queue.fresh queue with pending := [c] }, by simp [State.queue?, asked, findId, Queue.fresh], rfl, h.2⟩
theorem cmd_meets {code : Nat} {cond : State → Nat → CmdEntry → Nat × BitVec 128 → Prop} {queue : Nat} {c : CmdEntry} {s : State} (v : Nat × BitVec 128)
    (h : s.recovery = false ∧ c.opcode.toNat = code) (hc : cond ((asked queue c s).taken queue []) queue c v) : CmdMeets code cond queue c s := ⟨at_head h, v, hc⟩

theorem witness_groupSet : CmdMeets 0x01 (fun _ _ _ v => plain v) 0 (cmd 1 [2, 6]) base := cmd_meets (0, 0) (by decide) rfl
/-- Where nobody joins, a peer's loss is told and changes nothing else. -/
theorem losePeers (ds : List Nat) : ∀ t : State, t.joins = [] → ∃ cs, ds.foldl State.losePeer t = { t with completions := cs } := by
  induction ds with
  | nil => exact fun t _ => ⟨t.completions, rfl⟩
  | cons d ds ih =>
    intro t h
    obtain ⟨cs, hc⟩ := ih (t.losePeer d) (by simp [State.losePeer, h])
    exact ⟨cs, by rw [List.foldl_cons, hc]; simp [State.losePeer, h]⟩
theorem test_groupSet : (let t := next (exec (.groupSet 0) (asked 0 (cmd 1 [2, 6]) base)) base
    (t.device, t.members, t.free, t.completions.getLast?.map (fun c => (c.tag, c.kind)))) = (2, 6, base.free + 1, some (7, 0)) := by
  have h : next (exec (.groupSet 0) (asked 0 (cmd 1 [2, 6]) base)) base =
      (((((asked 0 (cmd 1 [2, 6]) base).taken 0 []).regroup 2 6).done 0 (cmd 1 [2, 6]) 0 0).skipBad 0) := rfl
  obtain ⟨cs, hc⟩ := losePeers ((List.range 8).filter (fun d => d ≠ 2 && ({ ((asked 0 (cmd 1 [2, 6]) base).taken 0 []).renumber 2 with members := 6 } : State).peerCut d &&
    !((asked 0 (cmd 1 [2, 6]) base).taken 0 []).peerCut d)) { ((asked 0 (cmd 1 [2, 6]) base).taken 0 []).renumber 2 with members := 6 } rfl
  have hr : ((asked 0 (cmd 1 [2, 6]) base).taken 0 []).regroup 2 6 = _ := hc
  rw [h, hr]
  show ((2 : Nat), (6 : BitVec 8), base.free + 1, (cs ++ [doneWith 0 7 1 0 0]).getLast?.map (fun c => (c.tag, c.kind))) = _
  rw [List.getLast?_concat]
  rfl
/-- Conditional on the unwrapping of 512 zero bytes giving a key, which is open. -/
theorem witness_tenantCreate (key : List Byte) (h : Config.unwrapKey 0 (List.replicate 512 0) = some key) : CmdMeets 0x02 (fun s _ c v => plain v ∧ c.op 0 < 16 ∧ 1 ≤ c.op 2 ∧ c.op 2 ≤ 4 ∧
    (∀ t ∈ s.tenants, t.num ≠ c.op 0) ∧ Config.unwrapKey s.identity (s.bytes (span (hostAt + c.op 3) 512)) = some key) 0 (cmd 2 [15, 0, 4, 0]) base :=
  cmd_meets (0, 0) (by decide) ⟨rfl, by decide, by decide, by decide, by decide, by
    rw [show ((asked 0 (cmd 2 [15, 0, 4, 0]) base).taken 0 []).bytes (span (hostAt + (cmd 2 [15, 0, 4, 0]).op 3) 512) = List.replicate 512 0 by decide +kernel]
    exact h⟩
/-- Tenant 0 exists, with its queue 0, which is queue 1; its launch has ended. -/
def tenant0 : Tenant := { num := 0, queues := 1, tableSize := 0, codeKey := [], dataKey := [] }
def tenantS : State := { base with tenants := [tenant0], launches := base.launches.map (fun la => { la with st := .ended }) }
theorem witness_tenantDestroy : CmdMeets 0x03 (fun s _ c v => plain v ∧ (∃ t ∈ s.tenants, t.num = c.op 0) ∧ ∀ la ∈ s.launches, la.tenant = c.op 0 → la.st = .ended) 0 (cmd 3 [0]) tenantS :=
  cmd_meets (0, 0) (by decide) ⟨rfl, by decide, by decide⟩
theorem witness_budgetSet : CmdMeets 0x04 (fun s _ c v => plain v ∧ c.op 1 < 4 ∧ (s.queue? (1 + 4 * c.op 0 + c.op 1)).isSome = true) 1 (cmd 4 [0, 0, 900]) base :=
  cmd_meets (0, 0) (by decide) ⟨rfl, by decide, by decide +kernel⟩
theorem witness_timeSet : CmdMeets 0x05 (fun _ _ _ v => plain v) 0 (cmd 5 [1000]) base := cmd_meets (0, 0) (by decide) rfl
/-- Conditional on the empty image carrying a valid signature, which is open. -/
theorem witness_fwUpdate (h : Config.imageOk [] = true) : CmdMeets 0x06 (fun s _ c v => plain v ∧ Config.imageOk (s.bytes (span (hostAt + c.op 0) (c.op 1))) = true) 0 (cmd 6 [0, 0]) base :=
  cmd_meets (0, 0) (by decide) ⟨rfl, h⟩

theorem witness_windowMap_device : CmdMeets 0x10 (fun s q c v => plain v ∧ windowKindOf c = some .device ∧ rangeOk (c.op 2) (c.op 3) = true ∧ c.op 0 < 256 ∧
      (∀ w ∈ s.windows, w.tenant = queueTenant q → w.num ≠ c.op 0) ∧ Sys2Proof.Machine.meets (s.virtualUsed (queueTenant q)) (c.op 2) (c.op 3) = false ∧
      (firstFit s.deviceUsed 0 Config.deviceBytes (c.op 3) (if 2 ^ 30 ≤ c.op 3 then 2 ^ 30 else 2 ^ 21)).isSome = true) 1 (cmd 0x10 [255, 0, 2 ^ 21, 2 ^ 21, 2, 0]) exportedS :=
  cmd_meets (0, 0) (by decide) ⟨rfl, by decide, by decide, by decide, by decide +kernel, by decide +kernel, by decide +kernel⟩
/-- R452: window 6 lies behind window 5, at the next multiple of 2 MiB. -/
theorem test_windowMap : (next (exec (.windowMap 1) (asked 1 (cmd 0x10 [6, 0, 2 ^ 21, 2 ^ 21, 2, 0]) exportedS)) base).windows.map (fun w => (w.num, w.backing, w.exports)) =
    [(5, 65536, [(2, 0), (0xFF, 0xFF)]), (6, 2 ^ 22, [(2, 0)])] := by decide +kernel
theorem witness_windowMap_host : CmdMeets 0x10 (fun s q c v => plain v ∧ windowKindOf c = some .host ∧ rangeOk (c.op 2) (c.op 3) = true ∧ c.op 0 < 256 ∧
      (∀ w ∈ s.windows, w.tenant = queueTenant q → w.num ≠ c.op 0) ∧ Sys2Proof.Machine.meets (s.virtualUsed (queueTenant q)) (c.op 2) (c.op 3) = false ∧ c.op 4 + c.op 3 ≤ 2 ^ 48)
      1 (cmd 0x10 [6, 1, 2 ^ 21, 2 ^ 21, 2 ^ 48 - 2 ^ 21]) exportedS :=
  cmd_meets (0, 0) (by decide) ⟨rfl, by decide, by decide, by decide, by decide +kernel, by decide +kernel, by decide⟩
theorem witness_windowMap_peer : CmdMeets 0x10 (fun s q c _ => windowKindOf c = some (.peer 7 15 255) ∧ rangeOk (c.op 2) (c.op 3) = true ∧ c.op 0 < 256 ∧
      (∀ w ∈ s.windows, w.tenant = queueTenant q → w.num ≠ c.op 0) ∧ Sys2Proof.Machine.meets (s.virtualUsed (queueTenant q)) (c.op 2) (c.op 3) = false)
      1 (cmd 0x10 [6, 2, 2 ^ 21, 2 ^ 21, 7, 15, 255]) exportedS :=
  cmd_meets (0, 0) (by decide) ⟨by decide, by decide, by decide, by decide +kernel, by decide +kernel⟩
theorem witness_windowUnmap : CmdMeets 0x11 (fun s q c v => plain v ∧ s.window? (queueTenant q) (c.op 0) = some window5 ∧ s.windowUsed window5 = false) 1 (cmd 0x11 [5]) exportedS :=
  cmd_meets (0, 0) (by decide) ⟨rfl, by decide +kernel, by decide +kernel⟩
/-- Two pages of 64 KiB at the end of the window. -/
theorem witness_pageMap : CmdMeets 0x12 (fun s q c v => plain v ∧ s.windowOf (queueTenant q) (c.op 0) = some window5 ∧ pageLevel (c.op 1) = some 3 ∧
    pagesOk window5 (c.op 0) (c.op 1) (c.op 2) (c.op 3) (bitsOf (c.op 4) 52 48) = true) 1 (cmd 0x12 [2 ^ 21 - 131072, 65536, 2, 2 ^ 21 - 131072, 0xC00]) exportedS :=
  cmd_meets (0, 0) (by decide) ⟨rfl, by decide +kernel, by decide +kernel, by decide +kernel⟩
/-- R430: the second page leads 64 KiB on. -/
theorem test_pageMap : (let t := next (exec (.pageMap 1) (asked 1 (cmd 0x12 [131072, 65536, 2, 131072, 0xC00]) exportedS)) base
    (t.completions.map (·.kind), (match t.translate 0 (131072 + 65536 + 5) with
      | .at_ p _ => p
      | .bad _ _ => 0))) = ([0], 65536 + 131072 + 65536 + 5) := by decide +kernel
/-- Fault 90 on page 0, which is mapped by now, has been offered. -/
def offered (page : Nat) : State :=
  { exportedS with faults := [{ id := 90, tenant := 0, page, va := 65536 * page + 8, offered := true, level := 2, reason := 0, fetch := false, layout := 1, unresolvable := false, waiters := [] }] }
theorem witness_faultDone : ∃ f, CmdMeets 0x13 (fun s q c v => plain v ∧ s.faults.find? (fun f => f.id = c.op 0 && f.tenant = queueTenant q && f.offered && !f.unresolvable) = some f) 1 (cmd 0x13 [90, 0]) (offered 0) :=
  ⟨_, cmd_meets (0, 0) (by decide) ⟨rfl, rfl⟩⟩
/-- R464: page 0 resolves; page 9 is offered again under a new id. -/
theorem test_faultDone : ((next (exec (.faultDone 1) (asked 1 (cmd 0x13 [90, 0]) (offered 0))) base).faults.map (·.id), (next (exec (.faultDone 1) (asked 1 (cmd 0x13 [90, 0]) (offered 9))) base).faults.map (fun f => (f.id, f.offered))) =
    ([], [(12, false)]) := by decide +kernel

/-- An object of one line of code and no data: its header (R466), its code, and its two tags, whatever the tag function gives. -/
def objectLines : List Byte := List.replicate 40 0 ++ [1] ++ List.replicate 18 0 ++ [1] ++ [0x31, 0x4F, 0x4C, 0x4B] ++ List.replicate 64 0 ++ line1
def tag1 (i : Nat) : BitVec 64 := tagOf [] 0 i (objLine objectLines i)
def image1 : List Byte := objectLines ++ leBytes 8 (tag1 0).toNat ++ leBytes 8 (tag1 1).toNat

/-- Tenant 0, with the object at device byte 65,536, in window 5. -/
def imageS : State := { exportedS with tenants := [tenant0], mem := SMap.setAll [] ((span 65536 image1.length).zip image1) }
/-- The command of CODE_LOAD for it. -/
def loadCmd : CmdEntry := cmd 0x14 [5, 0, 272, 0, 0]
/-- The object's header. -/
def header1 : ObjHeader := { magic := 0x4B4C4F31, level := 1, banks := 1, errata := [], objectId := 0, sizes := [0], codeLines := 1, dataLines := 0, relocs := 0, stringLines := 0, clean := true, limits := true }
theorem image_length : image1.length = 272 := by decide +kernel
theorem image_header : ObjHeader.ofBytes image1 = header1 := by decide +kernel
theorem image_tag (i : Nat) (h : i < 2) : recNat image1 (256 + 8 * i) 8 = (tag1 i).toNat := by
  have e : ∀ i, i < 2 → (image1.drop (256 + 8 * i)).take 8 = leBytes 8 (tag1 i).toNat := by
    intro i h
    have hl : objectLines.length = 256 := by decide +kernel
    obtain rfl | rfl : i = 0 ∨ i = 1 := by omega
    · rw [image1, List.append_assoc, ← hl, Nat.mul_zero, Nat.add_zero, List.drop_left, List.take_left' (leBytes_length 8 _)]
    · rw [image1, List.drop_left' (by simp [hl, leBytes_length]), List.take_of_length_le (by simp [leBytes_length])]
  rw [recNat, e i h, leNat_leBytes]
  exact Nat.mod_eq_of_lt (tag1 i).isLt
theorem image_line (i : Nat) (h : i < 2) : objLine image1 i = objLine objectLines i := by
  obtain rfl | rfl : i = 0 ∨ i = 1 := by omega
  all_goals decide +kernel
theorem image_tags : badTagLine [] header1 image1 = none := by
  rw [badTagLine, show header1.linesIn image1.length = 2 by decide +kernel, List.find?_eq_none]
  intro i hi
  rw [List.mem_range] at hi
  rw [show 128 * 2 + 8 * i = 256 + 8 * i by ring, image_tag i hi, image_line i hi]
  simp [tag1, header1]
/-- What the checks answer. -/
def loaded1 : Loaded := { header := header1, banks := [[]], bytes := objectLines }
theorem image_checked (s : State) (syms : List (Nat × Int)) : s.checkObject [] syms image1 = .ok loaded1 := by
  have hb : (List.range header1.banks).map (header1.bank image1) = [[]] := by decide +kernel
  have hr : header1.relocTable image1 = [] := by decide +kernel
  have ho : image1.take (header1.lines * 128) = objectLines := by
    rw [show header1.lines * 128 = objectLines.length by decide +kernel, image1, List.append_assoc, List.take_left]
  have hb' : (List.range header1.banks).map (header1.bank objectLines) = [[]] := by decide +kernel
  simp only [State.checkObject, image_header, image_tags, hb, hr, ho, image_length]
  rw [if_neg (by decide), if_neg (by decide)]
  simp only [badEntry, State.badErratum, relocate, header1, List.zipIdx, List.findSome?, List.find?, Except.map]
  exact congrArg Except.ok (by simp only [loaded1, header1]; exact congrArg (fun b => Loaded.mk header1 b objectLines) hb')
/-- The state of the command's step. -/
def loadS : State := (asked 1 loadCmd imageS).taken 1 []
theorem image_placed : (loadS.placeCode [] 0 loaded1 image1).isSome = true := by decide +kernel
theorem image_read : loadS.windowBytes window5 0 272 = some image1 := by
  have h := SMap.map_get_setAll_zip [] (span 65536 image1.length) image1 (span_nodup _ _) (span_length _ _)
  have hm : loadS.mem = SMap.setAll [] ((span 65536 image1.length).zip image1) := by simp only [loadS, State.taken, State.updQueue, asked, imageS]
  rw [State.windowBytes, if_neg (by decide), show framePlace (some window5) (window5.backing + 0) = 65536 by decide, ← image_length, State.bytes]
  have hb : loadS.byte = SMap.get (SMap.setAll [] ((span 65536 image1.length).zip image1)) := by
    rw [← hm]
    rfl
  rw [hb, h]
theorem witness_codeLoad : ∃ w image x k t, CmdMeets 0x14 (fun s q c v =>
      s.window? (queueTenant q) (c.op 0) = some w ∧ s.windowBytes w (c.op 1) (c.op 2) = some image ∧
      s.checkObject (((s.tenants.find? (fun x => x.num = queueTenant q)).map (·.codeKey)).getD []) (s.symbols (c.op 3) (c.op 4)) image = .ok x ∧
      s.placeCode (((s.tenants.find? (fun x => x.num = queueTenant q)).map (·.codeKey)).getD []) (queueTenant q) x image = some (k, t) ∧ v = (k, 0)) 1 loadCmd imageS := by
  have hp := image_placed
  rw [Option.isSome_iff_exists] at hp
  obtain ⟨⟨k, t⟩, hp⟩ := hp
  have hk : ((loadS.tenants.find? (fun x => x.num = queueTenant 1)).map (·.codeKey)).getD [] = [] := by decide +kernel
  have hw : loadS.window? (queueTenant 1) (loadCmd.op 0) = some window5 := by decide +kernel
  refine ⟨window5, image1, loaded1, k, t, cmd_meets (k, 0) (by decide) ⟨hw, image_read, ?_, ?_, rfl⟩⟩
  · exact Eq.trans (congrArg (fun key => loadS.checkObject key _ image1) hk) (image_checked loadS _)
  · exact Eq.trans (congrArg (fun key => loadS.placeCode key _ loaded1 image1) hk) hp

/-- The launch's code, of tenant 0, whose launch has ended. -/
def unloadS : State := { coded with launches := base.launches.map (fun la => { la with st := .ended }) }
theorem witness_codeUnload : CmdMeets 0x15 (fun s q c v => plain v ∧ s.codeFor (queueTenant q) (c.op 0) = some code0 ∧ ∀ la ∈ s.launches, la.code = code0.handle → la.st = .ended) 1
    (cmd 0x15 [0]) unloadS := cmd_meets (0, 0) (by decide) ⟨rfl, by decide +kernel, by decide⟩
/-- R462: BUSY (14) while a launch that has not ended uses it. -/
theorem test_codeUnload_busy : (next (exec (.codeUnload 1) (asked 1 (cmd 0x15 [0]) coded)) base).completions.map (·.status) = [14] := by decide +kernel

/-- The record stands in window 5, at offset 0. -/
def recordWindow : State := { recordS with windows := [window5] }
/-- The command, with launch 3, which is in the device, as its predecessor. -/
def launchCmd : CmdEntry := cmd 0x16 [0, 5, 0, 0, 3, 0]
def launchS : State := (asked 1 launchCmd recordWindow).taken 1 []
theorem get_all {m : SMap 8} {k : Nat} {x : Byte} (h : ∃ c ∈ m, c.1 = k) (hx : ∀ c ∈ m, c.1 = k → c.2 = x) : SMap.get m k = x := by
  induction m with
  | nil => simp at h
  | cons c m ih =>
    by_cases hc : c.1 = k
    · simp [SMap.get, hc, hx c (by simp) hc]
    · obtain ⟨d, hd, hk⟩ := h
      rw [SMap.get, if_neg hc]
      refine ih ⟨d, ?_, hk⟩ fun d hd => hx d (by simp [hd])
      rcases List.mem_cons.mp hd with rfl | hd
      · exact absurd hk hc
      · exact hd
theorem get_none {m : SMap 8} {k : Nat} (h : ∀ c ∈ m, c.1 ≠ k) : SMap.get m k = 0 := by
  induction m with
  | nil => rfl
  | cons c m ih => rw [SMap.get, if_neg (h c (by simp)), ih fun d hd => h d (by simp [hd])]
theorem get_left {m m' : SMap 8} {k : Nat} (h : ∀ c ∈ m', c.1 ≠ k) : SMap.get (m ++ m') k = SMap.get m k := by
  induction m with
  | nil => exact get_none h
  | cons c m ih =>
    rw [List.cons_append, SMap.get, SMap.get]
    split
    · rfl
    · exact ih
theorem record_read : (span 65536 816).map (SMap.get recordMem) = record := by
  have h1 : (span 65536 256).map (SMap.get recordMem) = record.take 256 := by
    rw [show (span 65536 256).map (SMap.get recordMem) = (span 65536 256).map (SMap.get [(1, 0xE0), (65, 0xE0), (65564, 32), (65604, 8), (65611, 0xD0)]) from
      List.map_congr_left fun a ha => get_left fun c hc => by
        simp only [span, List.mem_map, List.mem_range] at ha hc
        obtain ⟨i, hi, rfl⟩ := ha
        obtain ⟨j, hj, rfl⟩ := hc
        dsimp only
        omega]
    decide +kernel
  have h2 : (span 65792 256).map (SMap.get recordMem) = List.replicate 256 0xFF := by
    rw [List.eq_replicate_iff]
    refine ⟨by simp [span], fun x hx => ?_⟩
    simp only [span, List.mem_map, List.mem_range] at hx
    obtain ⟨a, ⟨i, hi, rfl⟩, rfl⟩ := hx
    refine get_all ⟨(65792 + i, 0xFF), List.mem_append_right _ (List.mem_map.mpr ⟨i, List.mem_range.mpr hi, rfl⟩), rfl⟩ fun c hc hk => ?_
    rcases List.mem_append.mp hc with hc | hc
    · simp only [List.mem_cons, List.not_mem_nil, or_false] at hc
      rcases hc with rfl | rfl | rfl | rfl | rfl <;> simp only at hk <;> omega
    · obtain ⟨j, -, rfl⟩ := List.mem_map.mp hc
      rfl
  have h3 : (span 66048 304).map (SMap.get recordMem) = List.replicate 304 0 := by
    rw [List.eq_replicate_iff]
    refine ⟨by simp [span], fun x hx => ?_⟩
    simp only [span, List.mem_map, List.mem_range] at hx
    obtain ⟨a, ⟨i, hi, rfl⟩, rfl⟩ := hx
    refine get_none fun c hc => ?_
    rcases List.mem_append.mp hc with hc | hc
    · simp only [List.mem_cons, List.not_mem_nil, or_false] at hc
      rcases hc with rfl | rfl | rfl | rfl | rfl <;> simp only <;> omega
    · obtain ⟨j, hj, rfl⟩ := List.mem_map.mp hc
      simp only [List.mem_range] at hj
      dsimp only
      omega
  rw [show span 65536 816 = span 65536 256 ++ (span 65792 256 ++ span 66048 304) by decide +kernel, List.map_append, List.map_append, h1, h2, h3]
  decide +kernel
theorem record_bytes (n : Nat) (h : n ≤ 816) : launchS.windowBytes window5 0 n = some (record.take n) := by
  have hs : span 65536 n = (span 65536 816).take n := by rw [span, span, ← List.map_take, List.take_range, Nat.min_eq_left h]
  have hsz : ¬ window5.size < 0 + n := by
    have : window5.size = 2097152 := by decide
    omega
  rw [State.windowBytes, if_neg hsz, show framePlace (some window5) (window5.backing + 0) = 65536 by decide, hs, State.bytes, List.map_take,
    show launchS.byte = SMap.get recordMem from rfl, record_read]
theorem record_there : launchS.recordAt window5 0 = some record := by
  have hl : record.length = 816 := by decide +kernel
  rw [State.recordAt, record_bytes 64 (by decide), Option.bind_some, show recLength (record.take 64) = 816 by decide +kernel, record_bytes 816 (by decide)]
  exact congrArg some (List.take_of_length_le hl.le)
/-- The command's submission. -/
def submitted : Submission := { tenant := 0, queue := 1, tag := 7, opcode := 0x16, code := 0, link := 0, preds := [(3, false)] }
theorem record_accepted : (match launchS.accept submitted code0 record with
    | .ok _ => true
    | .error _ => false) = true := by decide +kernel
/-- R147: domain code 6 in the descriptor of level 1, which is absent: LEVEL_INVALID, reason 3, level 1. -/
theorem test_record_absent : (match launchS.accept submitted code0 (record.set 91 0x60) with
    | .ok _ => 0
    | .error w => w) = 0x10301 := by decide +kernel
/-- R452: a TEXTURE root in a DEVICE window whose second element lies in a HOST window below it; a GLOBAL root may do so. -/
theorem test_root_window : (let s : State := { base with windows := [{ window5 with base := 2 ^ 21 }, { window5 with num := 6, kind := .host }] }
    [3, 0].map (fun sp => s.rootLost 0 (lay sp 4 [2] [2 ^ 32 - 2 ^ 21] (5 * 2 ^ 56)))) = [true, false] := by decide +kernel
theorem witness_launchCommand : ∃ code w bs k t, CmdMeets 0x16 (fun s q c v => s.pendingOf q < Config.pendingLaunches ∧ s.codeFor (queueTenant q) (c.op 0) = some code ∧
      s.window? (queueTenant q) (c.op 1) = some w ∧ (∀ p ∈ predPairs 4 (c.operands.drop 4), (s.launchOf (queueTenant q) p.1).isSome = true) ∧
      s.recordAt w (c.op 2) = some bs ∧
      s.accept { tenant := queueTenant q, queue := q, tag := c.tag, opcode := c.opcode, code := c.op 0, link := c.op 3
                 preds := predPairs 4 (c.operands.drop 4) } code bs = .ok (k, t) ∧ v = (k, 0)) 1 launchCmd recordWindow := by
  have ha := record_accepted
  split at ha
  · rename_i x hx
    exact ⟨code0, window5, record, x.1, x.2, cmd_meets (x.1, 0) (by decide) ⟨by decide +kernel, by decide +kernel, by decide +kernel, by decide +kernel, record_there, hx, rfl⟩⟩
  · simp at ha

/-- A pre-emptible launch: every level has a handler and a restore entry. -/
def leavable (s : State) : State := withRec (fun r => { r with handlers := List.replicate 8 64, restores := List.replicate 8 64 }) s
theorem witness_preemptCommand : ∃ la, CmdMeets 0x17 (fun s q c v => plain v ∧ s.launchOf (queueTenant q) (c.op 0) = some la ∧ la.rcd.preemptible = true ∧
    ∀ b ∈ s.blocks, b.launch = la.id → b.st ≠ .admitted) 1 (cmd 0x17 [3]) (leavable { base with blocks := [], groups := [] }) :=
  ⟨_, cmd_meets (0, 0) (by decide) ⟨rfl, rfl, by decide +kernel, by decide⟩⟩
theorem witness_preemptCommand_admitted : ∃ la, AtHead (asked 1 (cmd 0x17 [3]) (leavable base)) 1 0x17 (cmd 0x17 [3]) [] ∧
    (asked 1 (cmd 0x17 [3]) (leavable base)).launchOf (queueTenant 1) ((cmd 0x17 [3]).op 0) = some la ∧ la.rcd.preemptible = true ∧
    ∃ b ∈ (asked 1 (cmd 0x17 [3]) (leavable base)).blocks, b.launch = la.id ∧ b.st = .admitted := ⟨_, at_head (by decide), rfl, by decide +kernel, by decide⟩
/-- R434: the block is asked to leave at clock 0; R463: code 10 where the launch is not pre-emptible. -/
theorem test_preemptCommand : (next (exec (.preemptCommand 1) (asked 1 (cmd 0x17 [3]) (leavable base))) base).blocks.map (·.preemptAt) = [some 0] := by decide +kernel
theorem test_preemptCommand_not : (next (exec (.preemptCommand 1) (asked 1 (cmd 0x17 [3]) base)) base).completions.map (·.status) = [10] := by decide +kernel
theorem witness_resume : ∃ la, CmdMeets 0x18 (fun s q c v => plain v ∧ s.launchOf (queueTenant q) (c.op 0) = some la) 1 (cmd 0x18 [3]) base :=
  ⟨_, cmd_meets (0, 0) (by decide) ⟨rfl, rfl⟩⟩
theorem witness_query : CmdMeets 0x19 (fun s q c v => ∃ d, s.answer (if q = 0 then none else some (queueTenant q)) c = some (v.1, d) ∧ v.2 = BitVec.ofNat 128 d) 0 (cmd 0x19 [5]) base :=
  cmd_meets (0x28282828, 0) (by decide) ⟨0, by decide +kernel, by decide⟩
/-- R475: launch 3 is running. -/
theorem test_query : (next (exec (.query 1) (asked 1 (cmd 0x19 [3, 3]) base)) base).completions.map (fun c => (c.kind, c.value, c.detail)) = [(0, 1, 0)] := by decide +kernel

/-- Bytes that are all mapped have their places. -/
theorem placesAt_some (s : State) (tenant va n : Nat) (h : ∀ i < n, ∃ p e, s.translate tenant (va + i) = .at_ p e)
    (hw : ∀ i < n, ∃ w, s.windowOf tenant (va + i) = some w) : ∃ ps, s.placesAt tenant va n = some ps := by
  have : ∀ l : List Nat, (∀ i ∈ l, i < n) → ∃ ps, l.foldr (fun i (acc : Option (List Nat)) => match s.translate tenant (va + i), s.windowOf tenant (va + i), acc with
      | .at_ p _, some _, some ps => some (p :: ps)
      | _, _, _ => none) (some []) = some ps := by
    intro l
    induction l with
    | nil => exact fun _ => ⟨[], rfl⟩
    | cons i l ih =>
      intro hl
      obtain ⟨ps, hp⟩ := ih fun j hj => hl j (by simp [hj])
      obtain ⟨p, e, ht⟩ := h i (hl i (by simp))
      obtain ⟨w, hw⟩ := hw i (hl i (by simp))
      exact ⟨p :: ps, by simp [hp, ht, hw]⟩
  exact this _ fun i hi => List.mem_range.mp hi

/-- FIPS 180-4's own example: the digest of "abc". -/
theorem test_sha512 : sha512 [0x61, 0x62, 0x63] = (leBytes 64 0xDDAF35A193617ABACC417349AE20413112E6FA4E89A97EA20A9EEEE64B55D39A2192992A274FC1A836BA3C23A3FEEBBD454D4423643CE80E2A9AC94FA54CA49F).reverse := by
  decide +kernel
/-- R139: source c, in a word's fourth parcel, holds the immediate 12; the parcel's bits [5:0] stay. -/
theorem test_putImm8_c : putImm8 [0, 0, 0, 0, 0, 0, 0x2B, 0xC3] 6 0x55 (some 3) = [0, 0, 0, 0, 0, 0, 0x6B, 0xD5] := by decide +kernel

/-- Window 5 is mapped by one leaf of 2 MiB; the report goes to byte 64. -/
def mappedS : State := ({ base with windows := [window5] } : State).mapPage 0 2 0 (pteLeafOf 0 0xC00)
def attestS : State := (asked 1 (cmd 0x1A [0, 64]) mappedS).taken 1 []
theorem walk_step {m : SMap 64} {va fuel level table : Nat} {p : BitVec 64} (h : m.get (table * 4096 + walkIndex level va) = p) (hv : pteValid p = true)
    (hm : pteMalformed level p = false) (hl : pteLeaf p = false) : walkFrom m va (fuel + 1) level table = walkFrom m va fuel (level + 1) (pteAddr p / 4096) := by
  simp [walkFrom, h, hv, hm, hl]
theorem walk_leaf {m : SMap 64} {va fuel level table : Nat} {p : BitVec 64} (h : m.get (table * 4096 + walkIndex level va) = p) (hv : pteValid p = true)
    (hm : pteMalformed level p = false) (hl : pteLeaf p = true) : walkFrom m va (fuel + 1) level table = .page p (leafBits level) := by
  simp [walkFrom, h, hv, hm, hl]
theorem mapped (va : Nat) (h : va < 2 ^ 21) : ∃ p, attestS.translate 0 va = .at_ p (pteLeafOf 0 0xC00) := by
  have hw : ∀ level, level = 0 ∨ level = 1 ∨ level = 2 → walkIndex level va = 0 := by
    rintro level (rfl | rfl | rfl) <;> simp only [walkIndex, bitsOf] <;> omega
  have hp : attestS.walk 0 va = .page (pteLeafOf 0 0xC00) 21 := by
    rw [State.walk, walk_step (p := pteToTable (attestS.nextTable - 2)) (by rw [hw 0 (by simp)]; decide +kernel) (by decide +kernel) (by decide +kernel) (by decide +kernel),
      walk_step (p := pteToTable (attestS.nextTable - 1)) (by rw [hw 1 (by simp)]; decide +kernel) (by decide +kernel) (by decide +kernel) (by decide +kernel),
      walk_leaf (p := pteLeafOf 0 0xC00) (by rw [hw 2 (by simp)]; decide +kernel) (by decide +kernel) (by decide +kernel) (by decide +kernel)]
    rfl
  rw [State.translate, if_neg (by omega), hp]
  exact ⟨_, rfl⟩
/-- Every byte of window 5 lies in a window. -/
theorem windowed (va : Nat) (h : va < 2 ^ 21) : ∃ w, attestS.windowOf 0 va = some w :=
  ⟨window5, by simp [State.windowOf, show attestS.windows = [window5] from rfl, window5]; omega⟩
/-- Its page is not fabric-coherent. -/
theorem not_shared (n : Nat) (h : n ≤ 2 ^ 20) : attestS.sharedAt 0 64 n = false := by
  refine List.any_eq_false.mpr fun i hi => ?_
  obtain ⟨p, ht⟩ := mapped (64 + i) (by have := List.mem_range.mp hi; omega)
  simp [ht, State.copiedAway, show pteShared (pteLeafOf 0 0xC00) = false from by decide +kernel]
/-- R473. Conditional on the length of the report, which holds digests, a certificate and a signature that are open. -/
theorem witness_attest (h : ∀ nonce, (attestS.report 0 nonce).length ≤ 2 ^ 20) : ∃ ns ps, CmdMeets 0x1A (fun s q c v => plain v ∧ s.placesAt (queueTenant q) (c.op 0) 64 = some ns ∧
      s.placesAt (queueTenant q) (c.op 1) (s.report (queueTenant q) (s.bytes ns)).length = some ps ∧
      s.sharedAt (queueTenant q) (c.op 1) (s.report (queueTenant q) (s.bytes ns)).length = false ∧ s.damaged ns = false ∧ s.covers ps = true) 1 (cmd 0x1A [0, 64]) mappedS := by
  obtain ⟨ns, hn⟩ := placesAt_some attestS 0 0 64 (fun i hi => ⟨_, _, (mapped _ (by omega)).choose_spec⟩) fun i hi => windowed _ (by omega)
  have hl := h (attestS.bytes ns)
  obtain ⟨ps, hp⟩ := placesAt_some attestS 0 64 (attestS.report 0 (attestS.bytes ns)).length (fun i hi => ⟨_, _, (mapped _ (by omega)).choose_spec⟩)
    fun i hi => windowed _ (by omega)
  exact ⟨ns, ps, cmd_meets (0, 0) (by decide) ⟨rfl, hn, hp, not_shared _ hl, List.any_eq_false.mpr fun _ _ => Bool.false_ne_true, rfl⟩⟩
/-- The nonce lies in a damaged sector. -/
theorem witness_attest_damaged (h : ∀ nonce, (attestS.report 0 nonce).length ≤ 2 ^ 20) : let s : State := { asked 1 (cmd 0x1A [0, 64]) mappedS with bad := [0] }
    ∃ ns ps, s.placesAt (queueTenant 1) ((cmd 0x1A [0, 64]).op 0) 64 = some ns ∧
      s.placesAt (queueTenant 1) ((cmd 0x1A [0, 64]).op 1) (s.report (queueTenant 1) (s.bytes ns)).length = some ps ∧
      s.sharedAt (queueTenant 1) ((cmd 0x1A [0, 64]).op 1) (s.report (queueTenant 1) (s.bytes ns)).length = false ∧ s.damaged ns = true := by
  have hn : attestS.placesAt 0 0 64 = some (span 0 64) := by decide +kernel
  have hl := h (attestS.bytes (span 0 64))
  obtain ⟨ps, hp⟩ := placesAt_some attestS 0 64 (attestS.report 0 (attestS.bytes (span 0 64))).length (fun i hi => ⟨_, _, (mapped _ (by omega)).choose_spec⟩)
    fun i hi => windowed _ (by omega)
  exact ⟨span 0 64, ps, hn, hp, not_shared _ hl, by decide +kernel⟩
/-- Peers share the line at byte 8 of window 5, to which the report goes. -/
def attestShared : State := asked 1 (cmd 0x1A [0, 8]) (sharedS 6)
theorem witness_attest_waits : AtHead attestShared 1 0x1A (cmd 0x1A [0, 8]) [] ∧ (∃ ns, attestShared.placesAt (queueTenant 1) ((cmd 0x1A [0, 8]).op 0) 64 = some ns) ∧
    ∀ nonce, attestShared.sharedAt (queueTenant 1) ((cmd 0x1A [0, 8]).op 1) (attestShared.report (queueTenant 1) nonce).length = true := by
  refine ⟨at_head (by decide), ?_, fun nonce => List.any_eq_true.mpr ⟨0, ?_, by decide +kernel⟩⟩
  · exact Option.isSome_iff_exists.mp (by decide +kernel)
  · have : ∀ n x, (leBytes n x).length = n := by
      intro n
      induction n with
      | zero => simp [leBytes]
      | succ n ih => simp [leBytes, ih]
    simp [State.report, this]

/-! ### Decoding -/

theorem witness_decodeOfEncode : Instr.wf (.iadd two) = true ∧ encode (.iadd two) ≠ [] ∧ Instr.wf (.lnest nest) = true ∧ encode (.lnest nest) ≠ [] := by decide
/-- IADD v4, v0, v8, as one number. -/
def addWord : BitVec 64 := 0b10#2 ++ 0x00#8 ++ 0#4 ++ 0#1 ++ 7#3 ++ 4#10 ++ 0#10 ++ 8#10 ++ 0#10 ++ 0#6
theorem witness_decodingIsExact : decodeParcels [] (wordParcels addWord) = .ok (.iadd two, 4) := by decide
/-- Opcode 0x0E, without and with a literal; dictionary parcels beyond the bank, of an entry with bit [0] clear and set; a header marker. -/
def badWord : BitVec 64 := 0b10#2 ++ 0x0E#8 ++ 0#4 ++ 0#1 ++ 7#3 ++ 0#46
theorem witness_rejections : (badWord.extractLsb' 62 2 = 2 ∧ badWord.getLsbD 1 = false ∧ Op.decode (badWord.extractLsb' 54 8).toNat = none) ∧
    ((badWord + 2).extractLsb' 62 2 = 2 ∧ (badWord + 2).getLsbD 1 = true ∧ Op.decode ((badWord + 2).extractLsb' 54 8).toNat = none) ∧
    ((1 : Parcel).getLsbD 15 = false ∧ [addWord].length ≤ ((1 : Parcel).extractLsb' 0 10).toNat) ∧
    ((0 : Parcel).getLsbD 15 = false ∧ [addWord][((0 : Parcel).extractLsb' 0 10).toNat]? = some addWord ∧ addWord.getLsbD 0 = false) ∧
    ((0 : Parcel).getLsbD 15 = false ∧ [addWord + 1][((0 : Parcel).extractLsb' 0 10).toNat]? = some (addWord + 1) ∧ (addWord + 1).getLsbD 0 = true) ∧
    (0xE000 : Parcel).extractLsb' 13 3 = 7 := by decide

/-! ### Steps and whole states -/

/-- The word of IADD, placed for the next step: its first parcel is the lowest. -/
def placedS : State := State.reset.withFetchWord 64 0x00000008C0408001
theorem witness_step : placedS.agenda = [] ∧ ∃ gid g r, placedS.focus = some gid ∧ placedS.group? gid = some g ∧ g.run = some r ∧
    decodeParcels (placedS.bankOf g r) r.body = .ok (.iadd two, 4) := ⟨rfl, _, _, _, rfl, rfl, rfl, by decide +kernel⟩
/-- R75: opcode 0x0E is no instruction, on every lane or, guarded by p7 negated, on none. -/
def placedBad (neg : Bool) : State := State.reset.withFetchWord 64 (if neg then 0x00000000C0018383 else 0x00000000C0008381)
theorem witness_step_reject (neg : Bool) : ∃ gid g r why, (placedBad neg).agenda = [] ∧ (placedBad neg).focus = some gid ∧ (placedBad neg).group? gid = some g ∧ g.run = some r ∧
    decodeParcels ((placedBad neg).bankOf g r) r.body = .error why ∧ g.resumeOn = false ∧ rejectCause why = (1, 0x0E) ∧
    ∀ l, (if neg then 0 else 0xFF : LaneMask).getLsbD l = (r.lanes.getLsbD l && (g.lane? l).elim false (fun ln => ln.pred (rejectGuard why).idx.toNat ^^ (rejectGuard why).neg)) := by
  cases neg
  · refine ⟨_, _, _, .illegalOpcode { idx := 7, neg := false } 0x0E, rfl, rfl, rfl, rfl, by decide +kernel, rfl, rfl, fun l => ?_⟩
    have h : ∀ l < 64, (0xFF : LaneMask).getLsbD l = ((0xFF : LaneMask).getLsbD l && ((placedBad false).group? 1).elim false (fun g =>
      (g.lane? l).elim false (fun ln => ln.pred 7 ^^ false))) := by decide +kernel
    by_cases hl : l < 64
    · exact h l hl
    · have : (0xFF : LaneMask).getLsbD l = false := BitVec.getLsbD_of_ge _ _ (by omega)
      exact this.trans (by rw [show (Run.lanes _).getLsbD l = false from this]; rfl)
  · refine ⟨_, _, _, .illegalOpcode { idx := 7, neg := true } 0x0E, rfl, rfl, rfl, rfl, by decide +kernel, rfl, rfl, fun l => ?_⟩
    have h : ∀ l < 64, (0 : LaneMask).getLsbD l = ((0xFF : LaneMask).getLsbD l && ((placedBad true).group? 1).elim false (fun g =>
      (g.lane? l).elim false (fun ln => ln.pred 7 ^^ true))) := by decide +kernel
    by_cases hl : l < 64
    · exact h l hl
    · have : (0xFF : LaneMask).getLsbD l = false := BitVec.getLsbD_of_ge _ _ (by omega)
      rw [show (Run.lanes _).getLsbD l = false from this]
      simp
/-- The launch ends with ILLEGAL_OPCODE, and the opcode as information. -/
theorem test_step_reject : (next (step (placedBad false)) base).completions.map (fun c => (c.kind, c.status, c.detail.extractLsb' 0 32)) = [(2, 1, 0x0E)] := by decide +kernel
theorem witness_step_agenda : ({ base with agenda := [(1, .thermalShutdown)] } : State).agenda = [(1, .thermalShutdown)] := rfl
/-- The step adds: with v0 = 1 and v8 = 2 in lane 0, v4 becomes 3, and the clause's place moves on by 8 bytes. -/
theorem test_step : (let t := next (step (withV (fun _ => [(0, 1), (8, 2)]) placedS)) base
    (t.groups.head?.bind (fun g => g.lane? 0)).map (fun ln => ln.v.get 4)) = some 3 := by decide +kernel
theorem witness_stepKeepsMemory : Memory.wf placedS.mem = true ∧ ∃ t, step placedS = .next t := by
  have h : (match step placedS with
    | .next _ => true
    | _ => false) = true := by decide +kernel
  refine ⟨rfl, ?_⟩
  split at h
  · rename_i t ht
    exact ⟨t, ht⟩
  · simp at h
theorem witness_memory_rest : Instr.stores (.thermalShutdown) = false ∧ ∃ t, exec .thermalShutdown base = .next t := ⟨rfl, _, rfl⟩

/-! ### Registers, guards and checks -/

/-- ICMP to p7: no result of its row touches the lane's random state. -/
theorem witness_p7_row : ∃ r ∈ fixedRows, ∃ e, Runs r.op (form 0 (.p 7) (.v 0) (.v 8) (.pred 7)) (fun _ => []) base e ∧
    ∀ l ln, (r.res (form 0 (.p 7) (.v 0) (.v 8) (.pred 7)) base e l ln).seed = none := by
  obtain ⟨e, he, -⟩ : Meets .icmp noRuns always (form 0 (.p 7) (.v 0) (.v 8) (.pred 7)) base := meets_of (fun _ => true) (fun _ _ => trivial) (by decide +kernel)
  exact ⟨fixedRows[24], List.getElem_mem _, e, he, fun _ _ => rfl⟩
/-- R26. p1 holds on lanes 0 and 2, and so does not on the six others. -/
def guarded : State := withGroup (fun g => { g with lanes := g.lanes.mapIdx (fun l ln => { ln with p := if l = 0 ∨ l = 2 then 2 else 0 }) }) base
theorem witness_guard : ∃ e, guarded.env { idx := 1, neg := true } = some e ∧ e.g.resumeOn = false ∧ e.x = 0xFA := by
  have h : (guarded.env { idx := 1, neg := true }).map (fun e => (e.g.resumeOn, e.x)) = some (false, 0xFA) := by decide +kernel
  rw [Option.map_eq_some_iff] at h
  obtain ⟨e, he, h⟩ := h
  exact ⟨e, he, (Prod.mk.inj h).1, (Prod.mk.inj h).2⟩
theorem witness_guard_none : ∃ e, base.env { idx := 7, neg := true } = some e ∧ e.x = 0 ∧ parts (.iadd { two with guard := { idx := 7, neg := true } }) = some (.iadd, { two with guard := { idx := 7, neg := true } }) := by
  have h : (base.env { idx := 7, neg := true }).map (fun e => e.x) = some 0 := by decide +kernel
  rw [Option.map_eq_some_iff] at h
  obtain ⟨e, he, h⟩ := h
  exact ⟨e, he, h, rfl⟩
/-- R76: with a budget of 32 V registers, a read of v40 is REG_BUDGET (0x04). -/
def few : State := withRec (fun r => { r with budgets := List.replicate 8 4 }) base
theorem witness_check : ∃ e, few.env Guard.always = some e ∧ e.x ≠ 0 ∧ few.preCheck e .iadd { two with a := .v 40 } [] = some (4, 0x428, 0xFF) := by
  have h : (few.env Guard.always).map (fun e => (decide (e.x ≠ 0), few.preCheck e .iadd { two with a := .v 40 } [])) = some (true, some (4, 0x428, 0xFF)) := by decide +kernel
  rw [Option.map_eq_some_iff] at h
  obtain ⟨e, he, h⟩ := h
  exact ⟨e, he, of_decide_eq_true (Prod.mk.inj h).1, (Prod.mk.inj h).2⟩
/-- The launch ends with that cause: it has no handler (R419). -/
theorem test_check : (next (exec (.iadd { two with a := .v 40 }) few) base).completions.map (fun c => (c.kind, c.status, c.detail)) =
    [(2, 4, (0xFF : BitVec 64) ++ (8 : BitVec 32) ++ (0x428 : BitVec 32))] := by decide +kernel

/-- R16, R28, R64, R158, R164: a modifier that IADD has not; an L entry that no lane has valid; MMA by role 0; h9 of a level without held registers, read and written. -/
theorem test_checks : (base.env Guard.always).map (fun e => [base.preCheck e .iadd { two with mod := 2 } [], base.preCheck e .iadd { two with a := .l 0 } [],
    base.preCheck { e with g := { e.g with role := 0 } } .mma (form 0 (.field 0) (.v 0) (.v 1) (fld 2)) [], base.preCheck e .iadd { two with a := .h 9 } [],
    base.preCheck e .iadd { two with dst := .h 9 } [], base.preCheck e .iadd two []]) =
    some [some (2, 0, 0xFF), some (2, 0, 0xFF), some (5, 0, 0xFF), some (0x0C, 512 + 9, 0xFF), some (0x0C, 1024 + 9, 0xFF), none] := by decide +kernel
theorem witness_checks_form : ∃ e, base.env Guard.always = some e ∧ formBad .iadd { two with mod := 2 } e [] ∧ ¬ formBad .iadd two e [] := by
  have h : (base.env Guard.always).map (fun e => ((e.sig .iadd { two with mod := 2 }).isNone, (e.sig .iadd two).isSome)) = some (true, true) := by decide +kernel
  rw [Option.map_eq_some_iff] at h
  obtain ⟨e, he, h⟩ := h
  rw [Prod.mk.injEq, Option.isNone_iff_eq_none] at h
  refine ⟨e, he, .inl h.1, ?_⟩
  rintro (h' | ⟨h', -⟩ | ⟨c, h', -⟩ | ⟨i, h', -⟩ | ⟨h', -⟩)
  · simp [h'] at h
  · exact absurd h' (by decide)
  · simp at h'
  · exact absurd h' (by simp [two, form])
  · exact absurd h' (by decide)
/-- h5 of a fragment is its first vertex's, which it claims; h6 is its own level's; h7 is no level's; and without the claim h5 cannot be read. -/
theorem test_readHeld : (let s := withRec (fun r => { r with heldMap := r.heldMap.set 70 1 }) fragments
    (s.recOf 3).map (fun r => [{ fetchElem 1 0 with level := 1, parents := [20, 21, 22], claims := [20, 21, 22] }, { fetchElem 1 0 with level := 1, parents := [20, 21, 22], claims := [] }].map (fun el =>
      [5, 6, 7].map (fun n => match s.readHeld r el n 0 with
        | .ok x => x
        | .error x => x)))) = some [[1, 0, 512 + 7], [2048 + 5, 0, 512 + 7]] := by decide +kernel
theorem witness_readHeld : (let s := withRec (fun r => { r with heldMap := r.heldMap.set 70 1 }) fragments
    (s.recOf 3).map (fun r => let el := { fetchElem 1 0 with level := 1, parents := [20, 21, 22], claims := [20, 21, 22] }
      (r.heldLevel el.level 5, r.heldLevel el.level 6, r.heldLevel el.level 7, (s.ancestor el 0).map (fun a => (a.id, el.claims.contains a.id))))) =
    some (0, 1, 15, some (20, true)) := by decide +kernel
/-- IADD to g200 and to h3, in a state whose elements have slots. -/
def slotted : State :=
  { withRec (fun r => { r with levels := r.levels.map (fun v => { v with held := 8 }) }) base with
    slots := (List.range 8).map (fun i => { elem := 4 + i, launch := 3, level := 0, core := 0, index := i, h := [], holds := 0 }) }
theorem witness_fixed_g : Meets .iadd noRuns (fun _ _ e => e.lanes ≠ []) { two with dst := .g 200 } slotted := meets (by decide +kernel)
theorem witness_fixed_h : Meets .iadd noRuns (fun _ s e => ∀ c ∈ e.lanes, ∃ sl ∈ s.slots, c.2.elem = sl.elem) { two with dst := .h 3 } slotted := meets (by decide +kernel)
theorem test_fixed_h : (next (exec (.iadd { two with dst := .h 3 }) (withV (fun l => [(0, BitVec.ofNat 32 l), (8, 1)]) slotted)) base).slots.map (fun sl => sl.h.get 3) = [1, 2, 3, 4, 5, 6, 7, 8] := by
  decide +kernel

/-! ### Traps and clauses -/

/-- A launch with a handler at 64 for every level. -/
def handled (s : State) : State := withRec (fun r => { r with handlers := List.replicate 8 64 }) s
theorem witness_trap : ∃ gid g r la, (handled base).group? gid = some g ∧ g.run = some r ∧ g.handler = none ∧ (handled base).launch? g.launch = some la ∧
    la.rcd.handlers.getD g.level 0 ≠ 0 := ⟨1, _, _, _, rfl, rfl, rfl, rfl, by decide⟩
/-- TRAPI 5 on lanes 0 and 2: the lanes of the path go to 64, and their cause, pc, information and lanes are readable. -/
theorem test_trapi : (let t := next (exec (.trapi { form 0 (.field 0) nil (.imm 5) nil with guard := { idx := 1, neg := false } }) (handled guarded)) base
    t.groups.head?.bind (fun g => (g.lane? 1).map (fun ln => (ln.pc, (List.range 5).map (fun i => t.special g 1 ln (24 + i)))))) = some (64, [0x22, 8, 5, 5, 0]) := by decide +kernel
theorem witness_trapi_handled : ∃ e, Runs .trapi (form 0 (.field 0) nil (.imm 5) nil) (fun _ => []) (handled base) e ∧ e.g.handler = none ∧ e.rcd.handlers.getD e.g.level 0 ≠ 0 := by
  obtain ⟨e, he, h⟩ : Meets .trapi noRuns (fun _ _ e => e.g.handler = none ∧ e.rcd.handlers.getD e.g.level 0 ≠ 0) (form 0 (.field 0) nil (.imm 5) nil) (handled base) := meets (by decide +kernel)
  exact ⟨e, he, h⟩
/-- No handler; and a trap in a handler. -/
theorem witness_unhandled : ∃ gid g r la, base.group? gid = some g ∧ g.run = some r ∧ base.launch? g.launch = some la ∧ la.st ≠ .ended ∧
    (g.lane? (lowLane 0xFF)).isSome = true ∧ (g.handler.isSome = true ∨ la.rcd.handlers.getD g.level 0 = 0) := ⟨1, _, _, _, rfl, rfl, rfl, by decide, by decide, .inr (by decide)⟩
/-- The same of a trap at a header, and of BUDGET, PREEMPT and a report of the engines. -/
theorem witness_unhandled_header : ∃ gid g la, (standing base).group? gid = some g ∧ (standing base).launch? g.launch = some la ∧ la.st ≠ .ended ∧
    (g.lane? (lowLane 0xFF)).isSome = true ∧ (g.handler.isSome = true ∨ la.rcd.handlers.getD g.level 0 = 0) := ⟨1, _, _, rfl, rfl, by decide, by decide, .inr (by decide)⟩
def unhandled (s : State) : State := withRec (fun r => { r with handlers := List.replicate 8 0 }) s
theorem witness_unhandled_budget : ∃ g la pc, (unhandled overspent).group? 1 = some g ∧ (unhandled overspent).launch? g.launch = some la ∧ la.st ≠ .ended ∧
    la.rcd.handlers.getD g.level 0 = 0 ∧ g.asyncDue = some Cause.budget ∧ trapPlace (unhandled overspent) g pc ∧ (g.lane? (lowLane (g.lanesWhere (·.isFree)))).isSome = true :=
  ⟨_, _, (place_of _ _).choose, rfl, rfl, by decide, by decide, by decide +kernel, (place_of _ _).choose_spec, by decide +kernel⟩
theorem witness_unhandled_preempt : ∃ g la pc ln, (unhandled preempting).group? 1 = some g ∧ (unhandled preempting).launch? g.launch = some la ∧ la.st ≠ .ended ∧
    la.rcd.handlers.getD g.level 0 = 0 ∧ g.asyncDue = some Cause.preempt ∧ trapPlace (unhandled preempting) g.freeBlocked pc ∧
    g.freeBlocked.lane? (lowLane (g.freeBlocked.lanesWhere (·.unexited))) = some ln :=
  ⟨_, _, (place_of _ _).choose, _, rfl, rfl, by decide, by decide, by decide +kernel, (place_of _ _).choose_spec, rfl⟩
theorem witness_unhandled_fault : ∃ g la pc f rest, (unhandled reported).group? 1 = some g ∧ (unhandled reported).launch? g.launch = some la ∧ la.st ≠ .ended ∧
    la.rcd.handlers.getD g.level 0 = 0 ∧ g.asyncDue = some Cause.engineFault ∧ trapPlace (unhandled reported) g pc ∧ g.faults = f :: rest ∧
    (g.lane? (lowLane (maskOf [if g.lanesWhere (·.isFree) &&& f.lanes ≠ 0 then lowLane (g.lanesWhere (·.isFree) &&& f.lanes) else lowLane (g.lanesWhere (·.isFree))]))).isSome = true :=
  ⟨_, _, (place_of _ _).choose, _, _, rfl, rfl, by decide, by decide, by decide +kernel, (place_of _ _).choose_spec, rfl, by decide +kernel⟩
/-- R419: BUDGET. -/
theorem test_unhandled_budget : (next (exec (.asyncTrapDelivery 1) (unhandled overspent)) base).completions.map (fun c => (c.kind, c.status)) =
    [(2, BitVec.ofNat 32 Cause.budget)] := by decide +kernel
/-- R173. Every lane stands at a header that waits for f0, which a SPAWN of child 50 holds up; element 4, of lane 0, holds a slot of level 0's pool. -/
def starved : State :=
  let s : State := ({ unhandled (standing base) with codes := [code1], mem := [(1, 0xE0), (2, 1), (3, 0x40)] } : State).mapCode code0
  withGroup (fun g => { g with flags := [(0, 1)] }) { s with
    elems := base.elems ++ [{ fetchElem 1 0 with id := 50, level := 1, parents := [4], st := .waiting }]
    ops := [op70 (.child 50) []]
    slots := [{ elem := 4, launch := 3, level := 0, index := 0, core := 0, holds := 0, h := [] }] }
/-- Level 0's pool of core 0. -/
def pool0 : Pool := { level := 0, core := 0 }
theorem witness_unhandled_deadlock : ∃ g la low, starved.group? 1 = some g ∧ starved.launch? g.launch = some la ∧ la.st ≠ .ended ∧ la.rcd.handlers.getD g.level 0 = 0 ∧
    g.lanes.find? (fun ln => ((starved.pool la.id pool0.level pool0.core).map (·.elem)).contains ln.elem && starved.flagBlocked la g ln) = some low ∧
    (g.lane? (lowLane (g.lanesWhere (fun ln => ln.pc = low.pc && starved.flagBlocked la g ln)))).isSome = true := by
  have h : (starved.group? 1).map (fun g => (starved.launch? g.launch).map (fun la => (decide (la.st ≠ .ended), la.rcd.handlers.getD g.level 0,
      (g.lanes.find? (fun ln => ((starved.pool la.id pool0.level pool0.core).map (·.elem)).contains ln.elem && starved.flagBlocked la g ln)).map (fun low =>
        (g.lane? (lowLane (g.lanesWhere (fun ln => ln.pc = low.pc && starved.flagBlocked la g ln)))).isSome)))) = some (some (true, 0, some true)) := by decide +kernel
  rw [Option.map_eq_some_iff] at h
  obtain ⟨g, hg, h⟩ := h
  rw [Option.map_eq_some_iff] at h
  obtain ⟨la, hl, h⟩ := h
  simp only [Prod.mk.injEq, decide_eq_true_eq, Option.map_eq_some_iff] at h
  obtain ⟨h1, h2, low, h3, h4⟩ := h
  exact ⟨g, la, low, hg, hl, h1, h2, h3, h4⟩
/-- R174: where no lane of the launch is blocked, firmware ends it. -/
theorem witness_unhandled_pool : ∃ la, base.launch? la.id = some la ∧ la.st ≠ .ended ∧
    ∀ g ∈ base.groups, g.launch = la.id → ∀ ln ∈ g.lanes, base.flagBlocked la g ln = false := by
  obtain ⟨la, hl⟩ : ∃ la, base.launch? 3 = some la := ⟨_, rfl⟩
  have h : (base.launch? 3).map (fun la => (la.id, decide (la.st ≠ .ended), base.groups.all (fun g => g.lanes.all (fun ln => !base.flagBlocked la g ln)))) = some (3, true, true) := by decide +kernel
  rw [hl, Option.map_some, Option.some.injEq, Prod.mk.injEq, Prod.mk.injEq] at h
  refine ⟨la, h.1 ▸ hl, of_decide_eq_true h.2.1, fun g hg _ ln hln => ?_⟩
  simpa using List.all_eq_true.mp (List.all_eq_true.mp h.2.2 g hg) ln hln
/-- A handler is open on the group, with a clause in progress. -/
def handlingS : State :=
  let s := (handled base).trapAt 1 0x22 5 0xFF
  withGroup (fun g => { g with run := (base.groups.head?.bind (·.run)) }) s
theorem witness_unhandled_in_handler : ∃ gid g r la, handlingS.group? gid = some g ∧ g.run = some r ∧ handlingS.launch? g.launch = some la ∧ la.st ≠ .ended ∧
    (g.lane? (lowLane 0xFF)).isSome = true ∧ g.handler.isSome = true := ⟨1, _, _, _, rfl, rfl, rfl, by decide, by decide +kernel, by decide +kernel⟩
/-- R419: the cause with bit [8] set. -/
theorem test_unhandled_in_handler : (handlingS.trapAt 1 2 7 0xFF).completions.map (fun c => (c.kind, c.status, c.detail)) = [(2, 0x102, (0xFF : BitVec 64) ++ (8 : BitVec 32) ++ (7 : BitVec 32))] := by decide +kernel
/-- The clause of a group whose body is done. -/
def doneS : State := withGroup (fun g => { g with run := g.run.map (fun r => { r with body := [] }) }) base
theorem witness_clausesEnd : ∃ gid g r, doneS.group? gid = some g ∧ g.run = some r ∧ r.body = [] ∧ g.handler = none ∧ r.losers = 0 := ⟨1, _, _, rfl, rfl, rfl, rfl, rfl⟩

/-- A clause whose set-flags are one flag. -/
def sameFlag (s : State) : State := withGroup (fun g => { g with run := g.run.map (fun r => { r with flagB := r.flagA }) }) s
theorem witness_trap_sameFlag : ∃ gid g r la i, (sameFlag (handled base)).group? gid = some g ∧ g.run = some r ∧ g.handler = none ∧
    (sameFlag (handled base)).launch? g.launch = some la ∧ la.rcd.handlers.getD g.level 0 ≠ 0 ∧ r.flagA = some i ∧ r.flagB = some i := ⟨1, _, _, _, _, rfl, rfl, rfl, rfl, by decide, rfl, rfl⟩
theorem witness_clausesEnd_sameFlag : ∃ gid g r i, (sameFlag doneS).group? gid = some g ∧ g.run = some r ∧ r.body = [] ∧ g.handler = none ∧ r.losers = 0 ∧
    r.flagA = some i ∧ r.flagB = some i := ⟨1, _, _, _, rfl, rfl, rfl, rfl, rfl, rfl, rfl⟩
/-- R186: the flag of both loses 2. -/
theorem test_clausesEnd_sameFlag : ((sameFlag doneS).groups.map (fun g => g.flag 0), ((sameFlag doneS).endClause 1).groups.map (fun g => g.flag 0)) = ([33], [31]) := by decide +kernel

/-! ### Stores performed in part (R278) -/

/-- The verdict on an instruction's checks is a trap, there is a handler, and no lane waits. -/
def partTrap (cs : List (Nat × Nat × Chk)) (e : Env) : Prop :=
  (∀ c ∈ cs, c.2.2 ≠ .busy) ∧ e.g.handler = none ∧ e.rcd.handlers.getD e.g.level 0 ≠ 0 ∧ (match verdict cs with
    | .trap _ _ _ => true
    | _ => false) = true
/-- The verdict is a missing translation, and no lane waits. -/
def partMiss (cs : List (Nat × Nat × Chk)) : Prop := (∀ c ∈ cs, c.2.2 ≠ .busy) ∧ (match verdict cs with
    | .miss _ _ _ _ => true
    | _ => false) = true
/-- Lane 3 is beyond the extent. -/
def partS : State := handled (withV (fun l => [(0, if l = 3 then 256 else BitVec.ofNat 32 l)]) scr)
/-- Pages of the first 2 MiB are there, and lane 3 goes beyond them. -/
def missS : State := withV (fun l => [(0, if l = 3 then 0x80000 else BitVec.ofNat 32 l)]) (withRoots [0, lay 0 4 [0x100000] [4] 0] mappedS)
def stChecks (f : Form) (s : State) (e : Env) : List (Nat × Nat × Chk) := laneChecks s e f (memWidth f) 1 (memZ f)
def atomChecks (f : Form) (s : State) (e : Env) : List (Nat × Nat × Chk) := laneChecks s e f (if ordD (BitVec.ofNat 10 f.b.uimm) then 8 else 4) 2 false
def redChecks (f : Form) (s : State) (e : Env) : List (Nat × Nat × Chk) := laneChecks s e f (if ordD (BitVec.ofNat 10 f.dst.uimm) then 8 else 4) 2 false
def atomF : Form := form 0 (.v 4) (.v 0) nil (fld 1)
def redF : Form := form 0 (.field 0) (.v 0) (.imm 1) (fld 1)
theorem witness_st_part : Meets .st coordRun (fun f s e => partTrap (stChecks f s e) e) (memF (.field 0) (.imm 7)) partS :=
  meets (dec := fun _ => by unfold partTrap; infer_instance) (by decide +kernel)
theorem witness_atom_part : Meets .atom coordRun (fun f s e => partTrap (atomChecks f s e) e) atomF partS :=
  meets (dec := fun _ => by unfold partTrap; infer_instance) (by decide +kernel)
theorem witness_red_part : Meets .red coordRun (fun f s e => partTrap (redChecks f s e) e) redF partS :=
  meets (dec := fun _ => by unfold partTrap; infer_instance) (by decide +kernel)
theorem witness_st_miss : Meets .st coordRun (fun f s e => partMiss (stChecks f s e)) (memF (.field 0) (.imm 7)) missS :=
  meets (dec := fun _ => by unfold partMiss; infer_instance) (by decide +kernel)
theorem witness_atom_miss : Meets .atom coordRun (fun f s e => partMiss (atomChecks f s e)) atomF missS :=
  meets (dec := fun _ => by unfold partMiss; infer_instance) (by decide +kernel)
theorem witness_red_miss : Meets .red coordRun (fun f s e => partMiss (redChecks f s e)) redF missS :=
  meets (dec := fun _ => by unfold partMiss; infer_instance) (by decide +kernel)
/-- Seven lanes store; lane 3 is %trap.lanes, and runs again. -/
theorem test_st_part : (let t := next (exec (.st (memF (.field 0) (.imm 7))) partS) base
    (t.mem.length, t.groups.map (fun g => g.handler.map (fun h => (h.cause, h.trapLanes, h.todo))))) = (7, [some (0x10, 8, 8)]) := by decide +kernel
theorem test_st_miss : (let t := next (exec (.st (memF (.field 0) (.imm 7))) missS) base
    (t.mem.length, t.groups.map (fun g => (g.resumeOn, g.resume)), t.faults.map (·.va))) = (7, [(true, 8)], [0x200000]) := by decide +kernel
/-- Outside the rings of completions and the memory of backing slots: nothing is there to be written. -/
theorem witness_writtenOut : ¬ WrittenOut base 0 := by
  have h : base.queues.all (fun q => decide (q.rings.doneSize = 0)) = true ∧ base.slots = [] := by decide +kernel
  rintro (⟨q, hq, hn, -⟩ | ⟨x, hx, -⟩)
  · exact hn (of_decide_eq_true (List.all_eq_true.mp h.1 q hq))
  · rw [h.2] at hx
    simp at hx
theorem witness_reach : ¬ Instr.reach (.copyLanding 5) base 0 ∧ ∃ t, exec (.copyLanding 5) base = .next t := ⟨id, _, rfl⟩

end Sys2Proof.Tests
end

section
namespace Sys2Proof.Machine

/-! ### Reads of p7 and writes to it (R14) -/

/-- Changing an entry to itself changes no list. -/
theorem updAt_eq_self {α : Type} {f : α → α} (hf : ∀ x, f x = x) (k : Nat) (l : List α) : updAt f k l = l := by
  induction l generalizing k with
  | nil => rw [updAt]
  | cons x l ih =>
    cases k with
    | zero => rw [updAt, hf]
    | succ k => rw [updAt, ih]

theorem Group.updLane_eq_self {f : Lane → Lane} (hf : ∀ ln, f ln = ln) (g : Group) (l : Nat) : g.updLane l f = g := by
  rw [Group.updLane, updAt_eq_self hf]

theorem State.updGroup_eq_self {f : Group → Group} (hf : ∀ g, f g = g) (s : State) (gid : Nat) : s.updGroup gid f = s := by
  rw [State.updGroup, updId_id Group.id f s.groups fun g _ _ => hf g]

/-- R14: p7 as a source is true, which an instruction reads as 1. -/
theorem State.srcAt_p7 (s : State) (e : Env) (v : View) (l : Nat) (ln : Lane) (k : Nat) : s.srcAt e v l ln k (.pred 7) = 1 := by
  simp [State.srcAt]

/-- R14: the machine is as it was after a write to p7 of any lane. -/
@[simp] theorem State.writeReg_p7 (s : State) (gid l : Nat) (x : Word) : s.writeReg gid l (.p 7) x = s :=
  State.updGroup_eq_self (fun g => Group.updLane_eq_self (fun ln => Lane.write_p7 ln x) g l) s gid

theorem State.writeRegs_p7 (s : State) (gid : Nat) {ws : List (Nat × RegRef × Word)} (h : ∀ w ∈ ws, w.2.1 = .p 7) : s.writeRegs gid ws = s := by
  induction ws with
  | nil => rfl
  | cons w ws ih =>
    obtain ⟨l, ref, x⟩ := w
    obtain ⟨rfl, hws⟩ := List.forall_mem_cons.mp h
    rw [State.writeRegs, State.writeReg_p7, ih hws]

/-- With destination p7, no L entry and %seed left alone, a result of any number of words writes p7 only. -/
theorem LaneRes.writes_p7 {r : LaneRes} {f : Form} (hd : f.dst = .p 7) (hl : f.lw = none) (hs : r.seed = none) :
    ∀ w ∈ r.writes f, w.1 = .p 7 := by
  intro w hw
  simp only [LaneRes.writes, hd, hl, hs, List.nil_append, List.append_nil, List.mem_filterMap, Dst.ref, Option.map_some,
    Option.some.injEq] at hw
  obtain ⟨c, -, rfl⟩ := hw
  rfl

theorem Env.writes_p7 {e : Env} {f : Form} {fn : Nat → Lane → LaneRes} (hd : f.dst = .p 7) (hl : f.lw = none)
    (hs : ∀ l ln, (fn l ln).seed = none) : ∀ w ∈ e.writes f fn, w.2.1 = .p 7 := by
  intro w hw
  obtain ⟨c, -, hc⟩ := List.mem_flatMap.mp hw
  obtain ⟨v, hv, rfl⟩ := List.mem_map.mp hc
  exact LaneRes.writes_p7 hd hl (hs c.1 c.2) v hv

/-! ### The rows of fixed latency -/

/-- Where it runs, an instruction of fixed latency writes its registers and retires. -/
theorem runFixed_effect {op : Op} {f : Form} {s : State} {e : Env} (fn : Env → Nat → Lane → LaneRes) (h : Runs op f (noRuns f) s e) :
    runFixed op f s fn = .next ((s.writeRegs e.gid (e.writes f (fn e))).retire e op f) :=
  runWith_effect _ h.env h.some h.clear

/-- The instruction of a row only writes registers of its lanes, and it moves %seed exactly where the row's result does. -/
def Row.RunsFixed (r : Row) : Prop :=
  ∀ f s, ∃ fn : Env → Nat → Lane → LaneRes, exec (r.op.instr f) s = runFixed r.op f s fn ∧
    ∀ e l ln, (fn e l ln).seed = (r.res f s e l ln).seed

/-- Two results that leave %seed alone agree on it, whatever their words. -/
theorem LaneRes.seed_eq_of_none {a b : LaneRes} (ha : a.seed = none) (hb : b.seed = none) : a.seed = b.seed := ha.trans hb.symm

/-- The seeds are compared through `none`: to compare the results whole would be to compute the bounds of saturation. -/
theorem integerRows_runFixed : ∀ r ∈ integerRows, r.RunsFixed := by
  simp only [integerRows, List.forall_mem_cons, List.not_mem_nil, false_imp_iff, implies_true, and_true]
  and_intros <;> exact fun f s => ⟨_, rfl, fun _ _ _ => LaneRes.seed_eq_of_none rfl rfl⟩

theorem fixedRows_runFixed : ∀ r ∈ fixedRows, r.RunsFixed := by
  simp only [fixedRows, List.forall_mem_append]
  refine ⟨⟨⟨⟨integerRows_runFixed, ?logic⟩, ?float⟩, ?convert⟩, ?read⟩
  all_goals
    simp only [logicRows, floatRows, convertRows, readRows, List.forall_mem_cons, List.not_mem_nil, false_imp_iff, implies_true, and_true]
    and_intros <;> exact fun f s => ⟨_, rfl, fun _ _ _ => rfl⟩

/-- R14: an instruction of a fixed-latency row with destination p7, which writes no L entry and leaves %seed alone, only retires. -/
theorem Row.RunsFixed.exec_p7 {r : Row} (hr : r.RunsFixed) {f : Form} {s : State} {e : Env} (h : Runs r.op f (noRuns f) s e)
    (hd : f.dst = .p 7) (hs : ∀ l ln, (r.res f s e l ln).seed = none) (hl : f.lw = none) :
    exec (r.op.instr f) s = .next (s.retire e r.op f) := by
  obtain ⟨fn, hexec, hseed⟩ := hr f s
  have hw : ∀ w ∈ e.writes f (fn e), w.2.1 = .p 7 := Env.writes_p7 hd hl fun l ln => (hseed e l ln).trans (hs l ln)
  rw [hexec, runFixed_effect fn h, State.writeRegs_p7 s e.gid hw]

/-- Settles O55: every write of such an instruction goes to p7, and a write to p7 leaves the machine as it was. -/
theorem p7ReadsTrueAndDropsWrites : Obligations.P7ReadsTrueAndDropsWrites :=
  ⟨Lane.pred_p7, Lane.write_p7, State.srcAt_p7, fun r hr _ _ _ h hd hs hl => (fixedRows_runFixed r hr).exec_p7 h hd hs hl⟩

end Sys2Proof.Machine
end

section
namespace Sys2Proof.Machine

/-! ### A synchronous trap enters the handler of its level (R416, R417) -/

/-- The lanes that a mask names are changed, and the others are as they were. -/
theorem Group.updLanes_lane? (g : Group) (m : LaneMask) (f : Nat → Lane → Lane) (l : Nat) :
    (g.updLanes m f).lane? l = (g.lane? l).map (fun ln => if m.getLsbD l then f l ln else ln) :=
  List.getElem?_mapIdx

theorem Group.subFlag?_eq (g : Group) (i : Option Nat) (n : Nat) : g.subFlag? i n = { g with flags := (g.subFlag? i n).flags } := by
  cases i <;> rfl

/-- R417: what a synchronous trap takes back are flag counts, and nothing else of the group. -/
theorem Group.dropFlags_eq (g : Group) (r : Run) : g.dropFlags r = { g with flags := (g.dropFlags r).flags } := by
  rw [Group.dropFlags, Group.subFlag?_eq, Group.subFlag?_eq g]

@[simp] theorem Group.dropFlags_id (g : Group) (r : Run) : (g.dropFlags r).id = g.id := by rw [Group.dropFlags_eq]

@[simp] theorem Group.dropFlags_lane? (g : Group) (r : Run) (l : Nat) : (g.dropFlags r).lane? l = g.lane? l := by
  rw [Group.dropFlags_eq]; rfl

@[simp] theorem Group.enterHandler_id (g : Group) (entry cause : Nat) (info : Lane → Word) (tl hl : LaneMask) (site : TrapSite) :
    (g.enterHandler entry cause info tl hl site).id = g.id := by
  unfold Group.enterHandler
  split
  next kept _ => cases kept <;> simp [Group.updLanes]

/-- R417: the handler of a trap at an instruction opens at that instruction, over the clause that it interrupts. -/
theorem Group.enterHandler_handler {g : Group} {r : Run} (hr : g.run = some r) (entry cause : Nat) (info : Lane → Word) (tl hl : LaneMask) :
    (g.enterHandler entry cause info tl hl .instr).handler =
      some { cause := BitVec.ofNat 8 cause, pc := r.cur, trapLanes := tl, lanes := hl, kept := some r, todo := r.lanes
             atHeader := false, tret := false, preDone := false } := by
  simp only [Group.enterHandler, hr, Option.isNone_some]

/-- R416, R417: the handler's lanes stand at its entry with their return points, their information and their L entries hidden. -/
theorem Group.enterHandler_lane? (g : Group) (entry cause : Nat) (info : Lane → Word) (tl hl : LaneMask) (site : TrapSite) (l : Nat) :
    (g.enterHandler entry cause info tl hl site).lane? l = (g.lane? l).map (fun ln => if hl.getLsbD l then
      { ln with info := info ln, retPc := ln.pc, pc := entry, lHidden := ln.lValid, lKept := ln.l, lValid := 0 } else ln) := by
  unfold Group.enterHandler
  split
  next kept _ => cases kept with
    | none => exact Group.updLanes_lane? ..
    | some r => exact (Group.updLanes_lane? ..).trans (by rw [Group.dropFlags_lane?])

/-- R416: with a handler for the level and none open, the group of a trap at an instruction enters it on the whole path. -/
theorem State.trapAt_group? {s : State} {gid : Nat} {g : Group} {r : Run} {la : Launch} (hg : s.group? gid = some g) (hr : g.run = some r)
    (hh : g.handler = none) (hla : s.launch? g.launch = some la) (hentry : la.rcd.handlers.getD g.level 0 ≠ 0)
    (cause : Nat) (info : Word) (tl : LaneMask) :
    (s.trapAt gid cause info tl).group? gid =
      some (g.enterHandler (la.rcd.handlers.getD g.level 0) cause (fun _ => info) tl r.lanes .instr) := by
  simp only [State.trapAt, State.takeTrapWith, hg, hr, hh, hla, Option.elim_some, Option.isSome_none, Bool.false_eq_true, if_false, hentry]
  exact (findId_updId_self Group.id _ (fun _ => Group.enterHandler_id ..) s.groups).trans (congrArg _ hg)

/-! ### The special registers of a handler (R17) -/

section
variable {g : Group} {h : Handler} (hh : g.handler = some h) (s : State) (l : Nat) (ln : Lane)
include hh

theorem State.special_trapCause : s.special g l ln 24 = h.cause.setWidth 32 := by simp only [State.special, hh]
theorem State.special_trapPc : s.special g l ln 25 = BitVec.ofNat 32 h.pc := by simp only [State.special, hh]
theorem State.special_trapInfo : s.special g l ln 26 = ln.info := by simp only [State.special, hh]
theorem State.special_trapLanes : s.special g l ln 27 = h.trapLanes.extractLsb' 0 32 := by simp only [State.special, hh]
theorem State.special_trapLanesHi : s.special g l ln 28 = h.trapLanes.extractLsb' 32 32 := by simp only [State.special, hh]

end

/-! ### TRAPI (R422) -/

/-- Where it runs, TRAPI traps with SOFTWARE on X, with b of the lowest lane of X as its information. -/
theorem exec_trapi {f : Form} {s : State} {e : Env} (h : Runs .trapi f (noRuns f) s e) :
    exec (.trapi f) s = .next (s.trapAt e.gid Cause.software (s.lowSrc e f.b) e.x) :=
  runWith_effect _ h.env h.some h.clear

/-- Settles O59: the group enters the handler of its level, where the special registers of each lane of the path read the trap. -/
theorem trapiRaisesSoftware : Obligations.TrapiRaisesSoftware := by
  intro f s e h hh hentry
  obtain ⟨-, hg, hr, -, hla, -⟩ := State.env_spec h.env
  have hopen := Group.enterHandler_handler hr (e.rcd.handlers.getD e.g.level 0) Cause.software (fun _ => s.lowSrc e f.b) e.x e.r.lanes
  refine ⟨_, _, exec_trapi h, State.trapAt_group? hg hr hh hla hentry _ _ _, fun l ln hln hl => ?_⟩
  have hinfo : ln.info = s.lowSrc e f.b := by
    rw [Group.enterHandler_lane?, Option.map_eq_some_iff] at hln
    obtain ⟨ln₀, -, rfl⟩ := hln
    rw [if_pos hl]
  exact ⟨(State.special_trapCause hopen ..).trans rfl, (State.special_trapInfo hopen ..).trans hinfo, State.special_trapPc hopen ..,
    State.special_trapLanes hopen .., State.special_trapLanesHi hopen ..⟩

end Sys2Proof.Machine
end

section
namespace Sys2Proof

/-! ### Fields of a word and specifiers (R60 to R65) -/

theorem keepIf_eq_some {α : Type} {ok : α → Bool} {o : Option α} {x : α} : keepIf ok o = some x ↔ o = some x ∧ ok x = true := by
  cases o with
  | none => simp [keepIf]
  | some y =>
    simp only [keepIf, Option.ite_none_right_eq_some, Option.some.injEq]
    exact ⟨fun ⟨h, e⟩ => ⟨e, e ▸ h⟩, fun ⟨e, h⟩ => ⟨e ▸ h, e⟩⟩

/-- Two fields side by side, as a number. -/
theorem toNat_append_add {m n : Nat} (x : BitVec m) (y : BitVec n) : (x ++ y).toNat = x.toNat * 2 ^ n + y.toNat := by
  rw [BitVec.toNat_append, ← Nat.shiftLeft_add_eq_or_of_lt y.isLt, Nat.shiftLeft_eq]

/-- A field, as a number. -/
theorem toNat_extract {n : Nat} (x : BitVec n) (i k : Nat) : (x.extractLsb' i k).toNat = x.toNat / 2 ^ i % 2 ^ k := by
  rw [BitVec.extractLsb'_toNat, Nat.shiftRight_eq_div_pow]

/-- A destination specifier as a number (R63). -/
def Dst.number : Dst → Nat
  | .v i => i.toNat
  | .g i => 256 + i.toNat
  | .o i => 512 + i.toNat
  | .h i => 640 + i.toNat
  | .sr i => 704 + i.toNat
  | .p i => 768 + i.toNat
  | .none => 1023
  | .field x => x.toNat

theorem toNat_encDst (d : Dst) : (encDst d).toNat = d.number := by
  cases d with
  | v i => exact (toNat_append_add _ _).trans (Nat.zero_add _)
  | g i | o i | h i | sr i | p i => exact toNat_append_add _ _
  | none | field x => rfl

/-- A source specifier as a number (R62, R63). -/
def Opnd.number : Opnd → Nat
  | .v i => i.toNat
  | .g i => 256 + i.toNat
  | .o i => 512 + i.toNat
  | .l i => 576 + i.toNat
  | .h i => 640 + i.toNat
  | .sr i => 704 + i.toNat
  | .imm x => 768 + x.toNat
  | .lit _ => 0
  | .pred i => i.toNat
  | .field x => x.toNat

theorem toNat_encOpnd (o : Opnd) : (encOpnd o).toNat = o.number := by
  cases o with
  | v i | pred i => exact (toNat_append_add _ _).trans (Nat.zero_add _)
  | g i | o i | l i | h i | sr i | imm x => exact toNat_append_add _ _
  | lit x | field x => rfl

/-- Does a specifier of R63 stand for it, whatever the class? -/
def Dst.specified : Dst → Bool
  | .field _ => false
  | _ => true

def Opnd.specified : Opnd → Bool
  | .lit _ | .pred _ | .field _ => false
  | _ => true

/-- A destination specifier parses to what it stands for, and to nothing else. -/
theorem parseDst_eq_some {x : BitVec 10} {d : Dst} : parseDst x = some d ↔ d.specified = true ∧ encDst d = x := by
  constructor
  · intro h
    have := x.isLt
    simp only [parseDst, ← BitVec.toNat_inj, toNat_extract, BitVec.ofNat_eq_ofNat, BitVec.toNat_ofNat] at h
    (repeat' split at h) <;> cases h <;>
      exact ⟨rfl, BitVec.eq_of_toNat_eq (by simp only [toNat_encDst, Dst.number, toNat_extract]; omega)⟩
  · rintro ⟨h, rfl⟩
    simp only [parseDst, ← BitVec.toNat_inj, toNat_extract, BitVec.ofNat_eq_ofNat, BitVec.toNat_ofNat]
    cases d with
    | field x => exact absurd h Bool.false_ne_true
    | none => rfl
    | v i | g i | o i | h i | sr i | p i =>
      have := i.isLt
      simp (disch := omega) only [toNat_encDst, Dst.number, if_pos, if_neg, Option.some.injEq, Dst.v.injEq, Dst.g.injEq, Dst.o.injEq, Dst.h.injEq,
        Dst.sr.injEq, Dst.p.injEq, ← BitVec.toNat_inj, toNat_extract]
      omega

/-- So does a source specifier. -/
theorem parseSrc_eq_some {x : BitVec 10} {o : Opnd} : parseSrc x = some o ↔ o.specified = true ∧ encOpnd o = x := by
  constructor
  · intro h
    have := x.isLt
    simp only [parseSrc, ← BitVec.toNat_inj, toNat_extract, BitVec.ofNat_eq_ofNat, BitVec.toNat_ofNat] at h
    (repeat' split at h) <;> cases h <;>
      exact ⟨rfl, BitVec.eq_of_toNat_eq (by simp only [toNat_encOpnd, Opnd.number, toNat_extract]; omega)⟩
  · rintro ⟨h, rfl⟩
    simp only [parseSrc, ← BitVec.toNat_inj, toNat_extract, BitVec.ofNat_eq_ofNat, BitVec.toNat_ofNat]
    cases o with
    | lit x | pred x | field x => exact absurd h Bool.false_ne_true
    | v i | g i | o i | l i | h i | sr i | imm i =>
      have := i.isLt
      simp (disch := omega) only [toNat_encOpnd, Opnd.number, if_pos, if_neg, Option.some.injEq, Opnd.v.injEq, Opnd.g.injEq, Opnd.o.injEq,
        Opnd.l.injEq, Opnd.h.injEq, Opnd.sr.injEq, Opnd.imm.injEq, ← BitVec.toNat_inj, toNat_extract]
      omega

/-- The fields that are no specifier (R61, R264). -/
def DClass.plain : DClass → Bool
  | .layout | .any | .zero => true
  | _ => false

theorem specified_of_dstOk {cls : DClass} {d : Dst} (h : dstOk cls d = true) : d.specified = !cls.plain := by
  cases cls <;> cases d <;> first | rfl | exact absurd h Bool.false_ne_true

/-- A field of a class holds exactly the destinations of that class that it encodes. -/
theorem decDst_eq_some {cls : DClass} {x : BitVec 10} {d : Dst} : decDst cls x = some d ↔ dstOk cls d = true ∧ encDst d = x := by
  unfold decDst
  rw [keepIf_eq_some, and_comm, and_congr_right_iff]
  intro h
  have hs := specified_of_dstOk h
  cases cls with
  | layout | any | zero =>
    cases d with
    | field y => simp only [Option.some.injEq, Dst.field.injEq, encDst, eq_comm]
    | _ => exact absurd h Bool.false_ne_true
  | _ => simp only [parseDst_eq_some, hs, DClass.plain, Bool.not_false, true_and]

/-- The literal that stands in place of a source's field (R62). -/
def Opnd.literal : Opnd → Option (BitVec 32)
  | .lit x => some x
  | _ => none

/-- A field of a class holds exactly the sources of that class, other than the literal, that it encodes. -/
theorem decOpnd_eq_some {cls : SClass} {x : BitVec 10} {o : Opnd} :
    decOpnd cls x = some o ↔ opndOk cls o = true ∧ encOpnd o = x ∧ o.literal = none := by
  unfold decOpnd
  rw [keepIf_eq_some, and_comm, and_congr_right_iff]
  intro h
  cases cls with
  | layout | any | zero | pdst =>
    cases o with
    | field y => simp only [Option.some.injEq, Opnd.field.injEq, encOpnd, Opnd.literal, and_true, eq_comm]
    | _ => exact absurd h Bool.false_ne_true
  | psrc =>
    cases o with
    | pred i =>
      have hi := i.isLt
      have hx := x.isLt
      simp only [Option.ite_none_right_eq_some, Option.some.injEq, Opnd.pred.injEq, Opnd.literal, and_true, ← BitVec.toNat_inj, toNat_extract,
        toNat_encOpnd, Opnd.number, BitVec.ofNat_eq_ofNat, BitVec.toNat_ofNat]
      omega
    | _ => exact absurd h Bool.false_ne_true
  | litOnly =>
    cases o with
    | lit v => simp only [Opnd.literal, reduceCtorEq, and_false]
    | _ => exact absurd h Bool.false_ne_true
  | src l | pair l | special | v run al | g | h =>
    rw [parseSrc_eq_some]
    cases o with
    | lit v => simp only [Opnd.specified, Opnd.literal, Bool.false_eq_true, false_and, reduceCtorEq, and_false]
    | pred i | field y => exact absurd h Bool.false_ne_true
    | _ => simp only [Opnd.specified, Opnd.literal, true_and, and_true]

/-- A source that the literal may serve as is the literal exactly where there is one (R62). -/
theorem decSrcLit_eq_some {cls : SClass} {x : BitVec 10} {lit : Option (BitVec 32)} {o : Opnd} :
    decSrcLit cls x lit = some o ↔ opndOk cls o = true ∧ encOpnd o = x ∧ o.literal = lit := by
  cases lit with
  | none => exact decOpnd_eq_some
  | some v =>
    simp only [decSrcLit, Option.ite_none_right_eq_some, keepIf_eq_some, Option.some.injEq]
    constructor
    · rintro ⟨rfl, rfl, hok⟩
      exact ⟨hok, rfl, rfl⟩
    · rintro ⟨hok, rfl, hlit⟩
      cases o with
      | lit w => cases hlit; exact ⟨rfl, rfl, hok⟩
      | _ => cases hlit

theorem decLw_eq_some {idx : BitVec 2} {w : Bool} {lw : Option (BitVec 2)} : decLw idx w = some lw ↔ lw.getD 0 = idx ∧ lw.isSome = w := by
  cases w with
  | true => cases lw <;> simp [decLw, eq_comm (a := idx)]
  | false => cases lw <;> simp [decLw, eq_comm (a := idx)]

/-! ### Signatures: which source takes the literal -/

/-- A class that the literal belongs to. -/
def SClass.takesLit : SClass → Bool
  | .src l | .pair l => l
  | .litOnly => true
  | _ => false

theorem literal_eq_none {cls : SClass} {o : Opnd} (h : opndOk cls o = true) (hc : cls.takesLit = false) : o.literal = none := by
  cases o with
  | lit v => cases cls <;> simp_all [opndOk, SClass.takesLit]
  | _ => rfl

/-- R62, R279: source c never takes the literal, and source a only where source b is unused. -/
def Sig.litPlaced (s : Sig) : Prop := s.c.takesLit = false ∧ (s.litA = false → s.a.takesLit = false)

theorem sigOf_litPlaced {op : Op} {m : BitVec 4} {d b c : BitVec 10} {s : Sig} (h : sigOf op m d b c = some s) : s.litPlaced := by
  unfold sigOf at h
  split at h
  · cases h
  · cases op <;> simp only [sigTwo, sigThree] at h <;> (repeat' split at h) <;> cases h <;> exact ⟨rfl, fun h => by first | rfl | cases h⟩

/-! ### Words (R60) -/

/-- The literal that a word with these sources is followed by. -/
theorem Form.literal_eq (f : Form) : f.literal = (f.b.literal <|> f.a.literal) := by
  unfold Form.literal
  cases f.b <;> cases f.a <;> rfl

/-- A word has the fields of a form. -/
structure HasForm (f : Form) (w : BitVec 64) : Prop where
  mod : w.extractLsb' 50 4 = f.mod
  guard : wordGuard w = f.guard
  dst : w.extractLsb' 36 10 = encDst f.dst
  a : w.extractLsb' 26 10 = encOpnd f.a
  b : w.extractLsb' 16 10 = encOpnd f.b
  c : w.extractLsb' 6 10 = encOpnd f.c
  lwIdx : w.extractLsb' 4 2 = f.lw.getD 0
  lwOn : w.getLsbD 3 = f.lw.isSome
  fsel : w.getLsbD 2 = f.fsel
  zero : w.getLsbD 0 = false

/-- A full word of an opcode has the fields of a form, and is followed by a literal where the form has one. -/
structure HasFields (op : Op) (f : Form) (w : BitVec 64) : Prop extends HasForm f w where
  kind : w.extractLsb' 62 2 = 2
  code : w.extractLsb' 54 8 = op.code
  lit : w.getLsbD 1 = f.literal.isSome

theorem bit1_getLsbD {n : Nat} (w : BitVec n) (i : Nat) : bit1 (w.getLsbD i) = w.extractLsb' i 1 := by
  ext j hj
  obtain rfl : j = 0 := by omega
  cases h : w.getLsbD i <;> simp [bit1, h]

theorem bit1_eq_bit1 {x y : Bool} : bit1 x = bit1 y ↔ x = y := by
  cases x <;> cases y <;> decide

/-- A word is its fields one after the other. -/
theorem fields_append (w : BitVec 64) : w.extractLsb' 62 2 ++ w.extractLsb' 54 8 ++ w.extractLsb' 50 4 ++ w.extractLsb' 49 1 ++
    w.extractLsb' 46 3 ++ w.extractLsb' 36 10 ++ w.extractLsb' 26 10 ++ w.extractLsb' 16 10 ++ w.extractLsb' 6 10 ++ w.extractLsb' 4 2 ++
    w.extractLsb' 3 1 ++ w.extractLsb' 2 1 ++ w.extractLsb' 1 1 ++ w.extractLsb' 0 1 = w := by
  simp only [BitVec.extractLsb'_append_extractLsb'_eq_extractLsb', BitVec.extractLsb'_eq_self]

theorem HasFields.encodeFull_eq {op : Op} {f : Form} {w : BitVec 64} (h : HasFields op f w) : encodeFull op f = w := by
  have hneg : bit1 f.guard.neg = w.extractLsb' 49 1 := by rw [← h.guard, wordGuard, bit1_getLsbD]
  have hidx : f.guard.idx = w.extractLsb' 46 3 := by rw [← h.guard, wordGuard]
  have hzero : (0#1) = w.extractLsb' 0 1 := by rw [← bit1_getLsbD, h.zero]; rfl
  have hkind : (0b10#2) = w.extractLsb' 62 2 := h.kind.symm
  rw [encodeFull, hneg, hidx, hzero, hkind, ← h.code, ← h.mod, ← h.dst, ← h.a, ← h.b, ← h.c, ← h.lwIdx, ← h.lwOn, ← h.fsel, ← h.lit]
  simp only [bit1_getLsbD]
  exact fields_append w

theorem append_inj_iff {m n : Nat} {x x' : BitVec m} {y y' : BitVec n} : x ++ y = x' ++ y' ↔ x = x' ∧ y = y' := by
  constructor
  · intro h
    have hx := congrArg (BitVec.extractLsb' n m) h
    have hy := congrArg (BitVec.extractLsb' 0 n) h
    rw [BitVec.extractLsb'_append_eq_left, BitVec.extractLsb'_append_eq_left] at hx
    rw [BitVec.extractLsb'_append_eq_right, BitVec.extractLsb'_append_eq_right] at hy
    exact ⟨hx, hy⟩
  · rintro ⟨rfl, rfl⟩
    rfl

theorem hasFields_iff {op : Op} {f : Form} {w : BitVec 64} : HasFields op f w ↔ w = encodeFull op f := by
  refine ⟨fun h => h.encodeFull_eq.symm, fun h => ?_⟩
  rw [← fields_append w, encodeFull] at h
  iterate 13 rw [append_inj_iff] at h
  simp only [← bit1_getLsbD, bit1_eq_bit1] at h
  obtain ⟨⟨⟨⟨⟨⟨⟨⟨⟨⟨⟨⟨⟨kind, code⟩, mod⟩, neg⟩, idx⟩, dst⟩, a⟩, b⟩, c⟩, lwIdx⟩, lwOn⟩, fsel⟩, lit⟩, zero⟩ := h
  exact { kind, code, mod := mod, guard := by rw [wordGuard, neg, idx], dst, a, b, c, lwIdx, lwOn, fsel, lit, zero := bit1_eq_bit1.mp zero }

/-! ### Forms -/

theorem Form.wf_iff {op : Op} {f : Form} : f.wf op = true ↔ ∃ s, sigOf op f.mod (encDst f.dst) (encOpnd f.b) (encOpnd f.c) = some s ∧
    guardOk op f.guard = true ∧ dstOk s.d f.dst = true ∧ opndOk s.a f.a = true ∧ opndOk s.b f.b = true ∧ opndOk s.c f.c = true ∧
    (s.lw = true ∨ f.lw = none) ∧ (op.isLong = true ∨ f.fsel = false) := by
  unfold Form.wf
  split
  · next h => simp only [h, Bool.false_eq_true, reduceCtorEq, false_and, exists_false]
  · next s h => simp only [h, Option.some.injEq, exists_eq_left', Bool.and_eq_true, Bool.or_eq_true, decide_eq_true_eq, Bool.not_eq_true', and_assoc]

/-- Where the literal of a form stands: source a, where the entry says so, else source b. -/
theorem literal_iff {s : Sig} {f : Form} {lit : Option (BitVec 32)} (hs : s.litPlaced) (ha : opndOk s.a f.a = true) (hb : opndOk s.b f.b = true) :
    f.literal = lit ↔ f.a.literal = (if s.litA then lit else none) ∧ f.b.literal = (if s.litA then none else lit) := by
  rw [Form.literal_eq]
  cases h : s.litA with
  | true =>
    have hz : s.b.takesLit = false := by
      rw [Sig.litA, Bool.and_eq_true, decide_eq_true_eq] at h
      rw [h.1]; rfl
    simp [literal_eq_none hb hz]
  | false => simp [literal_eq_none ha (hs.2 h)]

/-- A word and its literal hold exactly the well-formed forms whose fields they are. -/
theorem decodeForm_eq_some {op : Op} {w : BitVec 64} {lit : Option (BitVec 32)} {f : Form} :
    decodeForm op w lit = some f ↔ f.wf op = true ∧ HasForm f w ∧ f.literal = lit := by
  constructor
  · intro h
    unfold decodeForm at h
    dsimp only at h
    split at h
    · cases h
    next s hs =>
    split at h
    next dst a b c lw hd ha hb hc hl =>
      rw [decDst_eq_some] at hd
      rw [decSrcLit_eq_some] at ha hb
      rw [decOpnd_eq_some] at hc
      rw [decLw_eq_some] at hl
      split at h
      next hok =>
        cases h
        simp only [Bool.and_eq_true, Bool.or_eq_true, decide_eq_true_eq, Bool.not_eq_true'] at hok
        obtain ⟨⟨⟨hg, hlw⟩, hf⟩, hz⟩ := hok
        exact ⟨Form.wf_iff.mpr ⟨s, by rw [hd.2, hb.2.1, hc.2.1]; exact hs, hg, hd.1, ha.1, hb.1, hc.1, hlw, hf⟩,
          ⟨rfl, rfl, hd.2.symm, ha.2.1.symm, hb.2.1.symm, hc.2.1.symm, hl.1.symm, hl.2.symm, rfl, hz⟩,
          (literal_iff (sigOf_litPlaced hs) ha.1 hb.1).mpr ⟨ha.2.2, hb.2.2⟩⟩
      · cases h
    · cases h
  · rintro ⟨hwf, hw, hlit⟩
    obtain ⟨s, hs, hg, hd, ha, hb, hc, hlw, hf⟩ := Form.wf_iff.mp hwf
    have hp := sigOf_litPlaced hs
    obtain ⟨hla, hlb⟩ := (literal_iff hp ha hb).mp hlit
    simp only [decodeForm, hw.mod, hw.dst, hw.a, hw.b, hw.c, hw.lwIdx, hw.lwOn, hw.fsel, hw.zero, hw.guard, hs, decDst_eq_some.mpr ⟨hd, rfl⟩,
      decSrcLit_eq_some.mpr ⟨ha, rfl, hla⟩, decSrcLit_eq_some.mpr ⟨hb, rfl, hlb⟩, decOpnd_eq_some.mpr ⟨hc, rfl, literal_eq_none hc hp.1⟩,
      decLw_eq_some.mpr ⟨rfl, rfl⟩, hg]
    rw [if_pos (by simp [hlw, hf])]

theorem Op.decode_eq_some {n : Nat} {op : Op} : Op.decode n = some op ↔ n = op.code.toNat := by
  constructor
  · intro h
    unfold Op.decode at h
    split at h <;> cases h <;> rfl
  · rintro rfl
    cases op <;> rfl

@[simp] theorem parts_instr (op : Op) (f : Form) : parts (op.instr f) = some (op, f) := by
  cases op <;> rfl

theorem instr_of_parts {i : Instr} {op : Op} {f : Form} (h : parts i = some (op, f)) : i = op.instr f := by
  cases i <;> cases h <;> rfl

theorem decodeFull_eq_ok {w : BitVec 64} {lit : Option (BitVec 32)} {i : Instr} :
    decodeFull w lit = .ok i ↔ ∃ op f, i = op.instr f ∧ w.extractLsb' 54 8 = op.code ∧ f.wf op = true ∧ HasForm f w ∧ f.literal = lit := by
  unfold decodeFull
  constructor
  · intro h
    split at h
    · cases h
    next op hop =>
    split at h
    · cases h
    next f hf =>
    cases h
    exact ⟨op, f, rfl, BitVec.eq_of_toNat_eq (Op.decode_eq_some.mp hop), decodeForm_eq_some.mp hf⟩
  · rintro ⟨op, f, rfl, hc, hf⟩
    simp only [hc, Op.decode_eq_some.mpr rfl, decodeForm_eq_some.mpr hf]

/-- What a word holds is a well-formed instruction, also one from a dictionary, whose kind bits are not looked at. -/
theorem wf_of_decodeFull {w : BitVec 64} {lit : Option (BitVec 32)} {i : Instr} (h : decodeFull w lit = .ok i) : i.wf = true := by
  obtain ⟨op, f, rfl, -, hf, -⟩ := decodeFull_eq_ok.mp h
  simpa only [Instr.wf, parts_instr] using hf

/-- A full word with its literal decodes to exactly the instruction of which it is the encoding. -/
theorem decodeFull_iff_encodeFull {w : BitVec 64} {lit : Option (BitVec 32)} {i : Instr} (hk : w.extractLsb' 62 2 = 2) (hl : w.getLsbD 1 = lit.isSome) :
    decodeFull w lit = .ok i ↔ ∃ op f, i = op.instr f ∧ f.wf op = true ∧ w = encodeFull op f ∧ f.literal = lit := by
  rw [decodeFull_eq_ok]
  refine exists_congr fun op => exists_congr fun f => and_congr_right fun _ => ?_
  rw [← hasFields_iff]
  constructor
  · rintro ⟨hc, hf, hw, rfl⟩
    exact ⟨hf, ⟨hw, hk, hc, hl⟩, rfl⟩
  · rintro ⟨hf, hw, hlit⟩
    exact ⟨hw.code, hf, hw.toHasForm, hlit⟩

/-! ### Parcels (R57, R58) -/

open Machine (wordParcels literalParcels)

theorem splitParcels_word (w : BitVec 64) : splitParcels 4 w.toNat = wordParcels w := by
  simp only [splitParcels, wordParcels, List.cons.injEq, and_true, ← BitVec.toNat_inj, toNat_extract, BitVec.toNat_ofNat]
  omega

theorem splitParcels_literal (x : BitVec 32) : splitParcels 2 x.toNat = literalParcels x := by
  simp only [splitParcels, literalParcels, List.cons.injEq, and_true, ← BitVec.toNat_inj, toNat_extract, BitVec.toNat_ofNat]
  omega

theorem joinParcels4_wordParcels (w : BitVec 64) :
    joinParcels4 (w.extractLsb' 48 16) (w.extractLsb' 32 16) (w.extractLsb' 16 16) (w.extractLsb' 0 16) = w := by
  simp only [joinParcels4, BitVec.extractLsb'_append_extractLsb'_eq_extractLsb', BitVec.extractLsb'_eq_self]

theorem append_literalParcels (x : BitVec 32) : x.extractLsb' 16 16 ++ x.extractLsb' 0 16 = x := by
  simp only [BitVec.extractLsb'_append_extractLsb'_eq_extractLsb', BitVec.extractLsb'_eq_self]

/-- Four parcels are those of one word. -/
theorem exists_wordParcels (p0 p1 p2 p3 : Parcel) : ∃ w, [p0, p1, p2, p3] = wordParcels w := by
  refine ⟨joinParcels4 p0 p1 p2 p3, ?_⟩
  have h := joinParcels4_wordParcels (joinParcels4 p0 p1 p2 p3)
  obtain ⟨h', h3⟩ := append_inj_iff.mp h
  obtain ⟨h'', h2⟩ := append_inj_iff.mp h'
  obtain ⟨h0, h1⟩ := append_inj_iff.mp h''
  rw [wordParcels, h0, h1, h2, h3]

theorem exists_literalParcels (p0 p1 : Parcel) : ∃ x, [p0, p1] = literalParcels x :=
  ⟨p0 ++ p1, by
    obtain ⟨h0, h1⟩ := append_inj_iff.mp (append_literalParcels (p0 ++ p1))
    rw [literalParcels, h0, h1]⟩

theorem extract_two {n : Nat} (w : BitVec n) (i : Nat) : w.extractLsb' i 2 = bit1 (w.getLsbD (i + 1)) ++ bit1 (w.getLsbD i) := by
  rw [bit1_getLsbD, bit1_getLsbD, BitVec.extractLsb'_append_extractLsb'_eq_extractLsb' rfl]

/-- The kind of a full word (R58). -/
theorem kind_full {w : BitVec 64} : w.extractLsb' 62 2 = 2 ↔ w.getLsbD 63 = true ∧ w.getLsbD 62 = false := by
  rw [extract_two]
  cases w.getLsbD 63 <;> cases w.getLsbD 62 <;> decide

section
variable {w : BitVec 64} (hk : w.extractLsb' 62 2 = 2) (bank : List (BitVec 64)) (rest : List Parcel)
include hk

/-- The parcels of a full word without a literal decode as that word. -/
theorem decodeParcels_word (hl : w.getLsbD 1 = false) : decodeParcels bank (wordParcels w ++ rest) = (decodeFull w none).map (·, 4) := by
  obtain ⟨h63, h62⟩ := kind_full.mp hk
  simp only [wordParcels, List.cons_append, List.nil_append, decodeParcels, BitVec.getLsbD_extractLsb', Nat.reduceLT, Nat.reduceAdd, decide_true,
    Bool.true_and, h63, h62, hl, joinParcels4_wordParcels, Bool.true_eq_false, Bool.false_eq_true, if_true, if_false]

/-- Those of one with a literal decode with it. -/
theorem decodeParcels_word_literal (hl : w.getLsbD 1 = true) (x : BitVec 32) :
    decodeParcels bank (wordParcels w ++ literalParcels x ++ rest) = (decodeFull w (some x)).map (·, 6) := by
  obtain ⟨h63, h62⟩ := kind_full.mp hk
  simp only [wordParcels, literalParcels, List.cons_append, List.nil_append, decodeParcels, BitVec.getLsbD_extractLsb', Nat.reduceLT, Nat.reduceAdd,
    decide_true, Bool.true_and, h63, h62, hl, joinParcels4_wordParcels, append_literalParcels, Bool.true_eq_false, if_true, if_false]

end

theorem except_map_eq_ok {ε α β : Type} {g : α → β} {x : Except ε α} {y : β} : x.map g = .ok y ↔ ∃ z, x = .ok z ∧ g z = y := by
  cases x <;> simp [Except.map]

theorem extract_three {n : Nat} (w : BitVec n) (i : Nat) :
    w.extractLsb' i 3 = bit1 (w.getLsbD (i + 2)) ++ bit1 (w.getLsbD (i + 1)) ++ bit1 (w.getLsbD i) := by
  rw [← extract_two w (i + 1), bit1_getLsbD]
  exact (BitVec.extractLsb'_append_extractLsb'_eq_extractLsb' (len₁ := 1) (len₂ := 2) rfl).symm

/-- What parcels decode to: a dictionary parcel's entry, a full word without a literal or with one, or a loop-nest word (R58). -/
theorem decodeParcels_eq_ok {bank : List (BitVec 64)} {ps : List Parcel} {i : Instr} {n : Nat} (h : decodeParcels bank ps = .ok (i, n)) :
    (n = 1 ∧ ∃ p rest, ps = p :: rest ∧ decodeDict bank p = .ok i) ∨
    (∃ w rest, ps = wordParcels w ++ rest ∧ w.extractLsb' 62 2 = 2 ∧ w.getLsbD 1 = false ∧ n = 4 ∧ decodeFull w none = .ok i) ∨
    (∃ w x rest, ps = wordParcels w ++ literalParcels x ++ rest ∧ w.extractLsb' 62 2 = 2 ∧ w.getLsbD 1 = true ∧ n = 6 ∧ decodeFull w (some x) = .ok i) ∨
    (∃ p rest x, ps = p :: rest ∧ p.extractLsb' 13 3 = 6 ∧ joinParcels 16 ps = some x ∧ n = 16 ∧ decodeNest (BitVec.ofNat 256 x) = .ok i) := by
  unfold decodeParcels at h
  split at h
  · cases h
  next p qs =>
  by_cases h15 : p.getLsbD 15 = false
  case pos =>
    rw [if_pos h15, except_map_eq_ok] at h
    obtain ⟨_, hd, he⟩ := h
    cases he
    exact .inl ⟨rfl, p, qs, rfl, hd⟩
  rw [if_neg h15] at h
  by_cases h14 : p.getLsbD 14 = false
  case neg =>
    rw [if_neg h14] at h
    split at h
    next h13 =>
      split at h
      next x hx =>
        obtain ⟨_, hd, he⟩ := except_map_eq_ok.mp h
        cases he
        exact .inr (.inr (.inr ⟨p, qs, x, rfl, by simp only [extract_three, h13, h14, h15]; rfl, hx, rfl, hd⟩))
      · cases h
    · cases h
  rw [if_pos h14] at h
  split at h
  next p1 p2 p3 rest =>
    obtain ⟨w, hw⟩ := exists_wordParcels p p1 p2 p3
    obtain ⟨rfl, rfl, rfl, rfl, -⟩ : p = _ ∧ p1 = _ ∧ p2 = _ ∧ p3 = _ ∧ _ := by simpa only [wordParcels, List.cons.injEq] using hw
    have hk : w.extractLsb' 62 2 = 2 := kind_full.mpr ⟨by simpa using h15, by simpa using h14⟩
    dsimp only at h
    rw [joinParcels4_wordParcels] at h
    split at h
    next hl =>
      split at h
      next q0 q1 rest' =>
        obtain ⟨x, hx⟩ := exists_literalParcels q0 q1
        obtain ⟨rfl, rfl, -⟩ : q0 = _ ∧ q1 = _ ∧ _ := by simpa only [literalParcels, List.cons.injEq] using hx
        rw [append_literalParcels] at h
        obtain ⟨_, hd, he⟩ := except_map_eq_ok.mp h
        cases he
        exact .inr (.inr (.inl ⟨w, x, rest', rfl, hk, hl, rfl, hd⟩))
      · cases h
    next hl =>
      obtain ⟨_, hd, he⟩ := except_map_eq_ok.mp h
      cases he
      exact .inr (.inl ⟨w, rest, rfl, hk, by simpa using hl, rfl, hd⟩)
  · cases h

/-! ### The loop-nest word (R70) -/

/-- The form whose fields a loop-nest word holds. -/
def nestOf (w : BitVec 256) : NestForm :=
  { op := w.extractLsb' 245 8, dtype := w.extractLsb' 241 4, rnd := w.extractLsb' 238 3, red := w.extractLsb' 233 5,
    ext4 := w.extractLsb' 221 12, ext3 := w.extractLsb' 209 12, ext2 := w.extractLsb' 197 12,
    ext1 := w.extractLsb' 185 12, ext0 := w.extractLsb' 173 12,
    x2 := decodeNestOpnd w 165 141 85, x1 := decodeNestOpnd w 157 133 45, x0 := decodeNestOpnd w 149 125 5,
    fsel := w.getLsbD 4 }

theorem decodeNest_eq_ok {w : BitVec 256} {i : Instr} : decodeNest w = .ok i ↔ nestOk (nestOf w) = true ∧ w.extractLsb' 0 4 = 0 ∧ .lnest (nestOf w) = i := by
  have h : decodeNest w = if (nestOk (nestOf w) && decide (w.extractLsb' 0 4 = 0)) = true then .ok (.lnest (nestOf w))
    else .error (.illegalForm Guard.always) := rfl
  rw [h]
  split
  next hc =>
    rw [Bool.and_eq_true, decide_eq_true_iff] at hc
    simp only [hc, Except.ok.injEq, true_and]
  next hc =>
    rw [Bool.and_eq_true, decide_eq_true_iff] at hc
    exact ⟨(nomatch ·), fun h => absurd ⟨h.1, h.2.1⟩ hc⟩

/-- The fields of a loop-nest word, with its kind and its unused bits. -/
def nestWord (kind : BitVec 3) (n : NestForm) (low : BitVec 4) : BitVec 256 :=
  kind ++ n.op ++ n.dtype ++ n.rnd ++ n.red ++ n.ext4 ++ n.ext3 ++ n.ext2 ++ n.ext1 ++ n.ext0 ++
    n.x2.layout ++ n.x1.layout ++ n.x0.layout ++ n.x2.base ++ n.x1.base ++ n.x0.base ++
    encStrides n.x2 ++ encStrides n.x1 ++ encStrides n.x0 ++ bit1 n.fsel ++ low

theorem encodeNest_eq (n : NestForm) : encodeNest n = nestWord 6 n 0 := rfl

/-- A loop-nest word is its fields one after the other. -/
theorem nestWord_nestOf (w : BitVec 256) : nestWord (w.extractLsb' 253 3) (nestOf w) (w.extractLsb' 0 4) = w := by
  simp only [nestWord, nestOf, encStrides, decodeNestOpnd, bit1_getLsbD, BitVec.extractLsb'_append_extractLsb'_eq_extractLsb',
    BitVec.extractLsb'_eq_self]

theorem encStrides_inj {x y : NestOpnd} (h : encStrides x = encStrides y) :
    x.s0 = y.s0 ∧ x.s1 = y.s1 ∧ x.s2 = y.s2 ∧ x.s3 = y.s3 ∧ x.s4 = y.s4 := by
  unfold encStrides at h
  iterate 4 rw [append_inj_iff] at h
  obtain ⟨⟨⟨⟨h4, h3⟩, h2⟩, h1⟩, h0⟩ := h
  exact ⟨h0, h1, h2, h3, h4⟩

theorem NestOpnd.eq_of {x y : NestOpnd} (hl : x.layout = y.layout) (hb : x.base = y.base) (hs : encStrides x = encStrides y) : x = y := by
  obtain ⟨h0, h1, h2, h3, h4⟩ := encStrides_inj hs
  cases x; cases y
  simp_all

theorem nestWord_inj {k k' : BitVec 3} {n n' : NestForm} {z z' : BitVec 4} (h : nestWord k n z = nestWord k' n' z') : k = k' ∧ n = n' ∧ z = z' := by
  unfold nestWord at h
  iterate 20 rw [append_inj_iff] at h
  rw [bit1_eq_bit1] at h
  obtain ⟨⟨⟨⟨⟨⟨⟨⟨⟨⟨⟨⟨⟨⟨⟨⟨⟨⟨⟨⟨hk, op⟩, dtype⟩, rnd⟩, red⟩, ext4⟩, ext3⟩, ext2⟩, ext1⟩, ext0⟩, l2⟩, l1⟩, l0⟩, b2⟩, b1⟩, b0⟩, s2⟩, s1⟩, s0⟩, fsel⟩, hz⟩ := h
  have x0 := NestOpnd.eq_of l0 b0 s0
  have x1 := NestOpnd.eq_of l1 b1 s1
  have x2 := NestOpnd.eq_of l2 b2 s2
  refine ⟨hk, ?_, hz⟩
  cases n; cases n'
  simp_all

/-- The encoding of a loop nest is the word of its kind that holds its fields. -/
theorem encodeNest_eq_iff {n : NestForm} {w : BitVec 256} : encodeNest n = w ↔ w.extractLsb' 253 3 = 6 ∧ nestOf w = n ∧ w.extractLsb' 0 4 = 0 := by
  rw [encodeNest_eq]
  constructor
  · intro h
    obtain ⟨hk, hn, hz⟩ := nestWord_inj (h.trans (nestWord_nestOf w).symm)
    exact ⟨hk.symm, hn.symm, hz.symm⟩
  · rintro ⟨hk, rfl, hz⟩
    rw [← hk, ← hz, nestWord_nestOf]

/-! ### Parcels of a long word -/

theorem splitParcels_add (k a x : Nat) : splitParcels k (a * 65536 ^ k + x) = splitParcels k x := by
  induction k generalizing a x with
  | zero => rfl
  | succ k ih =>
    have h : a * 65536 ^ (k + 1) + x = a * 65536 * 65536 ^ k + x := by ring
    rw [splitParcels, splitParcels, h, ih, Nat.add_comm, Nat.add_mul_div_right _ _ (by positivity)]
    congr 1
    apply BitVec.eq_of_toNat_eq
    simp only [BitVec.toNat_ofNat]
    omega

/-- Parcels that join to a number are its parcels, and it has no further bits. -/
theorem joinParcels_eq_some {k x : Nat} {ps : List Parcel} (h : joinParcels k ps = some x) :
    x < 65536 ^ k ∧ ps.take k = splitParcels k x ∧ k ≤ ps.length := by
  induction k generalizing ps x with
  | zero => cases h; exact ⟨by decide, rfl, Nat.zero_le _⟩
  | succ k ih =>
    cases ps with
    | nil => cases h
    | cons p ps =>
      obtain ⟨y, hy, rfl⟩ := Option.map_eq_some_iff.mp h
      obtain ⟨hlt, htake, hlen⟩ := ih hy
      have hp : p.toNat < 65536 := p.isLt
      refine ⟨?_, ?_, Nat.succ_le_succ hlen⟩
      · calc p.toNat * 65536 ^ k + y < p.toNat * 65536 ^ k + 65536 ^ k := Nat.add_lt_add_left hlt _
          _ = (p.toNat + 1) * 65536 ^ k := by ring
          _ ≤ 65536 * 65536 ^ k := Nat.mul_le_mul_right _ hp
          _ = 65536 ^ (k + 1) := by ring
      · rw [List.take_succ_cons, splitParcels, splitParcels_add, htake, Nat.add_comm, Nat.add_mul_div_right _ _ (by positivity),
          Nat.div_eq_of_lt hlt, Nat.zero_add, BitVec.ofNat_toNat, BitVec.setWidth_eq]

/-- The parcels of a number join to it. -/
theorem joinParcels_splitParcels (k x : Nat) (rest : List Parcel) : joinParcels k (splitParcels k x ++ rest) = some (x % 65536 ^ k) := by
  induction k with
  | zero => simp [joinParcels, Nat.mod_one]
  | succ k ih =>
    rw [splitParcels, List.cons_append, joinParcels, ih, Option.map_some, Nat.pow_succ, Nat.mod_mul, BitVec.toNat_ofNat]
    congr 1
    ring

/-! ### Decoding and encoding -/

theorem encode_instr (op : Op) (f : Form) : encode (op.instr f) = wordParcels (encodeFull op f) ++ (f.literal.map literalParcels).getD [] := by
  simp only [encode, parts_instr, splitParcels_word]
  cases f.literal <;> simp only [Option.map_none, Option.map_some, Option.getD_none, Option.getD_some, splitParcels_literal]

theorem splitParcels_long (w : BitVec 256) : splitParcels 16 w.toNat = w.extractLsb' 240 16 :: splitParcels 15 w.toNat := by
  rw [splitParcels]
  congr 1
  exact BitVec.eq_of_toNat_eq (by rw [toNat_extract, BitVec.toNat_ofNat, show 65536 ^ 15 = 2 ^ 240 by norm_num])

/-- The kind of a long word stands in its first parcel. -/
theorem kind_long {w : BitVec 256} : w.extractLsb' 253 3 = 6 ↔
    w.getLsbD 255 = true ∧ w.getLsbD 254 = true ∧ w.getLsbD 253 = false := by
  rw [extract_three]
  cases w.getLsbD 255 <;> cases w.getLsbD 254 <;> cases w.getLsbD 253 <;> decide

theorem kind_of_first (w : BitVec 256) : (w.extractLsb' 240 16).extractLsb' 13 3 = w.extractLsb' 253 3 := by
  rw [extract_three, extract_three w]
  simp only [BitVec.getLsbD_extractLsb', Nat.reduceLT, Nat.reduceAdd, decide_true, Bool.true_and]

/-- The parcels of a loop-nest word decode as that word. -/
theorem decodeParcels_nest (bank : List (BitVec 64)) (rest : List Parcel) {w : BitVec 256} (hk : w.extractLsb' 253 3 = 6) :
    decodeParcels bank (splitParcels 16 w.toNat ++ rest) = (decodeNest w).map (·, 16) := by
  have hj : joinParcels 16 (splitParcels 16 w.toNat ++ rest) = some w.toNat := by
    rw [joinParcels_splitParcels]
    exact congrArg some (Nat.mod_eq_of_lt w.isLt)
  obtain ⟨h255, h254, h253⟩ := kind_long.mp hk
  rw [splitParcels_long, List.cons_append] at hj ⊢
  simp only [decodeParcels, BitVec.getLsbD_extractLsb', Nat.reduceLT, Nat.reduceAdd, decide_true, Bool.true_and, h255, h254, h253,
    Bool.true_eq_false, if_false, if_true, hj, BitVec.ofNat_toNat, BitVec.setWidth_eq]

theorem encode_of_parts_none {i : Instr} (h : parts i = none) : encode i = [] ∨ ∃ n, i = .lnest n := by
  simp only [encode, h]
  split
  · exact .inr ⟨_, rfl⟩
  · exact .inl rfl

/-- What a dictionary parcel stands for is well formed, whatever its entry. -/
theorem wf_of_decodeDict {bank : List (BitVec 64)} {p : Parcel} {i : Instr} (h : decodeDict bank p = .ok i) : i.wf = true := by
  simp only [decodeDict] at h
  (repeat' split at h) <;> first | exact wf_of_decodeFull h | cases h

/-- Settles O45: the word decodes to the form whose fields it has, and a loop-nest word to the nest whose fields it has. -/
theorem decodeOfEncode : Obligations.DecodeOfEncode := by
  intro i bank rest hwf hne
  cases hp : parts i with
  | some x =>
    obtain ⟨op, f⟩ := x
    obtain rfl := instr_of_parts hp
    have hf : f.wf op = true := by simpa only [Instr.wf, parts_instr] using hwf
    have hw := hasFields_iff.mpr (Eq.refl (encodeFull op f))
    have hok : decodeFull (encodeFull op f) f.literal = .ok (op.instr f) :=
      (decodeFull_iff_encodeFull hw.kind hw.lit).mpr ⟨op, f, rfl, hf, rfl, rfl⟩
    rw [encode_instr]
    cases hlit : f.literal with
    | none =>
      rw [hlit] at hok
      rw [Option.map_none, Option.getD_none, List.append_nil, decodeParcels_word hw.kind bank rest (by rw [hw.lit, hlit]; rfl), hok]
      rfl
    | some v =>
      rw [hlit] at hok
      rw [Option.map_some, Option.getD_some, decodeParcels_word_literal hw.kind bank rest (by rw [hw.lit, hlit]; rfl), hok]
      rfl
  | none =>
    obtain he | ⟨n, rfl⟩ := encode_of_parts_none hp
    · exact absurd he hne
    · obtain ⟨hk, hn, hz⟩ := encodeNest_eq_iff.mp (Eq.refl (encodeNest n))
      have hok : decodeNest (encodeNest n) = .ok (.lnest n) := decodeNest_eq_ok.mpr ⟨by rw [hn]; exact hwf, hz, by rw [hn]⟩
      exact (decodeParcels_nest bank rest hk).trans (by rw [hok]; rfl)

/-- Settles O46: what decodes has the word's fields, and a word is its fields one after the other. -/
theorem decodingIsExact : Obligations.DecodingIsExact := by
  refine fun ps i n => ⟨fun bank h => ?_, fun h => ?_⟩
  · obtain ⟨rfl, p, rest, rfl, hd⟩ | ⟨w, rest, rfl, -, -, rfl, hd⟩ | ⟨w, x, rest, rfl, -, -, rfl, hd⟩ | ⟨p, rest, x, -, -, hx, rfl, hd⟩ :=
      decodeParcels_eq_ok h
    · exact ⟨wf_of_decodeDict hd, by decide, by simp⟩
    · exact ⟨wf_of_decodeFull hd, by decide, by simp [wordParcels]⟩
    · exact ⟨wf_of_decodeFull hd, by decide, by simp [wordParcels, literalParcels]⟩
    · obtain ⟨hn, -, rfl⟩ := decodeNest_eq_ok.mp hd
      exact ⟨hn, by decide, (joinParcels_eq_some hx).2.2⟩
  · obtain ⟨rfl, p, rest, rfl, hd⟩ | ⟨w, rest, rfl, hk, hl, rfl, hd⟩ | ⟨w, x, rest, rfl, hk, hl, rfl, hd⟩ | ⟨p, rest, x, rfl, hk, hx, rfl, hd⟩ :=
      decodeParcels_eq_ok h
    · cases hd
    · obtain ⟨op, f, rfl, -, rfl, hlit⟩ := (decodeFull_iff_encodeFull (lit := none) hk hl).mp hd
      rw [encode_instr, hlit]
      rfl
    · obtain ⟨op, f, rfl, -, rfl, hlit⟩ := (decodeFull_iff_encodeFull (lit := some x) hk hl).mp hd
      rw [encode_instr, hlit]
      rfl
    · obtain ⟨hlt, htake, -⟩ := joinParcels_eq_some hx
      obtain ⟨-, hz, rfl⟩ := decodeNest_eq_ok.mp hd
      have hx' : (BitVec.ofNat 256 x).toNat = x := Nat.mod_eq_of_lt hlt
      have hfirst : p = (BitVec.ofNat 256 x).extractLsb' 240 16 := by
        rw [← hx', splitParcels_long, List.take_succ_cons] at htake
        exact (List.cons.inj htake).1
      have henc : encodeNest (nestOf (BitVec.ofNat 256 x)) = BitVec.ofNat 256 x :=
        encodeNest_eq_iff.mpr ⟨by rw [← kind_of_first, ← hfirst, hk], rfl, hz⟩
      rw [htake]
      show _ = splitParcels 16 (encodeNest _).toNat
      rw [henc, hx']

/-! ### Rejections and the dictionary (R68, R75) -/

theorem decodeFull_unassigned {w : BitVec 64} (h : Op.decode (w.extractLsb' 54 8).toNat = none) (lit : Option (BitVec 32)) :
    decodeFull w lit = .error (.illegalOpcode (wordGuard w) (w.extractLsb' 54 8)) := by
  simp only [decodeFull, h]

theorem decodeParcels_dict (bank : List (BitVec 64)) {p : Parcel} (rest : List Parcel) (h : p.getLsbD 15 = false) :
    decodeParcels bank (p :: rest) = (decodeDict bank p).map (·, 1) := if_pos h

theorem decodeParcels_header (bank : List (BitVec 64)) {p : Parcel} (rest : List Parcel) (h : p.extractLsb' 13 3 = 7) :
    decodeParcels bank (p :: rest) = .error .headerMarker := by
  rw [extract_three] at h
  have hb : p.getLsbD 15 = true ∧ p.getLsbD 14 = true ∧ p.getLsbD 13 = true := by
    revert h
    cases p.getLsbD 15 <;> cases p.getLsbD 14 <;> cases p.getLsbD 13 <;> decide
  simp only [decodeParcels, hb, Bool.true_eq_false, if_false]

/-- The word of a patched entry: the patch in bits [10:6], bit [0] clear, and every other bit the entry's (R68). -/
theorem dictWord_fields (e : BitVec 64) (patch : BitVec 5) : (dictWord e patch).getLsbD 0 = false ∧ (dictWord e patch).extractLsb' 6 5 = patch ∧
    (dictWord e patch).extractLsb' 11 53 = e.extractLsb' 11 53 ∧ (dictWord e patch).extractLsb' 1 5 = e.extractLsb' 1 5 := by
  have h : (dictWord e patch).extractLsb' 11 53 ++ (dictWord e patch).extractLsb' 6 5 ++ (dictWord e patch).extractLsb' 1 5 ++
      (dictWord e patch).extractLsb' 0 1 = dictWord e patch := by
    simp only [BitVec.extractLsb'_append_extractLsb'_eq_extractLsb', BitVec.extractLsb'_eq_self]
  obtain ⟨h', h0⟩ := append_inj_iff.mp h
  obtain ⟨h'', h1⟩ := append_inj_iff.mp h'
  obtain ⟨h11, h6⟩ := append_inj_iff.mp h''
  exact ⟨bit1_eq_bit1.mp ((bit1_getLsbD _ _).trans h0), h6, h11, h1⟩

/-- Settles O47: by the kind of the parcel, the opcode's row of the map and the entry's bit [0]. -/
theorem rejectionsAndDictionary : Obligations.RejectionsAndDictionary := by
  refine ⟨fun bank w rest hk hl hop => ?_, fun bank w x rest hk hl hop => ?_, fun bank p rest h15 hlen => ?_, fun bank p rest e h15 he h0 => ?_,
    fun bank p rest e h15 he h0 => ?_, fun bank p rest h => decodeParcels_header bank rest h⟩
  · rw [decodeParcels_word hk bank rest hl, decodeFull_unassigned hop]
    rfl
  · rw [decodeParcels_word_literal hk bank rest hl, decodeFull_unassigned hop]
    rfl
  · rw [decodeParcels_dict bank rest h15, decodeDict, List.getElem?_eq_none hlen]
    rfl
  · rw [decodeParcels_dict bank rest h15]
    simp only [decodeDict, he, h0, Bool.false_eq_true, if_false]
    split <;> rfl
  · obtain ⟨hz, hpatch, hhi, hlo⟩ := dictWord_fields e (p.extractLsb' 10 5)
    refine ⟨dictWord e (p.extractLsb' 10 5), ?_, hz, hpatch, hhi, hlo⟩
    rw [decodeParcels_dict bank rest h15]
    simp only [decodeDict, he, h0, if_true]

/-! ### The words of the spec's listings (R71) -/

/-- The word that the listing of chapter 05 prints beside F2SUM has the opcode 0x4F, which R71's map gives to F2PRD; F2SUM's is 0x4E. -/
theorem decode_listed_f2sum : decodeParcels [] (wordParcels 0x93C1C0A018080000) =
    .ok (.f2prd { Machine.bare with dst := .v 10, a := .v 6, b := .v 8 }, 4) := by
  decide +kernel

/-- Refutes O44: the word 93C1 C0A0 1808 0000, which a listing prints as an F2SUM, decodes as R71's map says, to F2PRD. -/
theorem not_knownWordsDecode : ¬ Obligations.KnownWordsDecode := by
  intro h
  have hlisted := h (0x93C1C0A018080000, none, .f2sum { Machine.bare with dst := .v 10, a := .v 6, b := .v 8 }) (by simp [Machine.knownWords]) [] []
  have hf := decode_listed_f2sum.symm.trans hlisted
  cases hf

/-! ### Reset (R470) -/

/-- Settles O49: every field that the statement names is written out in `State.reset`. -/
theorem resetState : Obligations.ResetState :=
  ⟨rfl, rfl, rfl, rfl, rfl, rfl, rfl, rfl, rfl, rfl, rfl, rfl, rfl, rfl, rfl, rfl, rfl⟩

end Sys2Proof
end

section
namespace Sys2Proof.Machine

/-! ### What an outcome does to memory -/

/-- The outcome is a next state with a property, or the fault of missing memory (log entry 52); nothing is refused. -/
def Goes (p : State → Prop) : Out → Prop
  | .next t => p t
  | .fault _ => True
  | .refused _ => False

@[simp] theorem goes_next (p : State → Prop) (t : State) : Goes p (.next t) ↔ p t := Iff.rfl
@[simp] theorem goes_fault (p : State → Prop) (r : Fault) : Goes p (.fault r) := trivial

theorem Goes.mono {p q : State → Prop} {o : Out} (h : Goes p o) (hpq : ∀ t, p t → q t) : Goes q o := by
  cases o with
  | next t => exact hpq t h
  | fault r => trivial
  | refused r => exact h

theorem Goes.ite {p : State → Prop} {c : Prop} [Decidable c] {a b : Out} (ha : Goes p a) (hb : Goes p b) : Goes p (if c then a else b) := by
  split <;> assumption

theorem Goes.of_next {p : State → Prop} {o : Out} {t : State} (h : Goes p o) (ho : o = .next t) : p t := by
  subst ho
  exact h

/-- The memory of what a body answers has a property. -/
def Res.memAll (P : SMap 8 → Prop) : Res → Prop
  | .ok t | .trapIn t _ _ _ _ | .part t _ _ _ _ | .partHold t _ _ _ | .hold t _ | .stallIn t => P t.mem
  | .trap _ _ _ | .stall | .stop _ => True

section
variable (P : SMap 8 → Prop)
@[simp] theorem Res.memAll_ok (t : State) : (Res.ok t).memAll P ↔ P t.mem := Iff.rfl
@[simp] theorem Res.memAll_trap (cause : Nat) (info : Word) (lanes : LaneMask) : (Res.trap cause info lanes).memAll P := trivial
@[simp] theorem Res.memAll_trapIn (t : State) (done : LaneMask) (cause : Nat) (info : Word) (lanes : LaneMask) :
    (Res.trapIn t done cause info lanes).memAll P ↔ P t.mem := Iff.rfl
@[simp] theorem Res.memAll_part (t : State) (done : LaneMask) (cause : Nat) (info : Word) (lanes : LaneMask) :
    (Res.part t done cause info lanes).memAll P ↔ P t.mem := Iff.rfl
@[simp] theorem Res.memAll_partHold (t : State) (done lanes : LaneMask) (fault : Nat) : (Res.partHold t done lanes fault).memAll P ↔ P t.mem := Iff.rfl
@[simp] theorem Res.memAll_hold (t : State) (fault : Nat) : (Res.hold t fault).memAll P ↔ P t.mem := Iff.rfl
@[simp] theorem Res.memAll_stallIn (t : State) : (Res.stallIn t).memAll P ↔ P t.mem := Iff.rfl
@[simp] theorem Res.memAll_stall : Res.stall.memAll P := trivial
@[simp] theorem Res.memAll_stop (r : Fault) : (Res.stop r).memAll P := trivial
end

variable {P : SMap 8 → Prop} {op : Op} {f : Form} {runs : Env → List (Nat × Nat)} {s : State} {e : Env}

/-- What a body answers is done to the machine without a change of memory. -/
theorem State.finish_goes (hs : P s.mem) {r : Res} (h : r.memAll P) : Goes (fun t => P t.mem) (s.finish e op f r) := by
  cases r with
  | trapIn t done cause info lanes =>
    show P (if _ then _ else _ : State).mem
    split <;> simpa using h
  | _ => simp_all [State.finish, Res.memAll]

/-- An encoded instruction goes on, and its memory is the old one or what its body answers. -/
theorem runWith_goes {body : Env → Res} {own : Env → Option (Word × LaneMask)} (hs : P s.mem)
    (h : ∀ e, s.env f.guard = some e → (body e).memAll P) : Goes (fun t => P t.mem) (runWith op f runs s body own) := by
  obtain ⟨-, h0⟩ | ⟨e, -, -, h0⟩ | ⟨e, _, _, _, -, -, -, h0⟩ | ⟨e, he, -, -, h0⟩ := runWith_cases op f runs s body own <;> rw [h0]
  · exact hs
  · simpa using hs
  · simpa using hs
  · exact State.finish_goes hs (h e he)

theorem State.allOrNothing_memAll {cs : List (Nat × Nat × Chk)} {act : Unit → Res} (hs : P s.mem) (h : (act ()).memAll P) :
    (s.allOrNothing e cs act).memAll P := by
  unfold State.allOrNothing
  split <;> simp [h, hs]

theorem checkTargets_memAll {target : Nat → Lane → Int} {act : List (Nat × Nat) → Res} (hs : P s.mem) (h : ∀ ts, (act ts).memAll P) :
    (checkTargets s e target act).memAll P := by
  simp only [checkTargets]
  (repeat' split) <;> simp [h, hs]

/-- An outcome that leaves memory as it was. -/
abbrev Quiet (s : State) : Out → Prop := Goes (fun t => t.mem = s.mem)

/-- A body that leaves memory as it was. -/
abbrev Res.quiet (s : State) (r : Res) : Prop := r.memAll (fun m => m = s.mem)

theorem runWith_quiet {body : Env → Res} {own : Env → Option (Word × LaneMask)} (h : ∀ e, (body e).quiet s) : Quiet s (runWith op f runs s body own) :=
  runWith_goes (P := fun m => m = s.mem) rfl fun e _ => h e

theorem runFixed_quiet (op : Op) (f : Form) (s : State) (fn : Env → Nat → Lane → LaneRes) : Quiet s (runFixed op f s fn) :=
  runWith_quiet fun e => by simp

theorem runLong_quiet (op : Op) (f : Form) (s : State) (fn : Env → Nat → Lane → LaneRes) : Quiet s (runLong op f s fn) :=
  runWith_quiet fun e => by simp

theorem transfer_quiet {target : Nat → Lane → Int} {pre : State → State} (h : (pre s).mem = s.mem) : (transfer s e target pre).quiet s :=
  checkTargets_memAll rfl fun ts => by simpa using h

theorem collective_quiet (op : Op) (f : Form) (s : State) (fn : Env → Nat → Lane → LaneRes) : Quiet s (collective op f s fn) := by
  refine runWith_quiet fun e => ?_
  split <;> simp

theorem seamOp_goes {names : Env → List Nat} {body : Env → Res} (hs : P s.mem) (h : ∀ e, s.env f.guard = some e → (body e).memAll P) :
    Goes (fun t => P t.mem) (seamOp op f s runs names body) := by
  refine runWith_goes hs fun e he => ?_
  (repeat' split) <;> simp [h e he]

theorem seamOp_quiet {names : Env → List Nat} {body : Env → Res} (h : ∀ e, (body e).quiet s) : Quiet s (seamOp op f s runs names body) :=
  seamOp_goes (P := fun m => m = s.mem) rfl fun e _ => h e

theorem matIssue_quiet (block tile : Nat) (cores : List Nat) (kind : MatKind) (lays : List (Nat × BitVec 512)) (gs : List Nat) :
    (matIssue s e f block tile cores kind lays gs).quiet s := by
  unfold matIssue
  simp only []
  split <;> simp

theorem tileIssue_quiet (kind : TileKind) (r : Report) (d o n : List Nat) : (tileIssue s e f kind r d o n).quiet s := by
  unfold tileIssue
  (repeat' split) <;> simp

/-- What the command at the head of a queue does is done to the state without it. -/
theorem command_goes {code queue : Nat} {act : CmdEntry → State → State} (hs : P s.mem)
    (h : ∀ c u, headOf s queue c → P (act c (s.updQueue queue u)).mem) : Goes (fun t => P t.mem) (command code queue s act) := by
  unfold command
  split
  · exact hs
  next q hq =>
    split
    · exact hs
    next c rest hc =>
      split
      · exact hs
      · rw [goes_next, State.skipBad_mem]
        exact h c _ ⟨q, rest, hq, hc⟩

theorem command_quiet {code queue : Nat} {act : CmdEntry → State → State} (h : ∀ c t, (act c t).mem = t.mem) : Quiet s (command code queue s act) :=
  command_goes (P := fun m => m = s.mem) rfl fun c u _ => h c _

end Sys2Proof.Machine
end

section
namespace Sys2Proof.Machine

/-! ### Operations of the model that leave memory alone, which the laws of the model do not name -/

@[simp] theorem State.landCopy_mem (s : State) (c : CopyOp) : (s.landCopy c).mem = s.mem := by
  simp only [State.landCopy]
  (repeat' split) <;> simp

@[simp] theorem State.markBindings_mem (s : State) (launch : Nat) (name : Word) (gen : Nat) (on : Bool) : (s.markBindings launch name gen on).mem = s.mem := rfl

@[simp] theorem State.tryJoin_mem (s : State) (j : Join) : (s.tryJoin j).mem = s.mem := by
  simp only [State.tryJoin]
  (repeat' split) <;> simp

@[simp] theorem State.runsAt_mem (s : State) (ids : List Nat) (core : Nat) : (s.runsAt ids core).mem = s.mem := by
  simp [State.runsAt]

theorem State.reorderAt_mem {s t : State} {block level role : Nat} (h : s.reorderAt block level role = some t) : t.mem = s.mem := by
  simp only [State.reorderAt] at h
  split at h
  · simp at h
  · split at h
    · simp at h
    · simp only [Option.some.injEq] at h
      subst h
      exact foldl_mem _ (fun _ _ => by simp) _ _

variable {s : State}

theorem execBra_quiet (f : Form) (s : State) : Quiet s (execBra f s) := runWith_quiet fun _ => transfer_quiet rfl
theorem execBrai_quiet (f : Form) (s : State) : Quiet s (execBrai f s) := runWith_quiet fun _ => transfer_quiet rfl
theorem execRet_quiet (f : Form) (s : State) : Quiet s (execRet f s) := runWith_quiet fun _ => transfer_quiet rfl
theorem execCall_quiet (f : Form) (s : State) : Quiet s (execCall f s) := runWith_quiet fun _ => transfer_quiet (by simp [linkWrite])
theorem execCalli_quiet (f : Form) (s : State) : Quiet s (execCalli f s) := runWith_quiet fun _ => transfer_quiet (by simp [linkWrite])

theorem execVote_quiet (f : Form) (s : State) : Quiet s (execVote f s) := collective_quiet ..
theorem execShfl_quiet (f : Form) (s : State) : Quiet s (execShfl f s) := collective_quiet ..
theorem execRedux_quiet (f : Form) (s : State) : Quiet s (execRedux f s) := collective_quiet ..
theorem execScan_quiet (f : Form) (s : State) : Quiet s (execScan f s) := collective_quiet ..

theorem execSeamJoin_quiet (f : Form) (s : State) : Quiet s (execSeamJoin f s) := seamOp_quiet fun _ => rfl
theorem execSeamQuit_quiet (f : Form) (s : State) : Quiet s (execSeamQuit f s) := seamOp_quiet fun _ => rfl
theorem execSeamQuitm_quiet (f : Form) (s : State) : Quiet s (execSeamQuitm f s) := seamOp_quiet fun _ => rfl
theorem execSeamWait_quiet (f : Form) (s : State) : Quiet s (execSeamWait f s) :=
  seamOp_quiet fun _ => by
    simp only
    (repeat' split) <;> simp
theorem execSeamRead_quiet (f : Form) (s : State) : Quiet s (execSeamRead f s) := seamOp_quiet fun _ => by simp
theorem execSeamLoad_quiet (f : Form) (s : State) : Quiet s (execSeamLoad f s) :=
  seamOp_quiet fun _ => State.allOrNothing_memAll rfl (by simp)

theorem execReorderPoint_quiet (block : Nat) (role : BitVec 2) (s : State) : Quiet s (execReorderPoint block role s) := by
  show State.mem _ = _
  cases h : (List.range 8).findSome? (fun n => s.reorderAt block n role.toNat) with
  | none => rfl
  | some t =>
    obtain ⟨n, -, ht⟩ := List.exists_of_findSome?_eq_some h
    exact State.reorderAt_mem ht

theorem execEmit_quiet (f : Form) (s : State) : Quiet s (execEmit f s) := by
  refine runWith_quiet fun e => ?_
  simp only
  split
  · trivial
  split
  · trivial
  split <;> simp only [Res.memAll_ok, Res.memAll_trapIn] <;> rw [foldl_mem _ (fun _ _ => by simp), State.create_mem]

theorem execSpawn_quiet (f : Form) (s : State) : Quiet s (execSpawn f s) :=
  runWith_quiet fun e => by
    simp only [Res.memAll_ok, State.doneAtIssue_mem, State.updOp_mem, State.addOp_mem, State.writeRegs_mem]
    rw [foldl_mem _ (fun _ _ => by simp), State.create_mem]

theorem execEbb_quiet (f : Form) (s : State) : Quiet s (execEbb f s) :=
  runWith_quiet fun e => by
    simp only [Res.memAll_ok, State.freeSlots_mem]
    exact foldl_mem _ (fun _ _ => by split <;> simp) _ _

theorem execLd_quiet (f : Form) (s : State) : Quiet s (execLd f s) :=
  runWith_quiet fun _ => State.allOrNothing_memAll rfl (by simp)

theorem execLdu_quiet (f : Form) (s : State) : Quiet s (execLdu f s) :=
  runWith_quiet fun e => by
    simp only
    split
    · trivial
    · exact State.allOrNothing_memAll rfl (by simp)

theorem execCopyLanding_quiet (copy : Nat) (s : State) : Quiet s (execCopyLanding copy s) := by
  unfold execCopyLanding
  split <;> simp

theorem execTmWait_quiet (f : Form) (s : State) : Quiet s (execTmWait f s) :=
  runWith_quiet fun e => by split <;> simp

theorem execTcopy_quiet (f : Form) (s : State) : Quiet s (execTcopy f s) :=
  runWith_quiet fun e => by
    simp only
    (repeat' split) <;> first | trivial | exact tileIssue_quiet ..

theorem execTcopyMc_quiet (f : Form) (s : State) : Quiet s (execTcopyMc f s) :=
  runWith_quiet fun e => by
    simp only
    (repeat' split) <;> first | trivial | exact tileIssue_quiet ..

theorem execWqAdd_quiet (f : Form) (s : State) : Quiet s (execWqAdd f s) :=
  runWith_quiet fun e => by
    simp only
    (repeat' split) <;> first | trivial | exact foldl_mem _ (fun _ _ => by (repeat' split) <;> simp) _ _

theorem execLnest_quiet (n : NestForm) (s : State) : Quiet s (execLnest n s) := by
  simp only [execLnest, execLnest.retireNest]
  (repeat' split) <;> simp

theorem matCompute_quiet (op : Op) (which : Nat) (f : Form) (s : State) : Quiet s (matCompute op which f s) :=
  runWith_quiet fun e => by
    simp only
    (repeat' split) <;> first | trivial | simp | exact matIssue_quiet ..

theorem accImage_quiet (op : Op) (load : Bool) (f : Form) (s : State) : Quiet s (accImage op load f s) :=
  runWith_quiet fun e => by
    simp only
    (repeat' split) <;> first | trivial | exact matIssue_quiet ..

theorem execAccZero_quiet (f : Form) (s : State) : Quiet s (execAccZero f s) :=
  runWith_quiet fun e => by
    simp only
    (repeat' split) <;> first | trivial | exact matIssue_quiet ..

theorem execAccDrain_quiet (f : Form) (s : State) : Quiet s (execAccDrain f s) :=
  runWith_quiet fun e => by
    simp only
    (repeat' split) <;> first | trivial | exact matIssue_quiet ..

theorem execJoinRequestArrival_quiet (join : Arrival) (s : State) : Quiet s (execJoinRequestArrival join s) := by
  simp only [execJoinRequestArrival]
  (repeat' split) <;> simp

theorem execChainAbort_quiet (f : Form) (s : State) : Quiet s (execChainAbort f s) :=
  runWith_quiet fun e => by
    simp only
    split
    · trivial
    · simp only [Res.memAll_ok, State.addOp_mem]
      rw [foldl_mem _ (fun _ _ => by simp)]
      (repeat' split) <;> simp

theorem execChainSuspension_quiet (name : Word) (notice : ChainNotice) (s : State) : Quiet s (execChainSuspension name notice s) := by
  unfold execChainSuspension
  cases notice <;> simp only <;> (repeat' split) <;> simp

theorem execPassResolution_quiet (launch pass : Nat) (s : State) : Quiet s (execPassResolution launch pass s) := by
  unfold execPassResolution
  split
  · split
    · rfl
    · simp only [goes_next, State.updLaunch_mem, State.freeSlots_mem, State.endClaims_mem]
      exact foldl_mem _ (fun _ _ => by simp) _ _
  · rfl

theorem execTrace_quiet (f : Form) (s : State) : Quiet s (execTrace f s) :=
  runWith_quiet fun e => by
    simp only
    split
    · trivial
    · simp only [Res.memAll_ok]
      split <;> rw [foldl_mem _ (fun _ _ => by simp)] <;> simp

theorem execRetv_quiet (f : Form) (s : State) : Quiet s (execRetv f s) :=
  runWith_quiet fun e => foldl_mem _ (fun _ _ => by simp) _ _

theorem sampleOp_quiet (op : Op) (f : Form) (s : State) (taps : Env → Word → Nat → Lane → Except Word (List Tap)) : Quiet s (sampleOp op f s taps) :=
  runWith_quiet fun e => by
    simp only
    split
    · trivial
    · exact State.allOrNothing_memAll rfl (by simp)

theorem execTret_quiet (f : Form) (s : State) : Quiet s (execTret f s) :=
  runWith_quiet fun e => by
    split
    · trivial
    · split
      · exact checkTargets_memAll rfl fun _ => rfl
      · rfl

theorem execLaunch_quiet (f : Form) (s : State) : Quiet s (execLaunch f s) :=
  runWith_quiet fun e => by
    simp only
    split
    · trivial
    split
    · trivial
    split
    · trivial
    refine State.allOrNothing_memAll rfl ?_
    split
    · trivial
    · exact State.allOrNothing_memAll rfl (by simp)

theorem execPartitionIssue_quiet (core part : Nat) (s : State) : Quiet s (execPartitionIssue core part s) := by
  simp only [execPartitionIssue]
  split <;> simp only [goes_next, State.issueGroup_mem, State.updBlock_mem] <;> exact foldl_mem _ (fun _ _ => by simp) _ _

theorem execThermalShutdown_quiet (s : State) : Quiet s (execThermalShutdown s) := by
  simp only [execThermalShutdown]
  split
  · rfl
  · exact foldl_mem _ (fun _ _ => by simp) _ _

theorem execUncorrectableErrorRecovery_quiet (blocks : List Nat) (s : State) : Quiet s (execUncorrectableErrorRecovery blocks s) :=
  foldl_mem _ (fun _ _ => by simp) _ _

/-! ### Commands that leave memory alone -/

theorem tenantCommand_quiet {code queue : Nat} {act : Nat → CmdEntry → State → State} (h : ∀ t c u, (act t c u).mem = u.mem) :
    Quiet s (tenantCommand code queue s act) :=
  command_quiet (h _)

theorem execGroupSet_quiet (queue : Nat) (s : State) : Quiet s (execGroupSet queue s) := command_quiet fun _ _ => by simp
theorem execTimeSet_quiet (queue : Nat) (s : State) : Quiet s (execTimeSet queue s) := command_quiet fun _ _ => by simp
theorem execBudgetSet_quiet (queue : Nat) (s : State) : Quiet s (execBudgetSet queue s) :=
  command_quiet fun _ _ => by
    simp only
    split <;> simp
theorem execFwUpdate_quiet (queue : Nat) (s : State) : Quiet s (execFwUpdate queue s) :=
  command_quiet fun _ _ => by
    simp only
    (repeat' split) <;> simp
theorem execTenantCreate_quiet (queue : Nat) (s : State) : Quiet s (execTenantCreate queue s) :=
  command_quiet fun _ _ => by
    simp only
    (repeat' split) <;> simp
theorem execTenantDestroy_quiet (queue : Nat) (s : State) : Quiet s (execTenantDestroy queue s) :=
  command_quiet fun _ _ => by
    simp only
    (repeat' split) <;> simp
theorem execWindowUnmap_quiet (queue : Nat) (s : State) : Quiet s (execWindowUnmap queue s) :=
  tenantCommand_quiet fun _ _ _ => by
    (repeat' split) <;> simp
theorem execPageMap_quiet (queue : Nat) (s : State) : Quiet s (execPageMap queue s) :=
  tenantCommand_quiet fun _ _ _ => by
    split
    · split
      · simp
      · simp only [State.done_mem]
        exact foldl_mem _ (fun _ _ => by simp) _ _
    · simp
theorem execFaultDone_quiet (queue : Nat) (s : State) : Quiet s (execFaultDone queue s) :=
  tenantCommand_quiet fun _ _ _ => by
    simp only
    split
    · simp
    · simp only [State.done_mem]
      (repeat' split) <;> simp
theorem execCodeUnload_quiet (queue : Nat) (s : State) : Quiet s (execCodeUnload queue s) :=
  tenantCommand_quiet fun _ _ _ => by
    (repeat' split) <;> simp
theorem execLaunchCommand_quiet (queue : Nat) (s : State) : Quiet s (execLaunchCommand queue s) :=
  tenantCommand_quiet fun t c u => by
    simp only
    split
    · simp
    split
    · split
      · simp
      split
      · simp
      split
      · simp
      next h => rw [State.done_mem, accept_mem h]
    · simp
theorem execPreemptCommand_quiet (queue : Nat) (s : State) : Quiet s (execPreemptCommand queue s) :=
  tenantCommand_quiet fun _ _ u => by
    simp only
    split
    · simp
    split
    · simp
    split
    · simp
    · exact foldl_mem _ (fun _ _ => by simp) _ _
theorem execResume_quiet (queue : Nat) (s : State) : Quiet s (execResume queue s) :=
  tenantCommand_quiet fun _ _ _ => by
    split <;> simp
theorem execQuery_quiet (queue : Nat) (s : State) : Quiet s (execQuery queue s) :=
  command_quiet fun _ _ => by
    split <;> simp

end Sys2Proof.Machine
end

section
namespace Sys2Proof.Machine

/-! ### The other instructions and steps that store nothing -/

theorem execMovg_quiet (f : Form) (s : State) : Quiet s (execMovg f s) :=
  runWith_quiet fun e => by
    (repeat' split) <;> simp

theorem execExit_quiet (f : Form) (s : State) : Quiet s (execExit f s) :=
  runWith_quiet fun e => by
    simp only
    (repeat' split) <;> simp

theorem execYield_quiet (f : Form) (s : State) : Quiet s (execYield f s) :=
  runWith_quiet fun e => by
    (repeat' split) <;> simp

theorem execNop_quiet (f : Form) (s : State) : Quiet s (execNop f s) :=
  runWith_quiet fun e => by
    (repeat' split) <;> simp

theorem execSerOpen_quiet (f : Form) (s : State) : Quiet s (execSerOpen f s) :=
  runWith_quiet fun e => by
    simp only
    (repeat' split) <;> simp

theorem execSerClose_quiet (f : Form) (s : State) : Quiet s (execSerClose f s) :=
  runWith_quiet fun e => by
    simp only
    (repeat' split) <;> simp

theorem execRegroup_quiet (f : Form) (s : State) : Quiet s (execRegroup f s) :=
  runWith_quiet fun e => by
    simp only
    (repeat' split) <;> simp

theorem execSpawnReturn_quiet (op lane : Nat) (s : State) : Quiet s (execSpawnReturn op lane s) := by
  unfold execSpawnReturn
  simp only
  (repeat' split) <;> simp

theorem execHlerp_quiet (f : Form) (s : State) : Quiet s (execHlerp f s) :=
  runWith_quiet fun e => by
    simp only
    (repeat' split) <;> simp

theorem execFence_quiet (f : Form) (s : State) : Quiet s (execFence f s) :=
  runWith_quiet fun e => by
    (repeat' split) <;> simp

theorem execPref_quiet (f : Form) (s : State) : Quiet s (execPref f s) :=
  runWith_quiet fun e => by
    (repeat' split) <;> simp

theorem execLaysub_quiet (f : Form) (s : State) : Quiet s (execLaysub f s) :=
  runWith_quiet fun e => by
    simp only
    (repeat' split) <;> simp

theorem execTwait_quiet (f : Form) (s : State) : Quiet s (execTwait f s) :=
  runWith_quiet fun e => by
    simp only
    (repeat' split) <;> simp

theorem execTfirst_quiet (f : Form) (s : State) : Quiet s (execTfirst f s) :=
  runWith_quiet fun e => by
    simp only
    (repeat' split) <;> simp

theorem execOwnGive_quiet (f : Form) (s : State) : Quiet s (execOwnGive f s) :=
  runWith_quiet fun e => by
    simp only
    (repeat' split) <;> simp

theorem execOwnTake_quiet (f : Form) (s : State) : Quiet s (execOwnTake f s) :=
  runWith_quiet fun e => by
    simp only
    (repeat' split) <;> simp

theorem execScatb_quiet (f : Form) (s : State) : Quiet s (execScatb f s) :=
  runWith_quiet fun e => by
    simp only
    (repeat' split) <;> simp

theorem execWqAsk_quiet (f : Form) (s : State) : Quiet s (execWqAsk f s) :=
  runWith_quiet fun e => by
    simp only
    (repeat' split) <;> simp

theorem execWqTake_quiet (f : Form) (s : State) : Quiet s (execWqTake f s) :=
  runWith_quiet fun e => by
    simp only
    (repeat' split) <;> simp

theorem execQueueRefill_quiet (launch core : Nat) (s : State) : Quiet s (execQueueRefill launch core s) := by
  unfold execQueueRefill
  simp only
  (repeat' split) <;> simp

theorem execTokenPass_quiet (launch : Nat) (s : State) : Quiet s (execTokenPass launch s) := by
  unfold execTokenPass
  simp only
  (repeat' split) <;> simp

theorem execMma_quiet (f : Form) (s : State) : Quiet s (execMma f s) := matCompute_quiet ..

theorem execQuant_quiet (f : Form) (s : State) : Quiet s (execQuant f s) := matCompute_quiet ..

theorem execHad_quiet (f : Form) (s : State) : Quiet s (execHad f s) := matCompute_quiet ..

theorem execAccSave_quiet (f : Form) (s : State) : Quiet s (execAccSave f s) := accImage_quiet ..

theorem execAccLoad_quiet (f : Form) (s : State) : Quiet s (execAccLoad f s) := accImage_quiet ..

theorem execChainOpen_quiet (f : Form) (s : State) : Quiet s (execChainOpen f s) :=
  runWith_quiet fun e => by
    simp only
    (repeat' split) <;> simp

theorem execChainJoin_quiet (f : Form) (s : State) : Quiet s (execChainJoin f s) :=
  runWith_quiet fun e => by
    simp only
    (repeat' split) <;> simp

theorem execChainSend_quiet (f : Form) (s : State) : Quiet s (execChainSend f s) :=
  runWith_quiet fun e => by
    simp only
    (repeat' split) <;> simp

theorem execContributionLanding_quiet (contribution : Arrival) (s : State) : Quiet s (execContributionLanding contribution s) := by
  unfold execContributionLanding
  simp only
  (repeat' split) <;> simp

theorem execChainWait_quiet (f : Form) (s : State) : Quiet s (execChainWait f s) :=
  runWith_quiet fun e => by
    simp only
    (repeat' split) <;> simp

theorem execIntegrationEntry_quiet (core slot : Nat) (s : State) : Quiet s (execIntegrationEntry core slot s) := by
  unfold execIntegrationEntry
  simp only
  (repeat' split) <;> simp

theorem execChainStatus_quiet (f : Form) (s : State) : Quiet s (execChainStatus f s) :=
  runWith_quiet fun e => by
    simp only
    (repeat' split) <;> simp

theorem execBatOpen_quiet (f : Form) (s : State) : Quiet s (execBatOpen f s) :=
  runWith_quiet fun e => by
    simp only
    (repeat' split) <;> simp

theorem execBatPush_quiet (f : Form) (s : State) : Quiet s (execBatPush f s) :=
  runWith_quiet fun e => by
    simp only
    (repeat' split) <;> simp

theorem execBatClose_quiet (f : Form) (s : State) : Quiet s (execBatClose f s) :=
  runWith_quiet fun e => by
    simp only
    (repeat' split) <;> simp

theorem execBatDone_quiet (f : Form) (s : State) : Quiet s (execBatDone f s) :=
  runWith_quiet fun e => by
    simp only
    (repeat' split) <;> simp

theorem execBatStat_quiet (f : Form) (s : State) : Quiet s (execBatStat f s) :=
  runWith_quiet fun e => by
    (repeat' split) <;> simp

theorem execBatchFormation_quiet (core : Nat) (s : State) : Quiet s (execBatchFormation core s) := by
  unfold execBatchFormation
  simp only
  (repeat' split) <;> simp

theorem execBatchAdmission_quiet (core batch : Nat) (s : State) : Quiet s (execBatchAdmission core batch s) := by
  unfold execBatchAdmission
  simp only
  (repeat' split) <;> simp

theorem execBodyClaimRelease_quiet (core batch lane : Nat) (s : State) : Quiet s (execBodyClaimRelease core batch lane s) := by
  unfold execBodyClaimRelease
  (repeat' split) <;> simp

theorem execPrimEmit_quiet (f : Form) (s : State) : Quiet s (execPrimEmit f s) :=
  runWith_quiet fun e => by
    simp only
    (repeat' split) <;> simp

theorem execPrimitiveBinning_quiet (prim : Nat) (s : State) : Quiet s (execPrimitiveBinning prim s) := by
  unfold execPrimitiveBinning
  simp only
  (repeat' split) <;> simp

theorem execTraversalCompletion_quiet (op lane : Nat) (s : State) : Quiet s (execTraversalCompletion op lane s) := by
  unfold execTraversalCompletion
  simp only
  (repeat' split) <;> simp

theorem execTex_quiet (f : Form) (s : State) : Quiet s (execTex f s) := sampleOp_quiet ..

theorem execTexl_quiet (f : Form) (s : State) : Quiet s (execTexl f s) := sampleOp_quiet ..

theorem execTexf_quiet (f : Form) (s : State) : Quiet s (execTexf f s) := sampleOp_quiet ..

theorem execTrapi_quiet (f : Form) (s : State) : Quiet s (execTrapi f s) :=
  runWith_quiet fun e => by
    (repeat' split) <;> simp

theorem execPreemptDone_quiet (f : Form) (s : State) : Quiet s (execPreemptDone f s) :=
  runWith_quiet fun e => by
    (repeat' split) <;> simp

theorem execSliceYield_quiet (f : Form) (s : State) : Quiet s (execSliceYield f s) :=
  runWith_quiet fun e => by
    simp only
    (repeat' split) <;> simp

theorem execHintSucc_quiet (f : Form) (s : State) : Quiet s (execHintSucc f s) :=
  runWith_quiet fun e => by
    (repeat' split) <;> simp

theorem execWaitp_quiet (f : Form) (s : State) : Quiet s (execWaitp f s) :=
  runWith_quiet fun e => by
    simp only
    (repeat' split) <;> simp

theorem execLaneCompletion_quiet (op lane : Nat) (s : State) : Quiet s (execLaneCompletion op lane s) := by
  unfold execLaneCompletion
  (repeat' split) <;> simp

theorem execAsyncTrapDelivery_quiet (group : Nat) (s : State) : Quiet s (execAsyncTrapDelivery group s) := by
  unfold execAsyncTrapDelivery
  (repeat' split) <;> simp

theorem execSliceBudgetExpiry_quiet (block : Nat) (s : State) : Quiet s (execSliceBudgetExpiry block s) := by
  unfold execSliceBudgetExpiry
  simp only
  (repeat' split) <;> simp

theorem execElementAdmission_quiet (elem : Nat) (s : State) : Quiet s (execElementAdmission elem s) := by
  unfold execElementAdmission
  simp only
  (repeat' split) <;> simp

theorem execElementFinish_quiet (elem : Nat) (s : State) : Quiet s (execElementFinish elem s) := by
  unfold execElementFinish
  simp only
  (repeat' split) <;> simp

theorem execClaimEndingArrival_quiet (ending : Nat) (s : State) : Quiet s (execClaimEndingArrival ending s) := by
  unfold execClaimEndingArrival
  simp only
  (repeat' split) <;> simp

theorem execPowerWindow_quiet (w : PowerReport) (s : State) : Quiet s (execPowerWindow w s) := by
  unfold execPowerWindow
  simp only
  (repeat' split) <;> simp

theorem execTranslationFaultOffer_quiet (fault : Nat) (s : State) : Quiet s (execTranslationFaultOffer fault s) := by
  unfold execTranslationFaultOffer
  simp only
  (repeat' split) <;> simp

theorem execBlockSave_quiet (block : Nat) (s : State) : Quiet s (execBlockSave block s) := by
  unfold execBlockSave
  (repeat' split) <;> simp

theorem execHardStop_quiet (block : Nat) (s : State) : Quiet s (execHardStop block s) := by
  unfold execHardStop
  simp only
  (repeat' split) <;> simp

theorem execIcacheFillAuth_quiet (code line : Nat) (s : State) : Quiet s (execIcacheFillAuth code line s) := by
  unfold execIcacheFillAuth
  simp only
  (repeat' split) <;> simp

theorem execLinkDown_quiet (peer : BitVec 3) (link : Bool) (s : State) : Quiet s (execLinkDown peer link s) := by
  unfold execLinkDown
  simp only
  (repeat' split) <;> simp

theorem execThermalEmergency_quiet (die : BitVec 2) (celsius : BitVec 8) (s : State) : Quiet s (execThermalEmergency die celsius s) := by
  unfold execThermalEmergency
  simp only
  (repeat' split) <;> simp

theorem execDoorbellWrite_quiet (queue : Nat) (bell : Doorbell) (s : State) : Quiet s (execDoorbellWrite queue bell s) := by
  unfold execDoorbellWrite
  simp only
  (repeat' split) <;> simp

theorem execItemArrival_quiet (item : Nat) (s : State) : Quiet s (execItemArrival item s) := by
  unfold execItemArrival
  (repeat' split) <;> simp

theorem execPeerWindowConfirmation_quiet (tenant window : Nat) (exported : Bool) (s : State) : Quiet s (execPeerWindowConfirmation tenant window exported s) := by
  unfold execPeerWindowConfirmation
  (repeat' split) <;> simp

theorem execFabricLineInvalidation_quiet (line : Nat) (sharer : BitVec 3) (s : State) : Quiet s (execFabricLineInvalidation line sharer s) := by
  unfold execFabricLineInvalidation
  (repeat' split) <;> simp

/-- R236, R278, R286: an instruction or a step that stores nothing goes on, and leaves memory as it was. -/
theorem exec_quiet {i : Instr} (hi : Instr.stores i = false) (s : State) : Quiet s (exec i s) := by
  cases i with
  | iadd f => exact runFixed_quiet ..
  | isub f => exact runFixed_quiet ..
  | iadd64 f => exact runFixed_quiet ..
  | isub64 f => exact runFixed_quiet ..
  | imul f => exact runFixed_quiet ..
  | imulh f => exact runFixed_quiet ..
  | imad f => exact runFixed_quiet ..
  | imad64 f => exact runFixed_quiet ..
  | imadw f => exact runFixed_quiet ..
  | imin f => exact runFixed_quiet ..
  | imax f => exact runFixed_quiet ..
  | iabs f => exact runFixed_quiet ..
  | idiv f => exact runLong_quiet ..
  | irem f => exact runLong_quiet ..
  | lut3 f => exact runFixed_quiet ..
  | shl f => exact runFixed_quiet ..
  | shr f => exact runFixed_quiet ..
  | sar f => exact runFixed_quiet ..
  | shf f => exact runFixed_quiet ..
  | bfe f => exact runFixed_quiet ..
  | bfi f => exact runFixed_quiet ..
  | popc f => exact runFixed_quiet ..
  | clz f => exact runFixed_quiet ..
  | brev f => exact runFixed_quiet ..
  | findlsb f => exact runFixed_quiet ..
  | icmp f => exact runFixed_quiet ..
  | isel f => exact runFixed_quiet ..
  | plut3 f => exact runFixed_quiet ..
  | mov f => exact runFixed_quiet ..
  | movi f => exact runFixed_quiet ..
  | movl f => exact runFixed_quiet ..
  | movs f => exact runFixed_quiet ..
  | movg f => exact execMovg_quiet ..
  | bra f => exact execBra_quiet ..
  | brai f => exact execBrai_quiet ..
  | call f => exact execCall_quiet ..
  | calli f => exact execCalli_quiet ..
  | ret f => exact execRet_quiet ..
  | exit f => exact execExit_quiet ..
  | yield f => exact execYield_quiet ..
  | nop f => exact execNop_quiet ..
  | fadd f => exact runFixed_quiet ..
  | fsub f => exact runFixed_quiet ..
  | fmul f => exact runFixed_quiet ..
  | ffma f => exact runFixed_quiet ..
  | fmin f => exact runFixed_quiet ..
  | fmax f => exact runFixed_quiet ..
  | fcmp f => exact runFixed_quiet ..
  | frnd f => exact runFixed_quiet ..
  | fclass f => exact runFixed_quiet ..
  | fscale f => exact runFixed_quiet ..
  | frcp f => exact runLong_quiet ..
  | frsq f => exact runLong_quiet ..
  | fsqrt f => exact runLong_quiet ..
  | fdiv f => exact runLong_quiet ..
  | f2sum f => exact runFixed_quiet ..
  | f2prd f => exact runFixed_quiet ..
  | hadd2 f => exact runFixed_quiet ..
  | hmul2 f => exact runFixed_quiet ..
  | hfma2 f => exact runFixed_quiet ..
  | fdot2 f => exact runFixed_quiet ..
  | idot4 f => exact runFixed_quiet ..
  | cvt f => exact runFixed_quiet ..
  | cvti f => exact runFixed_quiet ..
  | packn f => exact runFixed_quiet ..
  | unpackn f => exact runFixed_quiet ..
  | fex2 f => exact runLong_quiet ..
  | flg2 f => exact runLong_quiet ..
  | fsin f => exact runLong_quiet ..
  | fcos f => exact runLong_quiet ..
  | cadd f => exact runFixed_quiet ..
  | cmul f => exact runFixed_quiet ..
  | ccmul f => exact runFixed_quiet ..
  | cfma f => exact runFixed_quiet ..
  | cabs2 f => exact runFixed_quiet ..
  | cexpi f => exact runLong_quiet ..
  | vote f => exact execVote_quiet ..
  | shfl f => exact execShfl_quiet ..
  | redux f => exact execRedux_quiet ..
  | scan f => exact execScan_quiet ..
  | seamJoin f => exact execSeamJoin_quiet ..
  | seamQuit f => exact execSeamQuit_quiet ..
  | seamQuitm f => exact execSeamQuitm_quiet ..
  | seamWait f => exact execSeamWait_quiet ..
  | seamRead f => exact execSeamRead_quiet ..
  | seamStore f => cases hi
  | seamLoad f => exact execSeamLoad_quiet ..
  | serOpen f => exact execSerOpen_quiet ..
  | serClose f => exact execSerClose_quiet ..
  | regroup f => exact execRegroup_quiet ..
  | reorderPoint block role => exact execReorderPoint_quiet ..
  | emit f => exact execEmit_quiet ..
  | spawn f => exact execSpawn_quiet ..
  | spawnReturn op lane => exact execSpawnReturn_quiet ..
  | ebb f => exact execEbb_quiet ..
  | hlerp f => exact execHlerp_quiet ..
  | ld f => exact execLd_quiet ..
  | st f => cases hi
  | ldu f => exact execLdu_quiet ..
  | atom f => cases hi
  | red f => cases hi
  | fence f => exact execFence_quiet ..
  | pref f => exact execPref_quiet ..
  | laysub f => exact execLaysub_quiet ..
  | layinfo f => exact runFixed_quiet ..
  | copy f => cases hi
  | copyLanding copy => exact execCopyLanding_quiet ..
  | twait f => exact execTwait_quiet ..
  | tfirst f => exact execTfirst_quiet ..
  | tmInit f => cases hi
  | tmArrive f => cases hi
  | tmArrivew f => cases hi
  | tmWait f => exact execTmWait_quiet ..
  | tmExpect f => cases hi
  | ownGive f => exact execOwnGive_quiet ..
  | ownTake f => exact execOwnTake_quiet ..
  | tcopy f => exact execTcopy_quiet ..
  | tcopyMc f => exact execTcopyMc_quiet ..
  | scatb f => exact execScatb_quiet ..
  | tileOperationCompletion op => cases hi
  | wqAsk f => exact execWqAsk_quiet ..
  | wqAskAnswer ask => cases hi
  | wqTake f => exact execWqTake_quiet ..
  | wqAdd f => exact execWqAdd_quiet ..
  | queueRefill launch core => exact execQueueRefill_quiet ..
  | tokenPass launch => exact execTokenPass_quiet ..
  | lnest n => exact execLnest_quiet ..
  | lnestCompletion op => cases hi
  | mma f => exact execMma_quiet ..
  | quant f => exact execQuant_quiet ..
  | had f => exact execHad_quiet ..
  | accZero f => exact execAccZero_quiet ..
  | accDrain f => exact execAccDrain_quiet ..
  | accSave f => exact execAccSave_quiet ..
  | accLoad f => exact execAccLoad_quiet ..
  | matrixQueueEntryStart core => cases hi
  | bandCommit core => cases hi
  | chainOpen f => exact execChainOpen_quiet ..
  | chainJoin f => exact execChainJoin_quiet ..
  | joinRequestArrival join => exact execJoinRequestArrival_quiet ..
  | chainSend f => exact execChainSend_quiet ..
  | contributionLanding contribution => exact execContributionLanding_quiet ..
  | chainWait f => exact execChainWait_quiet ..
  | integrationEntry core slot => exact execIntegrationEntry_quiet ..
  | chainStatus f => exact execChainStatus_quiet ..
  | chainAbort f => exact execChainAbort_quiet ..
  | chainSuspension name notice => exact execChainSuspension_quiet ..
  | batOpen f => exact execBatOpen_quiet ..
  | batPush f => exact execBatPush_quiet ..
  | batClose f => exact execBatClose_quiet ..
  | batDone f => exact execBatDone_quiet ..
  | batStat f => exact execBatStat_quiet ..
  | batchFormation core => exact execBatchFormation_quiet ..
  | batchAdmission core batch => exact execBatchAdmission_quiet ..
  | bodyClaimRelease core batch lane => exact execBodyClaimRelease_quiet ..
  | primEmit f => exact execPrimEmit_quiet ..
  | primitiveBinning prim => exact execPrimitiveBinning_quiet ..
  | passResolution launch pass => exact execPassResolution_quiet ..
  | trace f => exact execTrace_quiet ..
  | traversalCompletion op lane => exact execTraversalCompletion_quiet ..
  | retv f => exact execRetv_quiet ..
  | tex f => exact execTex_quiet ..
  | texl f => exact execTexl_quiet ..
  | texf f => exact execTexf_quiet ..
  | trapi f => exact execTrapi_quiet ..
  | tret f => exact execTret_quiet ..
  | preemptDone f => exact execPreemptDone_quiet ..
  | sliceYield f => exact execSliceYield_quiet ..
  | launch f => exact execLaunch_quiet ..
  | hintSucc f => exact execHintSucc_quiet ..
  | waitp f => exact execWaitp_quiet ..
  | budgetRead f => exact runFixed_quiet ..
  | partitionIssue core part => exact execPartitionIssue_quiet ..
  | laneCompletion op lane => exact execLaneCompletion_quiet ..
  | asyncTrapDelivery group => exact execAsyncTrapDelivery_quiet ..
  | sliceBudgetExpiry block => exact execSliceBudgetExpiry_quiet ..
  | blockAdmission block core => cases hi
  | elementAdmission elem => exact execElementAdmission_quiet ..
  | elementFinish elem => exact execElementFinish_quiet ..
  | claimEndingArrival ending => exact execClaimEndingArrival_quiet ..
  | powerWindow w => exact execPowerWindow_quiet ..
  | translationFaultOffer fault => exact execTranslationFaultOffer_quiet ..
  | blockSave block => exact execBlockSave_quiet ..
  | hardStop block => exact execHardStop_quiet ..
  | blockRestore block core => cases hi
  | icacheFillAuth code line => exact execIcacheFillAuth_quiet ..
  | peerAccessArrival a => cases hi
  | hostMemAccess a => cases hi
  | linkDown peer link => exact execLinkDown_quiet ..
  | thermalEmergency die celsius => exact execThermalEmergency_quiet ..
  | thermalShutdown => exact execThermalShutdown_quiet ..
  | deviceReset => cases hi
  | doorbellWrite queue bell => exact execDoorbellWrite_quiet ..
  | groupSet queue => exact execGroupSet_quiet ..
  | tenantCreate queue => exact execTenantCreate_quiet ..
  | tenantDestroy queue => exact execTenantDestroy_quiet ..
  | budgetSet queue => exact execBudgetSet_quiet ..
  | timeSet queue => exact execTimeSet_quiet ..
  | fwUpdate queue => exact execFwUpdate_quiet ..
  | windowMap queue => cases hi
  | windowUnmap queue => exact execWindowUnmap_quiet ..
  | pageMap queue => exact execPageMap_quiet ..
  | faultDone queue => exact execFaultDone_quiet ..
  | codeLoad queue => cases hi
  | codeUnload queue => exact execCodeUnload_quiet ..
  | launchCommand queue => exact execLaunchCommand_quiet ..
  | preemptCommand queue => exact execPreemptCommand_quiet ..
  | resume queue => exact execResume_quiet ..
  | query queue => exact execQuery_quiet ..
  | attest queue => cases hi
  | itemArrival item => exact execItemArrival_quiet ..
  | peerWindowConfirmation tenant window exported => exact execPeerWindowConfirmation_quiet ..
  | fabricLineInvalidation line sharer => exact execFabricLineInvalidation_quiet ..
  | uncorrectableErrorRecovery blocks => exact execUncorrectableErrorRecovery_quiet ..

end Sys2Proof.Machine
end

section
namespace Sys2Proof.Machine

/-! ### Memory that changes only at some bytes -/

/-- A memory that keeps the canonical form of a state's, and its bytes but for those of a set. -/
structure StoresIn (R : Nat → Prop) (s : State) (m : SMap 8) : Prop where
  wf : Memory.wf s.mem = true → Memory.wf m = true
  frame : ∀ a, ¬ R a → m.get a = s.mem.get a

section
variable {R R' : Nat → Prop} {s t : State} {m : SMap 8}

theorem StoresIn.refl (R : Nat → Prop) (s : State) : StoresIn R s s.mem := ⟨id, fun _ _ => rfl⟩

theorem StoresIn.of_eq (h : m = s.mem) : StoresIn R s m := h ▸ .refl R s

theorem StoresIn.mono (h : StoresIn R s m) (hr : ∀ a, R a → R' a) : StoresIn R' s m := ⟨h.wf, fun a ha => h.frame a fun hra => ha (hr a hra)⟩

theorem StoresIn.storeCells (h : StoresIn R s t.mem) {cs : List Host.Cell} (hc : ∀ c ∈ cs, R c.1) : StoresIn R s (t.storeCells cs).mem :=
  ⟨fun hw => Memory.wf_storeCells t cs (h.wf hw), fun a ha =>
    (State.byte_storeCells t cs fun c hcs hca => ha (by simpa [hca] using hc c hcs)).trans (h.frame a ha)⟩

theorem StoresIn.store (h : StoresIn R s t.mem) {as : List Nat} (x : Nat) (ha : ∀ a ∈ as, R a) : StoresIn R s (t.store as x).mem :=
  h.storeCells fun _ hc => ha _ (List.of_mem_zip hc).1

theorem StoresIn.writeOutside (h : StoresIn R s t.mem) {as : List Nat} (data : List Byte) (ha : ∀ a ∈ as, R a) : StoresIn R s (t.writeOutside as data).mem :=
  ⟨fun hw => State.wf_writeOutside as data (h.wf hw), fun a hra => (State.byte_writeOutside t as data fun hm => hra (ha a hm)).trans (h.frame a hra)⟩

theorem StoresIn.keep (h : StoresIn R s m) {p : Nat → Bool} (hp : ∀ a, p a = false → R a) : StoresIn R s (m.keep p) :=
  ⟨fun hw => Memory.wf_keep m p (h.wf hw), fun a ha => by
    rw [SMap.get_keep, if_pos (by simpa using mt (hp a) ha), h.frame a ha]⟩

/-- Operations one after the other, each of which stores only there. -/
theorem StoresIn.foldl {α : Type} {f : State → α → State} {l : List α} (h : StoresIn R s t.mem)
    (hf : ∀ u, ∀ x ∈ l, StoresIn R s u.mem → StoresIn R s (f u x).mem) : StoresIn R s (l.foldl f t).mem :=
  List.foldlRecOn l f (motive := fun u : State => StoresIn R s u.mem) h fun u hu x hx => hf u x hx hu

/-- An outcome that stores only there. -/
abbrev Stores (R : Nat → Prop) (s : State) : Out → Prop := Goes (fun t => StoresIn R s t.mem)

theorem Goes.stores {o : Out} (h : Quiet s o) : Stores R s o := h.mono fun _ ht => .of_eq ht
end

/-! ### The lanes of an access -/

theorem Env.lane_of_mem {e : Env} {c : Nat × Lane} (h : c ∈ e.lanes) : e.g.lane? c.1 = some c.2 := by
  obtain ⟨l, -, hl⟩ := List.mem_filterMap.mp h
  obtain ⟨ln, hln, rfl⟩ := Option.map_eq_some_iff.mp hl
  exact hln

/-- A lane stands once among the lanes of X. -/
theorem Env.mem_lanes_inj {e : Env} {l : Nat} {a b : Lane} (ha : (l, a) ∈ e.lanes) (hb : (l, b) ∈ e.lanes) : a = b :=
  Option.some.inj ((Env.lane_of_mem ha).symm.trans (Env.lane_of_mem hb))

/-- Of checks made per lane, the one found for a lane is that lane's. -/
theorem chkOf_map {e : Env} {k : Nat × Lane → Nat} {chk : Nat × Lane → Chk} {c : Nat × Lane} (hc : c ∈ e.lanes) :
    chkOf (e.lanes.map (fun c => (c.1, k c, chk c))) c.1 = chk c := by
  obtain ⟨l, ln⟩ := c
  unfold chkOf
  cases hf : (e.lanes.map (fun c => (c.1, k c, chk c))).find? (fun x => x.1 = l) with
  | none => exact absurd (List.find?_eq_none.mp hf _ (List.mem_map_of_mem hc)) (by simp)
  | some x =>
    obtain ⟨d, hd, rfl⟩ := List.mem_map.mp (List.mem_of_find?_eq_some hf)
    have hdl : d.1 = l := by simpa using List.find?_some hf
    obtain ⟨dl, dn⟩ := d
    obtain rfl : dl = l := hdl
    obtain rfl := Env.mem_lanes_inj hd hc
    rfl

/-- The bytes of a lane's access that passes are reached. -/
theorem reached_of_laneChecks {s : State} {e : Env} {f : Form} {w kind : Nat} {z : Bool} {x : Nat × Nat × Chk} {as : List Nat}
    (hx : x ∈ laneChecks s e f w kind z) (ha : x.2.2 = .ok as) {a : Nat} (h : a ∈ as) : reached e (laneChecks s e f w kind z) a := by
  obtain ⟨c, hc, rfl⟩ := List.mem_map.mp hx
  exact ⟨c, hc, as, (chkOf_map hc).trans ha, h⟩

/-- A storing instruction that is performed in part (R278) stores where its lanes do. -/
theorem State.someOfAll_memAll {P : SMap 8 → Prop} {s : State} {e : Env} {f : Form} {cs : List (Nat × Nat × Chk)}
    {act : State → Nat → Lane → Chk → State × List (RegRef × Word)} (hs : P s.mem)
    (h : ∀ t ln, ∀ c ∈ cs, P t.mem → P (act t c.1 ln c.2.2).1.mem) : (s.someOfAll e f cs act).memAll P := by
  simp only [State.someOfAll]
  split
  · trivial
  generalize hr : List.foldl _ (s, []) (cs.filter (fun c => c.2.2.good)) = run
  have hrun : P run.1.mem := by
    rw [← hr]
    refine List.foldlRecOn (motive := fun acc : State × List (Nat × List (RegRef × Word)) => P acc.1.mem) _ _ hs fun acc hacc c hc => ?_
    split
    · exact hacc
    · exact h _ _ c (List.mem_of_mem_filter hc) hacc
  have hdone : ∀ b : Prop, ∀ _ : Decidable b, ∀ u : State, P u.mem → P (if b then s else u).mem := fun b _ u hu => by split <;> assumption
  split <;> simp only [Res.memAll_ok, Res.memAll_stall, Res.memAll_stop, Res.memAll_part, Res.memAll_partHold, State.pageFault_mem] <;>
    exact hdone _ _ _ (by simpa using hrun)

/-! ### ST, ATOM, RED, SEAM.STORE, the tidemark instructions and COPY -/

theorem execSt_stores (f : Form) (s : State) : Stores (Instr.reach (.st f) s) s (execSt f s) :=
  runWith_goes (.refl _ s) fun e he => State.someOfAll_memAll (.refl _ s) fun t ln c hc ht => by
    split
    next as has => exact ht.store _ fun a ha => ⟨e, he, reached_of_laneChecks hc has ha⟩
    · exact ht

theorem execAtom_stores (f : Form) (s : State) : Stores (Instr.reach (.atom f) s) s (execAtom f s) :=
  runWith_goes (.refl _ s) fun e he => State.someOfAll_memAll (.refl _ s) fun t ln c hc ht => by
    split
    next as has => exact ht.store _ fun a ha => ⟨e, he, reached_of_laneChecks hc has ha⟩
    · exact ht

theorem execRed_stores (f : Form) (s : State) : Stores (Instr.reach (.red f) s) s (execRed f s) :=
  runWith_goes (.refl _ s) fun e he => State.someOfAll_memAll (.refl _ s) fun t ln c hc ht => by
    split
    next as has => exact ht.store _ fun a ha => ⟨e, he, reached_of_laneChecks hc has ha⟩
    · exact ht

theorem execSeamStore_stores (f : Form) (s : State) : Stores (Instr.reach (.seamStore f) s) s (execSeamStore f s) :=
  seamOp_goes (.refl _ s) fun e he => State.allOrNothing_memAll (.refl _ s) (by
    simp only [Res.memAll_ok, State.addOp_mem]
    split
    next as has => exact (StoresIn.refl _ s).store _ fun a ha => ⟨e, as, he, has, ha⟩
    · exact .refl _ s)

theorem mem_span {a b n : Nat} : a ∈ span b n ↔ b ≤ a ∧ a < b + n := by
  simp only [span, List.mem_map, List.mem_range]
  exact ⟨fun ⟨i, hi, h⟩ => by omega, fun h => ⟨a - b, by omega, by omega⟩⟩

theorem StoresIn.setTidemark {R : Nat → Prop} {s t : State} (h : StoresIn R s t.mem) {m : Nat} (x : Tidemark) (hm : ∀ a, inMark m a → R a) :
    StoresIn R s (t.setTidemark m x).mem :=
  h.store _ fun a ha => hm a (mem_span.mp ha)

theorem StoresIn.arrive {R : Nat → Prop} {s t : State} (h : StoresIn R s t.mem) {m : Nat} (x : Nat) (hm : ∀ a, inMark m a → R a) :
    StoresIn R s (t.arrive m x).mem :=
  h.setTidemark _ hm

/-- A tidemark instruction stores where its act does, at the tidemark that it names. -/
theorem tidemarkOp_stores {op : Op} {f : Form} {s : State} {act : Env → Nat → Nat → State} {R : Nat → Prop}
    (h : ∀ e m x, s.env f.guard = some e → s.tidemarkAt e f.c.uimm (op ≠ .tmWait) = .ok m → StoresIn R s (act e m x).mem) :
    Stores R s (tidemarkOp op f s act) :=
  runWith_goes (.refl _ s) fun e he => by
    split
    · trivial
    next m hm => exact h e m _ he hm

theorem execTmInit_stores (f : Form) (s : State) : Stores (Instr.reach (.tmInit f) s) s (execTmInit f s) :=
  tidemarkOp_stores fun e m _ he hm => (StoresIn.refl _ s).setTidemark _ fun _ ha => ⟨e, m, he, hm, ha⟩

theorem execTmExpect_stores (f : Form) (s : State) : Stores (Instr.reach (.tmExpect f) s) s (execTmExpect f s) :=
  tidemarkOp_stores fun e m _ he hm => (StoresIn.refl _ s).setTidemark _ fun _ ha => ⟨e, m, he, hm, ha⟩

theorem execTmArrive_stores (f : Form) (s : State) : Stores (Instr.reach (.tmArrive f) s) s (execTmArrive f s) :=
  tidemarkOp_stores fun e m x he hm => by
    simpa using (StoresIn.refl _ s).arrive x fun a (ha : inMark m a) => ⟨e, m, he, hm, ha⟩

theorem execTmArrivew_stores (f : Form) (s : State) : Stores (Instr.reach (.tmArrivew f) s) s (execTmArrivew f s) :=
  tidemarkOp_stores fun e m x he hm => by
    simpa using (StoresIn.refl _ s).arrive x fun a (ha : inMark m a) => ⟨e, m, he, hm, ha⟩

theorem execCopy_stores (f : Form) (s : State) : Stores (Instr.reach (.copy f) s) s (execCopy f s) :=
  runWith_goes (.refl _ s) fun e he => by
    simp only
    refine State.allOrNothing_memAll (.refl _ s) ?_
    split
    · trivial
    · refine ⟨fun hw => State.issueCopies_wf _ _ _ _ _ hw, fun a ha => State.issueCopies_byte _ _ _ _ _ fun c hc hac => ha ?_⟩
      obtain ⟨x, hx, hxc⟩ := List.mem_filterMap.mp hc
      obtain ⟨y, hy, rfl⟩ := List.mem_map.mp hx
      unfold laneCopy at hxc
      split at hxc
      next as has =>
        obtain rfl := Option.some.inj hxc
        exact ⟨e, he, y, hy, as, hac, has⟩
      · cases hxc

end Sys2Proof.Machine
end

section
namespace Sys2Proof.Machine

/-! ### Where an engine's accesses go -/

/-- A state that differs in memory, its errors and the accumulators only: an engine finds every element in the same place. -/
def Alike (s t : State) : Prop := t = { s with mem := t.mem, bad := t.bad, acc := t.acc }

theorem Alike.refl (s : State) : Alike s s := rfl

theorem Alike.storeCells {s t : State} (h : Alike s t) (cs : List Host.Cell) : Alike s (t.storeCells cs) := by
  rw [Alike] at h ⊢
  rw [h]
  rfl

theorem Alike.store {s t : State} (h : Alike s t) (as : List Nat) (x : Nat) : Alike s (t.store as x) := h.storeCells _

theorem Alike.clearBad {s t : State} (h : Alike s t) (ks : List Nat) : Alike s (t.clearBad ks) := by
  rw [Alike] at h ⊢
  rw [h]
  rfl

theorem elementBytes_alike {s t : State} (h : Alike s t) (tenant core : Nat) (base : Option Nat) (m : BitVec 512) (cs : List Nat) (w : Nat) :
    elementBytes t tenant core base m cs w = elementBytes s tenant core base m cs w := by
  rw [Alike] at h
  rw [h]
  rfl

theorem State.engGlobal_ok {s : State} {op tenant : Nat} {m : BitVec 512} {va w : Nat} {write atom : Bool} {as : List Nat}
    (h : s.engGlobal op tenant m va w write atom = .ok as) : ∃ place p, s.translate tenant va = .at_ place p ∧ as = span place w := by
  simp only [State.engGlobal] at h
  split at h
  · cases h
  split at h
  · (repeat' split at h) <;> cases h
  next place p hp =>
    (repeat' split at h) <;> cases h
    exact ⟨place, p, hp, rfl⟩

/-- An engine's access that passes is at the element's bytes. -/
theorem State.engAt_ok {s : State} {op owner tenant core : Nat} {base : Option Nat} {m : BitVec 512} {cs : List Nat} {w : Nat} {write atom : Bool}
    {as : List Nat} (h : s.engAt op owner tenant core base m cs w write atom = .ok as) : as = elementBytes s tenant core base m cs w := by
  simp only [State.engAt] at h
  unfold elementBytes
  split at h
  next hm =>
    rw [if_pos hm]
    split at h
    · cases h
    · (repeat' split at h) <;> cases h
      rfl
  next hm =>
    rw [if_neg hm]
    obtain ⟨place, p, hp, rfl⟩ := State.engGlobal_ok h
    rw [hp]

/-- Where an access of an element passes, so does one of none of its bytes, and it did at first. -/
theorem State.engAt_zero {s t : State} (hst : Alike s t) {op owner tenant core : Nat} {base : Option Nat} {m : BitVec 512} {cs : List Nat} {w : Nat}
    {as : List Nat} (h : t.engAt op owner tenant core base m cs w true false = .ok as) :
    s.engAt op owner tenant core base m cs 0 true false = .ok [] := by
  have htr : ∀ va, t.translate tenant va = s.translate tenant va := fun va => by rw [Alike] at hst; rw [hst]; rfl
  have hps : ∀ place a b, t.peerSays place a b = s.peerSays place a b := fun place a b => by rw [Alike] at hst; rw [hst]; rfl
  have hpc : ∀ d, t.peerCut d = s.peerCut d := fun d => by rw [Alike] at hst; rw [hst]; rfl
  simp only [State.engAt] at h ⊢
  split at h
  next hm =>
    rw [if_pos hm]
    split at h
    · cases h
    · simp [State.damaged]
  next hm =>
    rw [if_neg hm]
    simp only [State.engGlobal, htr, hps, hpc] at h ⊢
    split at h
    · cases h
    next hcut =>
      rw [if_neg hcut]
      split at h
      · (repeat' split at h) <;> cases h
      next place p hp =>
        simp only [State.damaged, State.copiedAway, span, linesOf, List.range_zero, List.map_nil, List.any_nil]
        (repeat' split at h) <;> simp_all [dedup]

/-- The bytes that a write of an element is expected at are those at which it passes. -/
theorem State.engBytes_of_ok {s t : State} (hst : Alike s t) {op owner tenant core : Nat} {base : Option Nat} {m : BitVec 512} {cs : List Nat} {w : Nat}
    {as : List Nat} (h : t.engAt op owner tenant core base m cs w true false = .ok as) : s.engBytes op owner tenant core base m cs w = as := by
  rw [State.engAt_ok h, elementBytes_alike hst]
  simp only [State.engBytes, State.engAt_zero hst h]
  rfl

end Sys2Proof.Machine
end

section
namespace Sys2Proof.Machine

variable {R : Nat → Prop} {s t u : State}

/-- A state in which an engine finds every element in the same place, after stores to some bytes only. -/
structure Ran (R : Nat → Prop) (s t : State) : Prop where
  alike : Alike s t
  mem : StoresIn R s t.mem

theorem Ran.refl (R : Nat → Prop) (s : State) : Ran R s s := ⟨.refl s, .refl R s⟩

theorem Ran.store (h : Ran R s t) {as : List Nat} (x : Nat) (ha : ∀ a ∈ as, R a) : Ran R s (t.store as x) := ⟨h.alike.store as x, h.mem.store x ha⟩

theorem Ran.clearBad (h : Ran R s t) (ks : List Nat) : Ran R s (t.clearBad ks) := ⟨h.alike.clearBad ks, h.mem⟩

theorem Ran.mono {R' : Nat → Prop} (h : Ran R s t) (hr : ∀ a, R a → R' a) : Ran R' s t := ⟨h.alike, h.mem.mono hr⟩

/-- An element that an access of the run passes at lies where it lay at first. -/
theorem Ran.engAt_ok (h : Ran R s t) {op owner tenant core : Nat} {base : Option Nat} {m : BitVec 512} {cs : List Nat} {w : Nat} {write atom : Bool}
    {as : List Nat} (ha : t.engAt op owner tenant core base m cs w write atom = .ok as) : as = elementBytes s tenant core base m cs w :=
  (State.engAt_ok ha).trans (elementBytes_alike h.alike ..)

theorem Alike.block? (h : Alike s t) (k : Nat) : t.block? k = s.block? k := by rw [Alike] at h; rw [h]; rfl

theorem Alike.allocOn (h : Alike s t) (b : Block) (core : Nat) : t.allocOn b core = s.allocOn b core := by rw [Alike] at h; rw [h]; rfl

theorem Alike.bind_allocOn (h : Alike s t) (k core : Nat) :
    (t.block? k).bind (fun b => t.allocOn b core) = (s.block? k).bind (fun b => s.allocOn b core) := by
  rw [Alike] at h; rw [h]; rfl

/-! ### LNEST (R298 to R300) -/

/-- The bytes of an element that a nest writes. -/
def nestOut (s : State) (o : NestOp) (is : List Nat) : List Nat :=
  elementBytes s 0 o.core ((s.block? o.block).bind (fun b => s.allocOn b o.core)) o.lay0 [(nestPos o.form.x0 o.base0 is).toNat] (layElem o.lay0)

theorem State.nestWrite_ran (h : Ran R s t) {o : NestOp} {is : List Nat} (x : Nat) (hr : ∀ a ∈ nestOut s o is, R a) :
    Ran R s (t.nestWrite o (nestPos o.form.x0 o.base0 is) x).1 := by
  unfold State.nestWrite
  split
  next as has =>
    refine h.store _ fun a ha => hr a ?_
    rw [h.engAt_ok has, h.alike.bind_allocOn] at ha
    exact ha
  · exact h
  · exact h

theorem State.nestStep_ran (h : Ran R s t) {o : NestOp} {is : List Nat} (hr : ∀ a ∈ nestOut s o is, R a) : Ran R s (t.nestStep o is).1 := by
  simp only [State.nestStep]
  split
  · exact h
  split
  · exact h
  · exact State.nestWrite_ran h _ hr

theorem State.nestFold_ran (h : Ran R s t) {o : NestOp} {is : List Nat} (inner : List (List Nat)) (hr : ∀ a ∈ nestOut s o is, R a) :
    Ran R s (t.nestFold o is inner).1 := by
  simp only [State.nestFold]
  split
  · exact h
  · exact h
  · exact State.nestWrite_ran h _ hr

theorem State.nestSteps_ran (h : Ran R s t) {o : NestOp} {outs : List (List Nat)} (hr : ∀ is ∈ outs, ∀ a ∈ nestOut s o is, R a) :
    Ran R s (t.nestSteps o outs).1.1 := by
  induction outs generalizing t with
  | nil => exact h
  | cons is rest ih =>
    have hstep : Ran R s (if o.form.red = 0 then t.nestStep o is else t.nestFold o is (nestInner o.form)).1 := by
      split
      · exact State.nestStep_ran h (hr is (by simp))
      · exact State.nestFold_ran h _ (hr is (by simp))
    simp only [State.nestSteps]
    split
    next u hu =>
      rw [hu] at hstep
      exact ih hstep fun is his => hr is (by simp [his])
    · exact hstep

theorem State.nestRun_stores {o : NestOp} (hr : ∀ is ∈ nestOuts o.form, ∀ a ∈ nestOut s o is, R a) : StoresIn R s (s.nestRun o).1.mem := by
  have h := (State.nestSteps_ran ((Ran.refl R s).clearBad (s.nestClears o (nestOuts o.form))) hr).mem
  simp only [State.nestRun]
  split <;> simp_all

theorem execLnestCompletion_stores (op : Nat) (s : State) : Stores (Instr.reach (.lnestCompletion op) s) s (execLnestCompletion op s) := by
  simp only [execLnestCompletion]
  split
  · exact .refl _ s
  next o ho =>
    have h : StoresIn (Instr.reach (.lnestCompletion op) s) s (s.nestRun o).1.mem := State.nestRun_stores fun is his a ha => ⟨o, ho, is, his, ha⟩
    simp only [goes_next, State.engineDone_mem, State.handBack_mem]
    split
    · exact h
    · rw [State.engineFault_mem]
      exact h

/-! ### TCOPY and TCOPY.MC (R294, R296) -/

/-- A property of the state in which a tile operation ends. -/
def TileEnd.all (p : State → Prop) : TileEnd → Prop
  | .done s | .failed s _ _ _ _ => p s
  | .wait _ _ _ _ | .stop _ => True

theorem State.tileWrite_ran {o : TileOp} {tenant : Nat} {cs : List Nat} (x : Nat) {ts : List (Nat × Option Nat)} (h : Ran R s t)
    (hr : ∀ c ∈ ts, ∀ a ∈ s.engBytes o.id ownCopy tenant c.1 c.2 o.dst cs (layElem o.dst), R a) : (t.tileWrite o tenant cs x ts).all (Ran R s) := by
  induction ts generalizing t with
  | nil => exact h
  | cons c ts ih =>
    obtain ⟨core, base⟩ := c
    simp only [State.tileWrite]
    split
    next as has =>
      refine ih (h.store _ fun a ha => hr (core, base) (by simp) a ?_) fun c hc => hr c (by simp [hc])
      rw [State.engBytes_of_ok h.alike has]
      exact ha
    · exact h
    · trivial
    · trivial

theorem Alike.tileTargets (h : Alike s t) (o : TileOp) : t.tileTargets o = s.tileTargets o := by rw [Alike] at h; rw [h]; rfl

theorem State.tileCopy_ran {o : TileOp} {tenant : Nat} {z : Bool} {is : List (List Nat)} (h : Ran R s t)
    (hr : ∀ a ∈ s.tileBytes o tenant is, R a) : (t.tileCopy o tenant z is).all (Ran R s) := by
  induction is generalizing t with
  | nil => exact h
  | cons i is ih =>
    have hr' : ∀ c ∈ s.tileTargets o, ∀ j ∈ i :: is, ∀ a ∈ s.engBytes o.id ownCopy tenant c.1 c.2 o.dst (addCoords o.dstOrg j) (layElem o.dst), R a :=
      fun c hc j hj a ha => hr a (List.mem_flatMap.mpr ⟨c, hc, List.mem_flatMap.mpr ⟨j, hj, ha⟩⟩)
    have hw := fun x => State.tileWrite_ran x (ts := t.tileTargets o) h fun c hc => hr' c (h.alike.tileTargets o ▸ hc) i (by simp)
    simp only [State.tileCopy]
    split
    next x _ =>
      have hx := hw x
      split
      next u hu =>
        rw [hu] at hx
        refine ih hx fun a ha => ?_
        obtain ⟨c, hc, ha⟩ := List.mem_flatMap.mp ha
        obtain ⟨j, hj, ha⟩ := List.mem_flatMap.mp ha
        exact hr' c hc j (by simp [hj]) a ha
      next u _ _ _ _ hu => rw [hu] at hx; exact hx
      · exact hx
    · exact h
    · trivial
    · trivial

/-! ### SCATB (R301 to R303) -/

/-- The bytes of an element of an entry that a tile operation names. -/
def tilePlace (s : State) (o : TileOp) (tenant : Nat) (m : BitVec 512) (cs : List Nat) : List Nat :=
  elementBytes s tenant (layCore m o.core) ((s.block? o.block).bind (fun b => s.allocOn b (layCore m o.core))) m cs (layElem m)

theorem Ran.scatAt_ok (h : Ran R s t) {o : TileOp} {tenant : Nat} {m : BitVec 512} {cs : List Nat} {write atom : Bool} {as : List Nat}
    (ha : t.scatAt o tenant m cs write atom = .ok as) : as = tilePlace s o tenant m cs := by
  refine (h.engAt_ok ha).trans ?_
  rw [h.alike.bind_allocOn]
  rfl

/-- The bytes that a SCATB has stored to when it has written some elements: theirs, its counters' and its status words'. -/
def scatReach (s : State) (o : TileOp) (tenant : Nat) (mc mt : BitVec 512) (ov q : Nat) (cells : List (List Nat)) (a : Nat) : Prop :=
  (∃ c ∈ cells, a ∈ tilePlace s o tenant o.dst c) ∨ (∃ x, (x = ov ∨ x < layExt o.dst 2) ∧ a ∈ tilePlace s o tenant mc [x]) ∨
    ∃ i < 4, a ∈ tilePlace s o tenant mt [q + i]

/-- The progress of a SCATB has stored only where it says that it has written. -/
def Scat.Ran (s : State) (o : TileOp) (tenant : Nat) (mc mt : BitVec 512) (ov q : Nat) (a : Scat) : Prop :=
  Machine.Ran (scatReach s o tenant mc mt ov q a.cells) s a.s

section
variable {o : TileOp} {tenant ov q : Nat} {mi mc mt : BitVec 512} {a : Scat}

@[simp] theorem Scat.note_s (a : Scat) (k : Nat) (x : EngAt) : (a.note k x).s = a.s := by
  unfold Scat.note
  (repeat' split) <;> rfl

@[simp] theorem Scat.note_cells (a : Scat) (k : Nat) (x : EngAt) : (a.note k x).cells = a.cells := by
  unfold Scat.note
  (repeat' split) <;> rfl

theorem Scat.Ran.note (h : a.Ran s o tenant mc mt ov q) (k : Nat) (x : EngAt) : (a.note k x).Ran s o tenant mc mt ov q := by
  unfold Scat.Ran
  rw [Scat.note_s, Scat.note_cells]
  exact h

theorem Scat.Ran.put (h : a.Ran s o tenant mc mt ov q) (row : Nat) (cell : List Nat) : (a.put o tenant row cell).Ran s o tenant mc mt ov q := by
  unfold Scat.put
  split
  · exact h
  split
  · split
    next bs hbs =>
      have hb := Machine.Ran.scatAt_ok h hbs
      refine Machine.Ran.store (Machine.Ran.mono h fun x hx => ?_) _ fun x hx => ?_
      · obtain ⟨c, hc, hx⟩ | hx := hx
        · exact .inl ⟨c, by simp [hc], hx⟩
        · exact .inr hx
      · exact .inl ⟨cell, by simp, hb ▸ hx⟩
    · exact h.note _ _
  · exact h.note _ _

theorem Scat.Ran.puts (h : a.Ran s o tenant mc mt ov q) (l : List (Nat × List Nat)) :
    (l.foldl (fun a x => a.put o tenant x.1 x.2) a).Ran s o tenant mc mt ov q :=
  List.foldlRecOn l _ (motive := Scat.Ran s o tenant mc mt ov q) h fun _ ha x _ => ha.put x.1 x.2

theorem Scat.Ran.bump (h : a.Ran s o tenant mc mt ov q) (k cap : Nat) {x : Nat} (hx : x = ov ∨ x < layExt o.dst 2) :
    (a.bump o tenant mc k cap x).2.Ran s o tenant mc mt ov q := by
  unfold Scat.bump
  split
  next as has =>
    simp only
    split
    · exact Machine.Ran.store h _ fun b hb => .inr (.inl ⟨x, hx, Machine.Ran.scatAt_ok h has ▸ hb⟩)
    · exact h
  · exact h.note _ _

theorem Scat.Ran.place (h : a.Ran s o tenant mc mt ov q) (sc : Bool) (row slot bin : Nat) : (a.place o tenant sc row slot bin).Ran s o tenant mc mt ov q := by
  unfold Scat.place
  split
  · exact h
  · exact h.puts _

theorem Scat.Ran.flush (h : a.Ran s o tenant mc mt ov q) : (a.flush o tenant).Ran s o tenant mc mt ov q := h.puts _

theorem Scat.Ran.rows (h : a.Ran s o tenant mc mt ov q) (sc : Bool) (ks : List Nat) (i0 n r0 : Nat) :
    (a.rows o tenant sc mi mc ks i0 n r0 ov).Ran s o tenant mc mt ov q := by
  refine List.foldlRecOn _ _ (motive := Scat.Ran s o tenant mc mt ov q) h fun a ha r _ => ?_
  split
  · exact ha
  split
  · next as _ =>
    simp only
    generalize hp : (if a.s.load as < layExt o.dst 2 then a.bump o tenant mc (ks.getD 1 0) (layExt o.dst 1) (a.s.load as) else (layExt o.dst 1, a)) = p
    have hb : p.2.Ran s o tenant mc mt ov q := by
      rw [← hp]
      split
      next hx => exact ha.bump _ _ (.inr hx)
      · exact ha
    split
    · exact hb
    split
    · exact hb.place _ _ _ _
    have hv := hb.bump (ks.getD 1 0) (layExt o.dst 1) (x := ov) (.inl rfl)
    split
    · exact hv
    split
    · exact hv.place _ _ _ _
    · exact hv
  · exact ha.note _ _

theorem Scat.Ran.status (h : a.Ran s o tenant mc mt ov q) (ks : List Nat) : (a.status o tenant mt ks q).Ran s o tenant mc mt ov q := by
  refine List.foldlRecOn _ _ (motive := Scat.Ran s o tenant mc mt ov q) h fun a ha x hx => ?_
  split
  · exact ha
  split
  next as has =>
    refine Machine.Ran.store ha _ fun b hb => .inr (.inr ⟨x.2, ?_, Machine.Ran.scatAt_ok ha has ▸ hb⟩)
    simpa using List.snd_lt_of_mem_zipIdx hx
  · exact ha.note _ _

theorem State.scatter_ran (ks : List Nat) (clears : List Nat) (i0 n r0 : Nat) :
    ((s.clearBad clears).scatter o tenant mi mc mt ks i0 n r0 ov q).Ran s o tenant mc mt ov q :=
  Scat.Ran.status (Scat.Ran.flush (Scat.Ran.rows (show Scat.Ran s o tenant mc mt ov q (Scat.start (s.clearBad clears)) from (Ran.refl _ s).clearBad _) _ ks i0 n r0)) ks
end

end Sys2Proof.Machine
end

section
namespace Sys2Proof.Machine

variable {R : Nat → Prop} {s t u : State}

/-! ### What a tile operation reports (R291) -/

theorem StoresIn.landToward (h : StoresIn R s t.mem) (group : Nat) (lanes : LaneMask) (entry n : Nat) {m : Nat} (hm : ∀ a, inMark m a → R a) :
    StoresIn R s (t.landToward group lanes entry m n).mem := by
  have hl : ∀ v : State, StoresIn R s v.mem → StoresIn R s (v.landSectors m n).mem := fun v hv => by
    unfold State.landSectors
    split
    · exact hv
    · exact hv.setTidemark _ hm
  unfold State.landToward
  exact hl _ (by split <;> simpa using h)

/-- Where the tidemark of a tile operation may stand. -/
def markAt (s : State) (o : TileOp) (a : Nat) : Prop :=
  ∃ off, o.mark = some off ∧ ∃ c b, ((c, some b) ∈ s.tileTargets o ∨ (c = o.core ∧ (s.block? o.block).bind (fun x => s.allocOn x o.core) = some b)) ∧
    inMark (scratchByte c b off) a

theorem State.handBack_block? (t : State) (gs : List Nat) (k : Nat) : (t.handBack gs).block? k = t.block? k := rfl

theorem State.handBack_allocOn (t : State) (gs : List Nat) (b : Block) (core : Nat) : (t.handBack gs).allocOn b core = t.allocOn b core := rfl

theorem StoresIn.tileReport (h : StoresIn R s t.mem) {o : TileOp} (units : Nat) (hm : ∀ a, markAt t o a → R a) : StoresIn R s (t.tileReport o units).mem := by
  have hl : ∀ (v : State) core base off, StoresIn R s v.mem → (∀ a, inMark (scratchByte core base off) a → R a) →
      StoresIn R s (if units = 0 then v else v.landToward o.group o.lanes o.dstEntry (scratchByte core base off) units).mem := fun v _ _ _ hv hr => by
    split
    · exact hv
    · exact hv.landToward _ _ _ _ hr
  have hback : StoresIn R s (t.handBack o.granules).mem := h
  have hone : ∀ off base, o.mark = some off → (t.block? o.block).bind (fun b => t.allocOn b o.core) = some base →
      StoresIn R s (if units = 0 then t.handBack o.granules
        else (t.handBack o.granules).landToward o.group o.lanes o.dstEntry (scratchByte o.core base off) units).mem := fun off base hoff hb =>
    hl _ _ _ _ hback fun a ha => hm a ⟨off, hoff, o.core, base, .inr ⟨rfl, hb⟩, ha⟩
  cases hmark : o.mark with
  | none =>
    simp only [State.tileReport, hmark]
    (repeat' split) <;> simpa using h
  | some off =>
    cases hk : o.kind <;> simp only [State.tileReport, hmark, hk]
    case multicast =>
      simp only [State.updBlock_mem, State.tagLand_mem]
      refine StoresIn.foldl hback fun v c hc hv => ?_
      split
      next base hb => exact hl v _ _ _ hv fun a ha => hm a ⟨off, hmark, c.1, base, .inl (by rw [← hb]; exact hc), ha⟩
      · exact hv
    all_goals
      split <;> simp only [State.updBlock_mem, State.tagLand_mem] <;> split
      · exact hone off _ hmark ‹_›
      · exact hback
      · exact hone off _ hmark ‹_›
      · exact hback

theorem Alike.markAt (h : Alike s t) {o : TileOp} {a : Nat} : Machine.markAt t o a ↔ Machine.markAt s o a := by
  unfold Machine.markAt
  rw [h.tileTargets, h.bind_allocOn]

/-- The tenant of the launch that a tile operation belongs to. -/
def tileTenant (s : State) (o : TileOp) : Nat := ((s.block? o.block).bind (fun b => s.launch? b.launch)).elim 0 (·.tenant)

/-- After a run of a tile operation, whatever errors it leaves, its report stores at its tidemark. -/
theorem Ran.report (h : Ran R s t) {o : TileOp} (units : Nat) (bad : List Nat) (hm : ∀ a, markAt s o a → R a) :
    StoresIn R s (({ t with bad } : State).tileReport o units).mem :=
  StoresIn.tileReport (t := { t with bad }) h.mem units fun a ha => hm a (h.alike.markAt.mp ha)

theorem Ran.failed (h : Ran R s t) {o : TileOp} (reason entry granule units : Nat) (bad : List Nat) (hm : ∀ a, markAt s o a → R a) :
    StoresIn R s ((({ t with bad } : State).engineFault o.group o.lanes 1 reason entry granule).tileReport o units).mem :=
  StoresIn.tileReport (t := ({ t with bad } : State).engineFault o.group o.lanes 1 reason entry granule) h.mem units fun a ha => hm a (h.alike.markAt.mp ha)

/-- Of a tile copy, whose destination elements lie among those bytes. -/
theorem tileCopy_stores {op : Nat} {o : TileOp} {z : Bool} {ts : List (List Nat)} {units : Nat} {kept : Nat → List Nat} {offence : Nat → Nat → Nat → Nat}
    {clear : List Nat} (hr : ∀ a ∈ s.tileBytes o (tileTenant s o) ts, R a) (hm : ∀ a, markAt s o a → R a) :
    Stores R s (match (s.clearBad clear).tileCopy o (tileTenant s o) z ts with
      | .done s => .next (s.tileReport o units)
      | .failed t left reason k g =>
        .next ((({ t with bad := kept left } : State).engineFault o.group o.lanes 1 reason k (offence reason k g)).tileReport o units)
      | .wait va l r k => .next (s.engWait op (tileTenant s o) va l r k)
      | .stop a => .fault (.noSuchMemory a)) := by
  have h := State.tileCopy_ran (z := z) ((Ran.refl R s).clearBad clear) hr
  cases he : (s.clearBad clear).tileCopy o (tileTenant s o) z ts with
  | done t => rw [he] at h; exact Ran.report h units t.bad hm
  | failed t left reason k g => rw [he] at h; exact Ran.failed h reason k _ units _ hm
  | wait va l r k => exact .of_eq (by simp)
  | stop a => trivial

theorem execTileOperationCompletion_stores (op : Nat) (s : State) :
    Stores (Instr.reach (.tileOperationCompletion op) s) s (execTileOperationCompletion op s) := by
  cases ho : findId TileOp.id op s.tileOps with
  | none =>
    simp only [execTileOperationCompletion, ho]
    exact .refl _ s
  | some o =>
    have hmark : ∀ a, markAt s o a → Instr.reach (.tileOperationCompletion op) s a := fun a ha => ⟨o, ho, .inr ha⟩
    have hsame : ∀ R' : Nat → Prop, (∀ a, R' a → o.reach s a) → ∀ a, R' a → Instr.reach (.tileOperationCompletion op) s a :=
      fun R' h a ha => ⟨o, ho, h a ha⟩
    cases hk : o.kind with
    | scatter mi mc mt ks i0 n r0 ov q =>
      have h := State.scatter_ran (s := s) (o := o) (tenant := tileTenant s o) (mi := mi) (mc := mc) (mt := mt) (ov := ov) (q := q) ks
        (s.scatClears o (tileTenant s o) mi mc mt i0 n r0 ov q (s.scatCells o (tileTenant s o) mi mc i0 n ov)) i0 n r0
      have hran := Ran.mono h (R' := Instr.reach (.tileOperationCompletion op) s) (hsame _ fun a ha => by
        refine .inl ?_
        rw [hk]
        exact ha)
      simp only [execTileOperationCompletion, ho, hk]
      split
      · trivial
      · exact .of_eq (by simp)
      · exact hran.failed _ _ _ _ _ hmark
      · exact hran.report _ _ hmark
    | copy z =>
      simp only [execTileOperationCompletion, ho, hk]
      exact tileCopy_stores (fun a ha => ⟨o, ho, .inl (by rw [hk]; exact ha)⟩) hmark
    | multicast z mask target =>
      simp only [execTileOperationCompletion, ho, hk]
      exact tileCopy_stores (fun a ha => ⟨o, ho, .inl (by rw [hk]; exact ha)⟩) hmark

end Sys2Proof.Machine
end

section
namespace Sys2Proof.Machine

variable {R : Nat → Prop} {s t u : State}

/-! ### The matrix engine (R313 to R330) -/

/-- The bytes of an element at which an entry of the matrix queue finds it. -/
def matPlace (s : State) (m : MatEntry) (lay : BitVec 512) (cs : List Nat) (w : Nat) : List Nat :=
  elementBytes s (s.entryTenant m) (s.entryBase m lay).1 (s.entryBase m lay).2 lay cs w

theorem Ran.matAt_ok (h : Ran R s t) {m : MatEntry} {lay : BitVec 512} {k : Nat} {cs : List Nat} {w : Nat} {write atom : Bool} {as : List Nat}
    (ha : t.matAt m lay k cs w write atom = .ok as) : as = matPlace s m lay cs w := by
  have ht : t.entryTenant m = s.entryTenant m := by have h' := h.alike; rw [Alike] at h'; rw [h']; rfl
  have hb : t.entryBase m lay = s.entryBase m lay := by have h' := h.alike; rw [Alike] at h'; rw [h']; rfl
  simp only [State.matAt, ht, hb] at ha
  cases he : t.engAt m.id ownMatrix (s.entryTenant m) (s.entryBase m lay).1 (s.entryBase m lay).2 lay cs w write atom with
  | ok bs =>
    rw [he] at ha
    obtain rfl := Except.ok.inj ha
    exact h.engAt_ok he
  | _ => rw [he] at ha; cases ha

theorem eachOf_mem {α β : Type} {f : α → Except EngBad β} {xs : List α} {ys : List β} (h : eachOf f xs = .ok ys) {y : β} (hy : y ∈ ys) :
    ∃ x ∈ xs, f x = .ok y := by
  induction xs generalizing ys with
  | nil => cases h; cases hy
  | cons x xs ih =>
    simp only [eachOf] at h
    split at h
    · cases h
    next z hz =>
      split at h
      · cases h
      next zs hzs =>
        obtain rfl := Except.ok.inj h
        obtain rfl | hy := List.mem_cons.mp hy
        · exact ⟨x, by simp, hz⟩
        · obtain ⟨w, hw, hf⟩ := ih hzs hy
          exact ⟨w, by simp [hw], hf⟩

/-- Steps of a run, each of which stores only there. -/
theorem stepsOf_ran {α : Type} {f : State → α → Except EngBad State} {xs : List α} (h : Ran R s t)
    (hf : ∀ u v, ∀ x ∈ xs, Ran R s u → f u x = .ok v → Ran R s v) : Ran R s (stepsOf f xs t).1 := by
  induction xs generalizing t with
  | nil => exact h
  | cons x xs ih =>
    simp only [stepsOf]
    split
    next v hv => exact ih (hf t v x (by simp) h hv) fun u v y hy => hf u v y (by simp [hy])
    · exact h

theorem mem_insertBy {α : Type} {lt : α → α → Bool} {x y : α} {l : List α} (h : y ∈ insertBy lt x l) : y = x ∨ y ∈ l := by
  induction l with
  | nil => simpa [insertBy] using h
  | cons z l ih =>
    simp only [insertBy] at h
    split at h
    · simpa using h
    · obtain rfl | h := List.mem_cons.mp h
      · simp
      · obtain h | h := ih h <;> simp [h]

theorem mem_of_mem_sortBy {α : Type} {lt : α → α → Bool} {y : α} {l : List α} (h : y ∈ sortBy lt l) : y ∈ l := by
  have hs : ∀ (l acc : List α), y ∈ l.foldl (fun acc x => insertBy lt x acc) acc → y ∈ l ∨ y ∈ acc := fun l => by
    induction l with
    | nil => exact fun acc h => .inr h
    | cons x l ih =>
      intro acc h
      obtain h | h := ih _ h
      · simp [h]
      · obtain rfl | h := mem_insertBy h <;> simp [*]
  simpa using hs l [] h

theorem mem_of_mem_scOrder {α : Type} {tenant : Nat} {m : BitVec 512} {at_ : α → List Nat} {xs : List α} {x : α}
    (h : x ∈ s.scOrder tenant m at_ xs) : x ∈ xs := by
  unfold State.scOrder at h
  split at h
  · exact mem_of_mem_sortBy h
  · exact h

/-- The work of an entry that is no computation stores to what the entry reaches. -/
theorem State.entryWork_stores (h : Ran R s t) {m : MatEntry} (hd : t.drainElems m = s.drainElems m) (ht : t.entryTile m = s.entryTile m)
    (hr : ∀ a, m.reach s a → R a) : StoresIn R s (t.entryWork m).1.mem := by
  unfold MatEntry.reach at hr
  unfold State.entryWork
  simp only [ht, hd]
  split
  · exact h.mem
  next lay entry d0 d1 dest rnd add hk =>
    simp only [hk] at hr
    refine (stepsOf_ran h fun u v ij hij hu hv => ?_).mem
    split at hv
    · cases hv
    next as has =>
      obtain rfl := Except.ok.inj hv
      exact hu.store _ fun a ha => hr a ⟨ij, mem_of_mem_scOrder hij, by have := hu.matAt_ok has; rw [this] at ha; exact ha⟩
  next lay entry c0 hk =>
    simp only [hk] at hr
    refine (stepsOf_ran h fun u v i hi hu hv => ?_).mem
    split at hv
    · cases hv
    next as has =>
      obtain rfl := Except.ok.inj hv
      refine hu.store _ fun a ha => ?_
      obtain ⟨bs, hbs, ha⟩ := List.mem_flatten.mp ha
      obtain ⟨c, hc, hca⟩ := eachOf_mem has hbs
      obtain ⟨hc0, hc1⟩ := mem_span.mp hc
      have hi := List.mem_range.mp hi
      refine hr a ⟨c, ?_, ?_, by have := hu.matAt_ok hca; rw [this] at ha; exact ha⟩
      · rw [Nat.mul_assoc] at hc0
        omega
      · have := Nat.mul_le_mul_right ((s.entryTile m).cols * imageBytes (s.entryTile m).format) hi
        rw [Nat.succ_mul] at this
        rw [Nat.mul_assoc] at hc1
        omega
  next lay entry c0 hk =>
    refine (stepsOf_ran (R := R) h fun u v i _ hu hv => ?_).mem
    split at hv
    · cases hv
    · obtain rfl := Except.ok.inj hv
      refine ⟨?_, hu.mem⟩
      have := hu.alike
      rw [Alike] at this ⊢
      rw [this]
  · exact h.mem
  · exact h.mem

theorem State.runEntry_stores {m : MatEntry} (hr : ∀ a, m.reach s a → R a) : StoresIn R s (s.runEntry m).1.mem := by
  have h := State.entryWork_stores ((Ran.refl R s).clearBad (s.coveredBad (s.entryBytes m).flatten [])) (m := m) rfl rfl hr
  simp only [State.runEntry]
  split <;> simp_all

theorem StoresIn.setParam (h : StoresIn R s t.mem) {as : List Nat} (i x : Nat) (ha : ∀ a ∈ as, R a) : StoresIn R s (t.setParam as i x).mem :=
  h.store _ fun a hm => ha a (List.mem_of_mem_drop (List.mem_of_mem_take hm))

@[simp] theorem State.entryFault_mem (s : State) (m : MatEntry) (reason k g : Nat) : (s.entryFault m reason k g).mem = s.mem := by
  simp [State.entryFault]

theorem execMatrixQueueEntryStart_stores (core : Nat) (s : State) :
    Stores (Instr.reach (.matrixQueueEntryStart core) s) s (execMatrixQueueEntryStart core s) := by
  unfold execMatrixQueueEntryStart
  split
  · exact .refl _ s
  next m hm =>
    split
    · exact .refl _ s
    next which w as pb hk =>
      have ha : ∀ a ∈ as, Instr.reach (.matrixQueueEntryStart core) s a := fun a ha => ⟨m, hm, .inr ⟨which, w, as, pb, hk, ha⟩⟩
      simp only
      split
      · exact .of_eq (by simp)
      · refine Goes.ite ?_ ((StoresIn.refl _ s).setParam 13 _ ha)
        simpa using ((StoresIn.refl _ s).setParam 13 _ ha).setParam 13 _ ha
    · have h := State.runEntry_stores (s := s) (m := m) (R := Instr.reach (.matrixQueueEntryStart core) s) fun a ha => ⟨m, hm, .inl ha⟩
      split
      next he => rw [he] at h; simpa using h
      next he => rw [he] at h; simpa using h
      · exact .of_eq (by simp)
      · trivial

theorem State.commits_ok {m : MatEntry} {as : List Nat} {x : Except EngBad Band} {b : Band} (h : s.commits m as x = .ok b) : x = .ok b := by
  cases x with
  | error e => exact h
  | ok b' =>
    by_cases hl : s.paramLost as (13 :: 14 :: (if b'.seed.isSome then [1] else [])) = true
    · simp only [State.commits, hl, if_true, reduceCtorEq] at h
    · simpa only [State.commits, hl, Bool.false_eq_true, if_false] using h

/-- The generator's state goes into the parameter block where a band has moved it. -/
theorem StoresIn.setSeed (h : StoresIn R s t.mem) {as : List Nat} (seed : Option Word) (ha : ∀ a ∈ as, R a) :
    StoresIn R s (State.mem (match seed with
      | some x => t.setParam as 1 x.toNat
      | none => t)) := by
  cases seed with
  | none => exact h
  | some x => exact h.setParam 1 _ ha

theorem StoresIn.setFault (h : StoresIn R s t.mem) {as : List Nat} (ha : ∀ a ∈ as, R a) : StoresIn R s (t.setFault as).mem := by
  unfold State.setFault
  split
  · exact h
  · exact h.setParam _ _ ha

theorem execBandCommit_stores (core : Nat) (s : State) : Stores (Instr.reach (.bandCommit core) s) s (execBandCommit core s) := by
  unfold execBandCommit
  split
  · exact .refl _ s
  next m hm =>
    split
    next which w as pb hk =>
      have ha : ∀ a ∈ as, Instr.reach (.bandCommit core) s a := fun a ha => ⟨m, which, w, as, pb, hm, hk, .inl ha⟩
      simp only
      split
      · trivial
      · exact .of_eq (by simp)
      · simpa using (StoresIn.refl _ s).setFault ha
      next b hb =>
        have hcells : StoresIn (Instr.reach (.bandCommit core) s) s (s.storeCells b.cells).mem :=
          (StoresIn.refl _ s).storeCells fun c hc => ⟨m, which, w, as, pb, hm, hk, .inr ⟨b, State.commits_ok hb, c, hc, rfl⟩⟩
        generalize hv : ({ (s.storeCells b.cells).clearBad (s.coveredBad (b.cells.map (·.1)) []) with acc := s.acc.setAll b.acc } : State) = v
        have hseed := StoresIn.setSeed (t := v) (by rw [← hv]; exact hcells) b.seed ha
        refine Goes.ite ?_ ?_
        · rw [goes_next, State.endEntry_mem]
          exact ((hseed.setParam 14 _ ha).setParam 13 _ ha).setParam 13 _ ha
        · exact (hseed.setParam 14 _ ha).setParam 13 _ ha
    · exact .refl _ s

/-! ### WQ.ASK's answer (R306) -/

theorem State.answerAsk_stores (h : StoresIn R s t.mem) (la : Launch) {q : Ask} (n : Nat) (ha : ∀ a ∈ q.addrs, R a)
    (hm : ∀ m, q.mark = some m → ∀ a, inMark m a → R a) : StoresIn R s (t.answerAsk la q n).mem := by
  have hans : ∀ v : State, StoresIn R s v.mem → ∀ x, StoresIn R s (State.mem (match q.mark with
      | some p => v.landToward q.group q.lanes q.entry p x
      | none => v)) := fun v hv x => by
    split
    next p hp => exact hv.landToward _ _ _ _ (hm p hp)
    · exact hv
  simp only [State.answerAsk, State.tagLand_mem]
  refine hans _ ?_ 1
  rw [State.handBack_mem]
  split
  · simpa using h
  · split
    · simpa using h
    · exact StoresIn.store (t := t.updLaunch q.launch _) h _ ha

theorem execWqAskAnswer_stores (ask : Nat) (s : State) : Stores (Instr.reach (.wqAskAnswer ask) s) s (execWqAskAnswer ask s) := by
  unfold execWqAskAnswer
  split
  · exact .refl _ s
  next q hq =>
    split
    · exact .refl _ s
    · have hr : ∀ (t : State) la n, t.mem = s.mem → StoresIn (Instr.reach (.wqAskAnswer ask) s) s (t.answerAsk la q n).mem := fun t la n ht =>
        State.answerAsk_stores (.of_eq ht) la n (fun a ha => ⟨q, hq, .inl ha⟩) fun m hm a ha => ⟨q, hq, .inr ⟨m, hm, ha⟩⟩
      simp only
      split <;> simp only [goes_next] <;> split
      · exact hr _ _ _ rfl
      · exact .refl _ s
      · exact hr _ _ _ rfl
      · exact .refl _ s

/-! ### Blocks that take their space (R237, R446) -/

theorem StoresIn.takeSpace (h : StoresIn R s t.mem) (la : Launch) (b : Block) {p : Plan} (hr : ∀ a, inRuns p.cores p.base la.rcd.scratch a = true → R a) :
    StoresIn R s (t.takeSpace la b p).mem := by
  simp only [State.takeSpace, State.updLaunch_mem, State.updBlock_mem]
  rw [foldl_mem _ (fun _ _ => by simp)]
  refine StoresIn.keep (p := fun a => !inRuns p.cores p.base la.rcd.scratch a) h fun a ha => hr a ?_
  simpa using ha

theorem execBlockAdmission_stores (block core : Nat) (s : State) : Stores (Instr.reach (.blockAdmission block core) s) s (execBlockAdmission block core s) := by
  unfold execBlockAdmission
  split
  · exact .refl _ s
  next b hb =>
    split
    · exact .refl _ s
    next la hla =>
      split
      · exact .refl _ s
      split
      · exact .refl _ s
      next p hp =>
        simpa using (StoresIn.refl _ s).takeSpace la b fun a (ha : inRuns p.cores p.base la.rcd.scratch a = true) => ⟨b, la, p, hb, hla, hp, ha⟩

theorem State.restorePlan_mem {la : Launch} {b : Block} {core : Nat} {p : Plan} {places : List (Nat × Nat × Nat)}
    (h : s.restorePlan la b core = some (t, p, places)) : t.mem = s.mem := by
  simp only [State.restorePlan] at h
  split at h
  · cases h
  split at h
  · cases h
  obtain ⟨x, -, hx⟩ := Option.map_eq_some_iff.mp h
  obtain ⟨rfl, -, -⟩ := by simpa using hx
  cases s.poolCore la b <;> simp

theorem State.restoreBlock_stores (h : StoresIn R s t.mem) {la : Launch} {b : Block} {kept : Saved} {p : Plan} (places : List (Nat × Nat × Nat))
    (hr : ∀ a, inRuns p.cores p.base la.rcd.scratch a = true → R a)
    (hk : ∀ x ∈ kept.bytes, R (scratchAt 0 + ({ b with cores := p.cores, base := p.base } : Block).granuleAt (x.1 / 512) * 512 + x.1 % 512)) :
    StoresIn R s (t.restoreBlock la b kept p places).mem := by
  simp only [State.restoreBlock]
  rw [foldl_mem _ (fun _ _ => by split <;> simp)]
  simp only [State.updLaunch_mem, State.placeEngines_mem, State.writeBack]
  refine StoresIn.storeCells (t := { ((t.takeSpace la b p).updBlock b.id _) with owners := _ }) (h.takeSpace la b hr) fun c hc => ?_
  obtain ⟨x, hx, rfl⟩ := List.mem_map.mp hc
  exact hk x hx

theorem execBlockRestore_stores (block core : Nat) (s : State) : Stores (Instr.reach (.blockRestore block core) s) s (execBlockRestore block core s) := by
  unfold execBlockRestore
  split
  · exact .refl _ s
  next b hb =>
    split
    next la kept hla hkept =>
      split
      · exact .refl _ s
      split
      · exact .refl _ s
      next s' p places hp =>
        refine State.restoreBlock_stores (.of_eq (State.restorePlan_mem hp)) places (fun a ha => ?_) fun x hx => ?_
        · exact ⟨b, la, s', p, places, kept, hb, hla, hkept, hp, .inl ha⟩
        · exact ⟨b, la, s', p, places, kept, hb, hla, hkept, hp, .inr ⟨x, hx, rfl⟩⟩
    · exact .refl _ s

/-! ### Commands, accesses from outside and reset -/

theorem tenantCommand_goes {P : SMap 8 → Prop} {code queue : Nat} {act : Nat → CmdEntry → State → State} (hs : P s.mem)
    (h : ∀ c u, headOf s queue c → P (act (queueTenant queue) c (s.updQueue queue u)).mem) :
    Goes (fun t => P t.mem) (tenantCommand code queue s act) :=
  command_goes hs h

theorem StoresIn.zeroRange (h : StoresIn R s t.mem) {a n : Nat} (hr : ∀ x, a ≤ x → x < a + n → R x) : StoresIn R s (t.zeroRange a n).mem := by
  refine StoresIn.keep (p := fun x => !(decide (a ≤ x) && decide (x < a + n))) h fun x hx => ?_
  simp only [Bool.not_eq_false', Bool.and_eq_true, decide_eq_true_eq] at hx
  exact hr x hx.1 hx.2

theorem execWindowMap_stores (queue : Nat) (s : State) : Stores (Instr.reach (.windowMap queue) s) s (execWindowMap queue s) :=
  tenantCommand_goes (P := StoresIn (Instr.reach (.windowMap queue) s) s) (.refl _ s) fun c u hc => by
    simp only
    split
    · exact .of_eq (by simp)
    split
    · exact .of_eq (by simp)
    split
    · split
      · exact .of_eq (by simp)
      next a ha =>
        simp only [State.done_mem, State.tellExports_mem]
        exact StoresIn.zeroRange (t := s.updQueue queue u) (.refl _ s) fun x hx hxn => ⟨c, a, hc, ha, hx, hxn⟩
    · split <;> exact .of_eq (by simp)
    · exact .of_eq (by simp)

theorem execCodeLoad_stores (queue : Nat) (s : State) : Stores (Instr.reach (.codeLoad queue) s) s (execCodeLoad queue s) :=
  tenantCommand_goes (P := StoresIn (Instr.reach (.codeLoad queue) s) s) (.refl _ s) fun c u hc => by
    simp only
    split
    · exact .of_eq (by simp)
    next w hw =>
    split
    · exact .of_eq (by simp)
    next image himage =>
    split
    · exact .of_eq (by simp)
    next x hx =>
    split
    · exact .of_eq (by simp)
    next k v hv =>
      simp only [State.placeCode] at hv
      split at hv
      next at_ va hat hva =>
        obtain ⟨-, rfl⟩ := by simpa using hv
        have hr : ∀ b, at_ ≤ b → (b < at_ + roundUp 65536 (x.header.lines * 128) ∨ b < at_ + x.bytes.length) → Instr.reach (.codeLoad queue) s b :=
          fun b hb hb' => ⟨c, w, image, x, at_, hc, hw, himage, hx, hat, hb, hb'⟩
        simp only [State.done_mem, State.mapCode_mem]
        refine StoresIn.storeCells (t := State.zeroRange _ _ _) (StoresIn.zeroRange (.refl _ s) fun b hb hn => hr b hb (.inl hn)) fun cell hcell => ?_
        obtain ⟨hlo, hhi⟩ := mem_span.mp (List.of_mem_zip hcell).1
        exact hr _ hlo (.inr hhi)
      · cases hv

theorem execAttest_stores (queue : Nat) (s : State) : Stores (Instr.reach (.attest queue) s) s (execAttest queue s) := by
  unfold execAttest
  split
  · exact .refl _ s
  refine tenantCommand_goes (P := StoresIn (Instr.reach (.attest queue) s) s) (.refl _ s) fun c u hc => ?_
  simp only
  split
  · exact .of_eq (by simp)
  next ns hns =>
  split
  · exact .of_eq (by simp)
  next ps hps =>
  split
  · exact .of_eq (by simp)
  · rw [State.done_mem]
    exact StoresIn.writeOutside (t := s.updQueue queue u) (.refl _ s) _ fun a ha => ⟨c, ns, ps, hc, hns, hps, ha⟩

theorem StoresIn.perform (h : StoresIn R s t.mem) {as : List Nat} (op : OutsideOp) (ha : ∀ a ∈ as, R a) : StoresIn R s (t.perform as op).mem := by
  unfold State.perform
  split
  · exact h
  · exact h.writeOutside _ ha
  · split
    · exact h
    · exact h.store _ ha

theorem execPeerAccessArrival_stores (x : PeerAccess) (s : State) : Stores (Instr.reach (.peerAccessArrival x) s) s (execPeerAccessArrival x s) := by
  unfold execPeerAccessArrival
  split
  · exact .refl _ s
  next w hw =>
    simp only
    split
    · exact .of_eq (by simp)
    split
    · split <;> exact .of_eq (by simp)
    next xs hxs =>
      split
      · exact .of_eq (by simp)
      split
      · exact .refl _ s
      · have h : StoresIn (Instr.reach (.peerAccessArrival x) s) s ((s.post x.device.toNat (s.answerTo (xs.map (·.1)) x.op)).perform (xs.map (·.1)) x.op).mem :=
          StoresIn.perform (.of_eq (by simp)) x.op fun a ha => ⟨w, xs, hw, hxs, ha⟩
        split
        · exact h
        · show StoresIn _ s (State.mem (State.share _ _ _))
          rw [State.share_mem]
          exact h

theorem execHostMemAccess_stores (x : HostAccess) (s : State) : Stores (Instr.reach (.hostMemAccess x) s) s (execHostMemAccess x s) := by
  unfold execHostMemAccess
  split
  · exact .refl _ s
  next w hw =>
    simp only
    split
    · exact .refl _ s
    split
    · exact .refl _ s
    · exact StoresIn.perform (.of_eq (by simp)) x.op fun a ha => ⟨w, hw, mem_span.mp ha⟩

theorem execDeviceReset_stores (s : State) : Stores (Instr.reach .deviceReset s) s (execDeviceReset s) := by
  have h : StoresIn (Instr.reach .deviceReset s) s s.afterReset.mem := by
    refine StoresIn.keep (p := fun a => decide (hostAt ≤ a)) (.refl _ s) fun a ha => ?_
    show a < hostAt
    simpa using ha
  simp only [execDeviceReset]
  split <;> exact h

end Sys2Proof.Machine
end

section
namespace Sys2Proof.Machine

variable {R : Nat → Prop} {s t u : State}

/-! ### Every instruction and step -/

/-- R236, R278, R286: every instruction and step goes on, and stores only where it may. -/
theorem exec_stores (i : Instr) (s : State) : Stores (Instr.reach i s) s (exec i s) := by
  by_cases hi : Instr.stores i = false
  · exact (exec_quiet hi s).stores
  · cases i with
    | st f => exact execSt_stores f s
    | atom f => exact execAtom_stores f s
    | red f => exact execRed_stores f s
    | seamStore f => exact execSeamStore_stores f s
    | tmInit f => exact execTmInit_stores f s
    | tmExpect f => exact execTmExpect_stores f s
    | tmArrive f => exact execTmArrive_stores f s
    | tmArrivew f => exact execTmArrivew_stores f s
    | copy f => exact execCopy_stores f s
    | tileOperationCompletion op => exact execTileOperationCompletion_stores op s
    | lnestCompletion op => exact execLnestCompletion_stores op s
    | wqAskAnswer ask => exact execWqAskAnswer_stores ask s
    | matrixQueueEntryStart core => exact execMatrixQueueEntryStart_stores core s
    | bandCommit core => exact execBandCommit_stores core s
    | blockAdmission block core => exact execBlockAdmission_stores block core s
    | blockRestore block core => exact execBlockRestore_stores block core s
    | windowMap queue => exact execWindowMap_stores queue s
    | codeLoad queue => exact execCodeLoad_stores queue s
    | attest queue => exact execAttest_stores queue s
    | peerAccessArrival x => exact execPeerAccessArrival_stores x s
    | hostMemAccess x => exact execHostMemAccess_stores x s
    | deviceReset => exact execDeviceReset_stores s
    | _ => exact absurd rfl hi

/-! ### What goes out after a step (R168, R461) -/

/-- What has gone out so far: memory, its errors, the count of what has been written and the places in the rings have moved, and bytes have been stored in the
rings and the backing slots only. -/
structure GoesOut (s t : State) : Prop where
  same : t = { s with mem := t.mem, bad := t.bad, queues := t.queues, written := t.written }
  rings : ∀ k q', t.queue? k = some q' → ∃ q ∈ s.queues, q'.rings = q.rings ∧ (q.rings.doneSize ≠ 0 → q'.tail < q.rings.doneSize ∨ q'.tail = q.tail)
  mem : StoresIn (WrittenOut s) s t.mem

theorem GoesOut.refl (s : State) : GoesOut s s := ⟨rfl, fun _ q hq => ⟨q, findId_mem _ hq, rfl, fun _ => .inr rfl⟩, .refl _ s⟩

theorem State.updQueue_queue?_self (s : State) (k : Nat) (f : Queue → Queue) (hf : ∀ q, (f q).num = q.num) : (s.updQueue k f).queue? k = (s.queue? k).map f :=
  findId_updId_self _ f hf _

theorem State.updQueue_queue?_ne (s : State) {k j : Nat} (f : Queue → Queue) (hf : ∀ q, (f q).num = q.num) (hj : j ≠ k) : (s.updQueue k f).queue? j = s.queue? j :=
  findId_updId_ne _ f hf hj _

/-- The next place of a queue's ring after a completion. -/
theorem GoesOut.advance (h : GoesOut s t) {k : Nat} {q : Queue} (hq : t.queue? k = some q) :
    GoesOut s (t.updQueue k (fun q' => { q' with tail := (q'.tail + 1) % q.rings.doneSize, raised := q'.raised + 1 })) where
  same := by rw [h.same]; rfl
  rings := fun j q' hq' => by
    by_cases hj : j = k
    · subst hj
      obtain ⟨q0, hq0, hrings, -⟩ := h.rings j q hq
      rw [State.updQueue_queue?_self t j _ (by simp), hq] at hq'
      obtain rfl := Option.some.inj hq'
      refine ⟨q0, hq0, hrings, fun hn => .inl ?_⟩
      rw [← hrings] at hn ⊢
      exact Nat.mod_lt _ (Nat.pos_of_ne_zero hn)
    · rw [State.updQueue_queue?_ne t _ (by simp) hj] at hq'
      exact h.rings j q' hq'
  mem := h.mem

theorem GoesOut.writeOutside (h : GoesOut s t) {as : List Nat} (data : List Byte) (ha : ∀ a ∈ as, WrittenOut s a) : GoesOut s (t.writeOutside as data) where
  same := by
    unfold State.writeOutside
    split
    · rw [h.same]; rfl
    · exact h.same
  rings := by
    unfold State.writeOutside
    split <;> exact h.rings
  mem := h.mem.writeOutside data ha

theorem State.writeCompletion_out (h : GoesOut s t) (c : Completion) : GoesOut s (t.writeCompletion c) := by
  unfold State.writeCompletion
  split
  · exact h
  next q hq =>
    by_cases hn : q.rings.doneSize = 0
    · simp only [hn, if_true]
      simpa only [hn] using h.advance hq
    · simp only [hn, if_false]
      obtain ⟨q0, hq0, hrings, htail⟩ := h.rings _ q hq
      rw [hrings] at hn
      have hout : GoesOut s (t.writeOutside (span (hostAt + q.rings.doneBase + 32 * q.tail) 32) c.bytes) := h.writeOutside _ fun a ha => by
        rw [mem_span, hrings] at ha
        exact .inl ⟨q0, hq0, hn, q.tail, htail hn, ha⟩
      refine hout.advance ?_
      unfold State.writeOutside
      split <;> exact hq

theorem GoesOut.writeSectors (h : GoesOut s t) {cs : List Host.Cell} (hc : ∀ c ∈ cs, WrittenOut s c.1) : GoesOut s (t.writeSectors cs) where
  same := by
    simp only [State.writeSectors]
    split
    · exact h.same
    · rw [h.same]; rfl
  rings := by
    simp only [State.writeSectors]
    split <;> exact h.rings
  mem := ⟨fun hw => State.wf_writeSectors cs (h.mem.wf hw), fun a ha =>
    (State.byte_writeSectors t cs fun c hcs hca => ha (by simpa [hca] using hc c hcs)).trans (h.mem.frame a ha)⟩

theorem State.writeCompletions_out (s : State) : GoesOut s s.writeCompletions := by
  have h := List.foldlRecOn (s.completions.drop s.written) State.writeCompletion (motive := GoesOut s) (.refl s) fun t ht c _ => State.writeCompletion_out ht c
  refine ⟨?_, h.rings, h.mem⟩
  conv_lhs => rw [State.writeCompletions, h.same]
  rfl

/-- R168, R461: what goes out after a step is stored in the rings of the queues and in the memory of backing slots. -/
theorem State.writeOut_out (s : State) : GoesOut s s.writeOut := by
  have h := s.writeCompletions_out
  have hslots : s.writeCompletions.slots.map s.writeCompletions.slotCells = s.slots.map s.slotCells := by rw [h.same]; rfl
  rw [State.writeOut, State.writeSlots, hslots]
  refine List.foldlRecOn _ _ (motive := GoesOut s) h fun t ht cs hcs => ht.writeSectors fun c hc => ?_
  obtain ⟨x, hx, rfl⟩ := List.mem_map.mp hcs
  exact .inr ⟨x, hx, c, hc, rfl⟩

/-! ### The canonical form of memory -/

/-- An outcome after which memory is in canonical form. -/
abbrev Canonical : Out → Prop := Goes (fun t => Memory.wf t.mem = true)

theorem exec_canonical {s : State} (h : Memory.wf s.mem = true) (i : Instr) : Canonical (exec i s) := (exec_stores i s).mono fun _ ht => ht.wf h

theorem settled_canonical {o : Out} (h : Canonical o) : Canonical (settled o) := by
  cases o with
  | next t => exact (t.settle.writeOut_out).mem.wf (by simpa using h)
  | fault r => trivial
  | refused r => exact h

theorem firstChange_canonical {s : State} (h : Memory.wf s.mem = true) (is : List Instr) : Canonical (firstChange s is) := by
  induction is with
  | nil => exact h
  | cons i is ih =>
    have hi := exec_canonical h i
    unfold firstChange
    split
    next t ht =>
      rw [ht] at hi
      exact Goes.ite ih hi
    next hn => exact hi

/-- The clause that is moved past its next instruction, or past parcels that are none, has stored nothing. -/
theorem State.upcoming_mem (s : State) : (∀ gid u i, s.upcoming = .instr gid u i → u.mem = s.mem) ∧ ∀ gid u, s.upcoming = .passed gid u → u.mem = s.mem := by
  simp only [State.upcoming]
  constructor <;> intro gid u
  · intro i hu
    (repeat' split at hu) <;> cases hu
    rfl
  · intro hu
    (repeat' split at hu) <;> cases hu
    simp

theorem State.runNext_canonical {s : State} (h : Memory.wf s.mem = true) : Canonical s.runNext := by
  obtain ⟨hinstr, hpassed⟩ := s.upcoming_mem
  unfold State.runNext
  split
  next gid u i hu =>
    have hi := exec_canonical (by rwa [hinstr gid u i hu]) i
    split
    next t ht => rw [ht] at hi; simpa using hi
    · exact hi
  next gid u hu => simpa [hpassed gid u hu] using h
  · exact firstChange_canonical h _

theorem step_canonical {s : State} (h : Memory.wf s.mem = true) : Canonical (step s) := by
  unfold step
  split
  · exact settled_canonical (exec_canonical (by simpa using h) _)
  · exact settled_canonical (State.runNext_canonical (by simpa using h))

/-- Settles O50: every instruction, every step and what goes out after it keeps memory in canonical form. -/
theorem stepKeepsMemoryCanonical : Obligations.StepKeepsMemoryCanonical := by
  unfold Obligations.StepKeepsMemoryCanonical
  exact fun s t h ht => (step_canonical h).of_next ht

/-- Settles O51: every instruction and step goes on, whatever it stores. -/
theorem onlyMissingMemoryStops : Obligations.OnlyMissingMemoryStops := by
  unfold Obligations.OnlyMissingMemoryStops
  intro i s
  have h := exec_stores i s
  cases ho : exec i s with
  | next t => exact .inl ⟨t, rfl⟩
  | fault r => cases r with | noSuchMemory a => exact .inr ⟨a, rfl⟩
  | refused r => rw [ho] at h; exact h.elim

end Sys2Proof.Machine
end

section
namespace Sys2Proof.Machine

/-! ### Records of the state by identifier -/

theorem State.updGroup_group?_self (s : State) (k : Nat) (f : Group → Group) (hf : ∀ g, (f g).id = g.id) :
    (s.updGroup k f).group? k = (s.group? k).map f := findId_updId_self _ f hf _

theorem State.updGroup_group?_of {s : State} {k : Nat} {g : Group} (h : s.group? k = some g) (f : Group → Group) (hf : ∀ g, (f g).id = g.id) :
    (s.updGroup k f).group? k = some (f g) := by
  rw [State.updGroup_group?_self s k f hf, h, Option.map_some]

theorem State.updGroup_group?_ne (s : State) {k j : Nat} (f : Group → Group) (hf : ∀ g, (f g).id = g.id) (hj : j ≠ k) :
    (s.updGroup k f).group? j = s.group? j := findId_updId_ne _ f hf hj _

/-! ### The counts of flags (R23) -/

theorem Group.flag_subFlag (g : Group) (i j n : Nat) : (g.subFlag i n).flag j = if j = i then g.flag j - n else g.flag j := by
  simp only [Group.flag, Group.subFlag, SMap.get_set]
  split
  next h =>
    subst h
    rw [BitVec.toNat_ofNat, Nat.mod_eq_of_lt]
    have := (g.flags.get j).isLt
    omega
  · rfl

/-- A flag's count falls where that flag was selected. -/
theorem Group.flag_subFlag? (g : Group) (o : Option Nat) (j n : Nat) : (g.subFlag? o n).flag j = if o = some j then g.flag j - n else g.flag j := by
  cases o with
  | none => rfl
  | some i => simp only [Group.subFlag?, Group.flag_subFlag, Option.some.injEq, eq_comm]

/-- What a clause's two set-flags lose, which may be one flag. -/
theorem Group.flags_subFlags? (g : Group) (a b : Option Nat) (n m : Nat) :
    (∀ i, some i ≠ a → some i ≠ b → ((g.subFlag? a n).subFlag? b m).flag i = g.flag i) ∧
    (∀ i, a = some i → b ≠ some i → ((g.subFlag? a n).subFlag? b m).flag i = g.flag i - n) ∧
    (∀ i, b = some i → a ≠ some i → ((g.subFlag? a n).subFlag? b m).flag i = g.flag i - m) ∧
    (∀ i, a = some i → b = some i → ((g.subFlag? a n).subFlag? b m).flag i = g.flag i - n - m) := by
  simp only [Group.flag_subFlag?]
  refine ⟨fun i ha hb => ?_, fun i ha hb => ?_, fun i hb ha => ?_, fun i ha hb => ?_⟩
  · rw [if_neg (Ne.symm hb), if_neg (Ne.symm ha)]
  · rw [if_neg hb, if_pos ha]
  · rw [if_pos hb, if_neg ha]
  · rw [if_pos hb, if_pos ha]

/-! ### Lanes of a group -/

@[simp] theorem Group.subFlag?_lane? (g : Group) (o : Option Nat) (n l : Nat) : (g.subFlag? o n).lane? l = g.lane? l := by
  rw [Group.subFlag?_eq]; rfl

end Sys2Proof.Machine
end

section
namespace Sys2Proof.Machine

/-! ### A restored lane's transfer may write L entries -/

/-- A lane that runs its restore code, for which a held instruction has still an L entry to write. -/
def lateLane : Lane :=
  { st := .free, elem := 0, pc := 0, v := [], o := [], l := [], lValid := 0, lHidden := 0, lKept := [], p := 0, seed := 1, clockHi := 0, wait := 0
    info := 0, retPc := 0, restoring := true, late := [(.l 0, 5)] }

/-- Its clause, whose body is done, sends it to the header at 8. -/
def lateRun : Run :=
  { hdr := 0, cur := 0, next := 0, body := [], curBody := [], ft := 40, lanes := 1, flagA := none, flagB := none, bank := 0, remA := 0, remB := 0
    losers := 0, targets := [(0, 8)], hint := false }

def lateGroup : Group := { fetchGroup 0 [] with lanes := [lateLane], run := some lateRun }

def lateState : State := { State.reset with groups := [lateGroup] }

theorem lateState_lValid : ((lateState.endClause 0).group? 0).map (fun g => (g.lane? 0).map (·.lValid)) = some (some 1) := by decide

/-- Refutes O60: the statement has every lane of the clause without a valid L entry, and asks no more of a lane that is being restored than of
another. But R440's writes of held instructions land at such a lane's transfer, after its L entries have ended; where one of them is an L entry, it is valid
then. -/
theorem not_clausesEnd : ¬ Obligations.ClausesEnd := by
  intro h
  obtain ⟨g', hg', -, -, -, -, -, -, -, hlanes⟩ := h lateState 0 lateGroup lateRun rfl rfl rfl rfl rfl
  have hw := lateState_lValid
  rw [hg', Option.map_some, Option.some.injEq, Option.map_eq_some_iff] at hw
  obtain ⟨ln', hln', hvalid⟩ := hw
  have hzero : ln'.lValid = 0 := ((hlanes 0 lateLane ln' rfl hln').2 rfl).1
  rw [hzero] at hvalid
  exact absurd hvalid (by decide)

end Sys2Proof.Machine
end

section
namespace Sys2Proof.Machine

/-! ### A synchronous trap with a handler (R416, R417) -/

/-- Lanes, flags, the clause in progress and what waited to run again change as a trap enters the handler; the rest of the group stays. -/
theorem Group.enterHandler_instr_eq {g : Group} {r : Run} (hr : g.run = some r) (entry cause : Nat) (info : Lane → Word) (tl hl : LaneMask) :
    g.enterHandler entry cause info tl hl .instr =
      { g with
        lanes := (g.updLanes hl (fun _ ln =>
          { ln with info := info ln, retPc := ln.pc, pc := entry, lHidden := ln.lValid, lKept := ln.l, lValid := 0 })).lanes
        flags := (g.dropFlags r).flags, run := none, resumeOn := false, resume := 0, hold := none
        handler := some { cause := BitVec.ofNat 8 cause, pc := r.cur, trapLanes := tl, lanes := hl, kept := some r, todo := r.lanes
                          atHeader := false, tret := false, preDone := false } } := by
  simp only [Group.enterHandler, hr, Option.isNone_some]
  rw [Group.dropFlags_eq g r]
  rfl

/-- Where its level has a handler and none is open, a trap at an instruction changes its group, and the group in focus, alone. -/
theorem State.trapAt_eq {s : State} {gid : Nat} {g : Group} {r : Run} {la : Launch} (hg : s.group? gid = some g) (hr : g.run = some r)
    (hh : g.handler = none) (hla : s.launch? g.launch = some la) (hentry : la.rcd.handlers.getD g.level 0 ≠ 0) (cause : Nat) (info : Word)
    (tl : LaneMask) :
    s.trapAt gid cause info tl =
      { s.updGroup gid (·.enterHandler (la.rcd.handlers.getD g.level 0) cause (fun _ => info) tl r.lanes .instr) with
        focus := if s.focus = some gid then none else s.focus } := by
  simp only [State.trapAt, State.takeTrapWith, hg, hr, hh, hla, Option.elim_some, Option.isSome_none, Bool.false_eq_true, if_false, hentry,
    State.updGroup_focus]

theorem map_updId {α β : Type} {key : α → Nat} {f : α → α} {p : α → β} (hf : ∀ x, p (f x) = p x) (k : Nat) (l : List α) :
    (updId key k f l).map p = l.map p := by
  induction l with
  | nil => rfl
  | cons x l ih =>
    by_cases h : key x = k
    · simp [updId, h, hf, ih]
    · simp [updId, h, ih]

/-- Settles O57: the group is the one that `Group.enterHandler` gives. -/
theorem trapEntersTheHandler : Obligations.TrapEntersTheHandler := by
  intro s gid cause info lanes g r la hg hr hh hla hentry
  have hid : ∀ x : Group, (x.enterHandler (la.rcd.handlers.getD g.level 0) cause (fun _ => info) lanes r.lanes .instr).id = x.id :=
    fun _ => Group.enterHandler_id ..
  have htrap := State.trapAt_eq hg hr hh hla hentry cause info lanes
  have hg' := State.trapAt_group? hg hr hh hla hentry cause info lanes
  have heq := Group.enterHandler_instr_eq hr (la.rcd.handlers.getD g.level 0) cause (fun _ => info) lanes r.lanes
  have hflag : ∀ i, (g.enterHandler (la.rcd.handlers.getD g.level 0) cause (fun _ => info) lanes r.lanes .instr).flag i =
      (g.dropFlags r).flag i := fun i => by rw [heq]; rfl
  obtain ⟨hnone, ha, hb, hab⟩ := g.flags_subFlags? r.flagA r.flagB (1 + r.remA) (1 + r.remB)
  refine ⟨_, hg', ?_, ?_, ?_, ?_, ?_, ?_, ?_, ?_, ?_, ?_⟩
  · rw [htrap]; rfl
  · rw [htrap]; exact map_updId hid gid s.groups
  · intro k hk
    rw [htrap]
    exact findId_updId_ne Group.id _ hid hk s.groups
  · rw [heq]
  · rw [heq]; exact List.length_mapIdx
  · exact fun i h₁ h₂ => (hflag i).trans (hnone i h₁ h₂)
  · exact fun i h₁ h₂ => (hflag i).trans (ha i h₁ h₂)
  · exact fun i h₁ h₂ => (hflag i).trans (hb i h₁ h₂)
  · exact fun i h₁ h₂ => (hflag i).trans (hab i h₁ h₂)
  · intro l ln hln
    rw [Group.enterHandler_lane?, hln, Option.map_some]

end Sys2Proof.Machine
end

section
namespace Sys2Proof.Machine

/-! ### What pre-emption marks (R330, R352) -/

/-- Nothing but the matrix queues, the chains, what goes to peers, and the bindings of groups changes. -/
def Marked (s t : State) : Prop :=
  ∃ m cs o, ∃ β : Group → List Binding,
    t = { s with matrix := m, chains := cs, outbox := o, groups := s.groups.map (fun g => { g with bindings := β g }) }

theorem Marked.refl (s : State) : Marked s s := ⟨s.matrix, s.chains, s.outbox, (·.bindings), by simp⟩

theorem Marked.trans {s t u : State} (h₁ : Marked s t) (h₂ : Marked t u) : Marked s u := by
  obtain ⟨m₁, cs₁, o₁, β₁, rfl⟩ := h₁
  obtain ⟨m₂, cs₂, o₂, β₂, rfl⟩ := h₂
  exact ⟨m₂, cs₂, o₂, fun g => β₂ { g with bindings := β₁ g }, by simp [Function.comp_def]⟩

theorem Marked.foldl {α : Type} {f : State → α → State} (hf : ∀ s x, Marked s (f s x)) (l : List α) : ∀ s, Marked s (l.foldl f s) := by
  induction l with
  | nil => exact Marked.refl
  | cons x l ih => exact fun s => (hf s x).trans (ih _)

theorem Marked.suspendEntries (s : State) (launch : Nat) : Marked s (s.suspendEntries launch) :=
  ⟨_, s.chains, s.outbox, (·.bindings), by simp only [State.suspendEntries, List.map_id']; rfl⟩

theorem Marked.post (s : State) (d : Nat) (m : PeerMsg) : Marked s (s.post d m) :=
  ⟨s.matrix, s.chains, s.outbox ++ [(d, m)], (·.bindings), by simp only [State.post, List.map_id']⟩

theorem Marked.updChain (s : State) (core slot : Nat) (f : Chain → Chain) : Marked s (s.updChain core slot f) :=
  ⟨s.matrix, _, s.outbox, (·.bindings), by simp only [State.updChain, List.map_id']; rfl⟩

/-- The bindings of a group of the launch to one generation of a chain are marked, or their marks go. -/
def Group.markedBindings (launch : Nat) (name : Word) (gen : Nat) (on : Bool) (g : Group) : List Binding :=
  if g.launch = launch then g.bindings.map (fun (b : Binding) => if b.name = name && b.gen = gen then { b with suspended := on } else b) else g.bindings

theorem Marked.markBindings (s : State) (launch : Nat) (name : Word) (gen : Nat) (on : Bool) : Marked s (s.markBindings launch name gen on) := by
  refine ⟨s.matrix, s.chains, s.outbox, Group.markedBindings launch name gen on, ?_⟩
  simp only [State.markBindings, Group.markedBindings]
  congr 1
  refine List.map_congr_left fun g _ => ?_
  split <;> rfl

theorem Marked.markChain (s : State) (c : Chain) (on : Bool) : Marked s (s.markChain c on) :=
  (Marked.markBindings ..).trans (Marked.foldl (fun s _ => Marked.post s _ _) _ _)

theorem Marked.suspendChains (s : State) (block : Nat) : Marked s (s.suspendChains block) :=
  Marked.foldl (fun _ _ => (Marked.updChain ..).trans (Marked.markChain ..)) _ _

theorem findId_map {α : Type} {key : α → Nat} {f : α → α} (hf : ∀ x, key (f x) = key x) (k : Nat) (l : List α) :
    findId key k (l.map f) = (findId key k l).map f := by
  induction l with
  | nil => rfl
  | cons x l ih =>
    by_cases h : key x = k
    · simp [findId, h, hf]
    · simp [findId, h, hf, ih]

theorem Marked.mem {s t : State} (h : Marked s t) : t.mem = s.mem := by
  obtain ⟨m, cs, o, β, rfl⟩ := h
  rfl

/-- The groups of a marked state are those there were, but for their bindings. -/
theorem Marked.group? {s t : State} (h : Marked s t) : ∃ β : Group → List Binding, ∀ k,
    t.group? k = (s.group? k).map (fun g => { g with bindings := β g }) := by
  obtain ⟨m, cs, o, β, rfl⟩ := h
  exact ⟨β, fun k => findId_map (key := Group.id) (f := fun g => { g with bindings := β g }) (fun _ => rfl) k s.groups⟩

/-- What a fetch finds, and so which paths are ready, does not turn on what pre-emption marks, nor on the groups there are. -/
theorem Marked.asyncPc {s t : State} (h : Marked s t) (k : Nat) (f : Group → Group) (g : Group) : (t.updGroup k f).asyncPc g = s.asyncPc g := by
  obtain ⟨m, cs, o, β, rfl⟩ := h
  rfl

end Sys2Proof.Machine
end

section
namespace Sys2Proof.Machine

/-! ### The end of a launch (R419) -/

/-- What an end of a launch does not touch before it ends it. -/
structure Told (s t : State) : Prop where
  completions : t.completions = s.completions
  launches : t.launches = s.launches
  focus : t.focus = s.focus
  blocks : t.blocks = s.blocks
  groups : t.groups.map (fun g => (g.id, g.launch)) = s.groups.map (fun g => (g.id, g.launch))

theorem Told.refl (s : State) : Told s s := ⟨rfl, rfl, rfl, rfl, rfl⟩

theorem Told.trans {s t u : State} (h₁ : Told s t) (h₂ : Told t u) : Told s u :=
  ⟨h₂.completions.trans h₁.completions, h₂.launches.trans h₁.launches, h₂.focus.trans h₁.focus, h₂.blocks.trans h₁.blocks,
    h₂.groups.trans h₁.groups⟩

theorem Told.foldl {α : Type} {f : State → α → State} (hf : ∀ s x, Told s (f s x)) (l : List α) : ∀ s, Told s (l.foldl f s) := by
  induction l with
  | nil => exact Told.refl
  | cons x l ih => exact fun s => (hf s x).trans (ih _)

theorem Marked.told {s t : State} (h : Marked s t) : Told s t := by
  obtain ⟨m, cs, o, β, rfl⟩ := h
  exact ⟨rfl, rfl, rfl, rfl, by simp [Function.comp_def]⟩

theorem Told.updGroup (s : State) (k : Nat) {f : Group → Group} (hf : ∀ g, (f g).id = g.id ∧ (f g).launch = g.launch) : Told s (s.updGroup k f) := by
  refine ⟨rfl, rfl, rfl, rfl, map_updId (fun g => ?_) k s.groups⟩
  rw [(hf g).1, (hf g).2]

theorem Told.handBack (s : State) (gs : List Nat) : Told s (s.handBack gs) := ⟨rfl, rfl, rfl, rfl, rfl⟩

theorem Told.tellAbort (s : State) (c : Chain) : Told s (s.tellAbort c) := by
  have hmark : Told s (if c.suspended then s.markChain c false else s) := by
    split
    · exact (Marked.markChain s c false).told
    · exact Told.refl s
  refine hmark.trans (Told.foldl (fun s j => ?_) _ _)
  split
  · exact ⟨rfl, rfl, rfl, rfl, rfl⟩
  · exact Told.refl s

theorem lookup_groups (k : Nat) (l : List Group) : (l.map (fun g => (g.id, g.launch))).lookup k = (findId Group.id k l).map (·.launch) := by
  induction l with
  | nil => rfl
  | cons g l ih =>
    by_cases h : g.id = k
    · simp [findId, h]
    · have hne : (k == g.id) = false := by simpa using fun heq => h heq.symm
      simp [findId, h, List.lookup, hne, ih]

/-- A told state has a group of a number where the state had one, and of the same launch. -/
theorem Told.group? {s t : State} (h : Told s t) (k : Nat) : (t.group? k).map (·.launch) = (s.group? k).map (·.launch) := by
  rw [State.group?, State.group?, ← lookup_groups, ← lookup_groups, h.groups]

theorem EndsReported.of_told {s t u : State} {la : Launch} {word info : Word} {pc : Nat} {lanes : LaneMask} (h : Told s t)
    (hu : EndsReported t u la word info pc lanes) : EndsReported s u la word info pc lanes := by
  obtain ⟨hc, hl, hg, hb, hf⟩ := hu
  refine ⟨by rw [hc, h.completions], hl, hg, hb, fun f hfoc x hx => ?_⟩
  have hlaunch := h.group? f
  rw [hx, Option.map_some, Option.map_eq_some_iff] at hlaunch
  obtain ⟨x', hx', hlx⟩ := hlaunch
  exact hlx ▸ hf f hfoc x' hx'

theorem Block.ended_st (b : Block) : b.ended.st = .ended := by
  unfold Block.ended
  split <;> rfl

theorem Block.ended_launch (b : Block) : b.ended.launch = b.launch := by
  unfold Block.ended
  split <;> rfl

/-- R419: what is cleared with a launch: of its groups none is left, its blocks have ended, and no group of it is in focus. -/
theorem State.clearLaunch_spec (s : State) (k : Nat) :
    (s.clearLaunch k).completions = s.completions ∧ (s.clearLaunch k).launches = s.launches ∧ (∀ g ∈ (s.clearLaunch k).groups, g.launch ≠ k) ∧
    (∀ b ∈ (s.clearLaunch k).blocks, b.launch = k → b.st = .ended) ∧
    ∀ f, (s.clearLaunch k).focus = some f → ∀ g, s.group? f = some g → g.launch ≠ k := by
  simp only [State.clearLaunch]
  generalize ht : (List.filter _ (s.handBack (s.heldByLaunch k)).chains).foldl State.tellAbort (s.handBack (s.heldByLaunch k)) = t
  have htold : Told s t := (Told.handBack s _).trans (ht ▸ Told.foldl Told.tellAbort _ _)
  refine ⟨htold.completions, htold.launches, fun g hg => by simpa using (List.mem_filter.mp hg).2, fun b hb hk => ?_, fun f hf g hg hk => ?_⟩
  · obtain ⟨b₀, -, rfl⟩ := List.mem_map.mp hb
    split at hk
    next h => rw [if_pos h]; exact b₀.ended_st
    next h => exact absurd hk h
  · rw [htold.focus] at hf
    cases hfoc : s.focus with
    | none => simp [hfoc] at hf
    | some x =>
      simp only [hfoc] at hf
      split at hf
      · cases hf
      next hx =>
        cases hf
        refine hx (List.contains_iff_mem.mpr (List.mem_map.mpr ⟨g, List.mem_filter.mpr ⟨findId_mem _ hg, by simpa using hk⟩, findId_key _ hg⟩))

/-- R419: a launch that has not ended ends, and its end is reported. -/
theorem State.endLaunch_reports {s : State} {la : Launch} (hla : s.launch? la.id = some la) (hst : la.st ≠ .ended) (word info : Word) (pc : Nat)
    (lanes : LaneMask) : EndsReported s (s.endLaunch la.id word info (BitVec.ofNat 32 pc) lanes) la word info pc lanes := by
  obtain ⟨hcompl, hlaunches, hgroups, hblocks, hfocus⟩ := s.clearLaunch_spec la.id
  simp only [State.endLaunch, hla, if_neg hst]
  refine ⟨congrArg (· ++ _) hcompl, ⟨{ la with st := .ended, normal := false, endWord := word }, ?_, rfl, rfl, rfl⟩, hgroups, hblocks, hfocus⟩
  have hupd := findId_updId_self (k := la.id) Launch.id (fun la => { la with st := .ended, normal := false, endWord := word }) (fun _ => rfl)
    (s.clearLaunch la.id).launches
  exact hupd.trans (by rw [hlaunches]; exact congrArg _ hla)

/-! ### A trap without a handler, or in one (R416, R419) -/

/-- The %trap.pc of a trap at a site. -/
def TrapSite.pc (g : Group) : TrapSite → Nat
  | .instr => g.run.elim 0 (·.cur)
  | .header pc => pc
  | .async pc => pc
  | .held pc => pc

theorem State.takeTrapWith_eq {s : State} {gid : Nat} {g : Group} (hg : s.group? gid = some g) (cause : Nat) (info : Lane → Word) (tl hl : LaneMask)
    (site : TrapSite) :
    let entry := (s.launch? g.launch).elim 0 (fun la => la.rcd.handlers.getD g.level 0)
    let word := fun (w : Nat) => s.endLaunch g.launch (BitVec.ofNat 32 w) ((g.lane? (lowLane tl)).elim 0 info) (BitVec.ofNat 32 (site.pc g)) tl
    s.takeTrapWith gid cause info tl hl site =
      if g.handler.isSome then word (256 + cause)
      else if entry = 0 then word cause
      else { s.updGroup gid (·.enterHandler entry cause info tl hl site) with focus := if s.focus = some gid then none else s.focus } := by
  simp only [State.takeTrapWith, hg, State.updGroup_focus]
  cases site with
  | instr => cases hr : g.run <;> simp only [TrapSite.pc, hr] <;> rfl
  | header => rfl
  | async => rfl
  | held => rfl

/-- R416, R419: where the level has no handler, or one is open, a trap ends the launch and is reported. -/
theorem State.takeTrapWith_reports {s : State} {gid : Nat} {g : Group} {la : Launch} (hg : s.group? gid = some g) (hla : s.launch? g.launch = some la)
    (hst : la.st ≠ .ended) (hno : g.handler.isSome = true ∨ la.rcd.handlers.getD g.level 0 = 0) (cause : Nat) (info : Lane → Word) {tl : LaneMask}
    {ln : Lane} (hln : g.lane? (lowLane tl) = some ln) (hl : LaneMask) (site : TrapSite) :
    EndsReported s (s.takeTrapWith gid cause info tl hl site) la (BitVec.ofNat 32 (if g.handler.isSome then 256 + cause else cause)) (info ln)
      (site.pc g) tl := by
  have hid : la.id = g.launch := findId_key Launch.id hla
  have hend := fun w : Nat => State.endLaunch_reports (hid ▸ hla) hst (BitVec.ofNat 32 w) (info ln) (site.pc g) tl
  rw [hid] at hend
  simp only [State.takeTrapWith_eq hg, hla, hln, Option.elim_some]
  by_cases hh : g.handler.isSome = true
  · rw [if_pos hh, if_pos hh]
    exact hend _
  · rw [if_neg hh, if_neg hh, if_pos (hno.resolve_left hh)]
    exact hend _


theorem State.trapAt_reports {s : State} {gid : Nat} {g : Group} {r : Run} {la : Launch} (hg : s.group? gid = some g) (hr : g.run = some r)
    (hla : s.launch? g.launch = some la) (hst : la.st ≠ .ended) (hno : g.handler.isSome = true ∨ la.rcd.handlers.getD g.level 0 = 0)
    (cause : Nat) (info : Word) {tl : LaneMask} (hln : (g.lane? (lowLane tl)).isSome = true) :
    EndsReported s (s.trapAt gid cause info tl) la (BitVec.ofNat 32 (if g.handler.isSome then 256 + cause else cause)) info r.cur tl := by
  obtain ⟨ln, hln⟩ := Option.isSome_iff_exists.mp hln
  have h := State.takeTrapWith_reports hg hla hst hno cause (fun _ => info) hln r.lanes .instr
  rw [TrapSite.pc, hr] at h
  simpa only [State.trapAt, hg, hr, Option.elim_some] using h

theorem State.trapHeader_reports {s : State} {gid : Nat} {g : Group} {la : Launch} (hg : s.group? gid = some g)
    (hla : s.launch? g.launch = some la) (hst : la.st ≠ .ended) (hno : g.handler.isSome = true ∨ la.rcd.handlers.getD g.level 0 = 0)
    (cause : Nat) (info : Word) {tl : LaneMask} (pc : Nat) (hln : (g.lane? (lowLane tl)).isSome = true) :
    EndsReported s (s.trapHeader gid cause info tl pc) la (BitVec.ofNat 32 (if g.handler.isSome then 256 + cause else cause)) info pc tl := by
  obtain ⟨ln, hln⟩ := Option.isSome_iff_exists.mp hln
  exact State.takeTrapWith_reports hg hla hst hno cause (fun _ => info) hln tl (.header pc)

/-! ### Asynchronous traps that are due (R416, R418) -/

/-- None falls due in the middle of a clause, nor while a handler is open. -/
theorem Group.asyncDue_some {g : Group} {c : Nat} (h : g.asyncDue = some c) : g.run = none ∧ g.handler = none := by
  simp only [Group.asyncDue] at h
  split at h
  · cases h
  next hn =>
    simp only [Bool.or_eq_true, not_or, Option.not_isSome_iff_eq_none] at hn
    exact hn.1

/-- R416, R437: outside a clause, the model's place of an asynchronous trap is `trapPlace`'s. -/
theorem State.asyncPc_eq {s : State} {g : Group} {pc : Nat} (hr : g.run = none) (h : trapPlace s g pc) : s.asyncPc g = pc := by
  obtain ⟨hsome, hnone⟩ := h
  simp only [State.asyncPc, hr]
  cases hc : g.choose (s.readyPaths g) with
  | some p => exact (hsome p hc).symm
  | none => exact (hnone hc).symm


/-! ### The delivery of an asynchronous trap -/

/-- State `t` is `s` made ready for an asynchronous trap of its group `k`, whose lanes are to stand as `g`'s do. -/
structure Readied (s : State) (k : Nat) (g : Group) (t : State) (g' : Group) : Prop where
  told : Told s t
  mem : t.mem = s.mem
  found : t.group? k = some g'
  lanes : g'.lanes = g.lanes
  handler : g'.handler = g.handler
  level : g'.level = g.level
  launch : g'.launch = g.launch
  run : g'.run = g.run
  others : ∀ x, x ≠ k → (t.group? x).map (·.lanes) = (s.group? x).map (·.lanes)

theorem Readied.launch? {s t : State} {k : Nat} {g g' : Group} (h : Readied s k g t g') (x : Nat) : t.launch? x = s.launch? x :=
  congrArg (findId Launch.id x) h.told.launches

theorem Readied.lane? {s t : State} {k : Nat} {g g' : Group} (h : Readied s k g t g') (l : Nat) : g'.lane? l = g.lane? l :=
  congrArg (·[l]?) h.lanes

/-- R419: without a handler, the trap for which a state was made ready ends the launch. -/
theorem Readied.reports {s t : State} {k : Nat} {g g' : Group} (h : Readied s k g t g') {la : Launch} (hla : s.launch? g.launch = some la)
    (hst : la.st ≠ .ended) (hh : g.handler = none) (hentry : la.rcd.handlers.getD g.level 0 = 0) (cause : Nat) (info : Lane → Word)
    {tl : LaneMask} {ln : Lane} (hln : g.lane? (lowLane tl) = some ln) (hl : LaneMask) (pc : Nat) :
    EndsReported s (t.takeTrapWith k cause info tl hl (.async pc)) la (BitVec.ofNat 32 cause) (info ln) pc tl := by
  have hrep := State.takeTrapWith_reports h.found (by rw [h.launch, h.launch?, hla]) hst (.inr (h.level ▸ hentry)) cause info
    (by rw [h.lane?, hln]) hl (.async pc)
  rw [h.handler, hh] at hrep
  exact EndsReported.of_told h.told hrep

/-- The clause that an asynchronous trap keeps for its handler. -/
def TrapSite.kept (g : Group) : TrapSite → Option Run
  | .instr => g.run
  | .held _ => g.run
  | _ => none

/-- R416, R417: the handler that opens. -/
theorem Group.enterHandler_opens (g : Group) (entry cause : Nat) (info : Lane → Word) (tl hl : LaneMask) (site : TrapSite) :
    (g.enterHandler entry cause info tl hl site).run = none ∧ ∃ h, (g.enterHandler entry cause info tl hl site).handler = some h ∧
      h.cause = BitVec.ofNat 8 cause ∧ h.pc = site.pc g ∧ h.trapLanes = tl ∧ h.lanes = hl ∧ h.kept = site.kept g := by
  refine ⟨rfl, _, rfl, rfl, ?_, rfl, rfl, ?_⟩
  · cases site with
    | instr => cases hr : g.run <;> simp only [TrapSite.pc, hr] <;> rfl
    | header => rfl
    | async => rfl
    | held => rfl
  · cases site with
    | instr => cases hr : g.run <;> simp only [TrapSite.kept, hr]
    | header => rfl
    | async => rfl
    | held => rfl

/-- R416: with a handler for the level, the trap for which a state was made ready is delivered to it. -/
theorem Readied.delivers {s t : State} {k : Nat} {g g' : Group} (h : Readied s k g t g') {la : Launch} (hla : s.launch? g.launch = some la)
    (hh : g.handler = none) (hentry : la.rcd.handlers.getD g.level 0 ≠ 0) {cause : Nat} {info : Lane → Word} {tl hl : LaneMask} {site : TrapSite}
    (hexec : exec (.asyncTrapDelivery k) s = .next (t.takeTrapWith k cause info tl hl site)) :
    Delivers s k g (la.rcd.handlers.getD g.level 0) cause (site.pc g) info tl hl (site.kept g) := by
  have hid : ∀ x : Group, (x.enterHandler (la.rcd.handlers.getD g.level 0) cause info tl hl site).id = x.id := fun _ => Group.enterHandler_id ..
  have hpc : site.pc g' = site.pc g := by cases site <;> simp only [TrapSite.pc, h.run]
  have hkept : site.kept g' = site.kept g := by cases site <;> simp only [TrapSite.kept, h.run]
  obtain ⟨hrun, hd, hopen, hcause, hdpc, htl, hlanes, hdkept⟩ := g'.enterHandler_opens (la.rcd.handlers.getD g.level 0) cause info tl hl site
  have htrap := State.takeTrapWith_eq h.found cause info tl hl site
  simp only [h.launch, h.launch?, hla, Option.elim_some, h.level, h.handler, hh, Option.isSome_none, Bool.false_eq_true, if_false, if_neg hentry]
    at htrap
  refine ⟨_, _, hd, hexec, ?_, ?_, hopen, hrun, hcause, hdpc.trans hpc, htl, hlanes, hdkept.trans hkept, ?_, ?_⟩
  · rw [htrap]; exact h.mem
  · rw [htrap]
    exact (findId_updId_self Group.id _ hid t.groups).trans (congrArg _ h.found)
  · intro x hx
    rw [← h.others x hx, htrap]
    exact congrArg _ (findId_updId_ne Group.id _ hid hx t.groups)
  · intro l ln hln
    rw [Group.enterHandler_lane?, h.lane?, hln, Option.map_some]

end Sys2Proof.Machine
end

section
namespace Sys2Proof.Machine

/-! ### Making ready for each asynchronous trap -/

/-- An update of the group that touches nothing of what an asynchronous trap reads. -/
theorem Readied.updGroup {s : State} {k : Nat} {g : Group} (hg : s.group? k = some g) {f : Group → Group}
    (hf : ∀ x, (f x).id = x.id ∧ (f x).lanes = x.lanes ∧ (f x).handler = x.handler ∧ (f x).level = x.level ∧ (f x).launch = x.launch ∧
      (f x).run = x.run) : Readied s k g (s.updGroup k f) (f g) := by
  have hid : ∀ x, (f x).id = x.id := fun x => (hf x).1
  obtain ⟨-, hlanes, hhandler, hlevel, hlaunch, hrun⟩ := hf g
  exact ⟨Told.updGroup s k fun x => ⟨hid x, (hf x).2.2.2.2.1⟩, rfl, by rw [State.updGroup_group?_self _ _ _ hid, hg, Option.map_some], hlanes, hhandler,
    hlevel, hlaunch, hrun, fun x hx => by rw [State.updGroup_group?_ne _ _ hid hx]⟩

/-- R436: an arrived or regrouping lane stands free at its header. -/
def Lane.unblocked (ln : Lane) : Lane :=
  match ln.st with
  | .arrived _ _ => { ln with st := .free }
  | .regrouping _ _ _ => { ln with st := .free }
  | _ => ln

theorem Group.clearArrivals_eq (ns : List Nat) (g : Group) : ∃ sm, ns.foldl (fun (g : Group) n => g.setSeam n (g.members n) 0) g = { g with seams := sm } := by
  induction ns generalizing g with
  | nil => exact ⟨g.seams, rfl⟩
  | cons n ns ih =>
    obtain ⟨sm, hsm⟩ := ih (g.setSeam n (g.members n) 0)
    exact ⟨sm, hsm⟩

theorem Group.freeBlocked_eq (g : Group) : ∃ sm, g.freeBlocked = { g with lanes := g.lanes.map Lane.unblocked, seams := sm } :=
  Group.clearArrivals_eq ..

/-- What blocked lanes standing free does not change, and what they stand as. -/
theorem Group.freeBlocked_fields (g : Group) : g.freeBlocked.id = g.id ∧ g.freeBlocked.lanes = g.lanes.map Lane.unblocked ∧
    g.freeBlocked.handler = g.handler ∧ g.freeBlocked.level = g.level ∧ g.freeBlocked.launch = g.launch ∧ g.freeBlocked.run = g.run := by
  obtain ⟨sm, h⟩ := g.freeBlocked_eq
  simp [h]

/-- The group of a PREEMPT handler before it opens. -/
def Group.preempting (g : Group) : Group := { g.freeBlocked with preemptPending := false }

theorem Group.preempting_fields (g : Group) : g.preempting.id = g.id ∧ g.preempting.lanes = g.lanes.map Lane.unblocked ∧
    g.preempting.handler = g.handler ∧ g.preempting.level = g.level ∧ g.preempting.launch = g.launch ∧ g.preempting.run = g.run := by
  obtain ⟨sm, h⟩ := g.freeBlocked_eq
  simp [Group.preempting, h]

theorem State.deliverPreempt_eq (s : State) (g : Group) : s.deliverPreempt g =
    let t := ((s.suspendEntries g.launch).suspendChains g.block).updGroup g.id (fun g => g.preempting)
    t.takeTrapWith g.id Cause.preempt (fun ln => BitVec.ofNat 32 ln.pc) (g.freeBlocked.lanesWhere (·.unexited))
      (g.freeBlocked.lanesWhere (·.unexited)) (.async (t.asyncPc g.freeBlocked)) := by
  simp only [State.deliverPreempt, Group.preempting, g.freeBlocked_fields.1]

/-- R435 to R437: before PREEMPT is delivered its launch's queue entries and its block's chains are marked, and the blocked lanes stand free. -/
theorem Readied.preempt {s : State} {k : Nat} {g : Group} (hg : s.group? k = some g) : ∃ t g', Readied s k g.freeBlocked t g' ∧
    s.deliverPreempt g = t.takeTrapWith k Cause.preempt (fun ln => BitVec.ofNat 32 ln.pc) (g.freeBlocked.lanesWhere (·.unexited))
      (g.freeBlocked.lanesWhere (·.unexited)) (.async (s.asyncPc g.freeBlocked)) := by
  have hk : g.id = k := findId_key Group.id hg
  have hmark : Marked s ((s.suspendEntries g.launch).suspendChains g.block) := (Marked.suspendEntries ..).trans (Marked.suspendChains ..)
  have hid : ∀ x : Group, x.preempting.id = x.id := fun x => x.preempting_fields.1
  obtain ⟨β, hgroups⟩ := hmark.group?
  have hself := State.updGroup_group?_self ((s.suspendEntries g.launch).suspendChains g.block) k (fun g => g.preempting) hid
  rw [hgroups, hg] at hself
  obtain ⟨-, hl, hh, hlv, hla, hr⟩ := g.freeBlocked_fields
  obtain ⟨-, hl', hh', hlv', hla', hr'⟩ := Group.preempting_fields { g with bindings := β g }
  refine ⟨((s.suspendEntries g.launch).suspendChains g.block).updGroup k (fun g => g.preempting), Group.preempting { g with bindings := β g },
    ⟨hmark.told.trans (Told.updGroup _ k fun x => ⟨hid x, x.preempting_fields.2.2.2.2.1⟩), ?_, hself, hl'.trans hl.symm,
    hh'.trans hh.symm, hlv'.trans hlv.symm, hla'.trans hla.symm, hr'.trans hr.symm, fun x hx => ?_⟩, ?_⟩
  · exact hmark.mem
  · rw [State.updGroup_group?_ne _ _ hid hx, hgroups, Option.map_map]
    rfl
  · simp only [State.deliverPreempt_eq, hmark.asyncPc, hk]

/-- R416: before BUDGET is delivered it is no longer pending. -/
theorem Readied.budget {s : State} {k : Nat} {g : Group} (hg : s.group? k = some g) :
    ∃ t g', Readied s k g t g' ∧ s.deliverBudget g = t.takeTrapWith k Cause.budget (fun _ => 0) (g.lanesWhere (·.isFree)) (g.lanesWhere (·.isFree))
      (if g.run.isSome then .held (s.asyncPc g) else .async (s.asyncPc g)) := by
  have hk : g.id = k := findId_key Group.id hg
  refine ⟨_, _, Readied.updGroup hg (f := fun g => { g with budgetPending := false }) fun _ => ⟨rfl, rfl, rfl, rfl, rfl, rfl⟩, ?_⟩
  rw [State.deliverBudget, hk]
  rfl

/-- The lane that ENGINE_FAULT names: the lowest free one of the path that issued, or else the lowest free one. -/
def Group.faultLane (g : Group) (f : EngFault) : Nat :=
  if g.lanesWhere (·.isFree) &&& f.lanes ≠ 0 then lowLane (g.lanesWhere (·.isFree) &&& f.lanes) else lowLane (g.lanesWhere (·.isFree))

/-- R292: before a report of ENGINE_FAULT is delivered it is taken from the list. -/
theorem Readied.fault {s : State} {k : Nat} {g : Group} (hg : s.group? k = some g) {f : EngFault} {rest : List EngFault} (hf : g.faults = f :: rest) :
    ∃ t g', Readied s k g t g' ∧ s.deliverFault g = t.takeTrapWith k Cause.engineFault (fun _ => f.info) (maskOf [g.faultLane f])
      (g.lanesWhere (·.isFree)) (.async (s.asyncPc g)) := by
  have hk : g.id = k := findId_key Group.id hg
  refine ⟨_, _, Readied.updGroup hg (f := fun g => { g with faults := rest }) fun _ => ⟨rfl, rfl, rfl, rfl, rfl, rfl⟩, ?_⟩
  simp only [State.deliverFault, hf, hk]
  rfl

/-- ASYNC_TRAP_DELIVERY delivers the trap that is due. -/
theorem exec_asyncTrapDelivery {s : State} {k : Nat} {g : Group} {c : Nat} (hg : s.group? k = some g) (hc : g.asyncDue = some c) :
    exec (.asyncTrapDelivery k) s = .next (if c = Cause.preempt then s.deliverPreempt g else if c = Cause.budget then s.deliverBudget g
      else s.deliverFault g) := by
  show execAsyncTrapDelivery k s = _
  simp only [execAsyncTrapDelivery, hg, hc]
  split
  · rfl
  · split <;> rfl

end Sys2Proof.Machine
end

section
namespace Sys2Proof.Machine

/-! ### SHELF_DEADLOCK (R174) -/

theorem State.flagBlocked_handler {s : State} {la : Launch} {g : Group} {ln : Lane} (h : s.flagBlocked la g ln = true) : g.handler = none := by
  simp only [State.flagBlocked, Bool.and_eq_true, Option.isNone_iff_eq_none] at h
  exact h.1.1.1.1.1.2

theorem State.deadlockTrap_reports {s : State} {p : Pool} {gid : Nat} {g : Group} {la : Launch} {low : Lane} (hg : s.group? gid = some g)
    (hla : s.launch? g.launch = some la) (hst : la.st ≠ .ended) (hentry : la.rcd.handlers.getD g.level 0 = 0) (info : Word)
    (hlow : g.lanes.find? (fun ln => ((s.pool la.id p.level p.core).map (·.elem)).contains ln.elem && s.flagBlocked la g ln) = some low)
    (hln : (g.lane? (lowLane (g.lanesWhere (fun ln => ln.pc = low.pc && s.flagBlocked la g ln)))).isSome = true) :
    EndsReported s (s.deadlockTrap la p info gid) la (BitVec.ofNat 32 Cause.shelfDeadlock) info low.pc
      (g.lanesWhere (fun ln => ln.pc = low.pc && s.flagBlocked la g ln)) := by
  have hh : g.handler = none := by
    have hfound := List.find?_some hlow
    rw [Bool.and_eq_true] at hfound
    exact State.flagBlocked_handler hfound.2
  have hrep := State.trapHeader_reports hg hla hst (.inr hentry) Cause.shelfDeadlock info low.pc hln
  rw [hh] at hrep
  simpa only [State.deadlockTrap, hg, hlow, Option.isSome_none, Bool.false_eq_true, if_false] using hrep

/-- R174: where no lane of the launch is blocked, firmware ends it. -/
theorem State.breakPool_reports {s : State} {p : Pool} {la : Launch} (hla : s.launch? la.id = some la) (hst : la.st ≠ .ended)
    (hfree : ∀ g ∈ s.groups, g.launch = la.id → ∀ ln ∈ g.lanes, s.flagBlocked la g ln = false) :
    EndsReported s (s.breakPool la p) la (BitVec.ofNat 32 Cause.shelfDeadlock) (s.deadlockInfo la p) 0 0 := by
  have hnone : (s.groups.filter (fun g => g.launch = la.id &&
      g.lanes.any (fun ln => ((s.pool la.id p.level p.core).map (·.elem)).contains ln.elem && s.flagBlocked la g ln))) = [] := by
    refine List.filter_eq_nil_iff.mpr fun g hg h => ?_
    simp only [Bool.and_eq_true, decide_eq_true_eq, List.any_eq_true] at h
    obtain ⟨hlaunch, ln, hln, -, hblocked⟩ := h
    rw [hfree g hg hlaunch ln hln] at hblocked
    cases hblocked
  simp only [State.breakPool, hnone, List.map_nil, List.isEmpty_nil, if_true]
  exact State.endLaunch_reports hla hst _ _ 0 0

/-- Settles O58: every such trap goes through `State.takeTrapWith`, or straight to `State.endLaunch`. -/
theorem unhandledTrapEndsTheLaunch : Obligations.UnhandledTrapEndsTheLaunch := by
  refine ⟨fun s gid cause info lanes g r la hg hr hla hst hln hno => State.trapAt_reports hg hr hla hst hno cause info hln,
    fun s gid cause info lanes pc g la hg hla hst hln hno => State.trapHeader_reports hg hla hst hno cause info pc hln, ?async,
    fun s p info gid g la low hg hla hst hentry hlow hln => State.deadlockTrap_reports hg hla hst hentry info hlow hln,
    fun s p la hla hst hfree => State.breakPool_reports hla hst hfree⟩
  intro s k g la pc hg hla hst hentry
  refine ⟨fun hdue hplace ln hln => ?_, fun hdue hplace hln => ?_, fun f rest hdue hplace hf hln => ?_⟩
  · obtain ⟨hr, hh⟩ := Group.asyncDue_some hdue
    obtain ⟨-, -, hhb, hlv, hlb, hrb⟩ := g.freeBlocked_fields
    obtain ⟨t, g', hready, heq⟩ := Readied.preempt hg
    rw [State.asyncPc_eq (hrb.trans hr) hplace] at heq
    refine ⟨_, (exec_asyncTrapDelivery hg hdue).trans (congrArg _ heq), ?_⟩
    exact hready.reports (by rw [hlb, hla]) hst (hhb.trans hh) (by rw [hlv, hentry]) _ (fun ln => BitVec.ofNat 32 ln.pc) hln _ pc
  · obtain ⟨hr, hh⟩ := Group.asyncDue_some hdue
    obtain ⟨ln, hln⟩ := Option.isSome_iff_exists.mp hln
    obtain ⟨t, g', hready, heq⟩ := Readied.budget hg
    rw [State.asyncPc_eq hr hplace, hr] at heq
    exact ⟨_, (exec_asyncTrapDelivery hg hdue).trans (congrArg _ heq), hready.reports hla hst hh hentry _ (fun _ => 0) hln _ pc⟩
  · obtain ⟨hr, hh⟩ := Group.asyncDue_some hdue
    obtain ⟨ln, hln⟩ := Option.isSome_iff_exists.mp hln
    obtain ⟨t, g', hready, heq⟩ := Readied.fault hg hf
    rw [State.asyncPc_eq hr hplace] at heq
    exact ⟨_, (exec_asyncTrapDelivery hg hdue).trans (congrArg _ heq), hready.reports hla hst hh hentry _ (fun _ => f.info) hln _ pc⟩

end Sys2Proof.Machine
end

section
namespace Sys2Proof.Machine

/-! ### The steps of issue that nothing of the group's clause starts -/

/-- R464: while a missing translation holds an instruction, BUDGET that ends the wait is delivered although none is due at a boundary. -/
theorem exec_asyncTrapDelivery_held {s : State} {k : Nat} {g : Group} (hg : s.group? k = some g) (hc : g.asyncDue = none)
    (he : s.budgetEndsWait g = true) : exec (.asyncTrapDelivery k) s = .next (s.deliverBudget g) := by
  show execAsyncTrapDelivery k s = _
  simp only [execAsyncTrapDelivery, hg, hc, he, if_true]

theorem State.budgetEndsWait_handler {s : State} {g : Group} (h : s.budgetEndsWait g = true) : g.handler = none := by
  simp only [State.budgetEndsWait, Bool.and_eq_true, Option.isNone_iff_eq_none] at h
  exact h.1.1.2

/-- R416 to R418: an asynchronous trap with a handler for the level is delivered to it. -/
theorem asyncTrap_delivers {s : State} {k : Nat} {g : Group} {la : Launch} (hg : s.group? k = some g) (hla : s.launch? g.launch = some la)
    (hentry : la.rcd.handlers.getD g.level 0 ≠ 0) :
    let entry := la.rcd.handlers.getD g.level 0
    let free := g.lanesWhere (·.isFree)
    (g.asyncDue = some Cause.preempt → ∀ pc, trapPlace s g.freeBlocked pc →
      Delivers s k g.freeBlocked entry Cause.preempt pc (fun ln => BitVec.ofNat 32 ln.pc) (g.freeBlocked.lanesWhere (·.unexited))
        (g.freeBlocked.lanesWhere (·.unexited)) none) ∧
    (g.asyncDue = some Cause.budget → ∀ pc, trapPlace s g pc → Delivers s k g entry Cause.budget pc (fun _ => 0) free free none) ∧
    (g.asyncDue = some Cause.engineFault → ∀ pc f rest, trapPlace s g pc → g.faults = f :: rest →
      Delivers s k g entry Cause.engineFault pc (fun _ => f.info) (maskOf [g.faultLane f]) free none) ∧
    (∀ r, g.asyncDue = none → s.budgetEndsWait g = true → g.run = some r → Delivers s k g entry Cause.budget r.hdr (fun _ => 0) free free (some r)) := by
  refine ⟨fun hdue pc hplace => ?_, fun hdue pc hplace => ?_, fun hdue pc f rest hplace hf => ?_, fun r hdue hends hr => ?_⟩
  · obtain ⟨hr, hh⟩ := Group.asyncDue_some hdue
    obtain ⟨-, -, hhb, hlv, hlb, hrb⟩ := g.freeBlocked_fields
    obtain ⟨t, g', hready, heq⟩ := Readied.preempt hg
    have hexec := (exec_asyncTrapDelivery hg hdue).trans (congrArg _ heq)
    rw [State.asyncPc_eq (hrb.trans hr) hplace] at hexec
    have hdel := hready.delivers (by rw [hlb, hla]) (hhb.trans hh) (by rwa [hlv]) hexec
    rw [hlv] at hdel
    exact hdel
  · obtain ⟨hr, hh⟩ := Group.asyncDue_some hdue
    obtain ⟨t, g', hready, heq⟩ := Readied.budget hg
    have hexec := (exec_asyncTrapDelivery hg hdue).trans (congrArg _ heq)
    rw [State.asyncPc_eq hr hplace, hr] at hexec
    exact hready.delivers hla hh hentry hexec
  · obtain ⟨hr, hh⟩ := Group.asyncDue_some hdue
    obtain ⟨t, g', hready, heq⟩ := Readied.fault hg hf
    have hexec := (exec_asyncTrapDelivery hg hdue).trans (congrArg _ heq)
    rw [State.asyncPc_eq hr hplace] at hexec
    exact hready.delivers hla hh hentry hexec
  · obtain ⟨t, g', hready, heq⟩ := Readied.budget hg
    have hpc : s.asyncPc g = r.hdr := by simp only [State.asyncPc, hr]
    have hexec := (exec_asyncTrapDelivery_held hg hdue hends).trans (congrArg _ heq)
    rw [hpc, if_pos (by rw [hr]; rfl)] at hexec
    exact hr ▸ hready.delivers hla (State.budgetEndsWait_handler hends) hentry hexec

/-! ### Budgets and power (R412, R414) -/

section
variable {s : State} {k : Nat} {b : Block} (hb : s.block? k = some b) (hst : b.st = .admitted) (hcount : b.counting = true)
  (hleft : b.budgetLeft = 0)
include hb hst hcount hleft

theorem exec_sliceBudgetExpiry_refill (hbudget : (s.recOf b.launch).elim 0 (·.budget) ≠ 0) (href : b.refilled = false) :
    exec (.sliceBudgetExpiry k) s = .next { s.updBlock k (fun x => { x with budgetLeft := (s.recOf b.launch).elim 0 (·.budget) * 1024, refilled := true }) with
      groups := s.groups.map (fun g => if g.block = k then { g with budgetPending := true } else g) } := by
  show execSliceBudgetExpiry k s = _
  simp [execSliceBudgetExpiry, hb, hst, hcount, hleft, hbudget, href]

/-- R412: a slice that was refilled ends its launch; what the report gives for the place and the lanes is drawn. -/
theorem exec_sliceBudgetExpiry_ends {la : Launch} (hla : s.launch? b.launch = some la) (hend : la.st ≠ .ended) (hbudget : la.rcd.budget ≠ 0)
    (href : b.refilled = true) : ∃ (t : State) (pc : Word) (lanes : LaneMask), exec (.sliceBudgetExpiry k) s = .next t ∧
      EndsReported s t la (BitVec.ofNat 32 Cause.budget) 0 pc.toNat lanes := by
  have hid : la.id = b.launch := findId_key Launch.id hla
  have hexec : exec (.sliceBudgetExpiry k) s = .next (s.draw.2.draw.2.endLaunch b.launch (BitVec.ofNat 32 Cause.budget) 0
      (s.draw.1.setWidth 32) s.draw.2.draw.1) := by
    show execSliceBudgetExpiry k s = _
    simp [execSliceBudgetExpiry, hb, hst, hcount, hleft, hbudget, href, State.recOf, hla]
  have hdrawn : Told s s.draw.2.draw.2 := ⟨rfl, rfl, rfl, rfl, rfl⟩
  refine ⟨_, s.draw.1.setWidth 32, s.draw.2.draw.1, hexec, EndsReported.of_told hdrawn ?_⟩
  have hrep := State.endLaunch_reports (s := s.draw.2.draw.2) (hid ▸ hla) hend (BitVec.ofNat 32 Cause.budget) 0 (s.draw.1.setWidth 32 : Word).toNat
    s.draw.2.draw.1
  rwa [hid, BitVec.ofNat_toNat, BitVec.setWidth_eq] at hrep

end

/-- R414: the fraction of a queue with this budget and this estimate. -/
theorem issueFraction_eq (budget x : Word) : issueFraction budget.toNat x.toNat =
    if budget = 0 ∨ x.toNat ≤ budget.toNat then 16 else max 1 (16 * budget.toNat / x.toNat) := by
  have hz : budget.toNat = 0 ↔ budget = 0 := by rw [← BitVec.toNat_inj]; rfl
  by_cases h : budget = 0 ∨ x.toNat ≤ budget.toNat
  · rw [if_pos h, issueFraction, if_neg]
    rw [← hz] at h
    simp only [Bool.and_eq_true, decide_eq_true_eq]
    omega
  · rw [if_neg h, issueFraction, if_pos]
    rw [← hz] at h
    simp only [Bool.and_eq_true, decide_eq_true_eq]
    omega

theorem exec_powerWindow (s : State) (w : PowerReport) : ∃ t : State, exec (.powerWindow w) s = .next t ∧
    t = { s with powerTotal := w.total, queues := t.queues } ∧
    t.queues.map (fun q => (q.num, q.estimate, q.fraction)) = s.queues.map (fun q =>
      let x : Word := ((w.queues.find? (fun y => y.1 = q.num)).map (·.2)).getD 0
      (q.num, x, if q.budget = 0 ∨ x.toNat ≤ q.budget.toNat then 16 else max 1 (16 * q.budget.toNat / x.toNat))) := by
  refine ⟨_, rfl, rfl, ?_⟩
  rw [List.map_map]
  exact List.map_congr_left fun q _ => congrArg (fun n => (q.num, _, n)) (issueFraction_eq q.budget _)

/-! ### Faults offered and lines filled (R431, R467) -/

theorem exec_translationFaultOffer_peer {s : State} {k : Nat} {p : PageFault} (hp : findId PageFault.id k s.faults = some p) (hr : p.reason = 3) :
    exec (.translationFaultOffer k) s = .next s := by
  show execTranslationFaultOffer k s = _
  simp [execTranslationFaultOffer, hp, hr]

theorem exec_translationFaultOffer {s : State} {k : Nat} {p : PageFault} (hp : findId PageFault.id k s.faults = some p) (ho : p.offered = false)
    (hr : p.reason ≠ 3) : exec (.translationFaultOffer k) s = .next { s with
      faults := updId PageFault.id k (fun p => { p with offered := true }) s.faults
      completions := s.completions ++ [{ queue := 1 + 4 * p.tenant, tag := 0xFFFF, opcode := 0, kind := 3, status := 0
                                         value := BitVec.ofNat 64 p.va, detail := BitVec.ofNat 128 p.id }] } := by
  show execTranslationFaultOffer k s = _
  simp only [execTranslationFaultOffer, hp, ho, Bool.false_or, decide_eq_true_eq, if_neg hr]
  rfl

/-- R467: the first group of the code whose path the line serves traps there. -/
theorem exec_icacheFillAuth {s : State} {code line : Nat} {c : Code} {g : Group} {p : Path} (hc : s.code? code = some c) (hline : s.lineOk c line = false)
    (hg : (s.groups.filter (fun g => g.run.isNone && g.asyncDue.isNone && !g.done && ((s.launch? g.launch).elim false (fun la => la.code = code)))).head? =
      some g) (hp : g.paths.find? (fun p => s.clauseIn c p.pc line) = some p) :
    exec (.icacheFillAuth code line) s = .next (s.trapHeader g.id Cause.codeAuth (BitVec.ofNat 32 line) p.lanes p.pc) := by
  obtain ⟨gs, hgs⟩ := List.head?_eq_some_iff.mp hg
  show execIcacheFillAuth code line s = _
  simp only [execIcacheFillAuth, hc, hline, Bool.false_eq_true, if_false, hgs, List.findSome?_cons, hp, Option.map_some]

/-- Settles O37: one lemma for each of the steps. -/
theorem issuingEvents : Obligations.IssuingEvents :=
  ⟨fun _ _ _ _ => exec_asyncTrapDelivery, fun _ _ _ _ hg hla hentry => asyncTrap_delivers hg hla hentry,
    fun _ _ _ _ hb hbudget hne hst hcount hleft href => hbudget ▸ exec_sliceBudgetExpiry_refill hb hst hcount hleft (hbudget ▸ hne) href,
    fun _ _ _ _ hb hla hend hne hst hcount hleft href => exec_sliceBudgetExpiry_ends hb hst hcount hleft hla hend hne href, exec_powerWindow,
    fun _ _ _ => exec_translationFaultOffer_peer, fun _ _ _ => exec_translationFaultOffer, fun _ _ _ _ _ _ => exec_icacheFillAuth⟩

end Sys2Proof.Machine
end

section
namespace Sys2Proof.Machine

/-! ### Lane masks -/

theorem mem_lanesOf {m : LaneMask} {l : Nat} : l ∈ lanesOf m ↔ m.getLsbD l = true := by
  simp only [lanesOf, List.mem_filter, List.mem_range]
  exact ⟨fun h => h.2, fun h => ⟨BitVec.lt_of_getLsbD h, h⟩⟩

theorem getLsbD_bit (l i : Nat) : ((1#64 <<< l) : LaneMask).getLsbD i = (decide (i < 64) && (i == l)) := by
  rw [BitVec.getLsbD_shiftLeft, BitVec.getLsbD_one, Bool.eq_iff_iff]
  simp only [Bool.and_eq_true, decide_eq_true_eq, beq_iff_eq, Bool.not_eq_true', decide_eq_false_iff_not]
  omega

theorem getLsbD_foldl_mask (ls : List Nat) (m : LaneMask) (i : Nat) :
    (ls.foldl (fun m l => m ||| (1#64 <<< l)) m).getLsbD i = (m.getLsbD i || (decide (i < 64) && ls.contains i)) := by
  induction ls generalizing m with
  | nil => simp
  | cons l ls ih =>
    rw [List.foldl_cons, ih, BitVec.getLsbD_or, getLsbD_bit, List.contains_cons, Bool.or_assoc, Bool.and_or_distrib_left]

theorem getLsbD_maskOf (ls : List Nat) (i : Nat) : (maskOf ls).getLsbD i = (decide (i < 64) && ls.contains i) := by
  rw [maskOf, getLsbD_foldl_mask]
  simp

/-- The lanes of a mask make that mask. -/
theorem maskOf_eq_of_mem {ls : List Nat} {m : LaneMask} (h : ∀ i, i < 64 → (i ∈ ls ↔ m.getLsbD i = true)) : maskOf ls = m := by
  refine BitVec.eq_of_getLsbD_eq fun i hi => ?_
  rw [getLsbD_maskOf, decide_eq_true hi, Bool.true_and]
  exact Bool.eq_iff_iff.mpr (List.contains_iff_mem.trans (h i hi))

theorem Group.getLsbD_lanesWhere (g : Group) (p : Lane → Bool) {l : Nat} (hl : l < 64) :
    (g.lanesWhere p).getLsbD l = (g.lane? l).elim false p := by
  have hmem : (((g.lanes.zipIdx.filter (fun x => p x.1)).map (·.2)).contains l = true) ↔ (g.lane? l).elim false p = true := by
    simp only [List.contains_iff_mem, List.mem_map, List.mem_filter, List.mem_zipIdx_iff_getElem?, Group.lane?]
    constructor
    · rintro ⟨⟨ln, i⟩, ⟨hi, hp⟩, rfl⟩
      rw [hi]
      exact hp
    · intro h
      cases hg : g.lanes[l]? with
      | none => simp [hg] at h
      | some ln => exact ⟨(ln, l), ⟨hg, by simpa [hg] using h⟩, rfl⟩
  rw [Group.lanesWhere, getLsbD_maskOf, decide_eq_true hl, Bool.true_and]
  exact Bool.eq_iff_iff.mpr hmem

/-! ### The lanes of X -/

/-- R26: a lane of X is of the path, and its guard is true. -/
theorem Group.active_spec {g : Group} {r : Run} {gd : Guard} {l : Nat} (h : (g.active r gd).getLsbD l = true) :
    r.lanes.getLsbD l = true ∧ ∃ ln, g.lane? l = some ln ∧ (ln.pred gd.idx.toNat != gd.neg) = true := by
  have hguarded : (g.guarded r.lanes gd).getLsbD l = true := by
    unfold Group.active at h
    split at h
    · exact (Bool.and_eq_true_iff.mp (BitVec.getLsbD_and .. ▸ h)).1
    · exact h
  rw [Group.guarded, BitVec.getLsbD_and, Bool.and_eq_true] at hguarded
  obtain ⟨hpath, hwhere⟩ := hguarded
  rw [Group.getLsbD_lanesWhere _ _ (BitVec.lt_of_getLsbD hpath)] at hwhere
  cases hln : g.lane? l with
  | none => simp [hln] at hwhere
  | some ln => exact ⟨hpath, ln, rfl, by simpa [hln] using hwhere⟩

theorem Env.mem_lanes {e : Env} {l : Nat} {ln : Lane} : (l, ln) ∈ e.lanes ↔ e.x.getLsbD l = true ∧ e.g.lane? l = some ln := by
  simp only [Env.lanes, List.mem_filterMap, mem_lanesOf, Option.map_eq_some_iff, Prod.mk.injEq]
  exact ⟨fun ⟨_, hx, _, hln, rfl, rfl⟩ => ⟨hx, hln⟩, fun ⟨hx, hln⟩ => ⟨l, hx, ln, hln, rfl, rfl⟩⟩

/-- The lanes of X make X: each of them exists. -/
theorem State.env_maskOf_lanes {s : State} {gd : Guard} {e : Env} (h : s.env gd = some e) : maskOf (e.lanes.map (·.1)) = e.x := by
  obtain ⟨-, -, -, -, -, hx⟩ := State.env_spec h
  refine maskOf_eq_of_mem fun i _ => ⟨fun hi => ?_, fun hi => ?_⟩
  · obtain ⟨⟨l, ln⟩, hc, rfl⟩ := List.mem_map.mp hi
    exact (Env.mem_lanes.mp hc).1
  · obtain ⟨-, ln, hln, -⟩ := Group.active_spec (hx ▸ hi)
    exact List.mem_map.mpr ⟨(i, ln), Env.mem_lanes.mpr ⟨hi, hln⟩, rfl⟩

/-- The lanes of X stand in ascending order, each once. -/
theorem Env.lanes_sorted (e : Env) : e.lanes.Pairwise (fun a b => a.1 < b.1) := by
  refine List.Pairwise.filterMap _ (fun l l' hlt c hc c' hc' => ?_) (List.pairwise_lt_range.sublist List.filter_sublist)
  obtain ⟨_, -, rfl⟩ := Option.map_eq_some_iff.mp hc
  obtain ⟨_, -, rfl⟩ := Option.map_eq_some_iff.mp hc'
  exact hlt

/-! ### An instruction that runs -/

/-- Where an instruction runs, its body decides. -/
theorem Runs.effect {op : Op} {f : Form} {runs : Env → List (Nat × Nat)} {s : State} {e : Env} (h : Runs op f runs s e) (body : Env → Res) :
    runWith op f runs s body = s.finish e op f (body e) :=
  runWith_effect body h.env h.some h.clear

/-- So it does where the entry's own ILLEGAL_FORM is not met. -/
theorem Runs.effect_own {op : Op} {f : Form} {runs : Env → List (Nat × Nat)} {s : State} {e : Env} (h : Runs op f runs s e)
    {own : Env → Option (Word × LaneMask)} (hown : own e = none) (body : Env → Res) :
    runWith op f runs s body own = s.finish e op f (body e) :=
  runWith_effect body h.env h.some (by rw [hown, firstCause_none, h.clear])

end Sys2Proof.Machine
end

section
namespace Sys2Proof.Machine

/-! ### Instructions that act on every lane whose access passes (R278) -/

/-- One lane that passes is performed. -/
def partStep (e : Env) (act : State → Nat → Lane → Chk → State × List (RegRef × Word)) (acc : State × List (Nat × List (RegRef × Word)))
    (c : Nat × Nat × Chk) : State × List (Nat × List (RegRef × Word)) :=
  match e.g.lane? c.1 with
  | none => acc
  | some ln => ((act acc.1 c.1 ln c.2.2).1, acc.2 ++ [(c.1, (act acc.1 c.1 ln c.2.2).2)])

/-- One lane of X is performed at the addresses that its access found. -/
def orderStep (cs : List (Nat × Nat × Chk)) (act : State → Nat → Lane → List Nat → State × List (RegRef × Word))
    (acc : State × List (Nat × List (RegRef × Word))) (c : Nat × Lane) : State × List (Nat × List (RegRef × Word)) :=
  match chkOf cs c.1 with
  | .ok as => ((act acc.1 c.1 c.2 as).1, acc.2 ++ [(c.1, (act acc.1 c.1 c.2 as).2)])
  | _ => (acc.1, acc.2 ++ [(c.1, [])])

theorem inLaneOrder_eq (s : State) (e : Env) (cs : List (Nat × Nat × Chk)) (act : State → Nat → Lane → List Nat → State × List (RegRef × Word)) :
    inLaneOrder s e cs act = e.lanes.foldl (orderStep cs act) (s, []) := rfl

/-- The checks of the lanes of X. -/
def Env.checks (e : Env) (k : Nat) (chk : Nat × Lane → Chk) : List (Nat × Nat × Chk) := e.lanes.map (fun c => (c.1, k, chk c))

/-- Performing a lane changes memory alone, and as `act` says where the access found addresses; a lane under .Z that found none is left. -/
structure Performs (act : State → Nat → Lane → List Nat → State × List (RegRef × Word))
    (act' : State → Nat → Lane → Chk → State × List (RegRef × Word)) : Prop where
  ok : ∀ t l ln as, act' t l ln (.ok as) = act t l ln as
  skip : ∀ t l ln, act' t l ln .skip = (t, [])
  mem : ∀ t l ln as, ∃ m, (act t l ln as).1 = { t with mem := m }

section
variable {e : Env} {k : Nat} {chk : Nat × Lane → Chk} {act : State → Nat → Lane → List Nat → State × List (RegRef × Word)}
  {act' : State → Nat → Lane → Chk → State × List (RegRef × Word)} (hact : Performs act act')

include hact in
theorem partStep_eq_orderStep {c : Nat × Lane} (hc : c ∈ e.lanes) (hg : (chk c).good = true) (acc : State × List (Nat × List (RegRef × Word))) :
    partStep e act' acc (c.1, k, chk c) = orderStep (e.checks k chk) act acc c := by
  have hchk : chkOf (e.checks k chk) c.1 = chk c := chkOf_map hc
  rw [partStep, orderStep, hchk, Env.lane_of_mem hc]
  cases h : chk c with
  | ok as => simp only [hact.ok]
  | skip => simp only [hact.skip]
  | _ => simp [h, Chk.good] at hg

/-- A lane that does not pass is left. -/
theorem orderStep_fst_of_bad {c : Nat × Lane} (hc : c ∈ e.lanes) (hg : (chk c).good = false) (acc : State × List (Nat × List (RegRef × Word))) :
    (orderStep (e.checks k chk) act acc c).1 = acc.1 := by
  have hchk : chkOf (e.checks k chk) c.1 = chk c := chkOf_map hc
  rw [orderStep, hchk]
  cases h : chk c with
  | ok as => simp [h, Chk.good] at hg
  | _ => rfl

theorem orderStep_fst_congr (c : Nat × Lane) (cs : List (Nat × Nat × Chk)) {acc acc' : State × List (Nat × List (RegRef × Word))} (h : acc.1 = acc'.1) :
    (orderStep cs act acc c).1 = (orderStep cs act acc' c).1 := by
  unfold orderStep
  split <;> simp [h]

include hact in
/-- The lanes that pass, one after the other, leave the state that all lanes of X leave. -/
theorem foldl_partStep_fst (ls : List (Nat × Lane)) (hls : ∀ c ∈ ls, c ∈ e.lanes) {acc acc' : State × List (Nat × List (RegRef × Word))}
    (h : acc.1 = acc'.1) :
    (((ls.map (fun c => (c.1, k, chk c))).filter (fun c => c.2.2.good)).foldl (partStep e act') acc).1 =
      (ls.foldl (orderStep (e.checks k chk) act) acc').1 := by
  induction ls generalizing acc acc' with
  | nil => exact h
  | cons c ls ih =>
    have hc := hls c (List.mem_cons_self ..)
    have hls' := fun d hd => hls d (List.mem_cons_of_mem _ hd)
    rw [List.map_cons, List.foldl_cons]
    by_cases hg : (chk c).good = true
    · rw [List.filter_cons_of_pos (p := fun c : Nat × Nat × Chk => c.2.2.good) (a := (c.1, k, chk c)) hg, List.foldl_cons]
      refine ih hls' ?_
      rw [partStep_eq_orderStep hact hc hg]
      exact orderStep_fst_congr c _ h
    · rw [List.filter_cons_of_neg (p := fun c : Nat × Nat × Chk => c.2.2.good) (a := (c.1, k, chk c)) hg]
      refine ih hls' ?_
      rw [orderStep_fst_of_bad hc (by simpa using hg), h]

include hact in
/-- Where every lane passes, what they are to write is the same too. -/
theorem foldl_partStep_of_good (ls : List (Nat × Lane)) (hls : ∀ c ∈ ls, c ∈ e.lanes ∧ (chk c).good = true)
    (acc : State × List (Nat × List (RegRef × Word))) :
    (ls.map (fun c => (c.1, k, chk c))).foldl (partStep e act') acc = ls.foldl (orderStep (e.checks k chk) act) acc := by
  induction ls generalizing acc with
  | nil => rfl
  | cons c ls ih =>
    obtain ⟨hc, hg⟩ := hls c (List.mem_cons_self ..)
    rw [List.map_cons, List.foldl_cons, List.foldl_cons, partStep_eq_orderStep hact hc hg]
    exact ih (fun d hd => hls d (List.mem_cons_of_mem _ hd)) _

end

/-- Checks that all pass have the verdict that nothing is wrong. -/
theorem verdict_of_allGood {cs : List (Nat × Nat × Chk)} (h : allGood cs) : verdict cs = .fine := by
  have hgood : ∀ c ∈ cs, (∃ as, c.2.2 = .ok as) ∨ c.2.2 = .skip := fun c hc => by
    have hg := h c hc
    cases hck : c.2.2 <;> simp [hck, Chk.good] at hg ⊢
  have hnone : ∀ {β : Type} (p : Nat × Nat × Chk → Option β), (∀ c, (∃ as, c.2.2 = .ok as) ∨ c.2.2 = .skip → p c = none) →
      cs.filterMap p = [] := fun p hp => List.filterMap_eq_nil_iff.mpr fun c hc => hp c (hgood c hc)
  have hbusy : cs.any (fun c => c.2.2 = .busy) = false := List.any_eq_false.mpr fun c hc => by
    obtain ⟨as, hck⟩ | hck := hgood c hc <;> simp [hck]
  simp only [verdict]
  rw [hnone, hnone, hnone, hbusy]
  · rfl
  all_goals
    rintro c (⟨as, hck⟩ | hck) <;> simp only [hck]


/-- The lanes that pass. -/
def goodLanes (cs : List (Nat × Nat × Chk)) : LaneMask := maskOf ((cs.filter (fun c => c.2.2.good)).map (·.1))

/-- What the lanes that pass have done, and are to write. -/
def partRun (s : State) (e : Env) (cs : List (Nat × Nat × Chk)) (act : State → Nat → Lane → Chk → State × List (RegRef × Word)) :
    State × List (Nat × List (RegRef × Word)) := (cs.filter (fun c => c.2.2.good)).foldl (partStep e act) (s, [])

/-- The state in which a part of the instruction has issued. -/
def partState (s : State) (e : Env) (f : Form) (cs : List (Nat × Nat × Chk)) (act : State → Nat → Lane → Chk → State × List (RegRef × Word)) : State :=
  if goodLanes cs = 0 then s else issuesWith (partRun s e cs act).1 { e with x := goodLanes cs } f (partRun s e cs act).2

/-- R278: an instruction performed in part, while no lane must wait. -/
theorem State.someOfAll_eq {s : State} {e : Env} {f : Form} {cs : List (Nat × Nat × Chk)} (hbusy : ∀ c ∈ cs, c.2.2 ≠ .busy)
    (act : State → Nat → Lane → Chk → State × List (RegRef × Word)) :
    s.someOfAll e f cs act = match verdict cs with
      | .fine => .ok (partState s e f cs act)
      | .busy => .stall
      | .stop a => .stop (.noSuchMemory a)
      | .trap cause info _ => .part (partState s e f cs act) (goodLanes cs) cause info (e.x &&& ~~~goodLanes cs)
      | .miss va level reason k =>
        .partHold ((partState s e f cs act).pageFault e.la.tenant va level reason k false).2 (goodLanes cs) (e.x &&& ~~~goodLanes cs)
          ((partState s e f cs act).pageFault e.la.tenant va level reason k false).1 := by
  have hany : cs.any (fun c => c.2.2 = .busy) = false := List.any_eq_false.mpr fun c hc => by simpa using hbusy c hc
  rw [State.someOfAll, if_neg (by rw [hany]; exact Bool.false_ne_true)]
  rfl


/-! ### Every lane passes -/

section
variable {s : State} {e : Env} {f : Form} {k : Nat} {chk : Nat × Lane → Chk}
  {act : State → Nat → Lane → List Nat → State × List (RegRef × Word)} {act' : State → Nat → Lane → Chk → State × List (RegRef × Word)}

theorem goodLanes_of_allGood (he : s.env f.guard = some e) (hgood : allGood (e.checks k chk)) : goodLanes (e.checks k chk) = e.x := by
  have hall : (e.checks k chk).filter (fun c => c.2.2.good) = e.checks k chk := List.filter_eq_self.mpr hgood
  rw [goodLanes, hall, Env.checks, List.map_map]
  exact State.env_maskOf_lanes he

theorem partRun_of_allGood (hact : Performs act act') (hgood : allGood (e.checks k chk)) :
    partRun s e (e.checks k chk) act' = inLaneOrder s e (e.checks k chk) act := by
  have hall : (e.checks k chk).filter (fun c => c.2.2.good) = e.checks k chk := List.filter_eq_self.mpr hgood
  rw [partRun, hall]
  exact foldl_partStep_of_good hact e.lanes (fun c hc => ⟨hc, hgood _ (List.mem_map_of_mem hc)⟩) (s, [])

/-- R236, R278: where every lane passes, the lanes of X are performed in ascending order and the instruction issues on all of them. -/
theorem State.someOfAll_of_allGood (hact : Performs act act') (he : s.env f.guard = some e) (hx : e.x ≠ 0) (hgood : allGood (e.checks k chk)) :
    s.someOfAll e f (e.checks k chk) act' =
      .ok (issuesWith (inLaneOrder s e (e.checks k chk) act).1 e f (inLaneOrder s e (e.checks k chk) act).2) := by
  have hbusy : ∀ c ∈ e.checks k chk, c.2.2 ≠ .busy := fun c hc hb => by
    have hg := hgood c hc
    simp [hb, Chk.good] at hg
  rw [State.someOfAll_eq hbusy, verdict_of_allGood hgood]
  simp only [partState, goodLanes_of_allGood he hgood, if_neg hx, partRun_of_allGood hact hgood]

/-- Performing lanes changes memory alone. -/
theorem inLaneOrder_eq_mem (hact : ∀ t l ln as, ∃ m, (act t l ln as).1 = { t with mem := m }) (s : State) (e : Env) (cs : List (Nat × Nat × Chk)) :
    ∃ m, (inLaneOrder s e cs act).1 = { s with mem := m } := by
  rw [inLaneOrder_eq]
  refine List.foldlRecOn (motive := fun acc : State × List (Nat × List (RegRef × Word)) => ∃ m, acc.1 = { s with mem := m }) _ _ ⟨s.mem, rfl⟩
    fun acc hacc c _ => ?_
  obtain ⟨m, hm⟩ := hacc
  unfold orderStep
  split
  next as _ =>
    obtain ⟨m', hm'⟩ := hact acc.1 c.1 c.2 as
    exact ⟨m', by rw [hm', hm]⟩
  · exact ⟨m, hm⟩

/-- What lanes are to write has no part in the state that they leave. -/
theorem inLaneOrder_fst_congr {act₂ : State → Nat → Lane → List Nat → State × List (RegRef × Word)}
    (hact : ∀ t l ln as, (act t l ln as).1 = (act₂ t l ln as).1) (s : State) (e : Env) (cs : List (Nat × Nat × Chk)) :
    (inLaneOrder s e cs act).1 = (inLaneOrder s e cs act₂).1 := by
  rw [inLaneOrder_eq, inLaneOrder_eq]
  suffices h : ∀ (ls : List (Nat × Lane)) (acc acc' : State × List (Nat × List (RegRef × Word))), acc.1 = acc'.1 →
      (ls.foldl (orderStep cs act) acc).1 = (ls.foldl (orderStep cs act₂) acc').1 from h e.lanes _ _ rfl
  intro ls
  induction ls with
  | nil => exact fun _ _ h => h
  | cons c ls ih =>
    refine fun acc acc' h => ih _ _ ?_
    unfold orderStep
    split
    · rw [hact, h]
    · exact h

/-- The state in which a part has issued has the memory that all lanes of X leave, and its groups and launches are as they were. -/
theorem partState_spec (hact : Performs act act') : (partState s e f (e.checks k chk) act').mem = (inLaneOrder s e (e.checks k chk) act).1.mem ∧
    (partState s e f (e.checks k chk) act').groups = s.groups ∧ (partState s e f (e.checks k chk) act').launches = s.launches := by
  have hrun : (partRun s e (e.checks k chk) act').1 = (inLaneOrder s e (e.checks k chk) act).1 :=
    foldl_partStep_fst hact e.lanes (fun _ hc => hc) rfl
  obtain ⟨m, hm⟩ := inLaneOrder_eq_mem hact.mem s e (e.checks k chk)
  unfold partState
  split
  next hz =>
    have hnone : (e.checks k chk).filter (fun c => c.2.2.good) = [] := by
      refine List.filter_eq_nil_iff.mpr fun c hc hg => ?_
      obtain ⟨d, hd, rfl⟩ := List.mem_map.mp hc
      have hbit : (goodLanes (e.checks k chk)).getLsbD d.1 = true := by
        rw [goodLanes, getLsbD_maskOf, decide_eq_true (BitVec.lt_of_getLsbD (Env.mem_lanes.mp hd).1), Bool.true_and, List.contains_iff_mem]
        exact List.mem_map.mpr ⟨_, List.mem_filter.mpr ⟨hc, hg⟩, rfl⟩
      simp [hz] at hbit
    rw [partRun, hnone] at hrun
    exact ⟨congrArg State.mem hrun, rfl, rfl⟩
  · rw [issuesWith, State.addOp_eq, hrun, hm]
    exact ⟨rfl, rfl, rfl⟩

end

end Sys2Proof.Machine
end

section
namespace Sys2Proof.Machine

/-! ### ST, ATOM and RED in full (R268, R271, R272) -/

/-- The storing act of ST on a lane. -/
def stAct (s : State) (e : Env) (f : Form) (t : State) (l : Nat) (ln : Lane) (as : List Nat) : State × List (RegRef × Word) :=
  (t.store as (storeData s e f (memWidth f) l ln), [])

/-- That of ATOM. -/
def atomAct (f : Form) (wide : Bool) (t : State) (_ : Nat) (ln : Lane) (as : List Nat) : State × List (RegRef × Word) :=
  (t.store as (atomStep f wide ln (t.load as)), (LaneRes.of (loadWords (if wide then 8 else 4) false (t.load as))).writes f)

/-- That of RED. -/
def redAct (s : State) (e : Env) (f : Form) (w : Nat) (t : State) (l : Nat) (ln : Lane) (as : List Nat) : State × List (RegRef × Word) :=
  (t.store as (atomNew (8 * w) f.mod.toNat (t.load as) (addend f s e l ln) 0), [])

/-- A lane under .Z whose access found no addresses does nothing. -/
def onAddresses (act : State → Nat → Lane → List Nat → State × List (RegRef × Word)) (t : State) (l : Nat) (ln : Lane) : Chk → State × List (RegRef × Word)
  | .ok as => act t l ln as
  | _ => (t, [])

theorem Performs.onAddresses {act : State → Nat → Lane → List Nat → State × List (RegRef × Word)}
    (hmem : ∀ t l ln as, ∃ m, (act t l ln as).1 = { t with mem := m }) : Performs act (onAddresses act) :=
  ⟨fun _ _ _ _ => rfl, fun _ _ _ => rfl, hmem⟩

theorem redData_eq_addend (s : State) (e : Env) (f : Form) (l : Nat) (ln : Lane) : redData s e f l ln = addend f s e l ln := by
  unfold redData addend
  split
  · rfl
  · by_cases h : f.mod.toNat < 10
    · rw [if_pos h, if_neg (by omega)]
    · rw [if_neg h, if_pos (by omega)]

theorem exec_st (f : Form) (s : State) : exec (.st f) s = runWith .st f (coordRun f) s (fun e =>
    s.someOfAll e f (laneChecks s e f (memWidth f) 1 (memZ f)) (onAddresses (stAct s e f))) := by
  show execSt f s = _
  unfold execSt
  congr 1

theorem exec_atom (f : Form) (s : State) : exec (.atom f) s = runWith .atom f (coordRun f) s (fun e =>
    s.someOfAll e f (laneChecks s e f (if ordD (BitVec.ofNat 10 f.b.uimm) then 8 else 4) 2 false)
      (onAddresses (atomAct f (ordD (BitVec.ofNat 10 f.b.uimm))))) := by
  show execAtom f s = _
  unfold execAtom
  congr 1
  funext e
  cases ordD (BitVec.ofNat 10 f.b.uimm) <;> rfl

theorem exec_red (f : Form) (s : State) : exec (.red f) s = runWith .red f (coordRun f) s (fun e =>
    s.someOfAll e f (laneChecks s e f (if ordD (BitVec.ofNat 10 f.dst.uimm) then 8 else 4) 2 false)
      (onAddresses (redAct s e f (if ordD (BitVec.ofNat 10 f.dst.uimm) then 8 else 4)))) := by
  show execRed f s = _
  unfold execRed
  simp only [redData_eq_addend]
  rfl


theorem stAct_mem (s : State) (e : Env) (f : Form) (t : State) (l : Nat) (ln : Lane) (as : List Nat) :
    ∃ m, (stAct s e f t l ln as).1 = { t with mem := m } := ⟨_, rfl⟩

theorem atomAct_mem (f : Form) (wide : Bool) (t : State) (l : Nat) (ln : Lane) (as : List Nat) :
    ∃ m, (atomAct f wide t l ln as).1 = { t with mem := m } := ⟨_, rfl⟩

theorem redAct_mem (s : State) (e : Env) (f : Form) (w : Nat) (t : State) (l : Nat) (ln : Lane) (as : List Nat) :
    ∃ m, (redAct s e f w t l ln as).1 = { t with mem := m } := ⟨_, rfl⟩

/-- A storing instruction whose lanes all pass issues with what they are to write. -/
theorem runWith_someOfAll {op : Op} {f : Form} {runs : Env → List (Nat × Nat)} {s : State} {e : Env}
    {act : State → Nat → Lane → List Nat → State × List (RegRef × Word)} (hmem : ∀ t l ln as, ∃ m, (act t l ln as).1 = { t with mem := m })
    (h : Runs op f runs s e) {k : Nat} {chk : Nat × Lane → Chk} (body : Env → Res)
    (hbody : body e = s.someOfAll e f (e.checks k chk) (onAddresses act)) (hgood : allGood (e.checks k chk)) :
    runWith op f runs s body = .next ((issuesWith (inLaneOrder s e (e.checks k chk) act).1 e f (inLaneOrder s e (e.checks k chk) act).2).retire e op f) := by
  rw [h.effect, hbody, State.someOfAll_of_allGood (Performs.onAddresses hmem) h.env h.some hgood, State.finish_ok]


theorem exec_st_of_allGood {f : Form} {s : State} {e : Env} (h : Runs .st f (coordRun f) s e) (hgood : allGood (laneChecks s e f (memWidth f) 1 (memZ f))) :
    exec (.st f) s = .next ((issuesWith (inLaneOrder s e (laneChecks s e f (memWidth f) 1 (memZ f)) (stAct s e f)).1 e f
      (inLaneOrder s e (laneChecks s e f (memWidth f) 1 (memZ f)) (stAct s e f)).2).retire e .st f) := by
  rw [exec_st]
  exact runWith_someOfAll (stAct_mem s e f) h _ rfl hgood

theorem exec_atom_of_allGood {f : Form} {s : State} {e : Env} (h : Runs .atom f (coordRun f) s e) {wide : Bool} (hw : ordD (BitVec.ofNat 10 f.b.uimm) = wide)
    (hgood : allGood (laneChecks s e f (if wide then 8 else 4) 2 false)) :
    exec (.atom f) s = .next ((issuesWith (inLaneOrder s e (laneChecks s e f (if wide then 8 else 4) 2 false) (atomAct f wide)).1 e f
      (inLaneOrder s e (laneChecks s e f (if wide then 8 else 4) 2 false) (atomAct f wide)).2).retire e .atom f) := by
  subst hw
  rw [exec_atom]
  exact runWith_someOfAll (atomAct_mem f _) h _ rfl hgood

theorem exec_red_of_allGood {f : Form} {s : State} {e : Env} (h : Runs .red f (coordRun f) s e) {w : Nat}
    (hw : (if ordD (BitVec.ofNat 10 f.dst.uimm) then 8 else 4) = w) (hgood : allGood (laneChecks s e f w 2 false)) :
    exec (.red f) s = .next ((issuesWith (inLaneOrder s e (laneChecks s e f w 2 false) (redAct s e f w)).1 e f
      (inLaneOrder s e (laneChecks s e f w 2 false) (redAct s e f w)).2).retire e .red f) := by
  subst hw
  rw [exec_red]
  exact runWith_someOfAll (redAct_mem s e f _) h _ rfl hgood

/-- Settles O14: where every lane passes, a storing instruction is `inLaneOrder`. -/
theorem storesAndAtomicsWrite : Obligations.StoresAndAtomicsWrite :=
  ⟨fun _ _ _ h hgood => exec_st_of_allGood h hgood, fun _ _ _ h hgood => exec_atom_of_allGood h rfl hgood,
    fun _ _ _ h hgood => exec_red_of_allGood h rfl hgood⟩

end Sys2Proof.Machine
end

section
namespace Sys2Proof.Machine

/-! ### What retiring does to the group of an instruction (R17, R23, R278) -/

/-- The group of an instruction that has taken effect. -/
def Group.retired (g : Group) (e : Env) (op : Op) (f : Form) (clock : Nat) : Group :=
  let g := g.latchClock f e.x clock
  let g := if op.isLong then g.settle e.r f.fsel e.x else g
  if g.resumeOn ∧ g.resumeAt = e.r.cur then { g with resumeOn := false } else g

theorem State.retire_eq_updGroup (s : State) (e : Env) (op : Op) (f : Form) :
    s.retire e op f = s.updGroup e.gid (fun g => g.retired e op f s.clock) := rfl

theorem Group.latchClock_eq (g : Group) (f : Form) (x : LaneMask) (clock : Nat) :
    g.latchClock f x clock = { g with lanes := (g.latchClock f x clock).lanes } := by
  unfold Group.latchClock
  split <;> rfl

theorem Group.settle_eq (g : Group) (r : Run) (fsel : Bool) (x : LaneMask) :
    g.settle r fsel x = { g with flags := (g.settle r fsel x).flags, run := (g.settle r fsel x).run } := by
  rw [Group.settle, Group.subFlag?_eq]

/-- Lanes, flags, the clause in progress and the resume mask may change as an instruction retires, and nothing else of its group. -/
theorem Group.retired_eq (g : Group) (e : Env) (op : Op) (f : Form) (clock : Nat) : g.retired e op f clock =
    { g with lanes := (g.latchClock f e.x clock).lanes, flags := (g.retired e op f clock).flags, run := (g.retired e op f clock).run
             resumeOn := (g.retired e op f clock).resumeOn } := by
  simp only [Group.retired]
  rw [Group.latchClock_eq]
  by_cases hl : op.isLong = true
  · rw [if_pos hl, Group.settle_eq]
    split <;> rfl
  · rw [if_neg hl]
    split <;> rfl

@[simp] theorem Group.retired_id (g : Group) (e : Env) (op : Op) (f : Form) (clock : Nat) : (g.retired e op f clock).id = g.id := by
  rw [Group.retired_eq]

/-- Only the flag that the instruction selects can lose counts. -/
theorem Group.retired_flag_ne (g : Group) (e : Env) (op : Op) (f : Form) (clock : Nat) {i : Nat} (hi : some i ≠ e.r.flagOf f.fsel) :
    (g.retired e op f clock).flag i = g.flag i := by
  have hlatch : (g.latchClock f e.x clock).flag i = g.flag i := by rw [Group.latchClock_eq]; rfl
  have hsettle : ((g.latchClock f e.x clock).settle e.r f.fsel e.x).flag i = g.flag i := by
    refine ((g.latchClock f e.x clock).flag_subFlag? (e.r.flagOf f.fsel) i _).trans ?_
    rw [if_neg (Ne.symm hi), hlatch]
  simp only [Group.retired]
  by_cases hl : op.isLong = true
  · rw [if_pos hl]
    split
    · exact hsettle
    · exact hsettle
  · rw [if_neg hl]
    split
    · exact hlatch
    · exact hlatch

/-- An instruction of fixed latency changes no flag. -/
theorem Group.retired_of_short (g : Group) (e : Env) {op : Op} (f : Form) (clock : Nat) (hl : op.isLong = false) : g.retired e op f clock =
    { g with lanes := (g.latchClock f e.x clock).lanes, resumeOn := (g.retired e op f clock).resumeOn } := by
  simp only [Group.retired]
  rw [Group.latchClock_eq, hl]
  simp only [Bool.false_eq_true, if_false]
  split <;> rfl

/-- A lane reads %clock's high half only as far as it is latched. -/
theorem Group.latchClock_lane? (g : Group) (f : Form) (x : LaneMask) (clock l : Nat) : (g.latchClock f x clock).lane? l =
    (g.lane? l).map (fun ln => if f.reads 17 ∧ x.getLsbD l then { ln with clockHi := BitVec.ofNat 32 (clock / 2 ^ 32) } else ln) := by
  unfold Group.latchClock
  by_cases h : f.reads 17 = true
  · rw [if_pos h, Group.updLanes_lane?]
    simp only [h, true_and]
  · rw [if_neg h]
    simp [h]

/-- But for %clockhi, retiring leaves the lanes of its group. -/
theorem Group.latchClock_lanes (g : Group) (f : Form) (x : LaneMask) (clock : Nat) :
    (g.latchClock f x clock).lanes.map (fun ln => { ln with clockHi := 0 }) = g.lanes.map (fun ln => { ln with clockHi := 0 }) := by
  refine List.ext_getElem? fun l => ?_
  have h := g.latchClock_lane? f x clock l
  simp only [Group.lane?] at h
  rw [List.getElem?_map, List.getElem?_map, h, Option.map_map]
  congr 1
  funext ln
  simp only [Function.comp_apply]
  split <;> rfl

theorem State.retire_group?_self {s : State} {e : Env} {g : Group} (h : s.group? e.gid = some g) (op : Op) (f : Form) :
    (s.retire e op f).group? e.gid = some (g.retired e op f s.clock) := by
  rw [State.retire_eq_updGroup, State.updGroup_group?_self _ _ _ (fun _ => Group.retired_id ..), h, Option.map_some]

/-- An instruction that changes nothing but memory and what is outstanding stores only. -/
theorem StoresOnly.retire {s u : State} {e : Env} {p : Nat → Prop} (hg : s.group? e.gid = some e.g) (hgroups : u.groups = s.groups)
    (hslots : u.slots = s.slots) (hblocks : u.blocks = s.blocks) (howners : u.owners = s.owners) (op : Op) (f : Form)
    (hmem : ∀ a, ¬ p a → u.byte a = s.byte a) : StoresOnly s (u.retire e op f) e f p := by
  have hug : u.group? e.gid = some e.g := (congrArg (findId Group.id e.gid) hgroups).trans hg
  refine ⟨hmem, hslots, hblocks, howners, fun k hk => ?_, _, State.retire_group?_self hug op f, ?_, ?_, fun i hi => Group.retired_flag_ne _ _ _ _ _ hi, ?_⟩
  · rw [State.retire_group_ne _ _ _ _ hk]
    exact congrArg (findId Group.id k) hgroups
  · rw [Group.retired_eq]
  · rw [Group.retired_eq]
  · rw [Group.retired_eq]
    exact Group.latchClock_lanes ..

end Sys2Proof.Machine
end

section
namespace Sys2Proof.Machine

/-! ### The tidemark instructions (R285 to R287) -/

/-- A tidemark's access passes or not whether it writes or not: only the word of a damaged sector differs. -/
theorem State.tidemarkAt_ok {s : State} {e : Env} {t a : Nat} {w : Bool} (h : s.tidemarkAt e t w = .ok a) (w' : Bool) : s.tidemarkAt e t w' = .ok a := by
  unfold State.tidemarkAt at h ⊢
  split at h
  · cases h
  next hlen =>
    rw [if_neg hlen]
    cases hb : s.allocOn e.b e.g.core with
    | none => simp [hb] at h
    | some base =>
      simp only [hb] at h ⊢
      split at h
      · cases h
      next ho =>
        rw [if_neg ho]
        split at h
        · cases h
        next hd => rw [if_neg hd]; exact h

/-- A tidemark of the block that THREADS own is found, unless its sector is damaged. -/
theorem State.tidemarkAt_owned {s : State} {e : Env} {t base : Nat} (w : Bool) (hlen : 16 * t + 16 ≤ allocBytes e.rcd)
    (hb : s.allocOn e.b e.g.core = some base) (ho : s.owners.get (granuleOf (scratchByte e.g.core base (16 * t))) = 0) :
    s.tidemarkAt e t w = if s.damaged (span (scratchByte e.g.core base (16 * t)) 16) = true then .error (Cause.uncorrectable, eccInfo w 0)
      else .ok (scratchByte e.g.core base (16 * t)) := by
  have hz : (s.owners.get (granuleOf (scratchByte e.g.core base (16 * t)))).toNat = 0 := by rw [ho]; rfl
  rw [State.tidemarkAt, if_neg (by omega), hb]
  simp only [hz, ne_eq, not_true_eq_false, if_false]

section
variable {op : Op} {f : Form} {s : State} {e : Env}

/-- R285: a tidemark instruction acts once, at the tidemark that its access names. -/
theorem tidemarkOp_effect (h : Runs op f (noRuns f) s e) {w : Bool} {a : Nat} (ha : s.tidemarkAt e f.c.uimm w = .ok a) (act : Env → Nat → Nat → State) :
    tidemarkOp op f s act = .next ((act e a (s.lowSrc e f.a).toNat).retire e op f) := by
  refine (Runs.effect (runs := fun _ => []) h _).trans ?_
  rw [State.tidemarkAt_ok ha, State.finish_ok]

/-- R280: or it traps with what that access raises. -/
theorem tidemarkOp_traps (h : Runs op f (noRuns f) s e) {cause : Nat} {info : Word}
    (ha : s.tidemarkAt e f.c.uimm (op ≠ .tmWait) = .error (cause, info)) (act : Env → Nat → Nat → State) :
    tidemarkOp op f s act = .next (s.trapAt e.gid cause info e.x) := by
  refine (Runs.effect (runs := fun _ => []) h _).trans ?_
  rw [ha, State.finish_trap]

variable {w : Bool} {a : Nat} (ha : s.tidemarkAt e f.c.uimm w = .ok a)
include ha

theorem exec_tmInit (h : Runs .tmInit f (noRuns f) s e) : exec (.tmInit f) s = .next ((s.setTidemark a
    { phase := 0, reload := (s.lowSrc e f.a).toNat % 65536, arrivals := (s.lowSrc e f.a).toNat % 65536, sectors := 0 }).retire e .tmInit f) := by
  show execTmInit f s = _
  exact tidemarkOp_effect h ha _

theorem exec_tmExpect (h : Runs .tmExpect f (noRuns f) s e) : exec (.tmExpect f) s = .next ((s.setTidemark a ((s.tidemark a).change
    (((s.tidemark a).sectors + (s.lowSrc e f.a).toNat) % 2 ^ 32) (s.tidemark a).arrivals)).retire e .tmExpect f) := by
  show execTmExpect f s = _
  exact tidemarkOp_effect h ha _

theorem exec_tmArrive (h : Runs .tmArrive f (noRuns f) s e) : exec (.tmArrive f) s =
    .next ((giveAll (s.arrive a (s.lowSrc e f.a).toNat) e f [BitVec.ofNat 32 (s.tidemark a).phase]).retire e .tmArrive f) := by
  show execTmArrive f s = _
  exact tidemarkOp_effect h ha _

theorem exec_tmArrivew (h : Runs .tmArrivew f (noRuns f) s e) : exec (.tmArrivew f) s =
    .next ((issues (s.arrive a (s.lowSrc e f.a).toNat) e f .cancelled (fun _ _ => .tidemark a (s.tidemark a).phase)).retire e .tmArrivew f) := by
  show execTmArrivew f s = _
  exact tidemarkOp_effect h ha _

theorem exec_tmWait (h : Runs .tmWait f (noRuns f) s e) : exec (.tmWait f) s =
    .next ((issues s e f .cancelled (fun _ _ => .tidemark a ((s.lowSrc e f.a).toNat % 16))).retire e .tmWait f) := by
  show execTmWait f s = _
  exact tidemarkOp_effect h ha _

end

theorem exec_tidemark_traps {op : Op} (hop : op ∈ [Op.tmInit, .tmExpect, .tmArrive, .tmArrivew, .tmWait]) {f : Form} {s : State} {e : Env} {cause : Nat}
    {info : Word} (h : Runs op f (noRuns f) s e) (ha : s.tidemarkAt e f.c.uimm (decide (op ≠ .tmWait)) = .error (cause, info)) :
    exec (op.instr f) s = .next (s.trapAt e.gid cause info e.x) := by
  simp only [List.mem_cons, List.not_mem_nil, or_false] at hop
  obtain rfl | rfl | rfl | rfl | rfl := hop
  · show execTmInit f s = _
    exact tidemarkOp_traps h ha _
  · show execTmExpect f s = _
    exact tidemarkOp_traps h ha _
  · show execTmArrive f s = _
    exact tidemarkOp_traps h ha _
  · show execTmArrivew f s = _
    exact tidemarkOp_traps h ha _
  · show execTmWait f s = _
    exact tidemarkOp_traps h ha _

/-- Settles O17: what a tidemark's access finds, and one lemma for each instruction. -/
theorem tidemarkInstructions : Obligations.TidemarkInstructions :=
  ⟨fun _ hop _ _ _ _ _ h ha => exec_tidemark_traps hop h ha, fun _ _ _ w _ hlen hb ho => State.tidemarkAt_owned w hlen hb ho,
    fun _ _ _ _ _ ha => ⟨exec_tmInit ha, exec_tmExpect ha, exec_tmArrive ha, exec_tmArrivew ha, exec_tmWait ha⟩⟩

end Sys2Proof.Machine
end

section
namespace Sys2Proof.Machine

/-! ### The memory that an instruction's answer has (R236) -/

/-- What an instruction or step answers holds every byte that it does not reach. -/
theorem exec_byte {i : Instr} {s t : State} {a : Nat} (ht : exec i s = .next t) (ha : ¬ Instr.reach i s a) : t.byte a = s.byte a :=
  ((exec_stores i s).of_next ht).frame a ha

/-- An instruction whose environment is known reaches what it reaches there. -/
theorem reach_env {gd : Guard} {s : State} {e : Env} (he : s.env gd = some e) {p : Env → Prop} (h : ∃ e', s.env gd = some e' ∧ p e') : p e := by
  obtain ⟨e', he', hp⟩ := h
  obtain rfl := Option.some.inj (he.symm.trans he')
  exact hp

/-- A storing instruction that issues stores only, where it reaches. -/
theorem issues_storesOnly {op : Op} {f : Form} {s u : State} {e : Env} {i : Instr} {p : Nat → Prop} {m : SMap 8} {fate : Fate}
    {lane : Nat → Lane → Cond × List (RegRef × Word)} (he : s.env f.guard = some e) (hu : u = { s with mem := m })
    (hexec : exec i s = .next ((u.addOp e f fate lane).2.retire e op f)) (hreach : ∀ a, Instr.reach i s a → p a) :
    StoresOnly s ((u.addOp e f fate lane).2.retire e op f) e f p := by
  obtain ⟨-, hg, -⟩ := State.env_spec he
  have hframe : ∀ a, ¬ p a → ((u.addOp e f fate lane).2.retire e op f).byte a = s.byte a := fun a ha => exec_byte hexec fun h => ha (hreach a h)
  exact StoresOnly.retire (u := (u.addOp e f fate lane).2) hg (by rw [hu]; rfl) (by rw [hu]; rfl) (by rw [hu]; rfl) (by rw [hu]; rfl) op f hframe

section
variable {f : Form} {s : State} {e : Env}

theorem exec_st_storesOnly (h : Runs .st f (coordRun f) s e) (hgood : allGood (laneChecks s e f (memWidth f) 1 (memZ f))) :
    ∃ t, exec (.st f) s = .next t ∧ StoresOnly s t e f (reached e (laneChecks s e f (memWidth f) 1 (memZ f))) := by
  have hexec := exec_st_of_allGood h hgood
  obtain ⟨m, hm⟩ := inLaneOrder_eq_mem (stAct_mem s e f) s e (laneChecks s e f (memWidth f) 1 (memZ f))
  exact ⟨_, hexec, issues_storesOnly h.env hm hexec fun a ha => reach_env h.env ha⟩

theorem exec_atom_storesOnly (h : Runs .atom f (coordRun f) s e)
    (hgood : allGood (laneChecks s e f (if ordD (BitVec.ofNat 10 f.b.uimm) then 8 else 4) 2 false)) :
    ∃ t, exec (.atom f) s = .next t ∧ StoresOnly s t e f (reached e (laneChecks s e f (if ordD (BitVec.ofNat 10 f.b.uimm) then 8 else 4) 2 false)) := by
  have hexec := exec_atom_of_allGood h rfl hgood
  obtain ⟨m, hm⟩ := inLaneOrder_eq_mem (atomAct_mem f (ordD (BitVec.ofNat 10 f.b.uimm))) s e
    (laneChecks s e f (if ordD (BitVec.ofNat 10 f.b.uimm) then 8 else 4) 2 false)
  exact ⟨_, hexec, issues_storesOnly h.env hm hexec fun a ha => reach_env h.env ha⟩

theorem exec_red_storesOnly (h : Runs .red f (coordRun f) s e)
    (hgood : allGood (laneChecks s e f (if ordD (BitVec.ofNat 10 f.dst.uimm) then 8 else 4) 2 false)) :
    ∃ t, exec (.red f) s = .next t ∧ StoresOnly s t e f (reached e (laneChecks s e f (if ordD (BitVec.ofNat 10 f.dst.uimm) then 8 else 4) 2 false)) := by
  have hexec := exec_red_of_allGood h rfl hgood
  obtain ⟨m, hm⟩ := inLaneOrder_eq_mem (redAct_mem s e f (if ordD (BitVec.ofNat 10 f.dst.uimm) then 8 else 4)) s e
    (laneChecks s e f (if ordD (BitVec.ofNat 10 f.dst.uimm) then 8 else 4) 2 false)
  exact ⟨_, hexec, issues_storesOnly h.env hm hexec fun a ha => reach_env h.env ha⟩

/-! ### SEAM.STORE and the tidemark instructions -/

/-- R201, R219: a seam instruction that nothing stops does what its body says. -/
theorem seamOp_effect {op : Op} {runs : Env → List (Nat × Nat)} (h : Runs op f runs s e) {names : Env → List Nat} (hfree : seamFree s e (names e))
    (body : Env → Res) : seamOp op f s runs names body = s.finish e op f (body e) := by
  obtain ⟨hserial, hbusy⟩ := hfree
  have hany : (names e).any (s.seamBusy e.gid) = false := List.any_eq_false.mpr fun n hn => by simp [hbusy n hn]
  rw [seamOp, h.effect, hserial, hany]
  simp only [Bool.false_eq_true, if_false]

/-- R278: an all-or-nothing instruction acts where every access passes. -/
theorem State.allOrNothing_of_allGood {cs : List (Nat × Nat × Chk)} (hgood : allGood cs) (act : Unit → Res) : s.allOrNothing e cs act = act () := by
  rw [State.allOrNothing, verdict_of_allGood hgood]

/-- The state in which SEAM.STORE has stored the image, where its access found addresses. -/
def seamStored (s : State) (e : Env) (f : Form) : State :=
  match chkOf (seamCheck s e f 1) (lowLane e.x) with
  | .ok as => s.store as (e.g.seams.get (seamN f)).toNat
  | _ => s

theorem seamStored_eq (s : State) (e : Env) (f : Form) : ∃ m, seamStored s e f = { s with mem := m } := by
  unfold seamStored
  split
  · exact ⟨_, rfl⟩
  · exact ⟨s.mem, rfl⟩

theorem exec_seamStore (h : Runs .seamStore f (coordRun f) s e) (hfree : seamFree s e [f.mod.toNat]) (hgood : allGood (seamCheck s e f 1)) :
    exec (.seamStore f) s = .next (((seamStored s e f).addOp e f .completed (fun _ _ => (.ready, []))).2.retire e .seamStore f) := by
  refine (seamOp_effect h hfree _).trans ?_
  rw [State.allOrNothing_of_allGood hgood, State.finish_ok]
  rfl

theorem exec_seamStore_storesOnly (h : Runs .seamStore f (coordRun f) s e) (hfree : seamFree s e [f.mod.toNat]) (hgood : allGood (seamCheck s e f 1)) :
    ∃ t, exec (.seamStore f) s = .next t ∧ StoresOnly s t e f (fun a => ∃ as, chkOf (seamCheck s e f 1) (lowLane e.x) = .ok as ∧ a ∈ as) := by
  have hexec := exec_seamStore h hfree hgood
  obtain ⟨m, hm⟩ := seamStored_eq s e f
  refine ⟨_, hexec, issues_storesOnly h.env hm hexec fun a hreach => ?_⟩
  obtain ⟨e', as, he', hok, has⟩ := hreach
  obtain rfl := Option.some.inj (h.env.symm.trans he')
  exact ⟨as, hok, has⟩

theorem exec_tidemark_byte {op : Op} (hop : op ∈ [Op.tmInit, .tmExpect, .tmArrive, .tmArrivew]) (h : Runs op f (noRuns f) s e) {a : Nat}
    (ha : s.tidemarkAt e f.c.uimm true = .ok a) : ∃ t, exec (op.instr f) s = .next t ∧ ∀ x, x < a ∨ a + 16 ≤ x → t.byte x = s.byte x := by
  have hreach : ∀ x, (x < a ∨ a + 16 ≤ x) → ¬ ∃ e' m, s.env f.guard = some e' ∧ s.tidemarkAt e' f.c.uimm true = .ok m ∧ inMark m x := by
    rintro x hx ⟨e', m, he', hm, hin⟩
    obtain rfl := Option.some.inj (h.env.symm.trans he')
    obtain rfl : a = m := Except.ok.inj (ha.symm.trans hm)
    have := hin.1
    have := hin.2
    omega
  simp only [List.mem_cons, List.not_mem_nil, or_false] at hop
  obtain rfl | rfl | rfl | rfl := hop
  · exact ⟨_, exec_tmInit ha h, fun x hx => exec_byte (exec_tmInit ha h) (hreach x hx)⟩
  · exact ⟨_, exec_tmExpect ha h, fun x hx => exec_byte (exec_tmExpect ha h) (hreach x hx)⟩
  · exact ⟨_, exec_tmArrive ha h, fun x hx => exec_byte (exec_tmArrive ha h) (hreach x hx)⟩
  · exact ⟨_, exec_tmArrivew ha h, fun x hx => exec_byte (exec_tmArrivew ha h) (hreach x hx)⟩

end

end Sys2Proof.Machine
end

section
namespace Sys2Proof.Machine

/-! ### A storing instruction that is performed in part (R278) -/

theorem State.pageFault_frame (s : State) (tenant va level reason layout : Nat) (fetch : Bool) :
    (s.pageFault tenant va level reason layout fetch).2.groups = s.groups := by
  unfold State.pageFault
  split <;> rfl

@[simp] theorem Group.addFlag?_id (g : Group) (o : Option Nat) (n : Nat) : (g.addFlag? o n).id = g.id := by
  cases o <;> rfl

@[simp] theorem Group.latchClock_id (g : Group) (f : Form) (x : LaneMask) (clock : Nat) : (g.latchClock f x clock).id = g.id := by
  rw [Group.latchClock_eq]

/-- The group of an instruction whose lanes `done` have been performed. -/
def Group.partly (g : Group) (e : Env) (op : Op) (f : Form) (done : LaneMask) (clock : Nat) : Group :=
  if op.isLong then (g.latchClock f done clock).addFlag? (e.r.flagOf f.fsel) (laneCount done) else g.latchClock f done clock

/-- Their %clockhi is latched and their counts stay: nothing that a trap reads changes. -/
theorem Group.partly_fields (g : Group) (e : Env) (op : Op) (f : Form) (done : LaneMask) (clock : Nat) :
    (g.partly e op f done clock).id = g.id ∧ (g.partly e op f done clock).run = g.run ∧ (g.partly e op f done clock).handler = g.handler ∧
      (g.partly e op f done clock).level = g.level ∧ (g.partly e op f done clock).launch = g.launch := by
  unfold Group.partly
  rw [Group.latchClock_eq]
  split
  · cases e.r.flagOf f.fsel <;> exact ⟨rfl, rfl, rfl, rfl, rfl⟩
  · exact ⟨rfl, rfl, rfl, rfl, rfl⟩

theorem State.keepCounts_group? {s : State} {e : Env} {g : Group} (h : s.group? e.gid = some g) (op : Op) (f : Form) (done : LaneMask) :
    ((s.latch e f done).keepCounts e op f done).group? e.gid = some (g.partly e op f done s.clock) := by
  have hlatch : (s.latch e f done).group? e.gid = some (g.latchClock f done s.clock) := by
    rw [State.latch, State.updGroup_group?_self _ _ _ (fun _ => Group.latchClock_id ..), h, Option.map_some]
  unfold State.keepCounts Group.partly
  split
  · rw [State.updGroup_group?_self _ _ _ (fun _ => Group.addFlag?_id ..), hlatch, Option.map_some]
  · exact hlatch

theorem State.keepCounts_launch? (s : State) (e : Env) (op : Op) (f : Form) (done : LaneMask) (k : Nat) :
    ((s.latch e f done).keepCounts e op f done).launch? k = s.launch? k := by
  unfold State.keepCounts
  split <;> rfl

/-- R278: the lanes on which a trapped instruction has still to be performed. -/
def Handler.leave (left : LaneMask) (h : Handler) : Handler := { h with todo := left }

/-- R278, R431: the group waits for a missing translation, to run its instruction on these lanes. -/
def Group.waitOn (left : LaneMask) (cur fault : Nat) (g : Group) : Group :=
  { g with resumeOn := true, resume := left, resumeAt := cur, hold := some fault }

variable {op : Op} {f : Form} {s u : State} {e : Env}

/-- R278: a trap on some lanes, where a handler takes it: they are its lanes, and those on which the instruction has still to be performed. -/
theorem State.finish_part (he : s.env f.guard = some e) (hgroups : u.groups = s.groups) (hlaunches : u.launches = s.launches) (hh : e.g.handler = none)
    (hentry : e.rcd.handlers.getD e.g.level 0 ≠ 0) (done : LaneMask) (cause : Nat) (info : Word) (left : LaneMask) :
    ∃ (t : State) (g' : Group) (h : Handler), s.finish e op f (.part u done cause info left) = .next t ∧ t.mem = u.mem ∧ t.group? e.gid = some g' ∧
      g'.handler = some h ∧ h.cause = BitVec.ofNat 8 cause ∧ h.trapLanes = left ∧ h.todo = left := by
  obtain ⟨-, hg, hr, -, hla, -⟩ := State.env_spec he
  have hu : u.group? e.gid = some e.g := (congrArg (findId Group.id e.gid) hgroups).trans hg
  have hul : u.launch? e.g.launch = some e.la := (congrArg (findId Launch.id e.g.launch) hlaunches).trans hla
  obtain ⟨-, hprun, hphandler, hplevel, hplaunch⟩ := e.g.partly_fields e op f done u.clock
  have htrap := State.trapAt_group? (State.keepCounts_group? hu op f done) (hprun.trans hr) (hphandler.trans hh)
    (by rw [hplaunch, State.keepCounts_launch?, hul]) (by rw [hplevel]; exact hentry) cause info left
  have hopen := Group.enterHandler_handler (hprun.trans hr) (e.la.rcd.handlers.getD (e.g.partly e op f done u.clock).level 0) cause (fun _ => info)
    left e.r.lanes
  exact ⟨_, _, _, rfl, by simp, State.updGroup_group?_of htrap (fun g => { g with handler := g.handler.map (Handler.leave left) }) (fun _ => rfl),
    congrArg (Option.map (Handler.leave left)) hopen, rfl, rfl, rfl⟩

/-- R278, R431: a missing translation on some lanes: the instruction waits, to run on those. -/
theorem State.finish_partHold (he : s.env f.guard = some e) (hgroups : u.groups = s.groups) (done left : LaneMask) (fault : Nat) :
    ∃ (t : State) (g' : Group), s.finish e op f (.partHold u done left fault) = .next t ∧ t.mem = u.mem ∧ t.group? e.gid = some g' ∧
      g'.resumeOn = true ∧ g'.resume = left ∧ g'.resumeAt = e.r.cur := by
  obtain ⟨-, hg, -⟩ := State.env_spec he
  have hu : u.group? e.gid = some e.g := (congrArg (findId Group.id e.gid) hgroups).trans hg
  have hheld := State.updGroup_group?_of (State.keepCounts_group? hu op f done) (Group.waitOn left e.r.cur fault) (fun _ => rfl)
  exact ⟨_, _, rfl, by simp, State.updGroup_group?_of hheld
    (fun g => { g with run := g.run.map (fun r => { r with body := r.curBody, next := r.cur }) }) (fun _ => rfl), rfl, rfl, rfl⟩

/-- R278: what `PartDone` asks of an instruction that acts on every lane whose access passes. -/
theorem partDone_of_someOfAll {runs : Env → List (Nat × Nat)} (h : Runs op f runs s e) {k : Nat} {chk : Nat × Lane → Chk}
    {act act₂ : State → Nat → Lane → List Nat → State × List (RegRef × Word)} (hmem : ∀ t l ln as, ∃ m, (act t l ln as).1 = { t with mem := m })
    (hact : ∀ t l ln as, (act t l ln as).1 = (act₂ t l ln as).1) {body : Env → Res} (hexec : exec (op.instr f) s = runWith op f runs s body)
    (hbody : body e = s.someOfAll e f (e.checks k chk) (onAddresses act)) : PartDone op f s e (e.checks k chk) act₂ := by
  unfold PartDone
  intro left hbusy
  obtain ⟨hpmem, hpgroups, hplaunches⟩ := partState_spec (s := s) (e := e) (f := f) (k := k) (chk := chk) (Performs.onAddresses hmem)
  rw [inLaneOrder_fst_congr hact] at hpmem
  have hfin : exec (op.instr f) s = s.finish e op f (s.someOfAll e f (e.checks k chk) (onAddresses act)) := by
    rw [hexec, h.effect, hbody]
  rw [State.someOfAll_eq hbusy] at hfin
  refine ⟨fun cause info lanes hv hh hentry => ?_, fun va level reason k' hv => ?_⟩
  · rw [hv] at hfin
    obtain ⟨t, g', hd, hnext, htmem, hrest⟩ := State.finish_part (op := op) h.env hpgroups hplaunches hh hentry (goodLanes (e.checks k chk)) cause info left
    exact ⟨t, g', hd, hfin.trans hnext, htmem.trans hpmem, hrest⟩
  · rw [hv] at hfin
    obtain ⟨t, g', hnext, htmem, hrest⟩ := State.finish_partHold (op := op) h.env ((State.pageFault_frame ..).trans hpgroups)
      (goodLanes (e.checks k chk)) left _
    exact ⟨t, g', hfin.trans hnext, htmem.trans ((State.pageFault_mem ..).trans hpmem), hrest⟩

/-- Settles O52: what an instruction reaches, and the storing instructions in full and in part. -/
theorem memoryChangesOnlyWhereStored : Obligations.MemoryChangesOnlyWhereStored := by
  refine ⟨fun _ _ _ _ ht ha => exec_byte ht ha, fun i s _ hi ht => (exec_quiet hi s).of_next ht, fun s => ⟨by simp, fun gid => by simp⟩,
    fun s a ha => (State.writeOut_out s).mem.frame a ha, fun _ _ _ => exec_st_storesOnly, fun _ _ _ => exec_atom_storesOnly,
    fun _ _ _ => exec_red_storesOnly, fun _ _ _ => exec_seamStore_storesOnly, fun _ _ _ _ _ hop h ha => exec_tidemark_byte hop h ha,
    fun f s e h => ?st, fun f s e h => ?atom, fun f s e h => ?red⟩
  case st => exact partDone_of_someOfAll h (stAct_mem s e f) (fun _ _ _ _ => rfl) (exec_st f s) rfl
  case atom => exact partDone_of_someOfAll h (atomAct_mem f _) (fun _ _ _ _ => rfl) (exec_atom f s) rfl
  case red =>
    refine partDone_of_someOfAll h (redAct_mem s e f _) (fun _ _ _ _ => ?_) (exec_red f s) rfl
    cases ordD (BitVec.ofNat 10 f.dst.uimm) <;> rfl

end Sys2Proof.Machine
end

section
namespace Sys2Proof.Machine

/-! ### Instructions that write registers (R25, R31) -/

/-- Where a row's instruction computes the row's words, it gives them. -/
theorem Row.gives_of {r : Row} {fn : Form → State → Env → Nat → Lane → LaneRes} (hexec : ∀ f s, exec (r.op.instr f) s = runFixed r.op f s (fn f s))
    (hres : ∀ f s e l ln, fn f s e l ln = r.res f s e l ln) : r.gives := by
  intro f s e h _
  have hfn : fn f s e = r.res f s e := funext fun l => funext fun ln => hres f s e l ln
  rw [hexec, runFixed_effect _ h, hfn]

/-- So does a long-latency one. -/
theorem Row.givesLater_of {r : Row} {fn : Form → State → Env → Nat → Lane → LaneRes} (hexec : ∀ f s, exec (r.op.instr f) s = runLong r.op f s (fn f s))
    (hres : ∀ f s e l ln, fn f s e l ln = r.res f s e l ln) : r.givesLater := by
  intro f s e h _
  rw [hexec]
  refine (Runs.effect (runs := fun _ => []) h _).trans ?_
  simp only [hres, State.finish_ok]

/-- Settles O3: each instruction computes the words of its row. -/
theorem floatResults : Obligations.FloatResults := by
  simp only [Obligations.FloatResults, floatRows, List.forall_mem_cons, List.not_mem_nil, false_imp_iff, implies_true, and_true]
  and_intros <;> exact Row.gives_of (fun _ _ => rfl) (fun _ _ _ _ _ => rfl)

/-- Settles O4: each instruction computes the words of its row. -/
theorem conversionAndReadResults : Obligations.ConversionAndReadResults := by
  simp only [Obligations.ConversionAndReadResults, List.forall_mem_append, convertRows, readRows, List.forall_mem_cons, List.not_mem_nil, false_imp_iff,
    implies_true, and_true]
  and_intros <;> exact Row.gives_of (fun _ _ => rfl) (fun _ _ _ _ _ => rfl)

/-- Settles O5: each instruction issues with the words of its row. -/
theorem slowArithmeticIssues : Obligations.SlowArithmeticIssues := by
  simp only [Obligations.SlowArithmeticIssues, slowRows, List.forall_mem_cons, List.not_mem_nil, false_imp_iff, implies_true, and_true]
  and_intros <;> exact Row.givesLater_of (fun _ _ => rfl) (fun _ _ _ _ _ => rfl)

/-! ### Integer results (R34, R82) -/

/-- R34: saturation takes the nearest value in range. -/
theorem satInt_eq {x lo hi : Int} (h : lo ≤ hi) : satInt x lo hi = max lo (min x hi) := by
  unfold satInt
  split_ifs <;> omega

/-- R34, R82: the model narrows an exact value as `inBits` says. -/
theorem narrow_eq_inBits (n : Nat) (f : Form) (x : Int) : narrow (n + 1) (iuU f.mod) (iuVar f.mod = 1) x = inBits (n + 1) f x := by
  have hpos : (0 : Int) < 2 ^ (n + 1) := by positivity
  have hpos' : (0 : Int) < 2 ^ n := by positivity
  simp only [narrow, inBits, wrap, Nat.add_sub_cancel, decide_eq_true_eq]
  by_cases hs : iuVar f.mod = 1
  · rw [if_pos hs, if_pos hs]
    cases iuU f.mod
    · simp only [Bool.false_eq_true, if_false]
      rw [satInt_eq (by push_cast; omega)]
      push_cast
      rfl
    · simp only [if_true]
      rw [satInt_eq (by omega)]
      push_cast
      rfl
  · rw [if_neg hs, if_neg hs]

theorem mulHigh_eq (u us : Bool) (a b : Word) :
    mulHigh u us a b = (BitVec.ofInt 64 (if us then a.toInt * b.toNat else intX u a * intX u b)).extractLsb' 32 32 := rfl

theorem min_eq_ite (a b : Int) : (if b < a then b else a) = min a b := by
  split <;> omega

theorem max_eq_ite (a b : Int) : (if a < b then b else a) = max a b := by
  split <;> omega

theorem abs_saturated (x : Int) : satInt |x| 0 (2 ^ 31 - 1) = min |x| (2 ^ 31 - 1) := by
  rw [satInt_eq (by decide)]
  exact max_eq_right (le_min (abs_nonneg x) (by decide))

/-- Settles O1: the exact values agree, and R34's narrowing is `inBits`. -/
theorem integerResults : Obligations.IntegerResults := by
  simp only [Obligations.IntegerResults, integerRows, List.forall_mem_cons, List.not_mem_nil, false_imp_iff, implies_true, and_true]
  and_intros
  · exact Row.gives_of (fun _ _ => rfl) (fun f _ _ _ _ => congrArg wordOf (narrow_eq_inBits 31 f _))
  · exact Row.gives_of (fun _ _ => rfl) (fun f _ _ _ _ => congrArg wordOf (narrow_eq_inBits 31 f _))
  · exact Row.gives_of (fun _ _ => rfl) (fun f _ _ _ _ => congrArg wordOf (narrow_eq_inBits 31 f _))
  · exact Row.gives_of (fun _ _ => rfl) (fun f _ _ _ _ => congrArg wordOf (narrow_eq_inBits 31 f _))
  · refine Row.gives_of (fn := fun f s e l ln => wordOf (narrow 32 (iuU f.mod) (iuVar f.mod = 1)
      (if valB f s e l ln < valA f s e l ln then valB f s e l ln else valA f s e l ln))) (fun _ _ => rfl) (fun f s e l ln => ?_)
    rw [min_eq_ite, narrow_eq_inBits 31]
  · refine Row.gives_of (fn := fun f s e l ln => wordOf (narrow 32 (iuU f.mod) (iuVar f.mod = 1)
      (if valA f s e l ln < valB f s e l ln then valB f s e l ln else valA f s e l ln))) (fun _ _ => rfl) (fun f s e l ln => ?_)
    rw [max_eq_ite, narrow_eq_inBits 31]
  · exact Row.gives_of (fun _ _ => rfl) (fun f _ _ _ _ => congrArg pairOf (narrow_eq_inBits 63 f _))
  · exact Row.gives_of (fun _ _ => rfl) (fun f _ _ _ _ => congrArg pairOf (narrow_eq_inBits 63 f _))
  · exact Row.gives_of (fun _ _ => rfl) (fun _ _ _ _ _ => rfl)
  · exact Row.gives_of (fun _ _ => rfl) (fun _ _ _ _ _ => rfl)
  · refine Row.gives_of (fun _ _ => rfl) (fun f s e l ln => congrArg wordOf ?_)
    simp only [mulHigh_eq, decide_eq_true_eq, valA, valB]
  · refine Row.gives_of (fun _ _ => rfl) (fun f s e l ln => congrArg wordOf ?_)
    simp only [wrap, abs_saturated, Int.natCast_natAbs]


/-! ### Logic and moves (R85 to R92) -/

/-- R86: a count of 32 or more shifts every bit out. -/
theorem shiftLeft_min (a : Word) (n : Nat) : a <<< min 32 n = a <<< n := by
  rcases Nat.le_total n 32 with h | h
  · rw [Nat.min_eq_right h]
  · rw [Nat.min_eq_left h, BitVec.shiftLeft_eq_zero h, BitVec.shiftLeft_eq_zero (Nat.le_refl _)]

theorem ushiftRight_min (a : Word) (n : Nat) : a >>> min 32 n = a >>> n := by
  rcases Nat.le_total n 32 with h | h
  · rw [Nat.min_eq_right h]
  · rw [Nat.min_eq_left h, BitVec.ushiftRight_eq_zero h, BitVec.ushiftRight_eq_zero (Nat.le_refl _)]

theorem sshiftRight_min (a : Word) (n : Nat) : a.sshiftRight (min 32 n) = a.sshiftRight n := by
  rcases Nat.le_total n 32 with h | h
  · rw [Nat.min_eq_right h]
  · rw [Nat.min_eq_left h]
    refine BitVec.eq_of_getLsbD_eq fun i hi => ?_
    rw [BitVec.getLsbD_sshiftRight, BitVec.getLsbD_sshiftRight, if_neg (by omega), if_neg (by omega)]

theorem setBits_length (a : Word) : (setBits a).length = (List.range 32).countP (fun i => a.getLsbD i) := List.countP_eq_length_filter.symm

theorem setBits_head? (a : Word) : (setBits a).head? = (List.range 32).find? (fun i => a.getLsbD i) := List.head?_filter ..

/-- R89: the highest set bit, counted from the top. -/
theorem setBits_getLast? (a : Word) : (setBits a).getLast? = ((List.range 32).find? (fun i => a.getLsbD (31 - i))).map (31 - ·) := by
  have hrev : (List.range 32).reverse = (List.range 32).map (31 - ·) := by decide
  rw [List.getLast?_eq_head?_reverse, setBits, ← List.filter_reverse, List.head?_filter, hrev, List.find?_map]
  rfl

theorem clz_eq (a : Word) : (match (setBits a).getLast? with
    | some i => 31 - i
    | none => 32) = ((List.range 32).find? (fun i => a.getLsbD (31 - i))).getD 32 := by
  rw [setBits_getLast?]
  cases h : (List.range 32).find? (fun i => a.getLsbD (31 - i)) with
  | none => rfl
  | some i =>
    have hi := List.mem_range.mp (List.mem_of_find?_eq_some h)
    show 31 - (31 - i) = i
    omega

/-- Each instruction of the logic rows computes the words of its row. -/
theorem logicRows_give : ∀ r ∈ logicRows, r.gives := by
  simp only [logicRows, List.forall_mem_cons, List.not_mem_nil, false_imp_iff, implies_true, and_true]
  refine ⟨?lut3, ?plut3, ?shl, ?shr, ?sar, ?shf, ?bfe, ?bfi, ?popc, ?clz, ?brev, ?findlsb, ?icmp, ?isel, ?mov, ?movi, ?movl, ?movs⟩
  case shl => exact Row.gives_of (fun _ _ => rfl) (fun _ _ _ _ _ => congrArg wordOf (shiftLeft_min ..))
  case shr => exact Row.gives_of (fun _ _ => rfl) (fun _ _ _ _ _ => congrArg wordOf (ushiftRight_min ..))
  case sar => exact Row.gives_of (fun _ _ => rfl) (fun _ _ _ _ _ => congrArg wordOf (sshiftRight_min ..))
  case popc => exact Row.gives_of (fun _ _ => rfl) (fun _ _ _ _ _ => congrArg (fun n => wordOf (BitVec.ofNat 32 n)) (setBits_length _))
  case clz => exact Row.gives_of (fun _ _ => rfl) (fun _ _ _ _ _ => congrArg (fun n => wordOf (BitVec.ofNat 32 n)) (clz_eq _))
  case findlsb =>
    refine Row.gives_of (fun _ _ => rfl) (fun f s e l ln => congrArg wordOf ?_)
    rw [setBits_head?]
    cases (List.range 32).find? (fun i => (s.src e .int l ln f.a).getLsbD i) <;> rfl
  case movi =>
    refine Row.gives_of (fun _ _ => rfl) (fun f s e l ln => congrArg wordOf ?_)
    cases iuU f.mod <;> rfl
  all_goals exact Row.gives_of (fun _ _ => rfl) (fun _ _ _ _ _ => rfl)

end Sys2Proof.Machine
end

section
namespace Sys2Proof.Machine

/-! ### Words built bit by bit -/

theorem getLsbD_oneShift {n : Nat} (l j : Nat) : ((1#n <<< l) : BitVec n).getLsbD j = (decide (j < n) && decide (l = j)) := by
  rw [BitVec.getLsbD_shiftLeft, BitVec.getLsbD_one, Bool.eq_iff_iff]
  simp only [Bool.and_eq_true, decide_eq_true_eq, Bool.not_eq_true', decide_eq_false_iff_not]
  omega

/-- A word with the bits that a test selects. -/
theorem getLsbD_foldl_bits {n : Nat} (base : Nat) (p : Nat → Prop) [DecidablePred p] (ls : List Nat) (w : BitVec n) (j : Nat) :
    (ls.foldl (fun w i => if p i then w ||| (1#n <<< (base + i)) else w) w).getLsbD j = true ↔
      w.getLsbD j = true ∨ (j < n ∧ ∃ i ∈ ls, p i ∧ base + i = j) := by
  induction ls generalizing w with
  | nil => simp
  | cons i ls ih =>
    rw [List.foldl_cons, ih]
    simp only [List.mem_cons, exists_eq_or_imp]
    split
    next hp =>
      rw [BitVec.getLsbD_or, getLsbD_oneShift]
      simp only [Bool.or_eq_true, Bool.and_eq_true, decide_eq_true_eq, hp, true_and]
      tauto
    next hp => simp only [hp, false_and, false_or]

theorem getLsbD_foldl_bits_zero {n : Nat} (base : Nat) (p : Nat → Prop) [DecidablePred p] (ls : List Nat) (j : Nat) :
    (ls.foldl (fun w i => if p i then w ||| (1#n <<< (base + i)) else w) 0).getLsbD j = true ↔ j < n ∧ ∃ i ∈ ls, p i ∧ base + i = j := by
  rw [getLsbD_foldl_bits]
  simp

/-- R281: the tag bitmap: a tag of the block's range that has nothing outstanding. -/
theorem State.getLsbD_tagWord (s : State) (r : LaunchRec) (core : Nat) {t : Nat} (ht : t < 64) :
    (s.tagWord r core).getLsbD t = (decide (r.tagBase ≤ t ∧ t < r.tagBase + r.tagCount) && decide (s.tagCounts.get (64 * core + t) = 0)) := by
  rw [Bool.eq_iff_iff, State.tagWord, getLsbD_foldl_bits_zero]
  simp only [List.mem_range, Bool.and_eq_true, decide_eq_true_eq]
  constructor
  · rintro ⟨-, i, hi, hz, rfl⟩
    exact ⟨⟨by omega, by omega⟩, by rw [← hz]; congr 1; omega⟩
  · rintro ⟨⟨hlo, hhi⟩, hz⟩
    exact ⟨ht, t - r.tagBase, by omega, by rw [← hz]; congr 1; omega, by omega⟩

/-- R23: %flags has the bit of each flag that counts. -/
theorem Group.getLsbD_flagWord (g : Group) {i : Nat} (hi : i < 32) : g.flagWord.getLsbD i = (decide (i < 12) && decide (g.flag i ≠ 0)) := by
  have hword : g.flagWord = (List.range 12).foldl (fun (w : Word) i => if g.flag i ≠ 0 then w ||| (1#32 <<< (0 + i)) else w) 0 := by
    rw [Group.flagWord]
    congr 1
    funext w i
    rw [Nat.zero_add, ite_not]
  rw [Bool.eq_iff_iff, hword, getLsbD_foldl_bits_zero]
  simp only [List.mem_range, Bool.and_eq_true, decide_eq_true_eq, Nat.zero_add, exists_eq_right_right]
  exact ⟨fun h => h.2, fun h => ⟨hi, h⟩⟩


/-! ### The special registers, index by index (R17, R153) -/

theorem State.ancestor_self (s : State) (el : Elem) : s.ancestor el el.level = some el := by
  rw [State.ancestor, ancestorFrom, if_pos (Nat.le_refl _), if_pos rfl]

theorem State.ancestor_parent {s : State} {el q : Elem} {m p : Nat} (hl : el.level = m + 1) (hp : el.parents.head? = some p) (hq : s.elem? p = some q)
    (hm : q.level = m) : s.ancestor el m = some q := by
  obtain ⟨ps, hps⟩ := List.head?_eq_some_iff.mp hp
  rw [State.ancestor, ancestorFrom, if_neg (by omega), hps]
  simp only [hq]
  rw [ancestorFrom, if_pos (by omega), if_pos hm]

/-- %elem.m of the lane's element and of the levels below and just above it. -/
theorem State.special_elem {s : State} {ln : Lane} {el : Elem} (hel : s.elem? ln.elem = some el) (g : Group) (l : Nat) {m : Nat} (hm : m < 8) :
    s.special g l ln (5 + m) = s.elemIdx el m := by
  have hidx : s.special g l ln (5 + m) = (s.elem? ln.elem).elim 0xFFFFFFFF (fun e => s.elemIdx e m) := by
    interval_cases m <;> rfl
  rw [hidx, hel, Option.elim_some]

theorem State.elemIdx_spec (s : State) (el : Elem) (m : Nat) : (el.level < m → s.elemIdx el m = 0xFFFFFFFF) ∧ (m = el.level → s.elemIdx el m = el.idx) ∧
    (∀ p q, el.level = m + 1 → el.parents.head? = some p → s.elem? p = some q → q.level = m → s.elemIdx el m = q.idx) := by
  refine ⟨fun h => if_pos h, fun h => ?_, fun p q hl hp hq hm => ?_⟩
  · rw [State.elemIdx, if_neg (by omega), h, State.ancestor_self]
  · rw [State.elemIdx, if_neg (by omega), State.ancestor_parent hl hp hq hm]

/-- %trap.lanes is in two registers. -/
theorem append_extractLsb' (x : LaneMask) : x.extractLsb' 32 32 ++ x.extractLsb' 0 32 = x := by
  refine BitVec.eq_of_getLsbD_eq fun i hi => ?_
  rw [BitVec.getLsbD_append]
  split
  next h => rw [BitVec.getLsbD_extractLsb', decide_eq_true h, Bool.true_and, Nat.zero_add]
  next h =>
    rw [BitVec.getLsbD_extractLsb', decide_eq_true (by omega), Bool.true_and]
    congr 1
    omega

/-- The lowest dictionary slot that holds a code object. -/
theorem State.codeSlot_eq {s : State} {core handle i : Nat} (hi : i < 4) (hcode : (s.dict.get (4 * core + i)).toNat = handle + 1)
    (hfirst : ∀ j < i, (s.dict.get (4 * core + j)).toNat ≠ handle + 1) : s.codeSlot core handle = i := by
  have hfind : (List.range 4).find? (fun i => (s.dict.get (core * 4 + i)).toNat = handle + 1) = some i := by
    rw [List.find?_range_eq_some]
    simp only [Nat.mul_comm core 4, decide_eq_true_eq, List.mem_range]
    exact ⟨hcode, hi, fun j hj => by simpa using hfirst j hj⟩
  rw [State.codeSlot, hfind, Option.getD_some]

theorem specialsRead {s : State} {g : Group} {ln : Lane} {la : Launch} {b : Block} {el : Elem} (l : Nat) (hla : s.launch? g.launch = some la)
    (hb : s.block? g.block = some b) (hel : s.elem? ln.elem = some el) : SpecialsRead s g l ln la b el := by
  refine ⟨rfl, rfl, ?group, ?block, rfl, ?elems, rfl, rfl, rfl, rfl, rfl, rfl, rfl, ?tags, fun i hi => g.getLsbD_flagWord hi, rfl, ?noTrap, ?trap, ?budget,
    ?ltop, ?codeobj⟩
  case group =>
    simp only [State.special, hla, Option.map_some, Option.elim_some]
    split <;> rfl
  case block => simp only [State.special, hb, Option.elim_some]
  case elems =>
    intro m hm
    rw [State.special_elem hel g l hm]
    exact s.elemIdx_spec el m
  case tags =>
    intro t ht
    rw [← State.getLsbD_tagWord s la.rcd g.core ht]
    simp only [State.special, hla, Option.map_some, Option.elim_some]
    split
    next h => rw [BitVec.getLsbD_extractLsb', decide_eq_true h, Bool.true_and, Nat.zero_add]
    next h =>
      rw [BitVec.getLsbD_extractLsb', decide_eq_true (by omega), Bool.true_and]
      congr 1
      omega
  case noTrap =>
    intro hh i hlo hhi
    interval_cases i <;> simp only [State.special, hh]
  case trap =>
    intro h hh
    exact ⟨State.special_trapCause hh .., State.special_trapPc hh .., State.special_trapInfo hh ..,
      by rw [State.special_trapLanesHi hh, State.special_trapLanes hh, append_extractLsb']⟩
  case budget => simp only [State.special, hla, hb, Option.map_some, State.budgetWord]
  case ltop => simp only [State.special, hla, Option.map_some, Option.elim_some, LaunchRec.ltop]
  case codeobj =>
    intro i hi hcode hfirst
    simp only [State.special, hla, Option.elim_some, State.codeSlot_eq hi hcode hfirst]

/-- R17: a source that names a special register from 32 up is not in order. -/
theorem opndOk_sr {c : SClass} {k : BitVec 6} (h : 32 ≤ k.toNat) : opndOk c (.sr k) = false := by
  cases c with
  | src => exact decide_eq_false (by omega)
  | special => exact decide_eq_false (by omega)
  | _ => rfl

theorem Instr.wf_of_sr {i : Instr} {op : Op} {f : Form} {k : BitVec 6} (hp : parts i = some (op, f)) (hk : 32 ≤ k.toNat)
    (h : f.a = .sr k ∨ f.b = .sr k ∨ f.c = .sr k) : i.wf = false := by
  simp only [Instr.wf, hp, Form.wf]
  split
  · rfl
  · obtain h | h | h := h <;> simp [h, opndOk_sr hk]

/-- Settles O2: the words of the rows, and the special registers index by index. -/
theorem logicAndMoveResults : Obligations.LogicAndMoveResults :=
  ⟨logicRows_give, fun _ _ _ _ _ _ => rfl, fun _ _ l _ _ _ _ hla hb hel => specialsRead l hla hb hel, fun _ _ _ _ hp hk h => Instr.wf_of_sr hp hk h⟩

end Sys2Proof.Machine
end

section
namespace Sys2Proof.Machine

/-! ### What a succession of writes leaves -/

/-- What no write touches stays. -/
theorem foldl_frame {σ ι β : Type} {step : σ → ι → σ} (obs : σ → β) {ws : List ι} (h : ∀ s, ∀ w ∈ ws, obs (step s w) = obs s) (s : σ) :
    obs (ws.foldl step s) = obs s :=
  List.foldlRecOn (motive := fun t => obs t = obs s) ws step rfl fun t ht w hw => (h t w hw).trans ht

/-- What a write establishes stands at the end, where no later write disturbs it. -/
theorem foldl_last {σ ι : Type} {step : σ → ι → σ} {P : σ → Prop} {pre post : List ι} {w : ι} (hw : ∀ s, P (step s w))
    (hpost : ∀ s, ∀ x ∈ post, P s → P (step s x)) (s : σ) : P ((pre ++ w :: post).foldl step s) := by
  rw [List.foldl_append, List.foldl_cons]
  exact List.foldlRecOn (motive := P) post step (hw _) fun t ht x hx => hpost t x hx ht

/-- Of writes to registers each written once, one is the last to its register. -/
theorem split_of_nodup {ι β : Type} {key : ι → β} {ws : List ι} (hn : (ws.map key).Nodup) {w : ι} (hw : w ∈ ws) :
    ∃ pre post, ws = pre ++ w :: post ∧ ∀ x ∈ post, key x ≠ key w := by
  obtain ⟨pre, post, rfl⟩ := List.append_of_mem hw
  refine ⟨pre, post, rfl, fun x hx heq => ?_⟩
  rw [List.map_append, List.map_cons, List.nodup_append] at hn
  obtain ⟨-, hcons, -⟩ := hn
  exact (List.nodup_cons.mp hcons).1 (heq ▸ List.mem_map_of_mem hx)

/-! ### A lane's registers -/

/-- A lane after its registers have been written, the first first. -/
def Lane.writeAll (ln : Lane) (ws : List (RegRef × Word)) : Lane := ws.foldl (fun ln w => ln.write w.1 w.2) ln

/-- A write changes registers of the lane, and nothing else of it. -/
theorem Lane.write_eq (ln : Lane) (ref : RegRef) (x : Word) : ln.write ref x =
    { ln with v := (ln.write ref x).v, o := (ln.write ref x).o, p := (ln.write ref x).p, l := (ln.write ref x).l
              lValid := (ln.write ref x).lValid, seed := (ln.write ref x).seed } := by
  cases ref with
  | p i =>
    simp only [Lane.write, Lane.setPred]
    split <;> rfl
  | _ => rfl

theorem Lane.writeAll_eq (ln : Lane) (ws : List (RegRef × Word)) : ln.writeAll ws =
    { ln with v := (ln.writeAll ws).v, o := (ln.writeAll ws).o, p := (ln.writeAll ws).p, l := (ln.writeAll ws).l
              lValid := (ln.writeAll ws).lValid, seed := (ln.writeAll ws).seed } := by
  refine List.foldlRecOn (motive := fun t : Lane => t = { ln with v := t.v, o := t.o, p := t.p, l := t.l, lValid := t.lValid, seed := t.seed }) ws _ rfl
    fun t ht w _ => ?_
  rw [Lane.write_eq, ht]

section
variable (ln : Lane) {ref : RegRef} (x : Word)

theorem Lane.write_v_of_ne {j : Nat} (h : ref ≠ .v j) : (ln.write ref x).v.get j = ln.v.get j := by
  cases ref with
  | v i => exact SMap.get_set_ne _ _ fun hij => h (hij ▸ rfl)
  | p i => rw [Lane.write, Lane.setPred]; split <;> rfl
  | _ => rfl

theorem Lane.write_o_of_ne {j : Nat} (h : ref ≠ .o j) : (ln.write ref x).o.get j = ln.o.get j := by
  cases ref with
  | o i => exact SMap.get_set_ne _ _ fun hij => h (hij ▸ rfl)
  | p i => rw [Lane.write, Lane.setPred]; split <;> rfl
  | _ => rfl

theorem Lane.write_l_of_ne {j : Nat} (h : ref ≠ .l j) : (ln.write ref x).l.get j = ln.l.get j := by
  cases ref with
  | l i => exact SMap.get_set_ne _ _ fun hij => h (hij ▸ rfl)
  | p i => rw [Lane.write, Lane.setPred]; split <;> rfl
  | _ => rfl

theorem Lane.write_lValid_of_ne {j : Nat} (h : ref ≠ .l j) : (ln.write ref x).lValid.getLsbD j = ln.lValid.getLsbD j := by
  cases ref with
  | l i =>
    have hij : ¬ i = j := fun hij => h (hij ▸ rfl)
    rw [Lane.write, Lane.writeL, BitVec.getLsbD_or, BitVec.getLsbD_shiftLeft, BitVec.getLsbD_one]
    have hbit : (decide (j < 4) && !decide (j < i) && (decide (0 < 4) && decide (j - i = 0))) = false := by
      simp only [Bool.and_eq_false_iff, Bool.not_eq_false', decide_eq_true_eq, decide_eq_false_iff_not]
      omega
    rw [hbit, Bool.or_false]
  | p i => rw [Lane.write, Lane.setPred]; split <;> rfl
  | _ => rfl

theorem Lane.write_seed_of_ne (h : ref ≠ .seed) : (ln.write ref x).seed = ln.seed := by
  cases ref with
  | seed => exact absurd rfl h
  | p i => rw [Lane.write, Lane.setPred]; split <;> rfl
  | _ => rfl

/-- R14: a predicate that is written reads so, and the others as before. -/
theorem Lane.pred_setPred (i j : Nat) (b : Bool) : (ln.setPred i b).pred j = if i = j ∧ i < 7 then b else ln.pred j := by
  unfold Lane.setPred
  split
  next h => rw [if_neg (by omega)]
  next h =>
    have hi : i < 7 := by omega
    have hbeyond : ¬ j < 8 → ln.p.getLsbD j = false := fun hj => BitVec.getLsbD_of_ge ln.p j (by omega)
    have hbits : (if b then ln.p ||| (1#8 <<< i) else ln.p &&& ~~~(1#8 <<< i)).getLsbD j = if i = j then b else ln.p.getLsbD j := by
      cases b with
      | false =>
        rw [if_neg Bool.false_ne_true, BitVec.getLsbD_and, BitVec.getLsbD_not, getLsbD_oneShift]
        by_cases hij : i = j <;> by_cases hj : j < 8 <;> simp [hij, hj, hbeyond]
      | true =>
        rw [if_pos rfl, BitVec.getLsbD_or, getLsbD_oneShift]
        by_cases hij : i = j
        · simp [hij, show j < 8 by omega]
        · simp [hij]
    rw [Lane.pred, Lane.pred, hbits]
    by_cases hij : i = j
    · rw [if_pos hij, if_pos ⟨hij, hi⟩, decide_eq_false (by omega), Bool.false_or]
    · rw [if_neg hij, if_neg fun hc => hij hc.1]

theorem Lane.write_pred_of_ne {j : Nat} (h : ref ≠ .p j) : (ln.write ref x).pred j = ln.pred j := by
  cases ref with
  | p i => rw [Lane.write, Lane.pred_setPred, if_neg fun hij : i = j ∧ i < 7 => h (hij.1 ▸ rfl)]
  | _ => rfl

theorem Lane.holds_write_self (ref : RegRef) : (ln.write ref x).holds ref x := by
  cases ref with
  | v i => exact SMap.get_set_self ..
  | o i => exact SMap.get_set_self ..
  | p i =>
    intro hi
    rw [Lane.write, Lane.pred_setPred, if_pos ⟨rfl, hi⟩, decide_eq_true_eq]
  | seed => rfl
  | _ => trivial

theorem Lane.holds_write_of_ne {ref' : RegRef} {w : Word} (h : ref ≠ ref') (hw : ln.holds ref' w) : (ln.write ref x).holds ref' w := by
  cases ref' with
  | v i => exact (Lane.write_v_of_ne ln x h).trans hw
  | o i => exact (Lane.write_o_of_ne ln x h).trans hw
  | p i => exact fun hi => by rw [Lane.write_pred_of_ne ln x h]; exact hw hi
  | seed => exact (Lane.write_seed_of_ne ln x h).trans hw
  | _ => trivial

end

/-- What the last write to a register leaves there. -/
theorem Lane.holds_writeAll {ws pre post : List (RegRef × Word)} {ref : RegRef} {w : Word} (hws : ws = pre ++ (ref, w) :: post)
    (hpost : ∀ x ∈ post, x.1 ≠ ref) (ln : Lane) : (ln.writeAll ws).holds ref w := by
  subst hws
  exact foldl_last (step := fun (ln : Lane) (w : RegRef × Word) => ln.write w.1 w.2) (P := fun t : Lane => t.holds ref w) (fun t => Lane.holds_write_self t w ref)
    (fun t y hy ht => t.holds_write_of_ne y.2 (hpost y hy) ht) ln

/-! ### A group's registers -/

/-- The group of a register that is written; h registers are in slots. -/
def Group.writeOne (g : Group) (l : Nat) (ref : RegRef) (x : Word) : Group :=
  match ref with
  | .g i => { g with g := g.g.set i x }
  | _ => g.updLane l (·.write ref x)

/-- The group after registers of its lanes have been written, the first first. -/
def Group.writeAll (g : Group) (ws : List (Nat × RegRef × Word)) : Group := ws.foldl (fun g w => g.writeOne w.1 w.2.1 w.2.2) g

/-- What a lane has of the writes. -/
def laneWrites (l : Nat) (ws : List (Nat × RegRef × Word)) : List (RegRef × Word) := (ws.filter (fun w => w.1 = l)).map (·.2)

theorem Group.writeOne_eq (g : Group) (l : Nat) (ref : RegRef) (x : Word) :
    g.writeOne l ref x = { g with lanes := (g.writeOne l ref x).lanes, g := (g.writeOne l ref x).g } := by
  cases ref <;> rfl

theorem Group.writeAll_eq (g : Group) (ws : List (Nat × RegRef × Word)) :
    g.writeAll ws = { g with lanes := (g.writeAll ws).lanes, g := (g.writeAll ws).g } := by
  refine List.foldlRecOn (motive := fun t : Group => t = { g with lanes := t.lanes, g := t.g }) ws _ rfl fun t ht w _ => ?_
  rw [Group.writeOne_eq, ht]

theorem getElem?_updAt {α : Type} (f : α → α) (k l : Nat) (xs : List α) : (updAt f k xs)[l]? = if l = k then xs[l]?.map f else xs[l]? := by
  induction xs generalizing k l with
  | nil => simp [updAt]
  | cons x xs ih =>
    cases k with
    | zero => cases l <;> simp [updAt]
    | succ k =>
      cases l with
      | zero => simp [updAt]
      | succ l => simp [updAt, ih]

theorem length_updAt {α : Type} (f : α → α) (k : Nat) (xs : List α) : (updAt f k xs).length = xs.length := by
  induction xs generalizing k with
  | nil => rw [updAt]
  | cons x xs ih => cases k <;> simp [updAt, ih]

theorem Group.updLane_lane? (g : Group) (k : Nat) (f : Lane → Lane) (l : Nat) :
    (g.updLane k f).lane? l = if l = k then (g.lane? l).map f else g.lane? l := getElem?_updAt f k l g.lanes

theorem Group.writeOne_lane? (g : Group) (k : Nat) (ref : RegRef) (x : Word) (l : Nat) :
    (g.writeOne k ref x).lane? l = if l = k then (g.lane? l).map (·.write ref x) else g.lane? l := by
  cases ref with
  | g i =>
    show g.lane? l = _
    have hid : (g.lane? l).map (fun ln => ln.write (.g i) x) = g.lane? l := Option.map_id' ..
    rw [hid, ite_self]
  | _ => exact Group.updLane_lane? ..

theorem Group.writeAll_lane? (g : Group) (ws : List (Nat × RegRef × Word)) (l : Nat) :
    (g.writeAll ws).lane? l = (g.lane? l).map (·.writeAll (laneWrites l ws)) := by
  induction ws generalizing g with
  | nil => exact (Option.map_id' ..).symm
  | cons w ws ih =>
    refine (ih (g.writeOne w.1 w.2.1 w.2.2)).trans ?_
    rw [Group.writeOne_lane?]
    by_cases h : l = w.1
    · subst h
      simp [laneWrites, Lane.writeAll, Function.comp_def]
    · rw [if_neg h]
      simp [laneWrites, Ne.symm h]

theorem Group.writeOne_length (g : Group) (l : Nat) (ref : RegRef) (x : Word) : (g.writeOne l ref x).lanes.length = g.lanes.length := by
  cases ref with
  | g i => rfl
  | _ => exact length_updAt ..

theorem Group.writeAll_length (g : Group) (ws : List (Nat × RegRef × Word)) : (g.writeAll ws).lanes.length = g.lanes.length :=
  foldl_frame (fun t : Group => t.lanes.length) (fun t _ _ => t.writeOne_length ..) g

theorem Group.writeOne_g_of_ne (g : Group) (l : Nat) {ref : RegRef} (x : Word) {j : Nat} (h : ref ≠ .g j) : (g.writeOne l ref x).g.get j = g.g.get j := by
  cases ref with
  | g i => exact SMap.get_set_ne _ _ fun hij => h (hij ▸ rfl)
  | _ => rfl

/-- A G register that no write names. -/
theorem Group.writeAll_g_of_not_mem {ws : List (Nat × RegRef × Word)} {j : Nat} (h : ∀ w ∈ ws, w.2.1 ≠ .g j) (g : Group) :
    (g.writeAll ws).g.get j = g.g.get j :=
  foldl_frame (fun t : Group => t.g.get j) (fun t w hw => t.writeOne_g_of_ne w.1 w.2.2 (h w hw)) g

/-- What the last write to a G register leaves there. -/
theorem Group.writeAll_g_last {ws pre post : List (Nat × RegRef × Word)} {l j : Nat} {x : Word} (hws : ws = pre ++ (l, .g j, x) :: post)
    (hpost : ∀ w ∈ post, w.2.1 ≠ .g j) (g : Group) : (g.writeAll ws).g.get j = x := by
  subst hws
  exact foldl_last (P := fun t : Group => t.g.get j = x) (fun t => SMap.get_set_self ..)
    (fun t w hw ht => (t.writeOne_g_of_ne w.1 w.2.2 (hpost w hw)).trans ht) g

end Sys2Proof.Machine
end

section
namespace Sys2Proof.Machine

/-! ### Held registers (R163) -/

/-- A slot after a register has been written by a lane whose element is `owner`: h registers are the slot's where the element is its. -/
def Slot.writeOne (sl : Slot) (owner : Option Nat) (ref : RegRef) (x : Word) : Slot :=
  match ref with
  | .h i => if owner = some sl.elem then { sl with h := sl.h.set i x } else sl
  | _ => sl

/-- The slot after registers of lanes have been written, the first first; `owner` gives the element of a lane. -/
def Slot.writeAll (sl : Slot) (owner : Nat → Option Nat) (ws : List (Nat × RegRef × Word)) : Slot :=
  ws.foldl (fun sl w => sl.writeOne (owner w.1) w.2.1 w.2.2) sl

theorem Slot.writeOne_eq (sl : Slot) (owner : Option Nat) (ref : RegRef) (x : Word) : sl.writeOne owner ref x = { sl with h := (sl.writeOne owner ref x).h } := by
  cases ref with
  | h i =>
    simp only [Slot.writeOne]
    split <;> rfl
  | _ => rfl

theorem Slot.writeAll_eq (sl : Slot) (owner : Nat → Option Nat) (ws : List (Nat × RegRef × Word)) :
    sl.writeAll owner ws = { sl with h := (sl.writeAll owner ws).h } := by
  refine List.foldlRecOn (motive := fun t : Slot => t = { sl with h := t.h }) ws _ rfl fun t ht w _ => ?_
  rw [Slot.writeOne_eq, ht]

/-- A write that is not to register j of the slot's element. -/
theorem Slot.writeOne_h_of_ne (sl : Slot) {owner : Option Nat} {ref : RegRef} (x : Word) {j : Nat} (h : owner = some sl.elem → ref ≠ .h j) :
    (sl.writeOne owner ref x).h.get j = sl.h.get j := by
  cases ref with
  | h i =>
    simp only [Slot.writeOne]
    split
    next ho => exact SMap.get_set_ne _ _ fun hij => h ho (hij ▸ rfl)
    · rfl
  | _ => rfl

theorem Slot.writeAll_h_of_not_mem {sl : Slot} {owner : Nat → Option Nat} {ws : List (Nat × RegRef × Word)} {j : Nat}
    (h : ∀ w ∈ ws, owner w.1 = some sl.elem → w.2.1 ≠ .h j) : (sl.writeAll owner ws).h.get j = sl.h.get j := by
  refine (List.foldlRecOn (motive := fun t : Slot => t.elem = sl.elem ∧ t.h.get j = sl.h.get j) ws _ ⟨rfl, rfl⟩ fun t ht w hw => ?_).2
  obtain ⟨helem, hget⟩ := ht
  exact ⟨by rw [Slot.writeOne_eq]; exact helem, (t.writeOne_h_of_ne w.2.2 (helem ▸ h w hw)).trans hget⟩

/-- Where no write is to the slot's element, nothing of it changes. -/
theorem Slot.writeAll_of_other {sl : Slot} {owner : Nat → Option Nat} {ws : List (Nat × RegRef × Word)}
    (h : ∀ w ∈ ws, ∀ i, w.2.1 = .h i → owner w.1 ≠ some sl.elem) : sl.writeAll owner ws = sl := by
  refine List.foldlRecOn (motive := fun t : Slot => t = sl) ws _ rfl fun t ht w hw => ?_
  subst ht
  cases hr : w.2.1 with
  | h i => exact if_neg (h w hw i hr)
  | _ => rfl

/-- What the last write to a held register leaves there. -/
theorem Slot.writeAll_h_last {sl : Slot} {owner : Nat → Option Nat} {ws pre post : List (Nat × RegRef × Word)} {l j : Nat} {x : Word}
    (hws : ws = pre ++ (l, .h j, x) :: post) (hl : owner l = some sl.elem) (hpost : ∀ w ∈ post, owner w.1 = some sl.elem → w.2.1 ≠ .h j) :
    (sl.writeAll owner ws).h.get j = x := by
  subst hws
  have helem : (sl.writeAll owner pre).elem = sl.elem := by rw [Slot.writeAll_eq]
  have hcut : sl.writeAll owner (pre ++ (l, .h j, x) :: post) = ((sl.writeAll owner pre).writeOne (owner l) (.h j) x).writeAll owner post := by
    simp only [Slot.writeAll, List.foldl_append, List.foldl_cons]
  have helem' : ((sl.writeAll owner pre).writeOne (owner l) (.h j) x).elem = sl.elem := by rw [Slot.writeOne_eq]; exact helem
  rw [hcut, Slot.writeAll_h_of_not_mem (helem'.symm ▸ hpost)]
  simp only [Slot.writeOne, helem, hl, if_true]
  exact SMap.get_set_self ..

/-! ### Registers written in the machine -/

theorem updId_eq_map {α : Type} (key : α → Nat) (k : Nat) (f : α → α) (l : List α) : updId key k f l = l.map (fun x => if key x = k then f x else x) := by
  induction l with
  | nil => rfl
  | cons x l ih => rw [updId, ih, List.map_cons]

@[simp] theorem Group.writeOne_id (g : Group) (l : Nat) (ref : RegRef) (x : Word) : (g.writeOne l ref x).id = g.id := by rw [Group.writeOne_eq]

section
variable (s : State) (gid : Nat)

theorem State.writeReg_group? (l : Nat) (ref : RegRef) (x : Word) : (s.writeReg gid l ref x).group? gid = (s.group? gid).map (·.writeOne l ref x) := by
  cases ref with
  | h i =>
    have hsame : (s.group? gid).map (·.writeOne l (.h i) x) = s.group? gid := by
      have hid : (fun g : Group => g.writeOne l (.h i) x) = fun g => g := funext fun g => Group.updLane_eq_self (fun _ => rfl) g l
      rw [hid, Option.map_id']
    rw [hsame, State.writeReg]
    split <;> rfl
  | _ => exact State.updGroup_group?_self s gid _ fun _ => rfl

theorem State.writeReg_group?_ne {k : Nat} (hk : k ≠ gid) (l : Nat) (ref : RegRef) (x : Word) : (s.writeReg gid l ref x).group? k = s.group? k := by
  cases ref with
  | h i =>
    rw [State.writeReg]
    split <;> rfl
  | _ => exact State.updGroup_group?_ne s _ (fun _ => rfl) hk

theorem State.writeRegs_group? (ws : List (Nat × RegRef × Word)) : (s.writeRegs gid ws).group? gid = (s.group? gid).map (·.writeAll ws) := by
  induction ws generalizing s with
  | nil => exact (Option.map_id' ..).symm
  | cons w ws ih =>
    obtain ⟨l, ref, x⟩ := w
    rw [State.writeRegs, ih, State.writeReg_group?, Option.map_map]
    rfl

theorem State.writeRegs_group?_ne {k : Nat} (hk : k ≠ gid) (ws : List (Nat × RegRef × Word)) : (s.writeRegs gid ws).group? k = s.group? k := by
  induction ws generalizing s with
  | nil => rfl
  | cons w ws ih =>
    obtain ⟨l, ref, x⟩ := w
    rw [State.writeRegs, ih, State.writeReg_group?_ne s gid hk]

/-- The element of a lane of the group. -/
def State.owner (l : Nat) : Option Nat := ((s.group? gid).bind (·.lane? l)).map (·.elem)

theorem State.writeReg_owner (l : Nat) (ref : RegRef) (x : Word) : (s.writeReg gid l ref x).owner gid = s.owner gid := by
  funext k
  rw [State.owner, State.owner, State.writeReg_group?]
  cases s.group? gid with
  | none => rfl
  | some g =>
    simp only [Option.map_some, Option.bind_some, Group.writeOne_lane?]
    split
    · rw [Option.map_map]
      congr 1
      funext ln
      rw [Function.comp_apply, Lane.write_eq]
    · rfl

theorem State.writeReg_slots (l : Nat) (ref : RegRef) (x : Word) : (s.writeReg gid l ref x).slots = s.slots.map (·.writeOne (s.owner gid l) ref x) := by
  cases ref with
  | h i =>
    rw [State.writeReg, State.owner]
    cases (s.group? gid).bind (·.lane? l) with
    | none => exact (List.map_id' s.slots).symm
    | some ln =>
      refine (updId_eq_map ..).trans (List.map_congr_left fun sl _ => ?_)
      simp only [Slot.writeOne, Option.map_some, Option.some.injEq, eq_comm]
  | _ => exact (List.map_id' s.slots).symm

theorem State.writeRegs_slots (ws : List (Nat × RegRef × Word)) : (s.writeRegs gid ws).slots = s.slots.map (·.writeAll (s.owner gid) ws) := by
  induction ws generalizing s with
  | nil => exact (List.map_id' s.slots).symm
  | cons w ws ih =>
    obtain ⟨l, ref, x⟩ := w
    rw [State.writeRegs, ih, State.writeReg_owner, State.writeReg_slots, List.map_map]
    rfl

end

end Sys2Proof.Machine
end

section
namespace Sys2Proof.Machine

/-! ### A lane of a long-latency instruction completes (R23, R98) -/

theorem findId_delId_ne {α : Type} (key : α → Nat) {k j : Nat} (h : j ≠ k) (l : List α) : findId key j (delId key k l) = findId key j l := by
  induction l with
  | nil => rfl
  | cons y l ih =>
    by_cases hk : key y = k
    · simpa [delId, findId, hk, Ne.symm h] using ih
    · by_cases hj : key y = j
      · simp [delId, findId, hj, h]
      · simpa [delId, findId, hk, hj] using ih

/-- The writes of one lane, as writes of its group's. -/
def ofLane (l : Nat) (ws : List (RegRef × Word)) : List (Nat × RegRef × Word) := ws.map (fun w => (l, w.1, w.2))

theorem laneWrites_ofLane_self (l : Nat) (ws : List (RegRef × Word)) : laneWrites l (ofLane l ws) = ws := by
  simp [laneWrites, ofLane, List.filter_map, Function.comp_def]

theorem laneWrites_ofLane_ne {k l : Nat} (h : k ≠ l) (ws : List (RegRef × Word)) : laneWrites k (ofLane l ws) = [] := by
  simp [laneWrites, ofLane, List.filter_map, Function.comp_def, Ne.symm h]

/-- What a lane that completes writes: one that has exited leaves nothing in its element's held registers (R98). -/
def State.writesOf (s : State) (o : LongOp) (l : OpLane) (writes : List (RegRef × Word)) : List (RegRef × Word) :=
  writes.filter (fun w => keepsWrite (((s.group? o.group).bind (·.lane? l.lane)).elim false (fun x => x.st = .exited)) w.1)

/-- The lanes of an instruction that are left without one. -/
def LongOp.lanesBut (o : LongOp) (k : Nat) : List OpLane := o.lanes.filter (fun x => x.lane ≠ k)

/-- What is left of an instruction whose lane has completed. -/
def State.lessLane (s : State) (o : LongOp) (l : OpLane) : List LongOp :=
  if o.lanesBut l.lane = [] then delId LongOp.id o.id s.ops
  else updId LongOp.id o.id (fun p => { p with lanes := o.lanesBut l.lane }) s.ops

/-- Where the writes of a lane are not kept for its first transfer, they are performed, its flag falls, and the instruction loses the lane. -/
theorem State.completeLane_eq (s : State) {o : LongOp} (hkept : o.kept = false) (l : OpLane) (ws : List (RegRef × Word)) :
    s.completeLane o l ws =
      { (s.writeRegs o.group (ofLane l.lane (s.writesOf o l ws))).updGroup o.group (·.subFlag? o.flag 1) with ops := s.lessLane o l } := by
  have hops : ∀ ws', ((s.writeRegs o.group ws').updGroup o.group (·.subFlag? o.flag 1)).ops = s.ops := fun ws' => by
    show (s.writeRegs o.group ws').ops = s.ops
    rw [State.writeRegs_eq]
  have hupd : ∀ (t : State) f, t.updOp o.id f = { t with ops := updId LongOp.id o.id f t.ops } := fun t f => rfl
  simp only [State.completeLane, hkept, Bool.false_and, Bool.false_eq_true, if_false, List.isEmpty_iff, State.writesOf, ofLane]
  by_cases hrest : o.lanesBut l.lane = []
  · refine (if_pos hrest).trans ?_
    rw [State.lessLane, if_pos hrest, hops]
  · refine (if_neg hrest).trans ?_
    rw [State.lessLane, if_neg hrest, hupd, hops]
    rfl

/-- The instruction's own record, of which `rest` are the lanes that are left. -/
theorem State.lessLane_self {s : State} {op : Nat} {o : LongOp} (ho : s.op? op = some o) (l : OpLane) :
    findId LongOp.id op (s.lessLane o l) =
      if o.lanesBut l.lane = [] then none else some { o with lanes := o.lanesBut l.lane } := by
  obtain rfl : o.id = op := findId_key LongOp.id ho
  rw [State.lessLane]
  split
  · exact findId_delId_self ..
  · rw [findId_updId_self LongOp.id (fun p => { p with lanes := o.lanesBut l.lane }) (fun _ => rfl), show findId LongOp.id o.id s.ops = some o from ho]
    rfl

theorem State.lessLane_ne (s : State) {o : LongOp} {k : Nat} (hk : k ≠ o.id) (l : OpLane) : findId LongOp.id k (s.lessLane o l) = s.op? k := by
  rw [State.lessLane]
  split
  · exact findId_delId_ne LongOp.id hk _
  · exact findId_updId_ne LongOp.id (fun p => { p with lanes := o.lanesBut l.lane }) (fun _ => rfl) hk _

/-- Of writes that are each to another register, those that are performed are too. -/
theorem nodup_writesOf {s : State} {o : LongOp} {l : OpLane} {ws : List (RegRef × Word)} (h : (ws.map (·.1)).Nodup) :
    ((s.writesOf o l ws).map (·.1)).Nodup :=
  h.sublist (List.filter_sublist.map _)

theorem mem_writesOf {s : State} {o : LongOp} {l : OpLane} {ws : List (RegRef × Word)} {w : RegRef × Word} (hw : w ∈ ws)
    (hh : ∀ j, w.1 ≠ .h j) : w ∈ s.writesOf o l ws := by
  refine List.mem_filter.mpr ⟨hw, ?_⟩
  cases hr : w.1 with
  | h j => exact absurd hr (hh j)
  | _ => rfl

theorem mem_of_mem_writesOf {s : State} {o : LongOp} {l : OpLane} {ws : List (RegRef × Word)} {w : RegRef × Word} (hw : w ∈ s.writesOf o l ws) : w ∈ ws :=
  (List.mem_filter.mp hw).1

/-- What a lane's writes leave in it. -/
theorem Lane.writeAll_frame (ln : Lane) (ws : List (RegRef × Word)) :
    (∀ j, (∀ w ∈ ws, w.1 ≠ .v j) → (ln.writeAll ws).v.get j = ln.v.get j) ∧ (∀ j, (∀ w ∈ ws, w.1 ≠ .o j) → (ln.writeAll ws).o.get j = ln.o.get j) ∧
    (∀ j, (∀ w ∈ ws, w.1 ≠ .p j) → (ln.writeAll ws).pred j = ln.pred j) ∧ (∀ j, (∀ w ∈ ws, w.1 ≠ .l j) → (ln.writeAll ws).l.get j = ln.l.get j) ∧
    ((∀ w ∈ ws, w.1 ≠ .seed) → (ln.writeAll ws).seed = ln.seed) :=
  ⟨fun j h => foldl_frame (fun t : Lane => t.v.get j) (fun t w hw => t.write_v_of_ne w.2 (h w hw)) ln,
    fun j h => foldl_frame (fun t : Lane => t.o.get j) (fun t w hw => t.write_o_of_ne w.2 (h w hw)) ln,
    fun j h => foldl_frame (fun t : Lane => t.pred j) (fun t w hw => t.write_pred_of_ne w.2 (h w hw)) ln,
    fun j h => foldl_frame (fun t : Lane => t.l.get j) (fun t w hw => t.write_l_of_ne w.2 (h w hw)) ln,
    fun h => foldl_frame (fun t : Lane => t.seed) (fun t w hw => t.write_seed_of_ne w.2 (h w hw)) ln⟩

theorem Lane.holds_h (ln : Lane) (j : Nat) (w : Word) : ln.holds (.h j) w := trivial

/-- Of a lane's writes, each to another register, every one stands. -/
theorem Lane.holds_of_nodup {ws : List (RegRef × Word)} (hn : (ws.map (·.1)).Nodup) {ref : RegRef} {w : Word} (hw : (ref, w) ∈ ws) (ln : Lane) :
    (ln.writeAll ws).holds ref w := by
  obtain ⟨pre, post, hsplit, hpost⟩ := split_of_nodup hn hw
  exact Lane.holds_writeAll hsplit hpost ln

theorem map_ofLane (l : Nat) (ws : List (RegRef × Word)) : (ofLane l ws).map (·.2.1) = ws.map (·.1) := by
  simp [ofLane, Function.comp_def]

theorem mem_ofLane {l : Nat} {ws : List (RegRef × Word)} {w : Nat × RegRef × Word} : w ∈ ofLane l ws ↔ w.1 = l ∧ (w.2.1, w.2.2) ∈ ws := by
  obtain ⟨k, ref, x⟩ := w
  simp only [ofLane, List.mem_map, Prod.mk.injEq]
  constructor
  · rintro ⟨⟨r, y⟩, hw, rfl, rfl, rfl⟩
    exact ⟨rfl, hw⟩
  · rintro ⟨rfl, hw⟩
    exact ⟨_, hw, rfl, rfl, rfl⟩

end Sys2Proof.Machine
end

section
namespace Sys2Proof.Machine

section
variable {s : State} {o : LongOp} {l : OpLane} {g : Group} (hg : s.group? o.group = some g)
include hg

theorem State.owner_of_group (k : Nat) : s.owner o.group k = (g.lane? k).map (·.elem) := by rw [State.owner, hg]; rfl

theorem State.writesOf_of_group {ws : List (RegRef × Word)} {ln : Lane} (hln : g.lane? l.lane = some ln) :
    s.writesOf o l ws = ws.filter (fun w => keepsWrite (ln.st = .exited) w.1) := by
  rw [State.writesOf, hg, Option.bind_some, hln]; rfl

/-- What the completion of a lane leaves in a slot. -/
theorem completing_slot (sl : Slot) (ws : List (RegRef × Word)) :
    let sl' := sl.writeAll (s.owner o.group) (ofLane l.lane (s.writesOf o l ws))
    sl' = { sl with h := sl'.h } ∧ (∀ j, (∀ w, (RegRef.h j, w) ∉ ws) → sl'.h.get j = sl.h.get j) ∧
      (∀ ln, g.lane? l.lane = some ln → ln.elem ≠ sl.elem ∨ ln.st = .exited → sl' = sl) ∧
      (∀ ln j w, g.lane? l.lane = some ln → ln.elem = sl.elem → ln.st ≠ .exited → (ws.map (·.1)).Nodup → (RegRef.h j, w) ∈ ws → sl'.h.get j = w) := by
  refine ⟨Slot.writeAll_eq .., fun j hj => ?_, fun ln hln hor => ?_, fun ln j w hln helem hst hn hw => ?_⟩
  · refine Slot.writeAll_h_of_not_mem fun w hw _ href => ?_
    obtain ⟨-, hw⟩ := mem_ofLane.mp hw
    exact hj w.2.2 (href ▸ mem_of_mem_writesOf hw)
  · refine Slot.writeAll_of_other fun w hw i hi howner => ?_
    obtain ⟨hl, hw⟩ := mem_ofLane.mp hw
    rw [State.writesOf_of_group hg hln, List.mem_filter, hi] at hw
    rw [State.owner_of_group hg, hl, hln, Option.map_some, Option.some.injEq] at howner
    have hlive := hw.2
    simp only [keepsWrite, Bool.not_eq_true', decide_eq_false_iff_not] at hlive
    exact hor.elim (fun h => h howner) hlive
  · have hmem : (l.lane, RegRef.h j, w) ∈ ofLane l.lane (s.writesOf o l ws) := by
      refine mem_ofLane.mpr ⟨rfl, ?_⟩
      rw [State.writesOf_of_group hg hln, List.mem_filter]
      exact ⟨hw, by simp [keepsWrite, hst]⟩
    have hnodup : ((ofLane l.lane (s.writesOf o l ws)).map (·.2.1)).Nodup := by rw [map_ofLane]; exact nodup_writesOf hn
    obtain ⟨pre, post, hsplit, hpost⟩ := split_of_nodup hnodup hmem
    refine Slot.writeAll_h_last hsplit ?_ fun x hx _ => hpost x hx
    rw [State.owner_of_group hg, hln, Option.map_some, helem]

/-- The group after one of its lanes has completed. -/
theorem State.completeLane_group (hkept : o.kept = false) (ws : List (RegRef × Word)) :
    (s.completeLane o l ws).group? o.group = some ((g.writeAll (ofLane l.lane (s.writesOf o l ws))).subFlag? o.flag 1) := by
  rw [State.completeLane_eq s hkept]
  refine State.updGroup_group?_of ?_ (·.subFlag? o.flag 1) fun g => by rw [Group.subFlag?_eq]
  rw [State.writeRegs_group?, hg, Option.map_some]

end

theorem State.completeLane_group_ne (s : State) {o : LongOp} (hkept : o.kept = false) (l : OpLane) (ws : List (RegRef × Word)) {k : Nat} (hk : k ≠ o.group) :
    (s.completeLane o l ws).group? k = s.group? k := by
  rw [State.completeLane_eq s hkept]
  refine (State.updGroup_group?_ne _ (·.subFlag? o.flag 1) (fun g => by rw [Group.subFlag?_eq]) hk).trans ?_
  exact State.writeRegs_group?_ne s o.group hk _

theorem State.completeLane_slots (s : State) {o : LongOp} (hkept : o.kept = false) (l : OpLane) (ws : List (RegRef × Word)) :
    (s.completeLane o l ws).slots = s.slots.map (·.writeAll (s.owner o.group) (ofLane l.lane (s.writesOf o l ws))) := by
  rw [State.completeLane_eq s hkept]
  exact State.writeRegs_slots s o.group _

theorem State.completeLane_frame (s : State) {o : LongOp} (hkept : o.kept = false) (l : OpLane) (ws : List (RegRef × Word)) :
    s.completeLane o l ws = { s with groups := (s.completeLane o l ws).groups, slots := (s.completeLane o l ws).slots, ops := (s.completeLane o l ws).ops } := by
  rw [State.completeLane_eq s hkept, State.writeRegs_eq]
  rfl

/-- LANE_COMPLETION of a lane that has nothing to wait for. -/
theorem exec_laneCompletion_ready {s : State} {op lane : Nat} {o : LongOp} {l : OpLane} (ho : s.op? op = some o)
    (hl : o.lanes.find? (fun x => x.lane = lane) = some l) (hready : l.cond = .ready) (hbehind : s.writesBehind o l = false) :
    exec (.laneCompletion op lane) s = .next (s.completeLane o l l.writes) := by
  show execLaneCompletion op lane s = _
  simp only [execLaneCompletion, ho, hl, State.completeIf, hready, hbehind, Bool.false_eq_true, if_false]

/-- Settles O54: the lane's writes are performed one after the other, and the frame is what no write touches. -/
theorem completionFrame : Obligations.CompletionFrame := by
  unfold Obligations.CompletionFrame
  intro s op lane o l g ho hl hready hg hkept hbehind
  obtain rfl : l.lane = lane := by simpa using List.find?_some hl
  have hid : o.id = op := findId_key LongOp.id ho
  set ws := s.writesOf o l l.writes with hws
  have hnodup : (l.writes.map (·.1)).Nodup → ((ofLane l.lane ws).map (·.2.1)).Nodup := fun h => by rw [map_ofLane]; exact nodup_writesOf h
  have hops : (s.completeLane o l l.writes).ops = s.lessLane o l := by rw [State.completeLane_eq s hkept]
  refine ⟨_, _, exec_laneCompletion_ready ho hl hready hbehind, State.completeLane_frame s hkept l _, State.completeLane_group hg hkept _,
    fun k => State.completeLane_group_ne s hkept l _, fun k hk => ?_, ?_, fun j hj => ?_, ?_, fun k sl sl' hsl hsl' => ?_, fun ln ln' hln hln' => ?_,
    fun hn j w hw => ?_, fun i hi => ?_, fun i hi => ?_, ?_, fun k hk => ?_⟩
  · exact (congrArg (findId LongOp.id k) hops).trans (State.lessLane_ne s (hid ▸ hk) l)
  · exact (congrArg (findId LongOp.id op) hops).trans (State.lessLane_self ho l)
  · rw [Group.subFlag?_eq]
    refine Group.writeAll_g_of_not_mem (fun w hw href => ?_) g
    exact hj w.2.2 (href ▸ mem_of_mem_writesOf (mem_ofLane.mp hw).2)
  · rw [State.completeLane_slots s hkept, List.length_map]
  · rw [State.completeLane_slots s hkept, List.getElem?_map, hsl, Option.map_some, Option.some.injEq] at hsl'
    exact hsl' ▸ completing_slot hg sl l.writes
  · rw [Group.subFlag?_lane?, Group.writeAll_lane?, hln, laneWrites_ofLane_self, Option.map_some, Option.some.injEq] at hln'
    subst hln'
    obtain ⟨hv, ho', hp, hL, hseed⟩ := ln.writeAll_frame ws
    have hmem : ∀ {ref : RegRef}, (∀ w, (ref, w) ∉ l.writes) → ∀ w ∈ ws, w.1 ≠ ref := fun h w hw href => h w.2 (href ▸ mem_of_mem_writesOf hw)
    refine ⟨ln.writeAll_eq ws, fun j h => hv j (hmem h), fun j h => ho' j (hmem h), fun j h => hp j (hmem h), fun j h => hL j (hmem h),
      fun h => hseed (hmem h), fun hn ref w hw => ?_⟩
    by_cases hh : ∃ j, ref = .h j
    · obtain ⟨j, rfl⟩ := hh
      exact Lane.holds_h ..
    · exact Lane.holds_of_nodup (nodup_writesOf hn) (mem_writesOf hw fun j hj => hh ⟨j, hj⟩) ln
  · have hmem : (l.lane, RegRef.g j, w) ∈ ofLane l.lane ws := mem_ofLane.mpr ⟨rfl, mem_writesOf hw fun _ => by simp⟩
    obtain ⟨pre, post, hsplit, hpost⟩ := split_of_nodup (hnodup hn) hmem
    rw [Group.subFlag?_eq]
    exact Group.writeAll_g_last hsplit hpost g
  · rw [Group.flag_subFlag?, if_neg (Ne.symm hi), Group.writeAll_eq]
    rfl
  · rw [Group.flag_subFlag?, if_pos hi, Group.writeAll_eq]
    rfl
  · rw [Group.subFlag?_eq, Group.writeAll_eq]
  · rw [Group.subFlag?_lane?, Group.writeAll_lane?, laneWrites_ofLane_ne hk]
    exact Option.map_id' ..

end Sys2Proof.Machine
end

section
namespace Sys2Proof.Machine

/-! ### The writes of a result (R28, R31) -/

/-- Where each write establishes `P` or keeps it, and some write establishes it, it holds at the end. -/
theorem foldl_establishes {σ ι : Type} {step : σ → ι → σ} {P : σ → Prop} {ws : List ι} {w : ι} (hw : w ∈ ws) (hself : ∀ s, P (step s w))
    (h : ∀ x ∈ ws, (∀ s, P (step s x)) ∨ ∀ s, P s → P (step s x)) (s : σ) : P (ws.foldl step s) := by
  induction ws generalizing s with
  | nil => exact absurd hw List.not_mem_nil
  | cons y ws ih =>
    have htail : ∀ x ∈ ws, (∀ s, P (step s x)) ∨ ∀ s, P s → P (step s x) := fun x hx => h x (List.mem_cons_of_mem _ hx)
    rcases List.mem_cons.mp hw with rfl | hw
    · exact List.foldlRecOn (motive := P) ws step (hself s) fun t ht x hx => (htail x hx).elim (· t) (· t ht)
    · exact ih hw htail _

/-- What a result writes to its destination and to its L entry. -/
def LaneRes.regWrites (r : LaneRes) (f : Form) : List (RegRef × Word) :=
  r.words.zipIdx.filterMap (fun c => (f.dst.ref c.2).map (·, c.1)) ++
  (match f.lw, r.words with
   | some i, w :: _ => [(RegRef.l i.toNat, w)]
   | _, _ => [])

/-- What it writes to %seed comes first. -/
theorem LaneRes.writes_eq (r : LaneRes) (f : Form) : r.writes f = (match r.seed with
    | some x => [(RegRef.seed, x)]
    | none => []) ++ r.regWrites f := List.append_assoc ..

theorem LaneRes.mem_regWrites {r : LaneRes} {f : Form} {ref : RegRef} {x : Word} : (ref, x) ∈ r.regWrites f ↔
    (∃ k, r.words[k]? = some x ∧ f.dst.ref k = some ref) ∨ ∃ i ws, f.lw = some i ∧ r.words = x :: ws ∧ ref = .l i.toNat := by
  rw [LaneRes.regWrites, List.mem_append]
  refine or_congr ?_ ?_
  · simp only [List.mem_filterMap, Prod.exists, List.mem_zipIdx_iff_getElem?, Option.map_eq_some_iff, Prod.mk.injEq]
    exact ⟨fun ⟨w, k, hk, ref', href, h1, h2⟩ => ⟨k, h2 ▸ hk, h1 ▸ href⟩, fun ⟨k, hk, href⟩ => ⟨x, k, hk, ref, href, rfl, rfl⟩⟩
  · cases f.lw with
    | none => simp
    | some i =>
      cases r.words with
      | nil => simp
      | cons w ws =>
        simp only [List.mem_singleton, Prod.mk.injEq, Option.some.injEq, List.cons.injEq]
        exact ⟨fun ⟨h1, h2⟩ => ⟨i, ws, rfl, ⟨h2.symm, rfl⟩, h1⟩, fun ⟨j, _, hj, ⟨hx, _⟩, href⟩ => ⟨hj ▸ href, hx.symm⟩⟩

theorem LaneRes.mem_writes {r : LaneRes} {f : Form} {ref : RegRef} {x : Word} : (ref, x) ∈ r.writes f ↔
    (r.seed = some x ∧ ref = .seed) ∨ (ref, x) ∈ r.regWrites f := by
  rw [LaneRes.writes_eq, List.mem_append]
  refine or_congr ?_ Iff.rfl
  cases r.seed with
  | none => simp
  | some y =>
    simp only [List.mem_singleton, Prod.mk.injEq, Option.some.injEq]
    exact ⟨fun ⟨h1, h2⟩ => ⟨h2.symm, h1⟩, fun ⟨h1, h2⟩ => ⟨h2, h1.symm⟩⟩

/-- A destination is no L entry. -/
theorem Dst.ref_ne_l (d : Dst) (k j : Nat) : d.ref k ≠ some (.l j) := by
  cases d <;> simp [Dst.ref]

theorem mem_dests {f : Form} {n : Nat} {ref : RegRef} : ref ∈ dests f n ↔ ∃ k, k < n ∧ f.dst.ref k = some ref := by
  simp only [dests, List.mem_filterMap, List.mem_range]

/-- A register that is neither %seed nor an L entry is written only as the destination. -/
theorem LaneRes.mem_dests_of_writes {r : LaneRes} {f : Form} {ref : RegRef} {x : Word} (h : (ref, x) ∈ r.writes f) (hseed : ref ≠ .seed)
    (hl : ∀ j, ref ≠ .l j) : ref ∈ dests f r.words.length := by
  rcases LaneRes.mem_writes.mp h with ⟨-, href⟩ | h
  · exact absurd href hseed
  · rcases LaneRes.mem_regWrites.mp h with ⟨k, hk, href⟩ | ⟨i, _, -, -, href⟩
    · exact mem_dests.mpr ⟨k, (List.getElem?_eq_some_iff.mp hk).1, href⟩
    · exact absurd href (hl _)

/-- An L entry is written only where the form writes it. -/
theorem LaneRes.lw_of_writes {r : LaneRes} {f : Form} {j : Nat} {x : Word} (h : (RegRef.l j, x) ∈ r.writes f) :
    f.lw.map (·.toNat) = some j ∧ ∃ ws, r.words = x :: ws := by
  rcases LaneRes.mem_writes.mp h with ⟨-, href⟩ | h
  · exact absurd href (by simp)
  · rcases LaneRes.mem_regWrites.mp h with ⟨k, -, href⟩ | ⟨i, ws, hlw, hws, href⟩
    · exact absurd href (Dst.ref_ne_l _ _ _)
    · refine ⟨?_, ws, hws⟩
      rw [hlw, Option.map_some, RegRef.l.inj href]

/-- The word that a result of one word leaves in its destination. -/
theorem LaneRes.eq_of_one {r : LaneRes} {f : Form} {w x : Word} {ref : RegRef} (hw : r.words = [w]) (h : (ref, x) ∈ r.regWrites f) : x = w := by
  rcases LaneRes.mem_regWrites.mp h with ⟨k, hk, -⟩ | ⟨i, ws, -, hws, -⟩
  · rw [hw] at hk
    have hk0 : k = 0 := by
      have := (List.getElem?_eq_some_iff.mp hk).1
      simpa using this
    subst hk0
    exact (Option.some.inj hk).symm
  · exact (List.cons.inj (hw.symm.trans hws)).1.symm

/-! ### A lane that gets a result -/

theorem Lane.writeAll_append (ln : Lane) (as bs : List (RegRef × Word)) : ln.writeAll (as ++ bs) = (ln.writeAll as).writeAll bs := List.foldl_append

/-- Where every write to a register writes one word, and there is one, the register holds it. -/
theorem Lane.holds_of_agree {ws : List (RegRef × Word)} {ref : RegRef} {w : Word} (hw : (ref, w) ∈ ws) (h : ∀ x, (ref, x) ∈ ws → x = w) (ln : Lane) :
    (ln.writeAll ws).holds ref w := by
  refine foldl_establishes (P := fun t : Lane => t.holds ref w) hw (fun t => Lane.holds_write_self t w ref) (fun x hx => ?_) ln
  by_cases href : x.1 = ref
  · subst href
    obtain rfl := h x.2 hx
    exact .inl fun t => t.holds_write_self x.2 x.1
  · exact .inr fun t => t.holds_write_of_ne x.2 href

theorem Lane.write_l_self (ln : Lane) (i : BitVec 2) (x : Word) :
    (ln.write (.l i.toNat) x).l.get i.toNat = x ∧ (ln.write (.l i.toNat) x).lValid.getLsbD i.toNat = true := by
  refine ⟨SMap.get_set_self .., ?_⟩
  have hi := i.isLt
  rw [Lane.write, Lane.writeL, BitVec.getLsbD_or, BitVec.getLsbD_shiftLeft, BitVec.getLsbD_one]
  simp [hi]

section
variable (r : LaneRes) (f : Form) (ln : Lane)

/-- A destination that one word names holds it, whatever was written to %seed before. -/
theorem Lane.holds_writes {ref : RegRef} {w : Word} (hw : (ref, w) ∈ r.regWrites f) (h : ∀ x, (ref, x) ∈ r.regWrites f → x = w) :
    (ln.writeAll (r.writes f)).holds ref w := by
  rw [LaneRes.writes_eq, Lane.writeAll_append]
  exact Lane.holds_of_agree hw h _

/-- Words in successive V or o registers each stand in their own. -/
theorem Dst.ref_inj_of_run {d : Dst} {j k i : Nat} (hj : d.ref j = some (.v i) ∨ d.ref j = some (.o i)) (h : d.ref k = d.ref j) : k = j := by
  cases d <;> simp_all [Dst.ref] <;> omega

theorem Lane.writes_l {i : BitVec 2} {w : Word} {ws : List Word} (hw : r.words = w :: ws) (hlw : f.lw = some i) :
    (ln.writeAll (r.writes f)).l.get i.toNat = w ∧ (ln.writeAll (r.writes f)).lValid.getLsbD i.toNat = true := by
  have hmem : (RegRef.l i.toNat, w) ∈ r.writes f := LaneRes.mem_writes.mpr (.inr (LaneRes.mem_regWrites.mpr (.inr ⟨i, ws, hlw, hw, rfl⟩)))
  refine foldl_establishes (P := fun t : Lane => t.l.get i.toNat = w ∧ t.lValid.getLsbD i.toNat = true) hmem (fun t => t.write_l_self i w) (fun x hx => ?_) ln
  by_cases href : x.1 = .l i.toNat
  · obtain ⟨-, _, hx⟩ := LaneRes.lw_of_writes (href ▸ hx : (RegRef.l i.toNat, x.2) ∈ r.writes f)
    obtain rfl : w = x.2 := (List.cons.inj (hw.symm.trans hx)).1
    exact .inl fun t => href ▸ t.write_l_self i x.2
  · exact .inr fun t ⟨hget, hvalid⟩ => ⟨(t.write_l_of_ne x.2 href).trans hget, (t.write_lValid_of_ne x.2 href).trans hvalid⟩

/-- A lane that gets a result is as `LaneAfter` says, however %clockhi is latched then. -/
theorem laneAfter_writes (clock : Word) (hclock : f.reads 17 = false → clock = ln.clockHi) :
    LaneAfter f r ln { ln.writeAll (r.writes f) with clockHi := clock } := by
  obtain ⟨hv, ho, hp, hl, hseed⟩ := ln.writeAll_frame (r.writes f)
  have hdst : ∀ {ref : RegRef}, ref ≠ .seed → (∀ j, ref ≠ .l j) → ref ∉ dests f r.words.length → ∀ w ∈ r.writes f, w.1 ≠ ref :=
    fun hs hl hn w hw href => hn (href ▸ LaneRes.mem_dests_of_writes hw (href ▸ hs) (fun j => href ▸ hl j))
  have hlw : ∀ {i : Nat}, f.lw.map (·.toNat) ≠ some i → ∀ w ∈ r.writes f, w.1 ≠ .l i :=
    fun hn w hw href => hn (LaneRes.lw_of_writes (href ▸ hw : (RegRef.l _, w.2) ∈ r.writes f)).1
  constructor
  case same => rw [ln.writeAll_eq]
  case v => exact fun i hi => hv i (hdst (by simp) (by simp) hi)
  case o => exact fun i hi => ho i (hdst (by simp) (by simp) hi)
  case p => exact fun i hi => hp i (hdst (by simp) (by simp) hi)
  case l => exact fun i hi => hl i (hlw hi)
  case lValid =>
    exact fun i hi => foldl_frame (fun t : Lane => t.lValid.getLsbD i) (fun t w hw => t.write_lValid_of_ne w.2 (hlw hi w hw)) ln
  case seed =>
    refine fun hnone hi => hseed fun w hw href => ?_
    rcases LaneRes.mem_writes.mp hw with ⟨hs, -⟩ | hw
    · exact absurd (hnone.symm.trans hs) (by simp)
    · rcases LaneRes.mem_regWrites.mp hw with ⟨k, hk, hk'⟩ | ⟨i, _, -, -, hl⟩
      · exact hi (mem_dests.mpr ⟨k, (List.getElem?_eq_some_iff.mp hk).1, href ▸ hk'⟩)
      · exact absurd (href.symm.trans hl) (by simp)
  case clockHi => exact hclock
  case one =>
    intro w ref hw href
    have hmem : (ref, w) ∈ r.regWrites f := LaneRes.mem_regWrites.mpr (.inl ⟨0, by rw [hw]; rfl, href⟩)
    have hholds := Lane.holds_writes r f ln hmem fun x hx => LaneRes.eq_of_one hw hx
    cases ref <;> exact hholds
  case run =>
    intro k w i hk hrun
    have hsome : ∃ ref, f.dst.ref k = some ref ∧ (ref = .v i ∨ ref = .o i) :=
      hrun.elim (fun h => ⟨_, h, .inl rfl⟩) (fun h => ⟨_, h, .inr rfl⟩)
    obtain ⟨ref, href, hvo⟩ := hsome
    have hmem : (ref, w) ∈ r.regWrites f := LaneRes.mem_regWrites.mpr (.inl ⟨k, hk, href⟩)
    have hholds := Lane.holds_writes r f ln hmem fun x hx => by
      rcases LaneRes.mem_regWrites.mp hx with ⟨j, hj, hjref⟩ | ⟨_, _, -, -, hl⟩
      · obtain rfl : j = k := Dst.ref_inj_of_run hrun (hjref.trans href.symm)
        exact Option.some.inj (hj.symm.trans hk)
      · exact absurd hl (by rcases hvo with rfl | rfl <;> simp)
    refine ⟨ref, href, ?_⟩
    rcases hvo with rfl | rfl <;> exact hholds
  case lw => exact fun w ws i hw hi => Lane.writes_l r f ln hw hi

end

end Sys2Proof.Machine
end

section
namespace Sys2Proof.Machine

/-! ### The writes of the lanes of X -/

theorem laneWrites_append (l : Nat) (as bs : List (Nat × RegRef × Word)) : laneWrites l (as ++ bs) = laneWrites l as ++ laneWrites l bs := by
  simp [laneWrites]

/-- A lane has its own writes, and of lanes in ascending order each is there once. -/
theorem laneWrites_flatMap {cs : List (Nat × Lane)} (hs : cs.Pairwise (fun a b => a.1 < b.1)) (ws : Nat × Lane → List (RegRef × Word)) (l : Nat) :
    laneWrites l (cs.flatMap (fun c => ofLane c.1 (ws c))) = (cs.find? (fun c => c.1 = l)).elim [] ws := by
  induction cs with
  | nil => rfl
  | cons c cs ih =>
    obtain ⟨hlt, hs⟩ := List.pairwise_cons.mp hs
    rw [List.flatMap_cons, laneWrites_append, ih hs]
    by_cases hl : c.1 = l
    · have hnone : cs.find? (fun c => c.1 = l) = none := by
        refine List.find?_eq_none.mpr fun d hd => ?_
        have := hlt d hd
        simp only [decide_eq_true_eq]
        omega
      rw [hnone, List.find?_cons_of_pos (by simpa using hl), ← hl, laneWrites_ofLane_self]
      exact List.append_nil _
    · rw [List.find?_cons_of_neg (by simpa using hl), laneWrites_ofLane_ne (Ne.symm hl)]
      rfl

theorem Env.writes_eq (e : Env) (f : Form) (fn : Nat → Lane → LaneRes) :
    e.writes f fn = e.lanes.flatMap (fun c => ofLane c.1 ((fn c.1 c.2).writes f)) := rfl

theorem Env.mem_writes {e : Env} {f : Form} {fn : Nat → Lane → LaneRes} {w : Nat × RegRef × Word} :
    w ∈ e.writes f fn ↔ ∃ c ∈ e.lanes, w.1 = c.1 ∧ (w.2.1, w.2.2) ∈ (fn c.1 c.2).writes f := by
  simp only [Env.writes_eq, List.mem_flatMap, mem_ofLane]

/-- A lane of X gets the writes of its result. -/
theorem Env.laneWrites_of_mem {e : Env} {l : Nat} {ln : Lane} (hx : e.x.getLsbD l = true) (hln : e.g.lane? l = some ln) (f : Form)
    (fn : Nat → Lane → LaneRes) : laneWrites l (e.writes f fn) = (fn l ln).writes f := by
  have hmem : (l, ln) ∈ e.lanes := Env.mem_lanes.mpr ⟨hx, hln⟩
  have hfind : e.lanes.find? (fun c => c.1 = l) = some (l, ln) := by
    cases hfind : e.lanes.find? (fun c => c.1 = l) with
    | none => exact absurd (List.find?_eq_none.mp hfind _ hmem) (by simp)
    | some c =>
      have hc : c.1 = l := by simpa using List.find?_some hfind
      have hcl := (Env.mem_lanes.mp (show (c.1, c.2) ∈ e.lanes from List.mem_of_find?_eq_some hfind)).2
      rw [hc, hln] at hcl
      rw [Option.some.injEq]
      exact Prod.ext hc (Option.some.inj hcl).symm
  rw [Env.writes_eq, laneWrites_flatMap e.lanes_sorted, hfind]
  rfl

/-- A lane that is not of X gets none. -/
theorem Env.laneWrites_of_not_mem {e : Env} {l : Nat} (hx : e.x.getLsbD l = false) (f : Form) (fn : Nat → Lane → LaneRes) :
    laneWrites l (e.writes f fn) = [] := by
  have hnone : e.lanes.find? (fun c => c.1 = l) = none := by
    refine List.find?_eq_none.mpr fun c hc => ?_
    have hcx := (Env.mem_lanes.mp (show (c.1, c.2) ∈ e.lanes from hc)).1
    intro hcl
    rw [of_decide_eq_true hcl, hx] at hcx
    exact absurd hcx Bool.false_ne_true
  rw [Env.writes_eq, laneWrites_flatMap e.lanes_sorted, hnone]
  rfl

section
variable {e : Env} {f : Form} {fn : Nat → Lane → LaneRes}

/-- A destination of another class. -/
theorem Dst.ref_ne_g {d : Dst} (h : ∀ i, d ≠ .g i) (k j : Nat) : d.ref k ≠ some (.g j) := by
  cases d <;> simp_all [Dst.ref]

theorem Dst.ref_ne_h {d : Dst} (h : ∀ i, d ≠ .h i) (k j : Nat) : d.ref k ≠ some (.h j) := by
  cases d <;> simp_all [Dst.ref]

theorem Group.writeOne_g_eq (g : Group) (l : Nat) {ref : RegRef} (x : Word) (h : ∀ j, ref ≠ .g j) : (g.writeOne l ref x).g = g.g := by
  cases ref with
  | g i => exact absurd rfl (h i)
  | _ => rfl

/-- G registers are as they were where the destination is none. -/
theorem Env.writes_g_of_not_g (h : ∀ i, f.dst ≠ .g i) (g : Group) : (g.writeAll (e.writes f fn)).g = g.g := by
  refine foldl_frame (fun t : Group => t.g) (fun t w hw => t.writeOne_g_eq w.1 w.2.2 fun j href => ?_) g
  obtain ⟨c, -, -, hw⟩ := Env.mem_writes.mp hw
  obtain ⟨k, -, hk⟩ := mem_dests.mp (LaneRes.mem_dests_of_writes hw (by simp [href]) (by simp [href]))
  exact Dst.ref_ne_g h k j (href ▸ hk)

theorem Env.writes_g_of_not_mem {j : Nat} (h : ∀ c ∈ e.lanes, RegRef.g j ∉ dests f (fn c.1 c.2).words.length) (g : Group) :
    (g.writeAll (e.writes f fn)).g.get j = g.g.get j := by
  refine Group.writeAll_g_of_not_mem (fun w hw href => ?_) g
  obtain ⟨c, hc, -, hw⟩ := Env.mem_writes.mp hw
  exact h c hc (href ▸ LaneRes.mem_dests_of_writes hw (by simp [href]) (by simp [href]))

/-- The highest lane's word stands in a G destination (R31). -/
theorem Env.writes_g_last {c : Nat × Lane} {j : Nat} {w : Word} (hc : e.lanes.getLast? = some c) (href : f.dst.ref 0 = some (.g j))
    (hw : (fn c.1 c.2).words = [w]) (g : Group) : (g.writeAll (e.writes f fn)).g.get j = w := by
  have hsplit : g.writeAll (e.writes f fn) =
      (g.writeAll (e.lanes.dropLast.flatMap (fun c => ofLane c.1 ((fn c.1 c.2).writes f)))).writeAll (ofLane c.1 ((fn c.1 c.2).writes f)) := by
    rw [Env.writes_eq]
    conv_lhs => rw [← List.dropLast_append_getLast? c hc, List.flatMap_append, List.flatMap_singleton]
    exact List.foldl_append
  have hmem : (c.1, RegRef.g j, w) ∈ ofLane c.1 ((fn c.1 c.2).writes f) :=
    mem_ofLane.mpr ⟨rfl, LaneRes.mem_writes.mpr (.inr (LaneRes.mem_regWrites.mpr (.inl ⟨0, by rw [hw]; rfl, href⟩)))⟩
  rw [hsplit]
  refine foldl_establishes (P := fun t : Group => t.g.get j = w) hmem (fun t => SMap.get_set_self ..) (fun x hx => ?_) _
  by_cases hx2 : x.2.1 = .g j
  · left
    intro t
    have hx3 : x.2.2 = w := by
      rcases LaneRes.mem_writes.mp (mem_ofLane.mp hx).2 with ⟨-, hseed⟩ | hx
      · exact absurd (hx2.symm.trans hseed) (by simp)
      · exact LaneRes.eq_of_one hw hx
    rw [hx2, hx3]
    exact SMap.get_set_self ..
  · exact .inr fun t ht => (t.writeOne_g_of_ne x.1 x.2.2 hx2).trans ht

section
variable {owner : Nat → Option Nat} (howner : ∀ c ∈ e.lanes, owner c.1 = some c.2.elem) (sl : Slot)

theorem Env.writes_slot_of_not_h (h : ∀ i, f.dst ≠ .h i) : sl.writeAll owner (e.writes f fn) = sl := by
  refine Slot.writeAll_of_other fun w hw i href => ?_
  obtain ⟨c, -, -, hw⟩ := Env.mem_writes.mp hw
  obtain ⟨k, -, hk⟩ := mem_dests.mp (LaneRes.mem_dests_of_writes hw (by simp [href]) (by simp [href]))
  exact absurd (href ▸ hk) (Dst.ref_ne_h h k i)

include howner

theorem Env.writes_h_of_not_mem {j : Nat} (h : ∀ c ∈ e.lanes, c.2.elem = sl.elem → RegRef.h j ∉ dests f (fn c.1 c.2).words.length) :
    (sl.writeAll owner (e.writes f fn)).h.get j = sl.h.get j := by
  refine Slot.writeAll_h_of_not_mem fun w hw hown href => ?_
  obtain ⟨c, hc, hl, hw⟩ := Env.mem_writes.mp hw
  rw [hl, howner c hc, Option.some.injEq] at hown
  exact h c hc hown (href ▸ LaneRes.mem_dests_of_writes hw (by simp [href]) (by simp [href]))

/-- A held destination holds its lane's word. -/
theorem Env.writes_h_self {c : Nat × Lane} {j : Nat} {w : Word} (hc : c ∈ e.lanes) (helem : c.2.elem = sl.elem)
    (hone : ∀ d ∈ e.lanes, d.2.elem = sl.elem → d = c) (href : f.dst.ref 0 = some (.h j)) (hw : (fn c.1 c.2).words = [w]) :
    (sl.writeAll owner (e.writes f fn)).h.get j = w := by
  have hmem : (c.1, RegRef.h j, w) ∈ e.writes f fn :=
    Env.mem_writes.mpr ⟨c, hc, rfl, LaneRes.mem_writes.mpr (.inr (LaneRes.mem_regWrites.mpr (.inl ⟨0, by rw [hw]; rfl, href⟩)))⟩
  have hkeeps : ∀ (t : Slot) (x : Nat × RegRef × Word), (t.writeOne (owner x.1) x.2.1 x.2.2).elem = t.elem := fun t x => by rw [Slot.writeOne_eq]
  have hself : ∀ (t : Slot) (k : Nat), owner k = some sl.elem → t.elem = sl.elem → (t.writeOne (owner k) (.h j) w).h.get j = w := fun t k hk ht => by
    simp only [Slot.writeOne, hk, ht, if_true]
    exact SMap.get_set_self ..
  have helem' : (sl.writeAll owner (e.writes f fn)).elem = sl.elem := by rw [Slot.writeAll_eq]
  refine foldl_establishes (P := fun t : Slot => t.elem = sl.elem → t.h.get j = w) hmem
    (fun t ht => hself t c.1 (helem ▸ howner c hc) ((hkeeps t _).symm.trans ht)) (fun x hx => ?_) sl helem'
  by_cases hx1 : owner x.1 = some sl.elem ∧ x.2.1 = .h j
  · obtain ⟨hown, hx2⟩ := hx1
    left
    intro t ht
    obtain ⟨d, hd, hl, hxd⟩ := Env.mem_writes.mp hx
    obtain rfl : d = c := hone d hd (Option.some.inj ((howner d hd).symm.trans (hl ▸ hown)))
    have hx3 : x.2.2 = w := by
      rcases LaneRes.mem_writes.mp hxd with ⟨-, hseed⟩ | hxd
      · exact absurd (hx2.symm.trans hseed) (by simp)
      · exact LaneRes.eq_of_one hw hxd
    have htelem : t.elem = sl.elem := (hkeeps t x).symm.trans ht
    rw [hx2, hx3]
    exact hself t x.1 hown htelem
  · refine .inr fun t ht hkept => ?_
    have htelem : t.elem = sl.elem := (hkeeps t x).symm.trans hkept
    exact (t.writeOne_h_of_ne x.2.2 fun hown hx2 => hx1 ⟨htelem ▸ hown, hx2⟩).trans (ht htelem)

end

end

end Sys2Proof.Machine
end

section
namespace Sys2Proof.Machine

/-! ### The rows of fixed latency change registers of their lanes (R25) -/

theorem fixedRows_short : ∀ r ∈ fixedRows, r.op.isLong = false := by
  simp only [fixedRows, integerRows, logicRows, floatRows, convertRows, readRows, List.forall_mem_append, List.forall_mem_cons, List.not_mem_nil,
    false_imp_iff, implies_true, and_true]
  decide

theorem fixedRows_give : ∀ r ∈ fixedRows, r.gives := by
  simp only [fixedRows, List.forall_mem_append]
  exact ⟨⟨⟨⟨integerResults, logicRows_give⟩, floatResults⟩, (List.forall_mem_append.mp conversionAndReadResults).1⟩,
    (List.forall_mem_append.mp conversionAndReadResults).2⟩

theorem State.retire_slots (s : State) (e : Env) (op : Op) (f : Form) : (s.retire e op f).slots = s.slots := rfl

/-- Settles O53: the instruction performs the writes of its lanes' results one after the other, and the rest is what no write touches. -/
theorem fixedLatencyRegisters : Obligations.FixedLatencyRegisters := by
  unfold Obligations.FixedLatencyRegisters
  intro r hr f s e h
  obtain ⟨-, hgroup, -⟩ := State.env_spec h.env
  set fn := r.res f s e with hfn
  set ws := e.writes f fn with hws
  have hwritten : (s.writeRegs e.gid ws).group? e.gid = some (e.g.writeAll ws) := by rw [State.writeRegs_group?, hgroup, Option.map_some]
  have howner : ∀ c ∈ e.lanes, s.owner e.gid c.1 = some c.2.elem := fun c hc => by
    rw [State.owner, hgroup, Option.bind_some, (Env.mem_lanes.mp (show (c.1, c.2) ∈ e.lanes from hc)).2, Option.map_some]
  have hslots : ((s.writeRegs e.gid ws).retire e r.op f).slots = s.slots.map (·.writeAll (s.owner e.gid) ws) :=
    (State.retire_slots ..).trans (State.writeRegs_slots s e.gid ws)
  have hexec : exec (r.op.instr f) s = .next ((s.writeRegs e.gid ws).retire e r.op f) := fixedRows_give r hr f s e h trivial
  refine ⟨_, _, hexec, State.retire_group?_self hwritten r.op f, ?_, fun k hk => ?_, fun hd => ?_, ?_, fun hd => ?_,
    fun j hj => ?_, fun c j w hc href hw => ?_, ?_, fun k sl sl' hsl hsl' => ?_, ?_, fun l ln ln' hln hln' => ?_⟩
  case refine_1 => rw [State.retire_eq_updGroup, State.writeRegs_eq]; rfl
  case refine_2 => rw [State.retire_group_ne _ _ _ _ hk, State.writeRegs_group?_ne s e.gid hk]
  case refine_3 =>
    rw [hslots]
    exact (List.map_congr_left fun sl _ => Env.writes_slot_of_not_h sl hd).trans (List.map_id' _)
  case refine_8 => rw [hslots, List.length_map]
  case refine_9 =>
    rw [hslots, List.getElem?_map, hsl, Option.map_some, Option.some.injEq] at hsl'
    subst hsl'
    exact ⟨Slot.writeAll_eq .., fun j hj => Env.writes_h_of_not_mem howner sl hj, fun c hc j w helem hone href hw => Env.writes_h_self howner sl hc helem hone href hw⟩
  all_goals rw [Group.retired_of_short _ _ _ _ (fixedRows_short r hr)] at *
  · rw [Group.writeAll_eq]
  · exact Env.writes_g_of_not_g hd e.g
  · exact Env.writes_g_of_not_mem hj e.g
  · exact Env.writes_g_last hc href hw e.g
  · rw [← Group.writeAll_length e.g ws]
    simpa using congrArg List.length (Group.latchClock_lanes (e.g.writeAll ws) f e.x (s.writeRegs e.gid ws).clock)
  · have hlane := Group.latchClock_lane? (e.g.writeAll ws) f e.x (s.writeRegs e.gid ws).clock l
    rw [Group.writeAll_lane?, hln, Option.map_some, Option.map_some] at hlane
    obtain rfl := Option.some.inj (hln'.symm.trans hlane)
    refine ⟨fun hx => ?_, fun hx => ?_⟩
    · rw [if_neg (by simp [hx]), hws, Env.laneWrites_of_not_mem hx]
      rfl
    · rw [hws, Env.laneWrites_of_mem hx hln, hx]
      by_cases hreads : f.reads 17 = true
      · rw [if_pos ⟨hreads, rfl⟩]
        exact laneAfter_writes (fn l ln) f ln _ fun hno => absurd (hreads.symm.trans hno) (by simp)
      · rw [if_neg fun hc => hreads hc.1]
        have hclock : (ln.writeAll ((fn l ln).writes f)).clockHi = ln.clockHi := by rw [ln.writeAll_eq]
        exact laneAfter_writes (fn l ln) f ln _ fun _ => hclock

end Sys2Proof.Machine
end

section
namespace Sys2Proof.Machine

/-! ### The guard (R26) -/

/-- Every encoded instruction without lanes only retires. -/
theorem exec_idle {i : Instr} {op : Op} {f : Form} {s : State} {e : Env} (hp : parts i = some (op, f)) (he : s.env f.guard = some e) (hx : e.x = 0) :
    exec i s = .next (s.retire e op f) := by
  cases i <;> cases hp <;> exact runWith_idle _ he hx

theorem State.env_getLsbD {s : State} {gd : Guard} {e : Env} (he : s.env gd = some e) (hresume : e.g.resumeOn = false) {l : Nat} {ln : Lane}
    (hln : e.g.lane? l = some ln) (hl : l < 64) : e.x.getLsbD l = (e.r.lanes.getLsbD l && (ln.pred gd.idx.toNat ^^ gd.neg)) := by
  obtain ⟨-, -, -, -, -, hx⟩ := State.env_spec he
  rw [hx, Group.active, if_neg (by simp [hresume]), Group.guarded, BitVec.getLsbD_and, Group.getLsbD_lanesWhere _ _ hl, hln]
  rfl

/-- Predicate 7 reads true, so its negation names no lane. -/
theorem State.env_never {s : State} {e : Env} (he : s.env { idx := 7, neg := true } = some e) : e.x = 0 := by
  obtain ⟨-, -, -, -, -, hx⟩ := State.env_spec he
  refine BitVec.eq_of_getLsbD_eq fun l _ => ?_
  rw [show (0 : LaneMask).getLsbD l = false from BitVec.getLsbD_zero, Bool.eq_false_iff]
  intro h
  obtain ⟨-, ln, -, hguard⟩ := Group.active_spec (hx ▸ h)
  exact absurd hguard (by rw [show ln.pred (7 : BitVec 3).toNat = true from ln.pred_p7]; decide)

/-! ### What the checks find (R76) -/

theorem Env.getLsbD_where (e : Env) (p : Nat → Lane → Bool) (l : Nat) :
    (e.where_ p).getLsbD l = true ↔ ∃ ln, (l, ln) ∈ e.lanes ∧ p l ln = true := by
  rw [Env.where_, getLsbD_maskOf, Bool.and_eq_true, decide_eq_true_eq, List.contains_iff_mem, List.mem_map]
  constructor
  · rintro ⟨-, c, hc, rfl⟩
    exact ⟨c.2, List.mem_filter.mp hc⟩
  · rintro ⟨ln, hmem, hp⟩
    exact ⟨BitVec.lt_of_getLsbD (Env.mem_lanes.mp hmem).1, _, List.mem_filter.mpr ⟨hmem, hp⟩, rfl⟩

theorem Env.where_ne_zero (e : Env) (p : Nat → Lane → Bool) : e.where_ p ≠ 0 ↔ ∃ c ∈ e.lanes, p c.1 c.2 = true := by
  constructor
  · intro h
    by_contra hnone
    refine h (BitVec.eq_of_getLsbD_eq fun l _ => ?_)
    rw [show (0 : LaneMask).getLsbD l = false from BitVec.getLsbD_zero, Bool.eq_false_iff]
    exact fun hl => hnone (((e.getLsbD_where p l).mp hl).imp' (fun ln => (l, ln)) fun _ h => h)
  · rintro ⟨⟨l, ln⟩, hc, hp⟩ hzero
    have hbit := (e.getLsbD_where p l).mpr ⟨ln, hc, hp⟩
    rw [hzero] at hbit
    exact Bool.false_ne_true (BitVec.getLsbD_zero.symm.trans hbit)

theorem Lane.badL_iff (ln : Lane) (o : Opnd) : ln.badL o = true ↔ ∃ i, o = .l i ∧ ln.lValid.getLsbD i.toNat = false := by
  cases o <;> simp [Lane.badL]

theorem readsBadL_iff (f : Form) (ln : Lane) : readsBadL f ln ↔ (ln.badL f.a || ln.badL f.b || ln.badL f.c) = true := by
  simp only [readsBadL, Bool.or_eq_true, Lane.badL_iff, or_and_right, exists_or, or_assoc]

/-- The lowest register at or beyond the budget that a run names. -/
theorem lowestBeyond_eq_some {budget n : Nat} {runs : List (Nat × Nat)} (hn : ∃ c ∈ runs, c.1 ≤ n ∧ n < c.1 + c.2) (hb : budget ≤ n)
    (hleast : ∀ m, (∃ c ∈ runs, c.1 ≤ m ∧ m < c.1 + c.2) → budget ≤ m → n ≤ m) : lowestBeyond budget runs = some n := by
  have hmem : ∀ m, m ∈ (runs.filter (fun c => c.2 ≠ 0 && c.1 + c.2 > budget)).map (fun c => max c.1 budget) ↔
      ∃ c ∈ runs, c.2 ≠ 0 ∧ budget < c.1 + c.2 ∧ max c.1 budget = m := fun m => by
    simp only [List.mem_map, List.mem_filter, Bool.and_eq_true, decide_eq_true_eq, gt_iff_lt, and_assoc]
  have hge : ∀ m, (∃ c ∈ runs, c.2 ≠ 0 ∧ budget < c.1 + c.2 ∧ max c.1 budget = m) → n ≤ m := by
    rintro m ⟨c, hc, h0, hlt, rfl⟩
    exact hleast _ ⟨c, hc, by omega, by omega⟩ (by omega)
  rw [lowestBeyond, List.min?_eq_some_iff]
  refine ⟨?_, fun m hm => hge m ((hmem m).mp hm)⟩
  obtain ⟨c, hc, h1, h2⟩ := hn
  have hle : n ≤ max c.1 budget := hge _ ⟨c, hc, by omega, by omega, rfl⟩
  exact (hmem n).mpr ⟨c, hc, by omega, by omega, by omega⟩

theorem lowestBeyond_eq_none {budget : Nat} {runs : List (Nat × Nat)} (h : ∀ n, (∃ c ∈ runs, c.1 ≤ n ∧ n < c.1 + c.2) → n < budget) :
    lowestBeyond budget runs = none := by
  rw [lowestBeyond, List.min?_eq_none_iff, List.map_eq_nil_iff, List.filter_eq_nil_iff]
  intro c hc hbeyond
  simp only [Bool.and_eq_true, decide_eq_true_eq] at hbeyond
  have := h (c.1 + c.2 - 1) ⟨c, hc, by omega, by omega⟩
  omega

/-- The lanes that meet HELD_READ, ascending, each with its word. -/
def State.heldErrors (s : State) (e : Env) (sg : Sig) (f : Form) : List (Nat × Word) :=
  e.lanes.filterMap (fun c => (s.heldError e sg f c.2).map (c.1, ·))

theorem State.mem_heldErrors {s : State} {e : Env} {sg : Sig} {f : Form} {l : Nat} {w : Word} :
    (l, w) ∈ s.heldErrors e sg f ↔ ∃ ln, (l, ln) ∈ e.lanes ∧ s.heldError e sg f ln = some w := by
  simp only [State.heldErrors, List.mem_filterMap, Option.map_eq_some_iff, Prod.mk.injEq, Prod.exists]
  exact ⟨fun ⟨_, ln, hc, _, hw, hl, hw'⟩ => ⟨ln, hl ▸ hc, hw' ▸ hw⟩, fun ⟨ln, hc, hw⟩ => ⟨l, ln, hc, w, hw, rfl, rfl⟩⟩

theorem State.heldErrors_sorted (s : State) (e : Env) (sg : Sig) (f : Form) : (s.heldErrors e sg f).Pairwise (fun a b => a.1 < b.1) := by
  refine List.Pairwise.filterMap _ (fun c d hlt a ha b hb => ?_) e.lanes_sorted
  obtain ⟨_, -, rfl⟩ := Option.map_eq_some_iff.mp ha
  obtain ⟨_, -, rfl⟩ := Option.map_eq_some_iff.mp hb
  exact hlt

/-- The lowest lane of a mask of ascending lanes is the first. -/
theorem lowLane_maskOf_cons {l : Nat} {ls : List Nat} (hl : l < 64) (h : ∀ k ∈ ls, l < k) : lowLane (maskOf (l :: ls)) = l := by
  have hmem : l ∈ lanesOf (maskOf (l :: ls)) := mem_lanesOf.mpr (by rw [getLsbD_maskOf]; simp [hl])
  have hge : ∀ k ∈ lanesOf (maskOf (l :: ls)), l ≤ k := fun k hk => by
    have hk := mem_lanesOf.mp hk
    rw [getLsbD_maskOf, Bool.and_eq_true, List.contains_iff_mem, List.mem_cons] at hk
    exact hk.2.elim (fun h => h ▸ Nat.le_refl _) fun hk => Nat.le_of_lt (h k hk)
  have hsorted : (lanesOf (maskOf (l :: ls))).Pairwise (· < ·) := List.pairwise_lt_range.sublist List.filter_sublist
  unfold lowLane
  cases hlanes : lanesOf (maskOf (l :: ls)) with
  | nil => simp [hlanes] at hmem
  | cons k ks =>
    rw [hlanes] at hmem hge hsorted
    have hle : l ≤ k := hge k List.mem_cons_self
    rcases List.mem_cons.mp hmem with rfl | hmem
    · rfl
    · exact absurd ((List.pairwise_cons.mp hsorted).1 l hmem) (by omega)

section
variable {op : Op} {f : Form} {s : State} {e : Env} {runs : List (Nat × Nat)} {sg : Sig}

/-- A form that no lane may use is reported on every lane of X. -/
theorem State.preCheck_formBad (h : formBad op f e runs) : s.preCheck e op f runs = some (Cause.illegalForm, 0, e.x) := by
  unfold State.preCheck
  split
  · rfl
  next sg hsig =>
    refine if_pos ?_
    simp only [Bool.or_eq_true, Bool.and_eq_true, List.any_eq_true, decide_eq_true_eq, Option.isNone_iff_eq_none, gt_iff_lt, Bool.not_eq_true']
    rcases h with h | h | h | ⟨i, hi, hlt⟩ | ⟨hmask, sg', hsig', hb⟩
    · exact absurd (hsig.symm.trans h) (by simp)
    · exact .inl (.inl (.inl h))
    · exact .inl (.inl (.inr h))
    · refine .inl (.inr ?_)
      rw [hi]
      exact decide_eq_true hlt
    · obtain rfl := Option.some.inj (hsig.symm.trans hsig')
      exact .inr ⟨hmask, hb⟩

/-- With a form that some lane may use, the checks that follow decide. -/
theorem State.preCheck_of_form (h : ¬ formBad op f e runs) (hsig : e.sig op f = some sg) : s.preCheck e op f runs =
    if e.where_ (fun _ ln => ln.badL f.a || ln.badL f.b || ln.badL f.c) ≠ 0 then
      some (Cause.illegalForm, 0, if reportsOnAll op then e.x else e.where_ (fun _ ln => ln.badL f.a || ln.badL f.b || ln.badL f.c))
    else match lowestBeyond (8 * e.rcd.budgetOf e.g.level e.g.role) (sg.vRuns op f ++ runs) with
      | some n => some (Cause.regBudget, BitVec.ofNat 32 (8 * e.rcd.budgetOf e.g.level e.g.role / 8 * 256 + n), e.x)
      | none =>
        if op = .mma ∧ e.g.role ≠ 1 then some (Cause.roleViolation, BitVec.ofNat 32 e.g.role, e.x)
        else (s.heldErrors e sg f).head?.map (fun c => (Cause.heldRead, c.2, maskOf ((s.heldErrors e sg f).map (·.1)))) := by
  simp only [formBad, not_or, not_and, not_exists] at h
  obtain ⟨-, hflag, hruns, huniform, hmask⟩ := h
  unfold State.preCheck
  rw [hsig]
  refine (if_neg ?_).trans ?_
  · simp only [Bool.or_eq_true, Bool.and_eq_true, List.any_eq_true, decide_eq_true_eq, Option.isNone_iff_eq_none, gt_iff_lt, Bool.not_eq_true', not_or]
    refine ⟨⟨⟨fun h => hflag h.1 h.2, fun ⟨c, hc⟩ => hruns c hc.1 hc.2⟩, fun hu => ?_⟩, fun h => hmask h.1 sg hsig h.2⟩
    cases hd : f.dst with
    | g i =>
      rw [hd] at hu
      exact huniform i hd (of_decide_eq_true hu)
    | _ => simp [Env.uniformG, hd] at hu
  · have hheld : (match s.heldErrors e sg f with
        | (_, w) :: _ => some (Cause.heldRead, w, maskOf ((s.heldErrors e sg f).map (·.1)))
        | [] => none) = (s.heldErrors e sg f).head?.map (fun c => (Cause.heldRead, c.2, maskOf ((s.heldErrors e sg f).map (·.1)))) := by
      cases s.heldErrors e sg f <;> rfl
    rw [← hheld]
    rfl

/-- HELD_READ is reported on the lanes that meet it, with the lowest one's word. -/
theorem State.heldErrors_report (h : ∃ c ∈ e.lanes, s.heldError e sg f c.2 ≠ none) :
    ∃ info lanes, (s.heldErrors e sg f).head?.map (fun c => (Cause.heldRead, c.2, maskOf ((s.heldErrors e sg f).map (·.1)))) =
        some (Cause.heldRead, info, lanes) ∧
      (∀ l, lanes.getLsbD l = true ↔ ∃ ln, (l, ln) ∈ e.lanes ∧ s.heldError e sg f ln ≠ none) ∧
      ∃ ln, (lowLane lanes, ln) ∈ e.lanes ∧ s.heldError e sg f ln = some info := by
  have hlanes : ∀ l, (maskOf ((s.heldErrors e sg f).map (·.1))).getLsbD l = true ↔ ∃ ln, (l, ln) ∈ e.lanes ∧ s.heldError e sg f ln ≠ none := fun l => by
    rw [getLsbD_maskOf, Bool.and_eq_true, decide_eq_true_eq, List.contains_iff_mem, List.mem_map]
    constructor
    · rintro ⟨-, ⟨l, w⟩, hc, rfl⟩
      obtain ⟨ln, hln, hw⟩ := State.mem_heldErrors.mp hc
      exact ⟨ln, hln, by simp [hw]⟩
    · rintro ⟨ln, hln, hw⟩
      obtain ⟨w, hw⟩ := Option.ne_none_iff_exists'.mp hw
      exact ⟨BitVec.lt_of_getLsbD (Env.mem_lanes.mp hln).1, _, State.mem_heldErrors.mpr ⟨ln, hln, hw⟩, rfl⟩
  have hsorted := s.heldErrors_sorted e sg f
  have hmem : ∀ c ∈ s.heldErrors e sg f, ∃ ln, (c.1, ln) ∈ e.lanes ∧ s.heldError e sg f ln = some c.2 := fun c hc => State.mem_heldErrors.mp hc
  obtain ⟨⟨l, ln⟩, hc, hne⟩ := h
  obtain ⟨w, hw⟩ := Option.ne_none_iff_exists'.mp hne
  have hsome : (l, w) ∈ s.heldErrors e sg f := State.mem_heldErrors.mpr ⟨ln, hc, hw⟩
  cases herr : s.heldErrors e sg f with
  | nil => simp [herr] at hsome
  | cons c cs =>
    rw [herr] at hsorted hmem hlanes
    obtain ⟨ln', hln', hw'⟩ := hmem c List.mem_cons_self
    have hlow : lowLane (maskOf ((c :: cs).map (·.1))) = c.1 := lowLane_maskOf_cons (BitVec.lt_of_getLsbD (Env.mem_lanes.mp hln').1) fun k hk => by
      obtain ⟨d, hd, rfl⟩ := List.mem_map.mp hk
      exact (List.pairwise_cons.mp hsorted).1 d hd
    exact ⟨c.2, _, rfl, hlanes, ln', hlow ▸ hln', hw'⟩

theorem checksAnswer (op : Op) (f : Form) (s : State) (e : Env) (runs : List (Nat × Nat)) : ChecksAnswer op f s e runs := by
  refine ⟨State.preCheck_formBad, fun hform => ?_⟩
  cases hsig : e.sig op f with
  | none => exact absurd (.inl hsig) hform
  | some sg =>
    have hnames : ∀ n, namesV op f e runs n ↔ ∃ c ∈ sg.vRuns op f ++ runs, c.1 ≤ n ∧ n < c.1 + c.2 := fun n =>
      ⟨fun ⟨_, h, hc⟩ => Option.some.inj (hsig.symm.trans h) ▸ hc, fun h => ⟨sg, hsig, h⟩⟩
    have hall : reportsOnAll op = true ↔ op ∈ [Op.mma, .quant, .had] := by simp [reportsOnAll, or_assoc]
    rw [State.preCheck_of_form hform hsig]
    refine ⟨fun hbad => ?_, fun hgood => ?_⟩
    · refine ⟨_, if_pos ((e.where_ne_zero _).mpr ?_), fun hop => if_pos (hall.mpr hop), fun hop l => ?_⟩
      · exact hbad.imp fun c hc => ⟨hc.1, (readsBadL_iff f c.2).mp hc.2⟩
      · rw [if_neg fun h => hop (hall.mp h), Env.getLsbD_where]
        exact exists_congr fun ln => and_congr_right fun _ => (readsBadL_iff f ln).symm
    · rw [if_neg fun hne => ?_]
      · refine ⟨fun n hn hb hleast => ?_, fun hin => ?_⟩
        · rw [lowestBeyond_eq_some ((hnames n).mp hn) hb fun m hm => hleast m ((hnames m).mpr hm), Nat.mul_div_cancel_left _ (by decide), Nat.mul_comm]
        · rw [lowestBeyond_eq_none fun n hn => hin n ((hnames n).mpr hn)]
          refine ⟨fun hop hrole => if_pos ⟨hop, hrole⟩, fun hor sg' hsig' => ?_⟩
          obtain rfl := Option.some.inj hsig'
          simp only [if_neg fun h : op = .mma ∧ e.g.role ≠ 1 => hor.elim (fun hne => hne h.1) h.2]
          refine ⟨fun hnone => ?_, State.heldErrors_report⟩
          have hnil : s.heldErrors e sg f = [] := List.filterMap_eq_nil_iff.mpr fun c hc => by rw [hnone c hc]; rfl
          rw [hnil]
          rfl
      · obtain ⟨c, hc, hb⟩ := (e.where_ne_zero _).mp hne
        exact hgood c hc ((readsBadL_iff f c.2).mpr hb)

end

/-! ### Held registers (R162 to R164) -/

theorem State.readHeld_spec (s : State) (r : LaunchRec) (el : Elem) (n : Nat) :
    let m := r.heldLevel el.level n
    (m = 15 → s.readHeld r el n 0 = .error (BitVec.ofNat 32 (512 + n))) ∧
    (m ≠ 15 → m ≠ el.level → (∀ a, s.ancestor el m = some a → a.id ∉ el.claims) → s.readHeld r el n 0 = .error (BitVec.ofNat 32 (2048 + 64 * m + n))) ∧
    (m ≠ 15 → m = el.level → s.readHeld r el n 0 = .ok ((s.slot? el.id).elim 0 (fun sl => sl.h.get n))) ∧
    (∀ a, m ≠ 15 → m ≠ el.level → s.ancestor el m = some a → a.id ∈ el.claims →
      s.readHeld r el n 0 = .ok ((s.slot? a.id).elim 0 (fun sl => sl.h.get n))) := by
  intro m
  have hslot : ∀ x, (match s.slot? x with
      | some sl => sl.h.get (n + 0)
      | none => 0) = (s.slot? x).elim 0 (fun sl => sl.h.get n) := fun x => by cases s.slot? x <;> rfl
  have hlevel : m ≠ 15 → ¬ ((m = 15 || r.heldLevel el.level (n + 0) = 15 || ((0 : Nat) ≠ 0 && decide ((r.level m).held ≤ n + 0))) = true) := fun h => by
    simp [show r.heldLevel el.level n = m from rfl, h]
  have hinfo : heldInfo 11 m n = BitVec.ofNat 32 (2048 + 64 * m + n) := by rw [heldInfo, Nat.mul_comm m 64]; rfl
  refine ⟨fun h => ?_, fun h hne hnone => ?_, fun h heq => ?_, fun a h hne ha hclaim => ?_⟩
  · refine (if_pos (by simp [show r.heldLevel el.level n = 15 from h])).trans ?_
    rw [if_pos h, heldInfo, Nat.zero_mul]
    rfl
  · refine (if_neg (hlevel h)).trans ((if_neg hne).trans ?_)
    rw [← hinfo]
    cases ha : s.ancestor el m with
    | none => rfl
    | some a => exact if_neg fun hc => hnone a ha (List.contains_iff_mem.mp hc)
  · refine (if_neg (hlevel h)).trans ((if_pos heq).trans ?_)
    exact congrArg Except.ok (hslot _)
  · refine (if_neg (hlevel h)).trans ((if_neg hne).trans ?_)
    rw [show s.ancestor el (r.heldLevel el.level n) = some a from ha]
    exact (if_pos (List.contains_iff_mem.mpr hclaim)).trans (congrArg Except.ok (hslot _))

theorem State.heldError_dst (s : State) (e : Env) (sg : Sig) (f : Form) (ln : Lane) {i : Nat} {rest : List Nat}
    (hreads : sg.a.hRun f.a ++ sg.b.hRun f.b ++ sg.c.hRun f.c = []) (hd : sg.d.hRun f.dst = i :: rest) (hi : (e.rcd.level e.g.level).held ≤ i) :
    s.heldError e sg f ln = some (BitVec.ofNat 32 (1024 + 64 * e.g.level + i)) := by
  have hfind : (i :: rest).find? (fun n => decide ((e.rcd.level e.g.level).held ≤ n)) = some i := List.find?_cons_of_pos (decide_eq_true hi)
  simp only [State.heldError, hreads, List.findSome?_nil, hd, hfind, Option.map_some, heldInfo, Nat.mul_comm 64]
  rfl

/-- Where a check stops it, an instruction of the rows takes that trap. -/
theorem rows_checked : ∀ r ∈ fixedRows ++ slowRows, ∀ f (s : State) e cause info lanes, s.env f.guard = some e → e.x ≠ 0 →
    s.preCheck e r.op f [] = some (cause, info, lanes) → exec (r.op.instr f) s = .next (s.trapAt e.gid cause info lanes) := by
  simp only [fixedRows, integerRows, logicRows, floatRows, convertRows, readRows, slowRows, List.forall_mem_append, List.forall_mem_cons, List.not_mem_nil,
    false_imp_iff, implies_true, and_true]
  and_intros <;> exact fun f s e cause info lanes he hx hc => runWith_checked _ he hx hc

/-- Settles O56: the clauses are the lemmas above, each for its rule. -/
theorem guardsAndChecksDecide : Obligations.GuardsAndChecksDecide :=
  ⟨fun _ _ _ he hresume _ _ hln hl => State.env_getLsbD he hresume hln hl, fun _ _ he => State.env_never he,
    fun _ _ _ _ _ hp he hx => exec_idle hp he hx, rows_checked, checksAnswer, fun s r el n _ => State.readHeld_spec s r el n,
    fun s e sg f ln _ _ hreads hd hi => State.heldError_dst s e sg f ln hreads hd hi⟩

end Sys2Proof.Machine
end

section
namespace Sys2Proof.Machine

/-! ### What an instruction does, from its body -/

/-- An instruction does what its body answers, where none of its own forms is illegal. -/
theorem Does.of_body {op : Op} {runs : Form → Env → List (Nat × Nat)} {cond : Form → State → Env → Prop} {eff : Form → State → Env → State}
    {body : Form → State → Env → Res} {own : Form → State → Env → Option (Word × LaneMask)}
    (hexec : ∀ f s, exec (op.instr f) s = runWith op f (runs f) s (body f s) (own f s))
    (hown : ∀ f s e, Runs op f (runs f) s e → cond f s e → own f s e = none)
    (hbody : ∀ f s e, Runs op f (runs f) s e → cond f s e → body f s e = .ok (eff f s e)) : Does op runs cond eff := fun f s e h hc => by
  rw [hexec, h.effect_own (hown f s e h hc), hbody f s e h hc, State.finish_ok]

/-- The same where the entry has no illegal form of its own. -/
theorem Does.of_run {op : Op} {runs : Form → Env → List (Nat × Nat)} {cond : Form → State → Env → Prop} {eff : Form → State → Env → State}
    {body : Form → State → Env → Res} (hexec : ∀ f s, exec (op.instr f) s = runWith op f (runs f) s (body f s))
    (hbody : ∀ f s e, Runs op f (runs f) s e → cond f s e → body f s e = .ok (eff f s e)) : Does op runs cond eff :=
  Does.of_body hexec (fun _ _ _ _ _ => rfl) hbody

/-- Where an instruction runs, X has a lane. -/
theorem Runs.lanes_ne_nil {op : Op} {f : Form} {runs : Env → List (Nat × Nat)} {s : State} {e : Env} (h : Runs op f runs s e) : e.lanes ≠ [] := by
  intro hnil
  have hx := State.env_maskOf_lanes h.env
  rw [hnil] at hx
  exact h.some hx.symm

end Sys2Proof.Machine
end

section
namespace Sys2Proof.Machine

/-! ### Transfers (R94 to R97) -/

section
variable {s : State} {e : Env} {target : Nat → Lane → Int}

/-- Targets that are headers are no bad targets. -/
theorem badTargets_of_good (h : targetsGood s e target) (reads : Lane → Bool) : badTargets s e reads target = none := by
  obtain ⟨c, hc, hgood⟩ := h
  simp only [badTargets, hc]
  rw [List.filter_eq_nil_iff.mpr]
  intro x hx
  obtain ⟨hpos, hheader⟩ := hgood x hx
  rw [State.standsAt, if_neg (by omega), hheader]
  simp

/-- Nor does any other check stop the transfer. -/
theorem checkTargets_of_good (h : targetsGood s e target) (act : List (Nat × Nat) → Res) :
    checkTargets s e target act = act (e.lanes.map (fun x => (x.1, (target x.1 x.2).toNat))) := by
  obtain ⟨c, hc, hgood⟩ := h
  have hheader : ∀ t ∈ e.lanes.map (fun x => (x.1, (target x.1 x.2).toNat)), s.targetAt c t.2 = .header e.g.level := fun t ht => by
    obtain ⟨x, hx, rfl⟩ := List.mem_map.mp ht
    exact (hgood x hx).2
  simp only [checkTargets, hc]
  rw [List.filterMap_eq_nil_iff.mpr, List.findSome?_eq_none_iff.mpr]
  · intro t ht
    rw [hheader t ht]
  · intro t ht
    rw [hheader t ht]
    exact if_neg fun hne => hne rfl

theorem transfer_of_good (h : targetsGood s e target) (pre : State → State) : transfer s e target pre = .ok (sendLanes (pre s) e target) :=
  checkTargets_of_good h _

end

/-- Settles O6: targets that are headers of the clause's level pass every check of R94. -/
theorem transfersSendLanes : Obligations.TransfersSendLanes := by
  unfold Obligations.TransfersSendLanes
  refine ⟨?bra, ?brai, ?ret, ?call, ?calli, ?nop, ?yield⟩
  case nop => exact Does.of_run (fun _ _ => rfl) fun _ _ _ _ _ => rfl
  case yield => exact Does.of_run (fun _ _ => rfl) fun _ _ _ _ _ => rfl
  all_goals exact Does.of_body (fun _ _ => rfl) (fun _ _ _ _ hc => badTargets_of_good hc _) fun _ _ _ _ hc => transfer_of_good hc _

/-! ### MOVG and EXIT (R93, R98) -/

theorem does_movg : Does .movg noRuns (fun f _ _ => ∃ i, f.dst = .g i) (fun f s e =>
    let x := (if f.mod = 0 then e.lanes.head? else e.lanes.getLast?).elim 0 (fun c => s.src e .int c.1 c.2 f.a)
    s.updGroup e.gid (fun g => { g with g := g.g.set (Dst.index f.dst) x })) := by
  refine Does.of_run (fun _ _ => rfl) fun f s e h ⟨i, hi⟩ => ?_
  obtain ⟨c, hc⟩ : ∃ c, (if f.mod = 0 then e.lanes.head? else e.lanes.getLast?) = some c := by
    split
    · exact ⟨_, List.head?_eq_some_head h.lanes_ne_nil⟩
    · exact ⟨_, List.getLast?_eq_some_getLast h.lanes_ne_nil⟩
  simp only [hi, hc]
  rfl

/-- R149: on no lane is the count of children too great. -/
theorem does_exit : Does .exit noRuns (fun _ s e =>
      seamFree s e (List.range 12) ∧ (e.g.exitLanes e.x).orphaned = false ∧
      ∀ c ∈ e.lanes, ∀ el, s.elem? c.2.elem = some el →
        let n := e.g.level + 1
        let k := s.countOf e.rcd el
        (e.rcd.level n).present = true → (e.rcd.level n).gen = 0 → (e.rcd.level n).countSrc = true → k ≠ 0 →
          k ≤ domainLimit (e.rcd.level n).domain (e.rcd.level n).width ∧ e.rcd.fits n (e.rcd.groupsOf n k) = true)
    (fun _ s e => { s.updGroup e.gid (·.exitLanes e.x) with
      elems := s.elems.map (fun el => if (e.lanes.map (fun c => c.2.elem)).contains el.id then
        { el with exited := true, count := (s.updGroup e.gid (·.exitLanes e.x)).countOf e.rcd el } else el) }) := by
  refine Does.of_run (fun _ _ => rfl) fun f s e h hcond => ?_
  obtain ⟨⟨hserial, hbusy⟩, horphan, hcounts⟩ := hcond
  have hnotBusy : ¬ (List.range 12).any (s.seamBusy e.gid) = true := by simpa using hbusy
  simp only [hserial, Bool.false_eq_true, if_false, if_neg hnotBusy]
  rw [List.filterMap_eq_nil_iff.mpr]
  · simp only [horphan, Bool.false_eq_true, if_false]
    rfl
  · intro c hc
    cases hel : s.elem? c.2.elem with
    | none => rfl
    | some el =>
      refine if_neg fun hmany => ?_
      simp only [Bool.and_eq_true, Bool.or_eq_true, decide_eq_true_eq, Bool.not_eq_true'] at hmany
      obtain ⟨⟨⟨⟨hpresent, hgen⟩, hsrc⟩, hne⟩, hbeyond⟩ := hmany
      obtain ⟨hle, hfits⟩ := hcounts c hc el hel hpresent hgen hsrc hne
      exact hbeyond.elim (fun hgt => absurd hle (Nat.not_le.mpr hgt)) fun hno => absurd (hfits.symm.trans hno) (by decide)

/-- Settles O7: a lane to read from exists, and no count of children is too great. -/
theorem movgAndExit : Obligations.MovgAndExit := ⟨does_movg, does_exit⟩

/-! ### Collectives (R203 to R212) -/

/-- A mask that names the lanes of X has no fault. -/
theorem maskFault_of_good {f : Form} {s : State} {e : Env} (h : maskGood f s e) : maskFault s e f = none := by
  obtain ⟨hall, hmask⟩ := h
  have hks : ∀ k ∈ e.lanes.map (fun c => s.maskOpnd e c.1 c.2 f.b), k = e.x := fun k hk => by
    obtain ⟨c, hc, rfl⟩ := List.mem_map.mp hk
    exact hmask c hc
  unfold maskFault
  cases hlanes : e.lanes.map (fun c => s.maskOpnd e c.1 c.2 f.b) with
  | nil => rfl
  | cons k rest =>
    rw [hlanes] at hks
    obtain rfl := hks k List.mem_cons_self
    have hsame : ¬ rest.any (fun j => j ≠ e.x) = true := by
      simp only [List.any_eq_true, decide_eq_true_eq, not_exists, not_and, not_not]
      exact fun j hj => hks j (List.mem_cons_of_mem _ hj)
    simp only [if_neg hsame, hall, ne_eq, not_true_eq_false, if_false]

/-- So a collective gives its lanes their words. -/
theorem collects_of {op : Op} {fn res : Form → State → Env → Nat → Lane → LaneRes} (hexec : ∀ f s, exec (op.instr f) s = collective op f s (fn f s))
    (hres : ∀ f s e l ln, fn f s e l ln = res f s e l ln) : collects op res := by
  refine Does.of_run hexec fun f s e _ hmask => ?_
  have hfn : fn f s e = res f s e := funext fun l => funext fun ln => hres f s e l ln
  rw [maskFault_of_good hmask]
  simp only [hfn]

/-- Settles O8: each collective computes the words of the statement. -/
theorem collectiveResults : Obligations.CollectiveResults := by
  unfold Obligations.CollectiveResults
  refine ⟨collects_of (fun _ _ => rfl) fun f s e l ln => ?vote, collects_of (fun _ _ => rfl) fun f s e l ln => ?shfl,
    collects_of (fun _ _ => rfl) fun _ _ _ _ _ => rfl, collects_of (fun _ _ => rfl) fun _ _ _ _ _ => rfl⟩
  case vote =>
    generalize f.mod.toNat = mode
    rcases mode with _ | _ | _ | mode <;> rfl
  case shfl =>
    simp only [Bool.and_eq_true, decide_eq_true_eq, and_assoc]
    by_cases hfrom : 0 ≤ shflLane (f.mod.toNat % 4) l (s.src e .int l ln f.c).toNat ∧ shflLane (f.mod.toNat % 4) l (s.src e .int l ln f.c).toNat < e.g.width ∧
        e.x.getLsbD (shflLane (f.mod.toNat % 4) l (s.src e .int l ln f.c).toNat).toNat = true
    · simp only [if_pos hfrom]
      rfl
    · simp only [if_neg hfrom]
      rfl

/-! ### Seams (R190 to R193, R214 to R218) -/

/-- A lane of a serial region, or a load of a seam, stops no seam instruction that `seamFree` lets pass. -/
theorem Does.of_seamOp {op : Op} {runs : Form → Env → List (Nat × Nat)} {cond : Form → State → Env → Prop} {eff : Form → State → Env → State}
    {names : Form → State → Env → List Nat} {body : Form → State → Env → Res}
    (hexec : ∀ f s, exec (op.instr f) s = seamOp op f s (runs f) (names f s) (body f s))
    (hfree : ∀ f s e, Runs op f (runs f) s e → cond f s e → seamFree s e (names f s e))
    (hbody : ∀ f s e, Runs op f (runs f) s e → cond f s e → body f s e = .ok (eff f s e)) : Does op runs cond eff := fun f s e h hc => by
  rw [hexec, seamOp_effect h (hfree f s e h hc), hbody f s e h hc, State.finish_ok]

/-- Settles O9: past the checks that the conditions name, each instruction's body is its effect. -/
theorem seamOperations : Obligations.SeamOperations := by
  unfold Obligations.SeamOperations
  refine ⟨?join, ?quit, ?quitm, ?wait, ?read, ?store, ?load⟩
  case join => exact Does.of_seamOp (fun _ _ => rfl) (fun _ _ _ _ h => h) fun _ _ _ _ _ => rfl
  case quit => exact Does.of_seamOp (fun _ _ => rfl) (fun _ _ _ _ h => h) fun _ _ _ _ _ => rfl
  case quitm =>
    exact Does.of_seamOp (fun _ _ => rfl) (fun _ _ _ _ h => ⟨h.1, fun n hn => h.2 n (List.mem_of_mem_filter hn)⟩) fun _ _ _ _ _ => rfl
  case wait =>
    refine Does.of_seamOp (fun _ _ => rfl) (fun _ _ _ _ h => h.1) fun f s e _ hc => ?_
    obtain ⟨-, hin, horphan⟩ := hc
    refine (if_neg (not_not.mpr hin)).trans (if_neg ?_)
    rw [show (e.g.arrive (seamN f) e.x e.r.ft).orphaned = false from horphan]
    exact Bool.false_ne_true
  case read => exact Does.of_seamOp (fun _ _ => rfl) (fun _ _ _ _ h => h) fun _ _ _ _ _ => rfl
  case store => exact fun f s e h hc => exec_seamStore h hc.1 hc.2
  case load =>
    refine Does.of_seamOp (fun _ _ => rfl) (fun _ _ _ _ h => ⟨h.1, fun _ hn => absurd hn List.not_mem_nil⟩) fun f s e _ hc => ?_
    exact State.allOrNothing_of_allGood hc.2 _

/-! ### Serial regions and REGROUP (R199 to R201, R223) -/

theorem does_regroup : Does .regroup noRuns (fun _ s e =>
      e.serialLane = false ∧ (∀ n < 12, e.g.members n &&& e.x = 0) ∧
      ∀ g ∈ s.roleGroups e.g.block e.g.level e.g.role, ∀ ln ∈ g.lanes, ∀ x, ln.regroup? = some x → x.2.1 = e.r.cur)
    (fun f s e => s.updGroup e.gid (fun g => g.updLanes e.x (fun l ln =>
      { ln with st := .regrouping e.r.ft e.r.cur (s.src e .int l ln f.a) }))) := by
  refine Does.of_run (fun _ _ => rfl) fun f s e _ hc => ?_
  obtain ⟨hserial, hseams, hsites⟩ := hc
  have hout : ¬ (List.range 12).any (fun n => e.g.members n &&& e.x ≠ 0) = true := by
    simp only [List.any_eq_true, List.mem_range, decide_eq_true_eq, not_exists, not_and, not_not]
    exact hseams
  have hsame : ¬ ((s.roleGroups e.g.block e.g.level e.g.role).flatMap (fun g => g.lanes.filterMap (fun ln => ln.regroup?.map (·.2.1)))).any
      (fun x => x ≠ e.r.cur) = true := by
    simp only [List.any_eq_true, List.mem_flatMap, List.mem_filterMap, Option.map_eq_some_iff, decide_eq_true_eq, not_exists, not_and, not_not]
    rintro _ ⟨g, hg, ln, hln, x, hx, rfl⟩
    exact hsites g hg ln hln x hx
  simp only [hserial, Bool.false_eq_true, if_false]
  exact (if_neg hout).trans (if_neg hsame)

/-- Settles O10: no region is open, or X is its serial lane, or no lane of X is in a seam. -/
theorem serialAndRegroup : Obligations.SerialAndRegroup := by
  refine ⟨Does.of_run (fun _ _ => rfl) fun f s e _ hnone => ?_, fun f s e r h hr hx => ?_, does_regroup⟩
  · exact if_neg (by rw [hnone]; exact Bool.false_ne_true)
  · refine (h.effect _).trans ?_
    simp only [hr, hx, ne_eq, not_true_eq_false, if_false, State.finish_ok]

end Sys2Proof.Machine
end

section
namespace Sys2Proof.Machine

/-! ### The Shelf's instructions (R177 to R182) -/

/-- What an instruction's body answers, where none of its own forms is illegal. -/
theorem Runs.answers {op : Op} {f : Form} {runs : Env → List (Nat × Nat)} {s t : State} {e : Env} (h : Runs op f runs s e)
    {own : Env → Option (Word × LaneMask)} (hown : own e = none) {body : Env → Res} (hbody : body e = .ok t) :
    runWith op f runs s body own = .next (t.retire e op f) := by
  rw [h.effect_own hown, hbody, State.finish_ok]

theorem ownForm_of_good {code : Nat} {bad : Env → Bool} {e : Env} (h : bad e = false) : ownForm code bad e = none := if_neg (by simp [h])

/-- The writes of X depend on the results of its lanes only. -/
theorem Env.writes_congr {e : Env} {fn fn' : Nat → Lane → LaneRes} (h : ∀ c ∈ e.lanes, fn c.1 c.2 = fn' c.1 c.2) (f : Form) :
    e.writes f fn = e.writes f fn' := by
  simp only [Env.writes]
  exact List.flatMap_congr fun c hc => by rw [h c hc]

/-- R177: where every count fits, all children come into being. -/
theorem exec_emit {f : Form} {s : State} {e : Env} (h : Runs .emit f (noRuns f) s e) :
    let n := e.g.level + 1
    let lv := e.rcd.level n
    let counts := e.lanes.map (fun c => (c.1, c.2.elem, (s.src e .int c.1 c.2 f.a).toNat))
    let total := counts.foldl (fun t c => t + c.2.2) 0
    let done := fun (el : Nat) => (s.elem? el).elim 0 (·.emitted)
    n < 8 → lv.present = true → lv.gen = 1 → (2 ≤ lv.domain → total ≤ domainLimit lv.domain lv.width) →
    (total ≠ 0 → e.rcd.fits n (e.rcd.groupsOf n total) = true) → (∀ c ∈ counts, done c.2.1 + c.2.2 ≤ 0xFFFFFFFF) →
    exec (.emit f) s = .next ((counts.foldl (fun (s : State) c => s.updElem c.2.1 (fun el => { el with emitted := el.emitted + c.2.2 }))
      (s.create e.la n (counts.flatMap (fun c => (List.range c.2.2).map (fun i =>
        ({ idx := BitVec.ofNat 32 (done c.2.1 + i), parents := [c.2.1], depth := 0, primId := 0, iw := [], init := [], claims := none } : Birth))))
        none).2).retire e .emit f) := by
  intro n lv counts total done hn hpresent hgen hlimit hfits hcounts
  refine h.answers (own := ownForm 1 noEmitted) (ownForm_of_good ?_) ?_
  · have hlevel : ¬ 8 ≤ e.g.level + 1 := by omega
    simp only [noEmitted, ge_iff_le, decide_eq_false hlevel, show (e.rcd.level (e.g.level + 1)).present = true from hpresent,
      show (e.rcd.level (e.g.level + 1)).gen = 1 from hgen]
    rfl
  · have hgood : counts.filter (fun c => done c.2.1 + c.2.2 ≤ 0xFFFFFFFF) = counts :=
      List.filter_eq_self.mpr fun c hc => decide_eq_true (hcounts c hc)
    have hbad : counts.filter (fun c => done c.2.1 + c.2.2 > 0xFFFFFFFF) = [] := List.filter_eq_nil_iff.mpr fun c hc => by
      have := hcounts c hc
      rw [decide_eq_true_eq]
      omega
    refine (if_neg (by simpa using hlimit)).trans ((if_neg (by simpa using hfits)).trans ?_)
    show (match counts.filter (fun c => done c.2.1 + c.2.2 > 0xFFFFFFFF) with
      | [] => _
      | c :: _ => _) = _
    rw [hbad]
    show Res.ok (((counts.filter (fun c => done c.2.1 + c.2.2 ≤ 0xFFFFFFFF))).foldl _ _) = _
    rw [hgood]
    rfl

/-- R178: the lanes whose children are not too deep each have one. -/
theorem exec_spawn {f : Form} {s : State} {e : Env} (h : Runs .spawn f (noRuns f) s e) :
    let same := decide (f.mod = 1)
    let n := if same then e.g.level else e.g.level + 1
    n < 8 → (e.rcd.level n).present = true → (e.rcd.level n).gen = 3 →
    let births := spawnBirths s e f same
    let made := s.create e.la n (births.map (·.2.2)) (some e.g.core)
    let childOf := fun (l : Nat) => ((births.map (·.1)).zip made.1).find? (fun c => c.1 = l)
    let counted := births.foldl (fun (s : State) b => s.updElem b.2.1 (·.countSpawn same)) made.2
    let written := counted.writeRegs e.gid (e.writes f (fun l _ => truthOf (childOf l).isSome))
    let issued := written.addOp e f .held (fun l _ => ((childOf l).elim .ready (fun c => .child c.2), []))
    exec (.spawn f) s = .next (((issued.2.updOp issued.1 (fun o => { o with run := Opnd.first f.c, dst := none })).doneAtIssue e f issued.1
      (e.where_ (fun l _ => (childOf l).isNone))).retire e .spawn f) := by
  intro same n hn hpresent hgen births made childOf counted written issued
  have hlevel : spawnLevel f e = n := by
    simp only [spawnLevel, n, same, decide_eq_true_eq]
  have hown : e.notSpawned n = false := by
    simp only [Env.notSpawned, hpresent, hgen, decide_eq_false (Nat.not_le.mpr hn)]
    rfl
  refine h.answers (own := ownForm 2 (fun e => e.notSpawned (spawnLevel f e))) (ownForm_of_good (by rw [hlevel]; exact hown)) ?_
  have hbirths : ∀ birth : Nat × Lane → Option (Nat × Nat × Birth), (∀ c ∈ e.lanes, birth c = (s.laneElem c.2).bind (fun el =>
      if childDepth same el ≤ 8 then
        some (c.1, el.id, { idx := BitVec.ofNat 32 (el.spawned same), parents := [el.id], depth := childDepth same el, primId := 0, iw := []
                            init := (List.range 4).map (fun k => (k, s.srcAt e .int c.1 c.2 k f.a)), claims := none })
      else none)) → e.lanes.filterMap birth = births := fun _ => List.filterMap_congr
  have hconds : ∀ (t : State) (cond : Nat → Lane → Cond × List (RegRef × Word)), (∀ l ln, cond l ln = ((childOf l).elim .ready (fun c => .child c.2), [])) →
      t.addOp e f .held cond = t.addOp e f .held (fun l _ => ((childOf l).elim .ready (fun c => .child c.2), [])) := fun t cond hc =>
    congrArg (t.addOp e f .held) (funext fun l => funext fun ln => hc l ln)
  dsimp only
  rw [hlevel, hbirths, hconds]
  · rfl
  · intro l ln
    dsimp only [childOf, made]
    split
    next hc => rw [hc]; rfl
    next hc => rw [hc]; rfl
  · intro c _
    cases s.laneElem c.2 with
    | none => rfl
    | some el =>
      simp only [Option.bind_some, gt_iff_lt]
      by_cases hdepth : childDepth same el ≤ 8
      · rw [if_neg (Nat.not_lt.mpr hdepth), if_pos hdepth]
      · rw [if_pos (Nat.not_le.mp hdepth), if_neg hdepth]

/-- Settles O11: the counts fit, and each lane whose child is not too deep has a birth. -/
theorem childrenAreCreated : Obligations.ChildrenAreCreated := ⟨fun _ _ _ h => exec_emit h, fun _ _ _ h => exec_spawn h⟩

/-- R181: HLERP gives each lane what its held register and the weights say. -/
theorem exec_hlerp {f : Form} {s : State} {e : Env} {v : Lane → List Word × List Word} (h : Runs .hlerp f (noRuns f) s e)
    (hread : ∀ c ∈ e.lanes, ∃ el, s.laneElem c.2 = some el ∧ s.heldThree e.rcd el (heldIndex f.a) = .ok (v c.2)) :
    exec (.hlerp f) s = .next ((s.writeRegs e.gid (e.writes f (fun l ln =>
      wordOf (hlerp f.mod.toNat (v ln).1 (v ln).2 (s.srcAt e .fp l ln 0 f.b) (s.srcAt e .fp l ln 1 f.b))))).retire e .hlerp f) := by
  refine h.answers rfl ?_
  dsimp only
  rw [List.filterMap_eq_nil_iff.mpr]
  · refine congrArg (fun ws => Res.ok (s.writeRegs e.gid ws)) (Env.writes_congr (fun c hc => ?_) f)
    obtain ⟨el, hel, hthree⟩ := hread c hc
    rw [hel]
    dsimp only
    rw [hthree]
    rfl
  · intro c hc
    obtain ⟨el, hel, hthree⟩ := hread c hc
    rw [hel]
    dsimp only
    rw [hthree]

/-- Settles O12: a level above the lanes' own is a good form of EBB, and no read of HLERP fails. -/
theorem ebbAndHlerp : Obligations.EbbAndHlerp :=
  ⟨Does.of_body (own := fun f _ => ownForm 0 (fun e => decide (f.mod.toNat ≥ e.g.level))) (fun _ _ => rfl)
    (fun _ _ _ _ hc => ownForm_of_good (decide_eq_false (Nat.not_le.mpr hc))) fun _ _ _ _ _ => rfl, fun _ _ _ _ h hread => exec_hlerp h hread⟩

/-! ### Loads, fences and derived entries (R268, R269, R273 to R276) -/

/-- Settles O13: every access passes, so the bytes are read. -/
theorem loadsRead : Obligations.LoadsRead := by
  refine ⟨Does.of_run (fun _ _ => rfl) fun f s e _ hgood => State.allOrNothing_of_allGood hgood _, fun f s e c h hrun hc hgood => ?_⟩
  subst hc
  refine h.answers (own := ownForm 0 (fun e => decide (Opnd.first f.a + layRank (e.layout (layC f)) > 256)))
    (ownForm_of_good (decide_eq_false (Nat.not_lt.mpr hrun))) ?_
  dsimp only
  rw [State.allOrNothing_of_allGood fun x hx => by rw [List.mem_singleton.mp hx]; exact hgood]

/-- Settles O15: nothing stops a FENCE or a PREF, and a descriptor in order is what LAYSUB takes. -/
theorem fencePrefAndLaysub : Obligations.FencePrefAndLaysub := by
  refine ⟨Does.of_run (fun _ _ => rfl) fun _ _ _ _ _ => rfl, Does.of_run (fun _ _ => rfl) fun _ _ _ _ _ => rfl,
    Does.of_run (fun _ _ => rfl) fun f s e _ hc => ?_⟩
  obtain ⟨hvalid, hderived, hshape, hrange⟩ := hc
  simp only [hvalid, hderived, hshape, hrange, Bool.not_true, Bool.false_eq_true, if_false]

end Sys2Proof.Machine
end

section
namespace Sys2Proof.Machine

/-! ### COPY and its tags (R281 to R283) -/

theorem State.moveCopy_eq_moved (s : State) (c : LaneCopy) : s.moveCopy c = moved s c := rfl

/-- A copy reads and writes memory, and nothing else. -/
theorem moved_eq (s : State) (c : LaneCopy) : moved s c = { s with mem := (moved s c).mem } := by
  unfold moved
  cases c.src <;> rfl

theorem moved_mem_congr {s t : State} (h : s.mem = t.mem) (c : LaneCopy) : (moved s c).mem = (moved t c).mem := by
  have hbytes : ∀ as, s.bytes as = t.bytes as := fun as =>
    congrArg (fun m : SMap 8 => as.map m.get) h
  unfold moved
  cases c.src with
  | bytes as => simp only [State.storeCells_mem, hbytes, h]
  | zeros => simp only [State.storeCells_mem, h]
  | error => exact h

/-- What a lane's copy leaves beside the bytes that it moves. -/
theorem State.issueCopy_eq (s : State) (core block : Nat) (onChip : Bool) (c : LaneCopy) : s.issueCopy core block onChip c =
    { s with mem := (moved s c).mem, nextId := s.fresh.2.nextId
             tagCounts := s.tagCounts.set (tagKey core c.tag) (s.tagCounts.get (tagKey core c.tag) + 1)
             copies := s.copies ++ [{ id := s.fresh.1, block, core, tag := c.tag, error := c.src = .error, onChip }] } := by
  have hmem : ((s.fresh.2.addTag core c.tag 1).moveCopy c).mem = (moved s c).mem :=
    moved_mem_congr (s := s.fresh.2.addTag core c.tag 1) (t := s) rfl c
  have hmoved : (s.fresh.2.addTag core c.tag 1).moveCopy c = { s.fresh.2.addTag core c.tag 1 with mem := (moved s c).mem } := by
    rw [← hmem]
    exact moved_eq _ c
  simp only [State.issueCopy, hmoved]
  rfl

/-- What the copies of an instruction leave: they are performed in turn, each counted on its tag, and all have still to land. -/
theorem State.issueCopy_foldl (core block : Nat) (onChip : Bool) (cs : List LaneCopy) (s : State) :
    ∃ new : List CopyOp, let t := cs.foldl (fun (s : State) c => s.issueCopy core block onChip c) s
      t.mem = (cs.foldl moved s).mem ∧ t.copies = s.copies ++ new ∧
      new.map (fun c => (c.block, c.core, c.tag, c.error, c.onChip)) = cs.map (fun c => (block, core, c.tag, decide (c.src = .error), onChip)) ∧
      t.tagCounts = cs.foldl (fun m c => m.set (tagKey core c.tag) (m.get (tagKey core c.tag) + 1)) s.tagCounts ∧
      t = { s with mem := t.mem, copies := t.copies, tagCounts := t.tagCounts, nextId := t.nextId } := by
  induction cs generalizing s with
  | nil => exact ⟨[], rfl, (List.append_nil _).symm, rfl, rfl, rfl⟩
  | cons c cs ih =>
    obtain ⟨new, hmem, hcopies, hnew, htags, hframe⟩ := ih (s.issueCopy core block onChip c)
    have hone := s.issueCopy_eq core block onChip c
    have hmoves : ∀ (cs : List LaneCopy) {s t : State}, s.mem = t.mem → (cs.foldl moved s).mem = (cs.foldl moved t).mem := fun cs => by
      induction cs with
      | nil => exact id
      | cons c cs ih => exact fun h => ih (moved_mem_congr h c)
    refine ⟨{ id := s.fresh.1, block, core, tag := c.tag, error := c.src = .error, onChip } :: new, ?_, ?_, ?_, ?_, ?_⟩
    · exact hmem.trans (hmoves cs (by rw [hone]))
    · refine hcopies.trans ?_
      rw [hone]
      exact List.append_assoc ..
    · rw [List.map_cons, List.map_cons, hnew]
    · refine htags.trans ?_
      rw [hone]
      rfl
    · have hkept : ∀ (u t : State) (m : SMap 8) (n : Nat) (tags : SMap 16) (cps : List CopyOp),
          u = { s with mem := m, nextId := n, tagCounts := tags, copies := cps } →
          { u with mem := t.mem, copies := t.copies, tagCounts := t.tagCounts, nextId := t.nextId } =
            { s with mem := t.mem, copies := t.copies, tagCounts := t.tagCounts, nextId := t.nextId } := by
        rintro _ t m n tags cps rfl
        rfl
      exact hframe.trans (hkept _ _ _ _ _ _ hone)

theorem State.issueCopies_spec (s : State) (e : Env) (block : Nat) (onChip : Bool) (cs : List LaneCopy) :
    ∃ new : List CopyOp, let t := s.issueCopies e block onChip cs
      t.mem = (cs.foldl moved s).mem ∧ t.copies = s.copies ++ new ∧
      new.map (fun c => (c.block, c.core, c.tag, c.error, c.onChip)) = cs.map (fun c => (block, e.g.core, c.tag, decide (c.src = .error), onChip)) ∧
      t.tagCounts = cs.foldl (fun m c => m.set (tagKey e.g.core c.tag) (m.get (tagKey e.g.core c.tag) + 1)) s.tagCounts ∧
      t = { s with mem := t.mem, copies := t.copies, tagCounts := t.tagCounts, nextId := t.nextId, blocks := t.blocks } ∧
      (onChip = false → t.blocks = s.blocks) := by
  obtain ⟨new, hmem, hcopies, hnew, htags, hframe⟩ := State.issueCopy_foldl e.g.core block onChip cs s
  have hkept : ∀ (t : State) (m : SMap 8) (n : Nat) (tags : SMap 16) (cps : List CopyOp), t = { s with mem := m, nextId := n, tagCounts := tags, copies := cps } →
      t.blocks = s.blocks ∧ t.address block cs.length =
        { s with mem := m, copies := cps, tagCounts := tags, nextId := n, blocks := (t.address block cs.length).blocks } := by
    rintro _ m n tags cps rfl
    exact ⟨rfl, rfl⟩
  obtain ⟨hblocks, haddress⟩ := hkept _ _ _ _ _ hframe
  refine ⟨new, ?_⟩
  cases onChip with
  | false =>
    refine ⟨hmem, hcopies, hnew, htags, ?_, fun _ => hblocks⟩
    rw [show (s.issueCopies e block false cs).blocks = s.blocks from hblocks]
    exact hframe
  | true => exact ⟨hmem, hcopies, hnew, htags, haddress, fun h => absurd h (by decide)⟩

section
variable {f : Form} {s : State} {e : Env}

theorem exec_copy (h : Runs .copy f (fun e => [(Opnd.first f.a, layRank (e.layout f.dst.uimm) + layRank (e.layout (layC f)))]) s e) :
    let md := e.layout f.dst.uimm
    let ms := e.layout (layC f)
    let w := copyWidth f
    let z := f.mod.getLsbD 1
    let tag := fun (c : Nat × Lane) => (s.src e .int c.1 c.2 f.b).toNat % 64
    let dst := fun (c : Nat × Lane) => s.access e f.dst.uimm (coords s e f c.1 c.2 0 (layRank md)) w 1 z
    let src := fun (c : Nat × Lane) => s.access e (layC f) (coords s e f c.1 c.2 (layRank md) (layRank ms)) w 0 z
    let made := e.lanes.filterMap (fun c => laneCopy (tag c) (src c) (dst c))
    (∀ c ∈ e.lanes, tagOk e.rcd (tag c) = true ∧ (dst c).good = true ∧ (src c).eccAsError.good = true) →
    (∀ t < 64, s.tagFull e.g.core t (made.filter (fun c => c.tag = t)).length = false) →
    exec (.copy f) s = .next ((s.issueCopies e e.b.id (layOnChip md) made).retire e .copy f) := by
  intro md ms w z tag dst src made hgood hroom
  refine h.answers rfl ?_
  dsimp only
  rw [State.allOrNothing_of_allGood fun x hx => ?_]
  · have hmade : (e.lanes.map fun c => (c.1, tag c, dst c, src c)).filterMap (fun c => laneCopy c.2.1 c.2.2.2 c.2.2.1) = made := List.filterMap_map
    refine (if_neg ?_).trans (congrArg (fun cs => Res.ok (s.issueCopies e e.b.id (layOnChip md) cs)) hmade)
    simp only [List.any_eq_true, List.mem_range, not_exists, not_and, Bool.not_eq_true]
    exact fun t ht => (congrArg (fun cs : List LaneCopy => s.tagFull e.g.core t (cs.filter (fun c => c.tag = t)).length) hmade).trans (hroom t ht)
  · obtain ⟨l, hl, hx⟩ := List.mem_flatMap.mp hx
    obtain ⟨c, hc, rfl⟩ := List.mem_map.mp hl
    obtain ⟨htag, hdst, hsrc⟩ := hgood c hc
    have htag' : tagOk e.rcd ((s.src e .int c.1 c.2 f.b).toNat % 64) = true := htag
    simp only [htag', if_true, List.append_nil, List.mem_cons, List.not_mem_nil, or_false] at hx
    rcases hx with rfl | rfl
    · exact hdst
    · exact hsrc

theorem does_twait : Does .twait noRuns (fun f s e => badTag e.rcd (s.lowPair e f.a) = none) (fun f s e =>
    issues s e f .cancelled (fun _ _ => .tags e.g.core (decide (f.mod = 0)) (s.lowPair e f.a))) := by
  refine Does.of_run (fun _ _ => rfl) fun f s e _ hc => ?_
  simp only [hc]
  rfl

theorem does_tfirst : Does .tfirst noRuns (fun f s e => badTag e.rcd (s.lowPair e f.a) = none ∧
      ∀ t, (lanesOf (s.setTags e.rcd e.g.core (s.lowPair e f.a))).head? = some t → s.tagErrs.contains (tagKey e.g.core t) = false)
    (fun f s e => giveAll s e f [((lanesOf (s.setTags e.rcd e.g.core (s.lowPair e f.a))).head?).elim 0xFFFFFFFF (BitVec.ofNat 32 ·)]) := by
  refine Does.of_run (fun _ _ => rfl) fun f s e _ hc => ?_
  obtain ⟨hbad, herr⟩ := hc
  simp only [hbad]
  cases hset : lanesOf (s.setTags e.rcd e.g.core (s.lowPair e f.a)) with
  | nil => rfl
  | cons t ts =>
    refine (if_neg ?_).trans rfl
    rw [herr t (by rw [hset]; rfl)]
    exact Bool.false_ne_true

end

/-- R281: while its block lives, a copy that lands is taken off its tag's count, and an error is recorded. -/
theorem exec_copyLanding {s : State} {k : Nat} {c : CopyOp} (hc : findId CopyOp.id k s.copies = some c) (hb : ∃ b, s.block? c.block = some b ∧ b.st ≠ .ended) :
    exec (.copyLanding k) s = .next { s with
      copies := delId CopyOp.id k s.copies
      blocks := if c.onChip then updId Block.id c.block (fun b => { b with addressed := b.addressed - 1 }) s.blocks else s.blocks
      tagCounts := s.tagCounts.set (tagKey c.core c.tag) (s.tagCounts.get (tagKey c.core c.tag) - 1)
      tagErrs := if c.error && !s.tagErrs.contains (tagKey c.core c.tag) then s.tagErrs ++ [tagKey c.core c.tag] else s.tagErrs } := by
  obtain ⟨b, hb, hst⟩ := hb
  obtain rfl : c.id = k := findId_key CopyOp.id hc
  set s' : State := { s with copies := delId CopyOp.id c.id s.copies
                             blocks := if c.onChip then updId Block.id c.block (fun b => { b with addressed := b.addressed - 1 }) s.blocks else s.blocks } with hs'
  have haddr : (if c.onChip then ({ s with copies := delId CopyOp.id c.id s.copies } : State).updBlock c.block (fun b => { b with addressed := b.addressed - 1 })
      else { s with copies := delId CopyOp.id c.id s.copies }) = s' := by
    rw [hs']
    cases c.onChip <;> rfl
  have hlives : (s'.block? c.block).elim true (fun b => b.st = .ended) = false := by
    have hblock : s'.block? c.block = some (if c.onChip then { b with addressed := b.addressed - 1 } else b) := by
      rw [hs']
      cases c.onChip with
      | false => exact hb
      | true =>
        refine (findId_updId_self Block.id (fun b => { b with addressed := b.addressed - 1 }) (fun _ => rfl) s.blocks).trans ?_
        rw [show findId Block.id c.block s.blocks = some b from hb]
        rfl
    rw [hblock]
    cases c.onChip <;> exact decide_eq_false hst
  show execCopyLanding c.id s = _
  simp only [execCopyLanding, hc, State.landCopy, haddr]
  have hland : s'.landTag c.block c.core c.tag =
      { s' with tagCounts := s'.tagCounts.set (tagKey c.core c.tag) (s'.tagCounts.get (tagKey c.core c.tag) - 1) } := by
    rw [State.landTag, hlives]
    rfl
  rw [hland]
  have hgone : (({ s' with tagCounts := s'.tagCounts.set (tagKey c.core c.tag) (s'.tagCounts.get (tagKey c.core c.tag) - 1) } : State).block? c.block).elim true
      (fun b => decide (b.st = .ended)) = false := hlives
  simp only [hgone, Bool.not_false, Bool.and_true]
  split <;> rfl

/-- Settles O16: the copies are performed in turn, and a landing undoes what counted them. -/
theorem copiesAndTags : Obligations.CopiesAndTags := by
  refine ⟨?_, does_twait, does_tfirst, fun s k c hc hb => ⟨_, exec_copyLanding hc hb, rfl, rfl, fun x => ?_, rfl, rfl⟩⟩
  · intro f s e h md ms w z tag dst src made hgood hroom
    obtain ⟨new, hspec⟩ := s.issueCopies_spec e e.b.id (layOnChip md) made
    exact ⟨_, new, exec_copy h hgood hroom, hspec⟩
  · cases c.error with
    | false => simp
    | true =>
      by_cases hin : tagKey c.core c.tag ∈ s.tagErrs
      · simp only [Bool.true_and, List.contains_iff_mem.mpr hin, Bool.not_true, Bool.false_eq_true, if_false]
        by_cases hx : x = tagKey c.core c.tag
        · simp [hx, hin]
        · simp [hx]
      · simp [hin]

end Sys2Proof.Machine
end

section
namespace Sys2Proof.Machine

/-! ### Granules change owner (R288, R289) -/

theorem ownCheck_of_good {e : Env} {k : Nat} (hv : layValid (e.layout k) = true) (hs : laySpace (e.layout k) = spScratch) : ownCheck e k = none := by
  rw [ownCheck, hv, if_neg (by decide), if_neg (not_not.mpr hs)]

/-- Settles O18: the first granule that THREADS do not own is the one that is found. -/
theorem ownerHandOver : Obligations.OwnerHandOver := by
  refine ⟨Does.of_run (fun _ _ => rfl) fun f s e _ hc => ?_, fun f s e g rest h hv hs hfirst => ?_, Does.of_run (fun _ _ => rfl) fun f s e _ hc => ?_⟩
  · obtain ⟨hv, hs, howned⟩ := hc
    have hnone : (s.footprint e.b e.g.core (e.layout (layC f))).find? (fun g => s.owners.get g ≠ 0) = none :=
      List.find?_eq_none.mpr fun g hg => by simp [howned g hg]
    simp only [ownCheck_of_good hv hs, hnone]
  · have hsome : (s.footprint e.b e.g.core (e.layout (layC f))).find? (fun g => s.owners.get g ≠ 0) = some g := by
      rw [← List.head?_filter, hfirst]
      rfl
    refine (h.effect _).trans ?_
    simp only [ownCheck_of_good hv hs, hsome]
    rfl
  · obtain ⟨hv, hs⟩ := hc
    simp only [ownCheck_of_good hv hs]
    rfl

end Sys2Proof.Machine
end

section
namespace Sys2Proof.Machine

/-! ### Operations of the tile path (R290 to R303) -/

/-- An operation beside what it holds. -/
def TileOp.holding (o : TileOp) (gs : List Nat) (homes : List (Nat × Nat)) : TileOp := { o with granules := gs, homes := homes }

/-- The operation that an issue adds, beside what it holds. -/
def State.newTile (s : State) (e : Env) (r : Report) (kind : TileKind) (f : Form) (dOrg sOrg counts : List Nat) : TileOp :=
  { id := s.nextId, group := e.gid, block := e.b.id, core := e.g.core, lanes := e.r.lanes, kind
    dst := e.layout f.dst.uimm, src := e.layout (layC f), dstEntry := f.dst.uimm, srcEntry := layC f
    dstOrg := dOrg, srcOrg := sOrg, counts, tag := r.tag, mark := r.mark, granules := [], homes := [] }

/-- The block that an operation's data is addressed to (R241). -/
def TileKind.addressee (kind : TileKind) (e : Env) (f : Form) : Option Nat :=
  match kind with
  | .multicast _ _ target => some target
  | _ => if layOnChip (e.layout f.dst.uimm) then some e.b.id else none

/-- That block counts it. -/
def State.addressedBlocks (s : State) (k : Option Nat) : List Block :=
  match k with
  | some k => (s.updBlock k (fun b => { b with addressed := b.addressed + 1 })).blocks
  | none => s.blocks

section
variable (s : State) (e : Env) (f : Form) (r : Report) (kind : TileKind) (dOrg sOrg counts : List Nat) (touch : TileOp → List Nat)

/-- An issue changes counts, the block that it addresses, and the list of operations. -/
theorem State.issueTile_eq :
    let o := s.newTile e r kind f dOrg sOrg counts
    let gs := s.heldBy_ ownCopy (dedup (touch o))
    s.issueTile e r kind f dOrg sOrg counts touch =
      { s with nextId := s.nextId + 1, engineCounts := (s.holdGranules gs).engineCounts, tagCounts := (s.tagIssue e.g.core r.tag).tagCounts
               blocks := s.addressedBlocks (kind.addressee e f)
               tileOps := s.tileOps ++ [o.holding gs ((s.tileTargets o).filterMap (fun t => t.2.map (t.1, ·)))] } := by
  obtain ⟨tag, mark⟩ := r
  dsimp only [State.issueTile, TileKind.addressee]
  cases tag <;> cases kind <;> cases layOnChip (e.layout f.dst.uimm) <;> rfl

/-- The issue of a tile-path operation is as `TileIssued` says, where what it touches depends on no more than its own fields. -/
theorem State.issueTile_spec (htouch : ∀ o gs homes, touch (TileOp.holding o gs homes) = touch o) :
    TileIssued s (s.issueTile e r kind f dOrg sOrg counts touch) e f r kind dOrg sOrg counts touch := by
  have hblocks : s.addressedBlocks (kind.addressee e f) = match (match kind with
      | .multicast _ _ target => some target
      | _ => if layOnChip (e.layout f.dst.uimm) then some e.b.id else none) with
    | some k => (s.updBlock k (fun b => { b with addressed := b.addressed + 1 })).blocks
    | none => s.blocks := by
    dsimp only [TileKind.addressee]
    cases kind <;> cases layOnChip (e.layout f.dst.uimm) <;> rfl
  rw [State.issueTile_eq]
  refine ⟨rfl, rfl, rfl, rfl, ?_, _, fun g => ?_, fun g => ?_, rfl, rfl, rfl, rfl, rfl, rfl, rfl, rfl, rfl, rfl, rfl, rfl, rfl, rfl⟩
  · exact hblocks.trans rfl
  · rw [htouch]
    exact State.mem_heldBy_.trans (and_congr_left' mem_dedup)
  · exact State.get_holdGranules ((dedup_nodup _).filter _) s g

end

/-- A tag with room holds no issue up. -/
theorem tagRoom_not_full {s : State} {e : Env} {r : Report} (h : tagRoom s e r) : ¬ (match r.tag with
    | some t => s.tagFull e.g.core t 1
    | none => false) = true := by
  cases htag : r.tag with
  | none => exact Bool.false_ne_true
  | some t =>
    show ¬ s.tagFull e.g.core t 1 = true
    rw [h t htag]
    exact Bool.false_ne_true

section
variable {s : State} {e : Env} {f : Form} {r : Report} {kind : TileKind} {dOrg sOrg counts : List Nat}

theorem tileIssue_empty (h : tagRoom s e r) (hzero : 0 ∈ counts) : tileIssue s e f kind r dOrg sOrg counts = .ok s := by
  unfold tileIssue
  rw [if_neg, if_pos (List.contains_iff_mem.mpr hzero)]
  exact tagRoom_not_full h

theorem tileIssue_some (h : tagRoom s e r) (hzero : 0 ∉ counts) : tileIssue s e f kind r dOrg sOrg counts =
    .ok (s.issueTile e r kind f dOrg sOrg counts (fun o => s.tileDstGranules o ++ s.tileSrcGranules o)) := by
  unfold tileIssue
  rw [if_neg, if_neg fun hc => hzero (List.contains_iff_mem.mp hc)]
  exact tagRoom_not_full h

end

/-- Where a tile copy's checks pass, an empty one does nothing, and another issues. -/
theorem tile_issues {op : Op} {f : Form} {runs : Env → List (Nat × Nat)} {s : State} {e : Env} {r : Report} {kind : TileKind} {dOrg sOrg counts : List Nat}
    {i : Instr} {body : Env → Res} (h : Runs op f runs s e) (hexec : exec i s = runWith op f runs s body)
    (hbody : body e = tileIssue s e f kind r dOrg sOrg counts) (hroom : tagRoom s e r) :
    (0 ∈ counts → exec i s = .next (s.retire e op f)) ∧
    (0 ∉ counts → ∃ t, exec i s = .next (t.retire e op f) ∧
      TileIssued s t e f r kind dOrg sOrg counts (fun o => s.tileDstGranules o ++ s.tileSrcGranules o)) := by
  rw [hexec]
  exact ⟨fun hz => h.answers rfl (hbody.trans (tileIssue_empty hroom hz)),
    fun hz => ⟨_, h.answers rfl (hbody.trans (tileIssue_some hroom hz)), State.issueTile_spec _ _ _ _ _ _ _ _ _ fun _ _ _ => rfl⟩⟩

/-- A tile copy whose elements all pass is reported done. -/
theorem exec_tileOperationCompletion_copy {s t : State} {k : Nat} {o : TileOp} {z : Bool} (ho : findId TileOp.id k s.tileOps = some o)
    (hkind : o.kind = .copy z ∨ ∃ m b, o.kind = .multicast z m b) :
    let tenant := ((s.block? o.block).bind (fun b => s.launch? b.launch)).elim 0 (·.tenant)
    let ts := s.tileOrder o tenant (tuples o.counts)
    let units := unitCount o.dst (ts.map (addCoords o.dstOrg))
    (s.clearBad (s.coveredBad (s.tileBytes o tenant ts) (s.tileReads o tenant))).tileCopy o tenant z ts = .done t →
    exec (.tileOperationCompletion k) s = .next (t.tileReport o units) := by
  intro tenant ts units hdone
  show execTileOperationCompletion k s = _
  rw [execTileOperationCompletion, ho]
  dsimp only [tenant, ts] at hdone
  rcases hkind with hk | ⟨m, b, hk⟩
  · simp only [hk]
    rw [hdone]
  · simp only [hk]
    rw [hdone]

theorem exec_tileOperationCompletion_scatter {s : State} {k : Nat} {o : TileOp} {mi mc mt : BitVec 512} {ks : List Nat} {i0 n r0 ov q : Nat}
    (ho : findId TileOp.id k s.tileOps = some o) (hkind : o.kind = .scatter mi mc mt ks i0 n r0 ov q) :
    let tenant := ((s.block? o.block).bind (fun b => s.launch? b.launch)).elim 0 (·.tenant)
    let a := (s.clearBad (s.scatClears o tenant mi mc mt i0 n r0 ov q (s.scatCells o tenant mi mc i0 n ov))).scatter o tenant mi mc mt ks i0 n r0 ov q
    a.stop = none → a.wait = none → a.bad = none →
    exec (.tileOperationCompletion k) s = .next (a.s.tileReport o (unitCount o.dst a.cells + unitCount mt ((span q 4).map (fun i => [i])))) := by
  intro tenant a hstop hwait hbad
  dsimp only [a, tenant] at hstop hwait hbad ⊢
  show execTileOperationCompletion k s = _
  rw [execTileOperationCompletion, ho]
  simp only [hkind]
  rw [hstop, hwait, hbad]

/-- Settles O19: where its checks pass, an operation issues; where its accesses pass, it is reported done. -/
theorem tileOperations : Obligations.TileOperations := by
  refine ⟨fun f s e r h hcheck hreport hroom => ?_, fun f s e r b h hcheck hspace hb hcores hreport hroom => ?_,
    fun f s e r h hcheck hreport hroom => ?_, fun s t k o z ho hid hkind hdone => ?_,
    fun s k o mi mc mt ks i0 n r0 ov q ho hkind hstop hwait hbad => exec_tileOperationCompletion_scatter ho hkind hstop hwait hbad⟩
  · refine tile_issues h rfl ?_ hroom
    dsimp only [tileRun] at hcheck ⊢
    rw [hcheck]
    dsimp only
    rw [hreport]
  · have hall : ¬ (List.range 4).any (fun c => (BitVec.ofNat 4 (s.lowAt e f (3 * tileRank e f))).getLsbD c &&
        (s.allocOn b (e.g.core / 4 * 4 + c)).isNone) = true := by
      simp only [List.any_eq_true, List.mem_range, Bool.and_eq_true, Option.isNone_iff_eq_none, not_exists, not_and]
      exact fun c hc hbit hnone => by simpa [hnone] using hcores c hc hbit
    refine tile_issues h rfl ?_ hroom
    dsimp only [tileRun, Block.stands] at hcheck ⊢
    rw [hcheck]
    dsimp only
    rw [if_neg (not_not.mpr hspace), hb]
    dsimp only
    rw [if_neg hall, hreport]
  · refine ⟨_, h.answers rfl ?_, State.issueTile_spec _ _ _ _ _ _ _ _ _ fun _ _ _ => rfl⟩
    dsimp only
    rw [hcheck]
    dsimp only
    rw [hreport]
    dsimp only
    rw [if_neg]
    exact tagRoom_not_full hroom
  · refine ⟨exec_tileOperationCompletion_copy ho hkind hdone, ?_⟩
    show findId TileOp.id k (delId TileOp.id o.id _) = none
    rw [hid]
    exact findId_delId_self ..

/-! ### Loop nests (R298 to R300) -/

/-- A nest whose operands pass every check has no fault. -/
theorem nestFaults_none {n : NestForm} {lay : NestOpnd → BitVec 512} {base : NestOpnd → Int} (h : ∀ x : NestOpnd × Nat,
      (x = (n.x0, 1) ∨ x = (n.x1, 0) ∨ (nestBinary n = true ∧ x = (n.x2, 0))) → nestCheck n x.1 (lay x.1) (base x.1) x.2 = none) :
    (List.range 4).findSome? (fun place =>
      (([(n.x0, 1), (n.x1, 0)] ++ (if nestBinary n then [(n.x2, 0)] else []) : List (NestOpnd × Nat))).findSome?
        (fun x => nestFault n x.1 (lay x.1) (base x.1) x.2 place)) = none := by
  refine List.findSome?_eq_none_iff.mpr fun place hplace => List.findSome?_eq_none_iff.mpr fun x hx => ?_
  have hopnd : x = (n.x0, 1) ∨ x = (n.x1, 0) ∨ (nestBinary n = true ∧ x = (n.x2, 0)) := by
    rcases List.mem_append.mp hx with hx | hx
    · rcases List.mem_cons.mp hx with hx | hx
      · exact .inl hx
      · exact .inr (.inl (List.mem_singleton.mp hx))
    · split at hx
      next hb => exact .inr (.inr ⟨hb, List.mem_singleton.mp hx⟩)
      · exact absurd hx List.not_mem_nil
  have hchecks : (List.range 4).findSome? (nestFault n x.1 (lay x.1) (base x.1) x.2) = none := h x hopnd
  exact List.findSome?_eq_none_iff.mp hchecks place hplace

theorem exec_lnest {n : NestForm} {s : State} {e : Env} (he : s.env Guard.always = some e) (hx : e.x ≠ 0) (hflag : (e.r.flagOf n.fsel).isSome = true)
    (h : ∀ x, (x = (n.x0, 1) ∨ x = (n.x1, 0) ∨ (nestBinary n = true ∧ x = (n.x2, 0))) →
      nestCheck n x.1 (e.layout x.1.layout.toNat) (e.g.g.get x.1.base.toNat).toNat x.2 = none) :
    ∃ (t : State) (o : NestOp) (i : LongOp), exec (.lnest n) s = .next t ∧ t.nests = s.nests ++ [o] ∧ t.ops = s.ops ++ [i] ∧ o.op = i.id ∧
      o.form = n ∧ o.group = e.gid ∧ o.lanes = e.r.lanes ∧ i.group = e.gid ∧ (∀ l ∈ i.lanes, l.cond = .engine) ∧ t.mem = s.mem ∧
      o.lay0 = e.layout n.x0.layout.toNat ∧ o.lay1 = e.layout n.x1.layout.toNat ∧ o.lay2 = e.layout n.x2.layout.toNat := by
  have hnone := nestFaults_none (lay := fun x => e.layout x.layout.toNat) (base := fun x => ((e.g.g.get x.base.toNat).toNat : Int)) h
  have hexec : exec (.lnest n) s = execLnest n s := rfl
  rw [execLnest, he] at hexec
  dsimp only at hexec hnone
  rw [if_neg hx, if_neg (by rw [Option.isNone_eq_false_iff.mpr hflag]; decide), hnone] at hexec
  exact ⟨_, _, _, hexec, rfl, rfl, rfl, rfl, rfl, rfl, rfl, fun l hl => by obtain ⟨c, -, rfl⟩ := List.mem_map.mp hl; rfl, rfl, rfl, rfl, rfl⟩

/-- Settles O20: operands that pass every check let the nest issue, and a nest that does not fail hands its granules back. -/
theorem loopNests : Obligations.LoopNests := by
  refine ⟨fun n s e he hx hflag h => exec_lnest he hx hflag h, fun s k o ho hrun => ?_⟩
  show execLnestCompletion k s = _
  rw [execLnestCompletion, ho]
  have hnests : ∀ t : State, ((t.handBack o.granules).engineDone o.op).nests = t.nests := fun _ => rfl
  simp only [hrun, hnests]

/-! ### The work distributor's instructions (R305 to R308) -/

theorem exec_wqAsk {f : Form} {s : State} {e : Env} {r : Report} (h : Runs .wqAsk f (noRuns f) s e) (hcheck : askCheck s e f.dst.uimm = none)
    (hreport : s.reportOf e (s.lowSrc e f.b) = .ok r) (hroom : tagRoom s e r) :
    ∃ (t : State) (a : Ask), exec (.wqAsk f) s = .next (t.retire e .wqAsk f) ∧ t.asks = s.asks ++ [a] ∧ a.launch = e.la.id ∧ a.core = e.g.core ∧
      a.group = e.gid ∧ a.lanes = e.r.lanes ∧ a.seq = none ∧ a.tag = r.tag ∧ a.entry = f.dst.uimm ∧ a.addrs.length = 16 ∧ t.mem = s.mem ∧
      t.tagCounts = (s.tagIssue e.g.core r.tag).tagCounts := by
  obtain ⟨tag, mark⟩ := r
  have hexec : exec (.wqAsk f) s = _ := h.effect _
  dsimp only at hexec
  rw [hcheck] at hexec
  dsimp only at hexec
  rw [hreport] at hexec
  dsimp only at hexec
  rw [if_neg (by exact tagRoom_not_full hroom), State.finish_ok] at hexec
  cases tag <;> exact ⟨_, _, hexec, rfl, rfl, rfl, rfl, rfl, rfl, rfl, rfl, by rw [List.length_map, List.length_range], rfl, rfl⟩

/-- The items of WQ.ADD, in the order of their lanes. -/
theorem does_wqAdd : Does .wqAdd noRuns (fun f s e => e.rcd.work.dynamic = true ∧ ∀ c ∈ e.lanes,
      s.src e .int c.1 c.2 f.a ≠ workToken ∧ e.la.runsOn (if f.mod = 1 then (s.src e .int c.1 c.2 f.b).toNat else e.g.core) = true)
    (fun f s e => e.lanes.foldl (fun (t : State) c =>
      let x := s.src e .int c.1 c.2 f.a
      let core := (s.src e .int c.1 c.2 f.b).toNat
      if f.mod = 1 then
        let item : Item := { id := t.nextId, sender := e.g.core, launch := e.la.id, core, value := x, first := s.nextId }
        let t := { t with nextId := t.nextId + 1, items := t.items ++ [item] }
        if core < e.g.core then t.updLaunch e.la.id (fun la =>
          { la with dist := { la.dist with black := if la.dist.black.contains e.g.core then la.dist.black else e.g.core :: la.dist.black } }) else t
      else t.deliver e.la.id e.g.core x) s) := by
  refine Does.of_run (fun _ _ => rfl) fun f s e _ hc => ?_
  obtain ⟨hdynamic, hgood⟩ := hc
  dsimp only
  rw [if_neg (by rw [hdynamic]; decide), List.filterMap_eq_nil_iff.mpr]
  · dsimp only
    rw [List.foldl_map]
    by_cases hfar : f.mod = 1
    · simp only [hfar, decide_true, if_true]
      rfl
    · simp only [hfar, decide_false, if_false, Bool.false_eq_true]
  · intro a ha
    obtain ⟨c, hc, rfl⟩ := List.mem_map.mp ha
    obtain ⟨htoken, hruns⟩ := hgood c hc
    have hruns' : e.la.runsOn (if decide (f.mod = 1) = true then (s.src e .int c.1 c.2 f.b).toNat else e.g.core) = true := by
      simpa only [decide_eq_true_eq] using hruns
    rw [if_neg htoken, if_neg]
    rw [hruns']
    decide

/-- Settles O21: the checks pass, so the query is put, the wait begins, the items go. -/
theorem workInstructions : Obligations.WorkInstructions :=
  ⟨fun _ _ _ _ h hcheck hreport hroom => exec_wqAsk h hcheck hreport hroom, Does.of_run (fun _ _ => rfl) fun _ _ _ _ _ => rfl, does_wqAdd⟩

end Sys2Proof.Machine
end

section
namespace Sys2Proof.Machine

/-! ### Items and queues (R305, R307, R308) -/

theorem State.itemDue_iff (s : State) (i : Item) : s.itemDue i = true ↔ ∀ j ∈ s.items, ¬ (j.first = i.first ∧ j.core = i.core ∧ j.id < i.id) := by
  simp only [State.itemDue, List.all_eq_true, Bool.or_eq_true, decide_eq_true_eq]
  refine forall₂_congr fun j _ => ?_
  rw [not_and, not_and, Nat.not_lt]
  tauto

theorem exec_itemArrival {s : State} {k : Nat} {i : Item} (hi : findId Item.id k s.items = some i) : exec (.itemArrival k) s =
    .next (if s.itemDue i then { s with items := delId Item.id k s.items }.deliver i.launch i.core i.value else s) := by
  show execItemArrival k s = _
  rw [execItemArrival, hi]

theorem exec_queueRefill {s : State} {la : Launch} {k core : Nat} (hla : s.launch? k = some la) (hst : la.st = .running) (hruns : la.runsOn core = true)
    (hitem : la.hasItem = true) (hdepth : (la.queueOf core).length < la.rcd.work.depth) (hheld : s.heldAsks k = []) :
    exec (.queueRefill k core) s = .next (s.updLaunch k (fun _ => la.nextItem.2.setQueue core (la.queueOf core ++ [la.nextItem.1]))) := by
  show execQueueRefill k core s = _
  rw [execQueueRefill, hla]
  exact if_pos (by simp [hst, hruns, hitem, hdepth, hheld])

/-! ### Queries (R306) -/

/-- Sorting loses nothing. -/
theorem sortBy_eq_nil {α : Type} {lt : α → α → Bool} {l : List α} (h : sortBy lt l = []) : l = [] := by
  have hins : ∀ (x : α) (acc : List α), insertBy lt x acc ≠ [] := fun x acc => by
    cases acc with
    | nil => exact List.cons_ne_nil _ _
    | cons y acc => rw [insertBy]; split <;> exact List.cons_ne_nil _ _
  have hkeep : ∀ (l acc : List α), acc ≠ [] → l.foldl (fun acc x => insertBy lt x acc) acc ≠ [] := fun l => by
    induction l with
    | nil => exact fun _ h => h
    | cons x l ih => exact fun _ _ => ih _ (hins x _)
  cases l with
  | nil => rfl
  | cons x l => exact absurd h (hkeep l _ (hins x []))

/-- Every query that is held after one of a launch has taken its number is that one, where none was held before. -/
theorem heldAsks_numbered {s t : State} {launch k n : Nat} (h : s.heldAsks launch = [])
    (ht : t.asks = updId Ask.id k (fun a => { a with seq := some n }) s.asks) : ∀ x ∈ t.heldAsks launch, x.id = k := by
  intro x hx
  obtain ⟨hx, hheld⟩ := List.mem_filter.mp (mem_of_mem_sortBy hx)
  rw [ht, updId_eq_map] at hx
  obtain ⟨a, ha, rfl⟩ := List.mem_map.mp hx
  by_cases hk : a.id = k
  · rw [if_pos hk]
    exact hk
  · rw [if_neg hk] at hheld
    exact absurd hheld (List.filter_eq_nil_iff.mp (sortBy_eq_nil h) a ha)

/-- So that one is the first to be answered. -/
theorem head_of_all {l : List Ask} {k : Nat} (h : ∀ x ∈ l, x.id = k) : (l.head?).elim true (fun h => h.id = k) = true := by
  cases l with
  | nil => rfl
  | cons x l => exact decide_eq_true (h x List.mem_cons_self)

theorem delId_updId {α : Type} (key : α → Nat) (k : Nat) {f : α → α} (hf : ∀ x, key (f x) = key x) (l : List α) : delId key k (updId key k f l) = delId key k l := by
  induction l with
  | nil => rfl
  | cons x l ih =>
    by_cases hx : key x = k
    · simpa [delId, updId, hx, hf] using ih
    · simpa [delId, updId, hx] using ih

/-- What lands at a tidemark depends on memory and its damage alone. -/
theorem landSectors_mem_congr {s t : State} (hm : s.mem = t.mem) (hb : s.bad = t.bad) (a n : Nat) : (s.landSectors a n).mem = (t.landSectors a n).mem := by
  have hdamaged : s.damaged (span a 16) = t.damaged (span a 16) := by simp only [State.damaged, hb]
  have hmark : s.tidemark a = t.tidemark a := congrArg (fun m : SMap 8 => Tidemark.ofNat (({ s with mem := m } : State).load (span a 16))) hm
  rw [State.landSectors, State.landSectors, hdamaged, hmark]
  split
  · exact hm
  · exact congrArg (fun m : SMap 8 => (({ s with mem := m } : State).setTidemark a ((t.tidemark a).land n)).mem) hm

theorem State.tagLand_asks (s : State) (block core : Nat) (tag : Option Nat) : (s.tagLand block core tag).asks = s.asks := by
  cases tag with
  | none => rfl
  | some t =>
    show (s.landTag block core t).asks = s.asks
    unfold State.landTag
    split <;> rfl

theorem State.store_asks (s : State) (as : List Nat) (v : Nat) : (s.store as v).asks = s.asks := rfl

theorem State.landSectors_asks (s : State) (a n : Nat) : (s.landSectors a n).asks = s.asks := by
  rw [State.landSectors]
  split
  · rfl
  · exact State.store_asks ..

theorem State.engineFault_asks_bad (s : State) (g : Nat) (ls : LaneMask) (kind engine entry offset : Nat) :
    (s.engineFault g ls kind engine entry offset).asks = s.asks ∧ (s.engineFault g ls kind engine entry offset).bad = s.bad := ⟨rfl, rfl⟩

/-- A sector that lands toward a tidemark. -/
theorem State.landToward_spec (s : State) (group : Nat) (lanes : LaneMask) (entry a n : Nat) :
    (s.landToward group lanes entry a n).asks = s.asks ∧ (s.landToward group lanes entry a n).mem = (s.landSectors a n).mem := by
  have hland : ∀ t : State, t.asks = s.asks → t.mem = s.mem → t.bad = s.bad →
      (t.landSectors a n).asks = s.asks ∧ (t.landSectors a n).mem = (s.landSectors a n).mem := fun t ha hm hb =>
    ⟨(t.landSectors_asks a n).trans ha, landSectors_mem_congr hm hb a n⟩
  have hboth : ∀ c : Bool, ((if c then s.engineFault group lanes 1 3 entry 0 else s).landSectors a n).asks = s.asks ∧
      ((if c then s.engineFault group lanes 1 3 entry 0 else s).landSectors a n).mem = (s.landSectors a n).mem
    | true => hland _ (s.engineFault_asks_bad ..).1 (State.engineFault_mem ..) (s.engineFault_asks_bad ..).2
    | false => hland _ rfl rfl rfl
  exact hboth _

/-- The state in which a query's answer stands in its granules, which COPY has handed back. -/
def State.answered (s : State) (la : Launch) (a : Ask) (n : Nat) : State :=
  ((s.updLaunch a.launch (fun _ => la.giveItem.2)).store a.addrs
    (la.giveItem.1.toNat + 2 ^ 32 * (n % 2 ^ 32) + 2 ^ 64 * (la.giveItem.2.rcd.work.count - la.giveItem.2.dist.handed))).handBack a.granules

section
variable (s : State) (la : Launch) (a : Ask) (n : Nat)

theorem State.answerAsk_eq (howned : ∀ p ∈ a.addrs, (s.owners.get (granuleOf p)).toNat = ownCopy) (hgood : s.damaged a.addrs = false) :
    s.answerAsk la a n = { (a.mark.elim (s.answered la a n) (fun p => (s.answered la a n).landToward a.group a.lanes a.entry p 1)).tagLand a.block a.core a.tag with
      asks := delId Ask.id a.id ((a.mark.elim (s.answered la a n) (fun p => (s.answered la a n).landToward a.group a.lanes a.entry p 1)).tagLand a.block a.core
        a.tag).asks } := by
  have hfind : a.addrs.find? (fun p => ((s.updLaunch a.launch (fun _ => la.giveItem.2)).owners.get (granuleOf p)).toNat ≠ ownCopy) = none :=
    List.find?_eq_none.mpr fun p hp => by simp [howned p hp]
  have hundamaged : ¬ (s.updLaunch a.launch (fun _ => la.giveItem.2)).damaged a.addrs = true := by
    rw [show (s.updLaunch a.launch (fun _ => la.giveItem.2)).damaged a.addrs = false from hgood]
    decide
  rw [State.answerAsk]
  dsimp only
  rw [hfind]
  dsimp only
  rw [if_neg hundamaged, ← State.answered]
  cases a.mark <;> rfl

/-- R306: an answer into granules that COPY owns, of an undamaged query: the answer's 16 bytes, and a sector at the tidemark. -/
theorem State.answerAsk_spec (howned : ∀ p ∈ a.addrs, (s.owners.get (granuleOf p)).toNat = ownCopy) (hgood : s.damaged a.addrs = false) :
    let answered := s.store a.addrs (la.giveItem.1.toNat + 2 ^ 32 * (n % 2 ^ 32) + 2 ^ 64 * (la.giveItem.2.rcd.work.count - la.giveItem.2.dist.handed))
    (s.answerAsk la a n).asks = delId Ask.id a.id s.asks ∧ (a.mark = none → (s.answerAsk la a n).mem = answered.mem) ∧
      (∀ m, a.mark = some m → (s.answerAsk la a n).mem = (answered.landSectors m 1).mem) := by
  rw [s.answerAsk_eq la a n howned hgood]
  dsimp only
  rw [State.tagLand_asks, State.tagLand_mem]
  cases a.mark with
  | none => exact ⟨rfl, fun _ => rfl, fun _ h => absurd h (by simp)⟩
  | some p =>
    obtain ⟨hasks, hmem⟩ := (s.answered la a n).landToward_spec a.group a.lanes a.entry p 1
    refine ⟨congrArg (delId Ask.id a.id) hasks, fun h => absurd h (by simp), fun m hm => ?_⟩
    obtain rfl := Option.some.inj hm
    exact hmem.trans (landSectors_mem_congr (by rfl) (by rfl) p 1)

end

theorem Launch.giveItem_countRequest (la : Launch) : la.countRequest.giveItem.1 = la.giveItem.1 ∧
    la.countRequest.giveItem.2.dist.handed = la.giveItem.2.dist.handed ∧ la.countRequest.giveItem.2.rcd = la.giveItem.2.rcd := by
  unfold Launch.giveItem
  cases hspill : la.dist.spill with
  | cons x rest => simp [Launch.countRequest, hspill]
  | nil =>
    simp only [Launch.countRequest, hspill]
    split <;> exact ⟨rfl, rfl, rfl⟩

section
variable {s : State} {a : Ask} {la : Launch} {k : Nat} (ha : findId Ask.id k s.asks = some a) (hla : s.launch? a.launch = some la)
include ha hla

/-- A query that arrives where it is answered at once. -/
theorem exec_wqAskAnswer_new (hanswers : la.answers = true) (hseq : a.seq = none) (hheld : s.heldAsks a.launch = []) : exec (.wqAskAnswer k) s =
    .next (({ s.updLaunch a.launch (fun _ => la.countRequest) with asks := updId Ask.id k (fun a => { a with seq := some la.dist.sequence }) s.asks } : State).answerAsk
      la.countRequest a la.dist.sequence) := by
  show execWqAskAnswer k s = _
  rw [execWqAskAnswer, ha]
  dsimp only
  rw [hla]
  dsimp only
  rw [hseq]
  dsimp only
  rw [if_pos]
  rw [Bool.and_eq_true]
  exact ⟨hanswers, head_of_all (heldAsks_numbered (t := { s.updLaunch a.launch (fun _ => la.countRequest) with
    asks := updId Ask.id k (fun a => { a with seq := some la.dist.sequence }) s.asks }) hheld rfl)⟩

/-- One that is held, in its turn. -/
theorem exec_wqAskAnswer_held {n : Nat} (hanswers : la.answers = true) (hseq : a.seq = some n) (hhead : (s.heldAsks a.launch).head?.map (·.id) = some k) :
    exec (.wqAskAnswer k) s = .next (s.answerAsk la a n) := by
  show execWqAskAnswer k s = _
  rw [execWqAskAnswer, ha]
  dsimp only
  rw [hla]
  dsimp only
  rw [hseq]
  dsimp only
  rw [if_pos]
  obtain ⟨h, hh, hid⟩ := Option.map_eq_some_iff.mp hhead
  rw [hanswers, hh]
  exact decide_eq_true hid

/-- One that arrives and is held. -/
theorem exec_wqAskAnswer_waits (hanswers : la.answers = false) (hseq : a.seq = none) : exec (.wqAskAnswer k) s =
    .next { s.updLaunch a.launch (fun _ => la.countRequest) with asks := updId Ask.id k (fun a => { a with seq := some la.dist.sequence }) s.asks } := by
  show execWqAskAnswer k s = _
  rw [execWqAskAnswer, ha]
  dsimp only
  rw [hla]
  dsimp only
  rw [hseq]
  dsimp only
  rw [if_neg]
  rw [show la.countRequest.answers = false from hanswers]
  exact Bool.false_ne_true

theorem wqAskAnswer_answers {n : Nat} (hanswers : la.answers = true) (howned : ∀ p ∈ a.addrs, (s.owners.get (granuleOf p)).toNat = ownCopy)
    (hgood : s.damaged a.addrs = false)
    (hturn : (a.seq = none ∧ s.heldAsks a.launch = [] ∧ n = la.dist.sequence) ∨ (a.seq = some n ∧ (s.heldAsks a.launch).head?.map (·.id) = some k)) :
    let answered := s.store a.addrs (la.giveItem.1.toNat + 2 ^ 32 * (n % 2 ^ 32) + 2 ^ 64 * (la.rcd.work.count - la.giveItem.2.dist.handed))
    ∃ t, exec (.wqAskAnswer k) s = .next t ∧ t.asks = delId Ask.id k s.asks ∧
      (a.mark = none → t.mem = answered.mem) ∧ (∀ m, a.mark = some m → t.mem = (answered.landSectors m 1).mem) := by
  have hid : a.id = k := findId_key Ask.id ha
  have hrcd : la.giveItem.2.rcd = la.rcd := by
    unfold Launch.giveItem
    split
    · rfl
    · split <;> rfl
  rcases hturn with ⟨hseq, hheld, rfl⟩ | ⟨hseq, hhead⟩
  · obtain ⟨hasks, hnone, hsome⟩ := State.answerAsk_spec ({ s.updLaunch a.launch (fun _ => la.countRequest) with
      asks := updId Ask.id k (fun a => { a with seq := some la.dist.sequence }) s.asks }) la.countRequest a la.dist.sequence howned hgood
    obtain ⟨hitem, hhanded, hrcd'⟩ := la.giveItem_countRequest
    rw [hitem, hhanded, hrcd', hrcd] at hnone hsome
    refine ⟨_, exec_wqAskAnswer_new ha hla hanswers hseq hheld, ?_, hnone, fun m hm => (hsome m hm).trans (landSectors_mem_congr (by rfl) (by rfl) m 1)⟩
    rw [hasks, hid]
    exact delId_updId Ask.id k (f := fun a => { a with seq := some la.dist.sequence }) (fun _ => rfl) s.asks
  · obtain ⟨hasks, hnone, hsome⟩ := s.answerAsk_spec la a n howned hgood
    rw [hrcd] at hnone hsome
    exact ⟨_, exec_wqAskAnswer_held ha hla hanswers hseq hhead, hid ▸ hasks, hnone, hsome⟩

end

/-! ### The token (R309) -/

/-- In a circuit in ascending order, the core that follows is the next. -/
theorem nextCore_of_follows {cs : List Nat} (hs : cs.Pairwise (· < ·)) {c next : Nat} (h : Follows cs c next) : nextCore cs c = next := by
  rw [nextCore]
  rcases h with ⟨hmem, hlt, hleast⟩ | ⟨hall, hhead⟩
  · obtain ⟨pre, post, rfl⟩ := List.append_of_mem hmem
    have hnone : pre.find? (fun d => decide (c < d)) = none := List.find?_eq_none.mpr fun d hd => by
      have h1 := (List.pairwise_append.mp hs).2.2 d hd next List.mem_cons_self
      have h2 := hleast d (List.mem_append_left _ hd)
      simp only [decide_eq_true_eq]
      omega
    have hhead : (next :: post).find? (fun d => decide (c < d)) = some next := List.find?_cons_of_pos (decide_eq_true hlt)
    rw [List.find?_append, hnone, Option.none_or, hhead]
    rfl
  · have hnone : cs.find? (fun d => decide (c < d)) = none := List.find?_eq_none.mpr fun d hd => by
      have := hall d hd
      simp only [decide_eq_true_eq]
      omega
    rw [hnone, hhead]
    rfl

theorem State.circuit_sorted (s : State) (la : Launch) : (s.circuit la).Pairwise (· < ·) := List.pairwise_lt_range.sublist List.filter_sublist

theorem tokenPass_spec {s : State} {la : Launch} {k low at_ next : Nat} {cs : List Nat} (hla : s.launch? k = some la) (hcs : s.circuit la = low :: cs)
    (hst : la.st = .running) (hdyn : la.rcd.work.dynamic = true) (hdecl : la.dist.declared = false)
    (hsaved : s.blocks.any (fun b => b.launch = k && b.st = .saved) = false) (hleaving : la.dist.leaving = []) (hfollows : Follows (s.circuit la) at_ next)
    (hback : (la.dist.circulating = true ∧ la.dist.token ∈ s.circuit la) → at_ = la.dist.token)
    (hnot : ¬ (la.dist.circulating = true ∧ la.dist.token ∈ s.circuit la) → at_ = low) :
    let back := la.dist.circulating = true ∧ la.dist.token ∈ s.circuit la
    let black := la.dist.black.filter (fun c => c ≠ at_)
    let passes := fun (d : Distributor) => exec (.tokenPass k) s = .next (s.updLaunch k (fun la => { la with dist := d }))
    (s.passive la at_ = false → exec (.tokenPass k) s = .next s) ∧
    (s.passive la at_ = true →
      (back → at_ ≠ low → passes { la.dist with black, tokenBlack := la.dist.tokenBlack || la.dist.black.contains at_, token := next }) ∧
      (back → at_ = low → la.dist.tokenBlack = false → low ∉ la.dist.black → la.hasItem = false →
        passes { la.dist with declared := true, circulating := false }) ∧
      (¬ back ∨ (at_ = low ∧ (la.dist.tokenBlack = true ∨ low ∈ la.dist.black ∨ la.hasItem = true)) →
        passes { la.dist with black, tokenBlack := false, token := next, circulating := true })) := by
  have hnext : nextCore (low :: cs) at_ = next := nextCore_of_follows (hcs ▸ s.circuit_sorted la) (hcs ▸ hfollows)
  have hround : ((la.dist.circulating && (low :: cs).contains la.dist.token) = true) ↔ (la.dist.circulating = true ∧ la.dist.token ∈ s.circuit la) := by
    rw [hcs, Bool.and_eq_true, List.contains_iff_mem]
  have hat : (if (la.dist.circulating && (low :: cs).contains la.dist.token) = true then la.dist.token else low) = at_ := by
    by_cases hb : la.dist.circulating = true ∧ la.dist.token ∈ s.circuit la
    · rw [if_pos (hround.mpr hb), hback hb]
    · rw [if_neg fun hr => hb (hround.mp hr), hnot hb]
  have hexec : exec (.tokenPass k) s = execTokenPass k s := rfl
  rw [execTokenPass, hla] at hexec
  dsimp only at hexec
  rw [hcs] at hexec
  dsimp only at hexec
  rw [if_neg (by simp [hdyn, hdecl, hst, hsaved, hleaving]), hat] at hexec
  intro back black passes
  refine ⟨fun hp => ?_, fun hp => ?_⟩
  · rw [hexec, hp]
    rfl
  · rw [if_neg (by rw [hp]; decide)] at hexec
    refine ⟨fun hb hne => ?_, fun hb heq htoken hlow hitem => ?_, fun hor => ?_⟩
    · rw [if_neg (by rw [hround.mpr hb]; decide), if_neg hne, hnext] at hexec
      exact hexec
    · rw [if_neg (by rw [hround.mpr hb]; decide), if_pos heq, if_pos (by simp [htoken, hlow, hitem])] at hexec
      exact hexec
    · have hlow : at_ = low := hor.elim hnot And.left
      subst hlow
      rw [hnext] at hexec
      rcases hor with hb | ⟨-, hagain⟩
      · rw [if_pos (by rw [Bool.eq_false_iff.mpr fun hr => hb (hround.mp hr)]; rfl)] at hexec
        exact hexec
      · by_cases hb : la.dist.circulating = true ∧ la.dist.token ∈ s.circuit la
        · have hagain' : ¬ (!la.dist.tokenBlack && !la.dist.black.contains at_ && !la.hasItem) = true := by
            rcases hagain with h | h | h <;> simp [h]
          rw [if_neg (by rw [hround.mpr hb]; decide), if_pos rfl, if_neg hagain'] at hexec
          exact hexec
        · rw [if_pos (by rw [Bool.eq_false_iff.mpr fun hr => hb (hround.mp hr)]; rfl)] at hexec
          exact hexec

/-- Settles O22: items and queries by their case, and the token by who is passive and whether it is back. -/
theorem distributorSteps : Obligations.DistributorSteps := by
  unfold Obligations.DistributorSteps
  refine ⟨fun s k i hi => ⟨fun hall => ?_, fun ⟨j, hj, hbefore⟩ => ?_⟩, fun s la k core => exec_queueRefill, fun s a la k ha hla => ⟨fun n => wqAskAnswer_answers ha hla, exec_wqAskAnswer_waits ha hla⟩,
    fun s la k low at_ next cs => tokenPass_spec⟩
  · rw [exec_itemArrival hi, if_pos (s.itemDue_iff i |>.mpr hall)]
  · rw [exec_itemArrival hi, if_neg fun hdue => s.itemDue_iff i |>.mp hdue j hj hbefore]

end Sys2Proof.Machine
end

section
namespace Sys2Proof.Machine

/-! ### The matrix queue (R313, R330) -/

/-- Whatever a placement of integrations leaves as it was, in one step, it leaves so in all. -/
theorem State.placeIntegrations_obs {β : Type} (obs : State → β)
    (hobs : ∀ (t : State) (m : MatEntry) (n : Nat) (cs : List Chain), obs { t with nextId := n, matrix := t.matrix ++ [m], chains := cs } = obs t)
    (s : State) (core : Nat) : obs (s.placeIntegrations core) = obs s := by
  rw [State.placeIntegrations]
  refine foldl_frame obs (fun t c _ => ?_) s
  split
  · rfl
  · split
    · exact hobs ..
    · rfl

theorem State.reenterAt_ops (s : State) (e : Env) (kind : MatKind) : (s.reenterAt e kind).ops = s.ops := by
  rw [State.reenterAt]
  split
  · rfl
  · exact foldl_frame (·.ops) (fun t c _ => State.placeIntegrations_obs (·.ops) (fun _ _ _ _ => rfl) t c) _

/-- An entry that is no send enters the queues of its cores. -/
theorem State.enqueue_queued (s : State) (e : Env) (f : Form) (block tile : Nat) (cores : List Nat) {kind : MatKind} (lays : List (Nat × BitVec 512))
    (gs : List Nat) (hsend : kind.isSend = false) : Queued s (s.enqueue e f block tile cores kind lays gs) e block tile cores kind := by
  have hheld : (!kind.passes && !kind.isSend && s.matrix.any (fun m => m.block = block && m.suspended)) =
      (!kind.passes && s.matrix.any (fun m => m.block = block && m.suspended)) := by rw [hsend, Bool.not_false, Bool.and_true]
  dsimp only [State.enqueue]
  rw [if_neg (by rw [hsend]; exact Bool.false_ne_true)]
  refine ⟨rfl, rfl, _, _, ⟨List.getLast?_concat, List.length_append⟩, rfl, rfl, rfl, rfl, rfl, rfl, rfl, rfl, rfl, rfl, hheld, rfl, rfl, fun l hl => ?_⟩
  obtain ⟨c, -, rfl⟩ := List.mem_map.mp hl
  rfl

section
variable {s : State} {e : Env} {f : Form} {block tile : Nat} {cores : List Nat} {kind : MatKind} {lays : List (Nat × BitVec 512)} {gs : List Nat}

theorem matIssue_free (h : queuesFree (s.reenterAt e kind) cores) :
    matIssue s e f block tile cores kind lays gs = .ok ((s.reenterAt e kind).enqueue e f block tile cores kind lays gs) := by
  rw [matIssue, if_neg]
  simpa [queuesFree] using h

theorem matIssue_full (h : ∃ c ∈ cores, (s.reenterAt e kind).matrixFull c = true) :
    matIssue s e f block tile cores kind lays gs = .stallIn (s.reenterAt e kind) := by
  rw [matIssue, if_pos]
  simpa using h

/-- An instruction whose body issues an entry queues it, or waits at issue. -/
theorem Runs.queued {op : Op} {runs : Env → List (Nat × Nat)} {i : Instr} {body : Env → Res} {own : Env → Option (Word × LaneMask)}
    (h : Runs op f runs s e) (hexec : exec i s = runWith op f runs s body own) (hown : own e = none)
    (hbody : body e = matIssue s e f block tile cores kind lays gs) (hsend : kind.isSend = false) :
    (queuesFree (s.reenterAt e kind) cores →
      ∃ t, exec i s = .next (t.retire e op f) ∧ t.mem = s.mem ∧ Queued (s.reenterAt e kind) t e block tile cores kind) ∧
    ((∃ c ∈ cores, (s.reenterAt e kind).matrixFull c = true) → exec i s = .next ((s.reenterAt e kind).rewind e)) := by
  rw [hexec]
  refine ⟨fun hfree => ⟨_, h.answers hown (hbody.trans (matIssue_free hfree)), ?_, State.enqueue_queued _ _ _ _ _ _ _ _ hsend⟩, fun hfull => ?_⟩
  · rw [State.enqueue_mem, State.reenterAt_mem]
  · rw [h.effect_own hown, hbody, matIssue_full hfull, State.finish_stallIn]

end

/-! ### MMA, QUANT and HAD (R320) -/

/-- A format word that a row of R315 accepts holds no code that none accepts. -/
theorem formatForm_of_kGranule {which : Nat} {w : Word} (hw : which = 0 ∨ which = 1 ∨ which = 2) (h : (kGranule which w).isNone = false) :
    formatForm which w = false := by
  rcases hw with rfl | rfl | rfl <;> dsimp only [formatForm, kGranule] at h ⊢ <;>
    generalize bitsOf w.toNat 31 28 = a at h ⊢ <;> generalize bitsOf w.toNat 27 24 = b at h ⊢ <;>
    generalize bitsOf w.toNat 23 20 = acc at h ⊢ <;> generalize bitsOf w.toNat 15 12 = rnd at h ⊢ <;> simp at h ⊢
  · grind
  · grind
  · grind

section
variable {op : Op} {which : Nat} {f : Form} {s : State} {e : Env}

/-- Where the lanes agree on a valid format word, none of them holds an illegal one. -/
theorem formatForms_of_good (hw : which = 0 ∨ which = 1 ∨ which = 2) (h : formatFault s e f which = none) :
    ownForm 0 (fun e => e.lanes.any (fun c => s.readable e c.2 f.a && formatForm which (s.src e .int c.1 c.2 f.a))) e = none := by
  refine ownForm_of_good (List.any_eq_false.mpr fun c hc => ?_)
  rw [formatFault] at h
  split at h
  case h_1 => exact absurd h (by simp)
  case h_2 hfind =>
    have hword : s.src e .int c.1 c.2 f.a = s.lowSrc e f.a := by simpa using List.find?_eq_none.mp hfind c hc
    have hvalid : (kGranule which (s.lowSrc e f.a)).isNone = false := Bool.eq_false_iff.mpr fun hnone => by
      rw [if_pos hnone] at h
      exact absurd h (by simp)
    rw [hword, formatForm_of_kGranule hw hvalid, Bool.and_false]
    exact Bool.false_ne_true

/-- R433: where the parameter block is damaged, no entry is queued, and the engine's failure is reported. -/
theorem matCompute_damaged {i : Instr} {as : List Nat} (hw : which = 0 ∨ which = 1 ∨ which = 2) (hexec : exec i s = matCompute op which f s)
    (h : Runs op f (noRuns f) s e) (hf : formatFault s e f which = none) (hp : paramBlock s e (layC f) (s.lowSrc e f.b).toNat = .ok as)
    (hd : s.damaged as = true) : exec i s = .next ((s.failParam e f which (s.lowSrc e f.a) as (layC f)).retire e op f) := by
  refine hexec.trans (h.answers (formatForms_of_good hw hf) ?_)
  dsimp only
  rw [hf]
  dsimp only
  rw [hp]
  exact if_pos hd

theorem State.engineFault_last {s : State} {gid engine reason layout granule : Nat} {lanes : LaneMask} {g : Group}
    (h : (s.engineFault gid lanes engine reason layout granule).group? gid = some g) :
    ∃ x, g.faults.getLast? = some x ∧ x.lanes = lanes ∧ x.info = engineInfo engine reason layout granule := by
  rw [State.engineFault, State.updGroup_group?_self _ _ _ (by exact fun _ => rfl)] at h
  obtain ⟨g', -, rfl⟩ := Option.map_eq_some_iff.mp h
  exact ⟨_, List.getLast?_concat, rfl, rfl⟩

theorem State.failParam_spec (s : State) (e : Env) (f : Form) (which : Nat) (w : Word) (as : List Nat) (kp : Nat) :
    let t := s.failParam e f which w as kp
    ∃ o : LongOp, t.mem = s.mem ∧ t.matrix = (s.reenterAt e (.compute which w as 0)).matrix ∧ t.ops = s.ops ++ [o] ∧ o.group = e.gid ∧
      (∀ l ∈ o.lanes, l.cond = .ready) ∧
      (∀ g, t.group? e.gid = some g → ∃ x, g.faults.getLast? = some x ∧ x.lanes = e.r.lanes ∧ x.info = engineInfo 3 3 kp 0) := by
  intro t
  have hops := s.reenterAt_ops e (.compute which w as 0)
  refine ⟨_, s.reenterAt_mem e (.compute which w as 0), rfl, congrArg (· ++ _) hops, rfl, fun l hl => ?_, fun g hg => ?_⟩
  · obtain ⟨c, -, rfl⟩ := List.mem_map.mp hl
    rfl
  · exact State.engineFault_last hg

/-- R320: a computation whose checks pass enters the queue. -/
theorem matCompute_queued {i : Instr} {as : List Nat} {pb : BitVec 512} {block tile : Nat} {cores : List Nat} {kind : MatKind}
    (hw : which = 0 ∨ which = 1 ∨ which = 2) (hexec : exec i s = matCompute op which f s) (h : Runs op f (noRuns f) s e)
    (hgood : computeGood which f s e as pb cores) (hblock : block = e.b.id) (htile : tile = pbTile pb)
    (hkind : kind = .compute which (s.lowSrc e f.a) as pb) :
    (queuesFree (s.reenterAt e kind) cores →
      ∃ t, exec i s = .next (t.retire e op f) ∧ t.mem = s.mem ∧ Queued (s.reenterAt e kind) t e block tile cores kind) ∧
    ((∃ c ∈ cores, (s.reenterAt e kind).matrixFull c = true) → exec i s = .next ((s.reenterAt e kind).rewind e)) := by
  obtain ⟨hf, hp, hd, rfl, hmma, hok, hopnds, hcores⟩ := hgood
  subst hblock htile hkind
  refine h.queued hexec (formatForms_of_good hw hf) (lays := ?l) (gs := ?g) ?body rfl
  case body =>
    rw [hf]
    dsimp only
    rw [hp]
    dsimp only
    rewrite [if_neg (by rw [hd]; exact Bool.false_ne_true), if_neg ?h1, if_neg ?h2, if_neg (by rw [hok]; decide), List.findSome?_eq_none_iff.mpr hopnds, hcores]
    · exact rfl
    case h1 =>
      rintro hc
      obtain ⟨h0, hnone⟩ := Bool.and_eq_true_iff.mp hc
      obtain ⟨t, b, ht, -⟩ := hmma (of_decide_eq_true h0)
      rw [ht] at hnone
      exact absurd hnone (by simp)
    case h2 =>
      rintro hc
      obtain ⟨h0, hne⟩ := Bool.and_eq_true_iff.mp hc
      obtain ⟨t, b, ht, hformat⟩ := hmma (of_decide_eq_true h0)
      rw [ht] at hne
      simp [hformat] at hne

end

/-- Settles O23: each instruction's checks pass, and its body issues the entry. -/
theorem matrixInstructionsQueue : Obligations.MatrixInstructionsQueue := by
  refine ⟨fun op which hop f s e as h hf hp hd => ?_, fun f s e block tile cores kind h hc => ?_, fun f s e block tile cores kind h hc => ?_,
    fun f s e block tile cores kind h hc => ?_, fun f s e block tile cores kind h hc => ?_, fun f s e block tile cores kind h hc => ?_,
    fun f s e block tile cores kind h hc => ?_, fun f s e block tile cores kind h hc => ?_⟩
  · obtain ⟨o, hmem, hmatrix, hops, hgroup, hready, hfault⟩ := s.failParam_spec e f which (s.lowSrc e f.a) as (layC f)
    refine ⟨_, o, ?_, hmem, hmatrix, hops, hgroup, hready, hfault⟩
    simp only [List.mem_cons, Prod.mk.injEq, List.not_mem_nil, or_false] at hop
    rcases hop with ⟨rfl, rfl⟩ | ⟨rfl, rfl⟩ | ⟨rfl, rfl⟩
    · exact matCompute_damaged (.inl rfl) rfl h hf hp hd
    · exact matCompute_damaged (.inr (.inl rfl)) rfl h hf hp hd
    · exact matCompute_damaged (.inr (.inr rfl)) rfl h hf hp hd
  · obtain ⟨as, pb, hgood, hblock, htile, hkind⟩ := hc
    exact matCompute_queued (.inl rfl) rfl h hgood hblock htile hkind
  · obtain ⟨as, pb, hgood, hblock, htile, hkind⟩ := hc
    exact matCompute_queued (.inr (.inl rfl)) rfl h hgood hblock htile hkind
  · obtain ⟨as, pb, hgood, hblock, htile, hkind⟩ := hc
    exact matCompute_queued (.inr (.inr rfl)) rfl h hgood hblock htile hkind
  · obtain ⟨d, b, ht, rfl, rfl, rfl, rfl⟩ := hc
    refine h.queued rfl rfl (lays := []) (gs := []) ?_ rfl
    dsimp only
    rw [ht]
  · obtain ⟨d, b, ht, rfl, rfl, rfl, hsuits, hround, hregion, rfl⟩ := hc
    simp only [ne_eq, decide_not] at hregion
    refine h.queued rfl rfl (lays := []) (gs := ?_) ?_ rfl
    case refine_2 =>
      dsimp only
      rw [ht]
      dsimp only
      rw [if_neg (by rw [hsuits]; decide), if_neg (by simpa [or_iff_not_imp_left] using hround)]
      simp only [decide_eq_true_eq]
      rw [hregion]
  · obtain ⟨d, b, ht, rfl, rfl, rfl, hregion, rfl⟩ := hc
    refine h.queued rfl rfl (lays := []) (gs := ?_) ?_ rfl
    case refine_2 =>
      dsimp only
      rw [ht]
      dsimp only
      rw [if_neg Bool.false_ne_true, if_neg Bool.false_ne_true, hregion]
      rfl
  · obtain ⟨d, b, ht, rfl, rfl, rfl, hregion, rfl⟩ := hc
    refine h.queued rfl rfl (lays := []) (gs := ?_) ?_ rfl
    case refine_2 =>
      dsimp only
      rw [ht]
      dsimp only
      rw [if_pos rfl, if_pos rfl, hregion]
      rfl

end Sys2Proof.Machine
end

section
namespace Sys2Proof.Machine

/-! ### A queue's next entry starts (R313, R321) -/

section
variable {s : State} {core : Nat} {m : MatEntry} (hnext : s.nextEntry core = some m)
include hnext

/-- An entry that is no computation runs, or fails. -/
theorem exec_matrixQueueEntryStart_work (hc : ∀ w p as pb, m.kind ≠ .compute w p as pb) (hi : ∀ n, m.kind ≠ .integrate n) :
    ((s.runEntry m).2 = none → exec (.matrixQueueEntryStart core) s = .next ((s.runEntry m).1.finishEntry m)) ∧
    (∀ reason k g, (s.runEntry m).2 = some (.fail reason k g) →
      exec (.matrixQueueEntryStart core) s = .next (((s.runEntry m).1.entryFault m reason k g).finishEntry m)) := by
  have hexec : exec (.matrixQueueEntryStart core) s = execMatrixQueueEntryStart core s := rfl
  rw [execMatrixQueueEntryStart, hnext] at hexec
  dsimp only at hexec
  split at hexec
  case h_1 n hn => exact absurd hn (hi n)
  case h_2 w p as pb hk => exact absurd hk (hc w p as pb)
  case h_3 =>
    rcases hrun : s.runEntry m with ⟨t, r⟩
    rw [hrun] at hexec
    refine ⟨?_, ?_⟩
    · rintro rfl
      exact hexec
    · rintro reason k g rfl
      exact hexec

/-- A computation starts at the row where it stands, or ends. -/
theorem exec_matrixQueueEntryStart_compute {w : Nat} {p : Word} {as : List Nat} {pb : BitVec 512} (hk : m.kind = .compute w p as pb) :
    let rows := s.paramWord as 13 % 65536
    let first := if m.row ≠ 0 then m.row else if pbDone pb then 0 else pbRows pb
    (s.paramLost as [13] = true → exec (.matrixQueueEntryStart core) s = .next ((s.engineFault m.group m.lanes 3 3 m.paramEntry 0).finishEntry m)) ∧
    (s.paramLost as [13] = false → first < pbM pb → exec (.matrixQueueEntryStart core) s = .next { s.setParam as 13 rows with
      matrix := updId MatEntry.id m.id (fun x => { x with started := true, row := first }) s.matrix }) ∧
    (s.paramLost as [13] = false → pbM pb ≤ first → exec (.matrixQueueEntryStart core) s = .next (((s.setParam as 13 rows).setParam as 13 (2 ^ 31 + rows)).finishEntry m)) := by
  intro rows first
  have hfirst : (if (pbDone pb && decide (m.row = 0)) = true then 0 else if m.row = 0 then pbRows pb else m.row) = first := by
    dsimp only [first]
    by_cases h0 : m.row = 0 <;> cases pbDone pb <;> simp [h0]
  have hexec : exec (.matrixQueueEntryStart core) s = execMatrixQueueEntryStart core s := rfl
  rw [execMatrixQueueEntryStart, hnext] at hexec
  dsimp only at hexec
  rw [hk] at hexec
  dsimp only at hexec
  rw [hfirst] at hexec
  refine ⟨fun hlost => ?_, fun hlost hlt => ?_, fun hlost hle => ?_⟩
  · rw [if_pos hlost] at hexec
    exact hexec
  · rw [if_neg (by rw [hlost]; exact Bool.false_ne_true), if_neg (Nat.not_le.mpr hlt)] at hexec
    exact hexec
  · rw [if_neg (by rw [hlost]; exact Bool.false_ne_true), if_pos hle] at hexec
    exact hexec

end

/-! ### Bands (R321, R322, R325) -/

/-- A state that differs from another in accumulators, memory and its damage alone. -/
def State.SameButBand (s t : State) : Prop := ∃ a m b, t = { s with acc := a, mem := m, bad := b }

theorem State.SameButBand.store {s t : State} (h : s.SameButBand t) (as : List Nat) (x : Nat) : s.SameButBand (t.store as x) := by
  obtain ⟨a, m, b, rfl⟩ := h
  exact ⟨a, _, b, rfl⟩

theorem State.SameButBand.eq {s t : State} (h : s.SameButBand t) : t = { s with acc := t.acc, mem := t.mem, bad := t.bad } := by
  obtain ⟨a, m, b, rfl⟩ := h
  rfl

/-- What a band changes of a computation's memory: its cells, the generator, status and rows completed. -/
def State.bandStored (t : State) (m : MatEntry) (as : List Nat) (b : Band) : State :=
  let seeded := b.seed.elim t (fun x => t.setParam as 1 x.toNat)
  (seeded.setParam as 14 (seeded.paramWord as 14 ||| b.status)).setParam as 13 (m.row + 64)

/-- The state in which a band's elements and cells stand. -/
def State.bandCells (s : State) (b : Band) : State :=
  { (s.storeCells b.cells).clearBad (s.coveredBad (b.cells.map (·.1)) []) with acc := s.acc.setAll b.acc }

theorem State.bandStored_same {s t : State} (h : s.SameButBand t) (m : MatEntry) (as : List Nat) (b : Band) : s.SameButBand (t.bandStored m as b) := by
  rw [State.bandStored]
  cases b.seed with
  | none => exact (h.store _ _).store _ _
  | some x => exact ((h.store _ _).store _ _).store _ _

theorem State.store_mem_congr {t u : State} (h : t.mem = u.mem) (as : List Nat) (x : Nat) : (t.store as x).mem = (u.store as x).mem :=
  congrArg (fun m : SMap 8 => m.setAll (as.zip (leBytes as.length x))) h

theorem State.paramWord_congr {t u : State} (h : t.mem = u.mem) (as : List Nat) (i : Nat) : t.paramWord as i = u.paramWord as i :=
  congrArg (fun m : SMap 8 => ({ t with mem := m } : State).paramWord as i) h

theorem State.bandStored_mem_congr {t u : State} (h : t.mem = u.mem) (m : MatEntry) (as : List Nat) (b : Band) :
    (t.bandStored m as b).mem = (u.bandStored m as b).mem := by
  have hstore : ∀ t u : State, t.mem = u.mem → ((t.setParam as 14 (t.paramWord as 14 ||| b.status)).setParam as 13 (m.row + 64)).mem =
      ((u.setParam as 14 (u.paramWord as 14 ||| b.status)).setParam as 13 (m.row + 64)).mem := fun t u h => by
    rw [State.paramWord_congr h]
    exact State.store_mem_congr (State.store_mem_congr h _ _) _ _
  rw [State.bandStored, State.bandStored]
  cases b.seed with
  | none => exact hstore _ _ h
  | some x => exact hstore _ _ (State.store_mem_congr h _ _)

theorem State.bandStored_acc (t : State) (m : MatEntry) (as : List Nat) (b : Band) : (t.bandStored m as b).acc = t.acc := by
  rw [State.bandStored]
  cases b.seed <;> rfl

section
variable {s : State} {core : Nat} {m : MatEntry} {which : Nat} {p : Word} {as : List Nat} {pb : BitVec 512}
  (hm : (s.matrixQueue core).find? (·.started) = some m) (hk : m.kind = .compute which p as pb)
include hm hk

/-- A band that fails, of itself or where what it is to write of the parameter block is lost. -/
theorem exec_bandCommit_fail {r : Except EngBad Band} {reason k g : Nat}
    (hr : r = if which = 0 then s.mmaBand m (s.entryFormat m) p pb m.row else s.quantBand m which p pb (if pbSeed pb = 0 then 1 else pbSeed pb) m.row)
    (hfail : s.commits m as r = .error (.fail reason k g)) :
    exec (.bandCommit core) s = .next (((s.setFault as).entryFault m reason k g).endEntry m) := by
  show execBandCommit core s = _
  rw [execBandCommit, hm]
  dsimp only
  rw [hk]
  dsimp only
  rw [← hr, hfail]

/-- A band that commits. -/
theorem exec_bandCommit_done {r : Except EngBad Band} {b : Band}
    (hr : r = if which = 0 then s.mmaBand m (s.entryFormat m) p pb m.row else s.quantBand m which p pb (if pbSeed pb = 0 then 1 else pbSeed pb) m.row)
    (hdone : s.commits m as r = .ok b) : exec (.bandCommit core) s = if pbM pb ≤ m.row + 64 then
        .next ((((s.bandCells b).bandStored m as b).setParam as 13 (2 ^ 31 + pbM pb)).endEntry m)
      else .next { State.bandStored (s.bandCells b) m as b with
        matrix := updId MatEntry.id m.id (fun x => { x with row := m.row + 64, started := !x.suspended, kind := x.kind.reseed b.seed }) s.matrix } := by
  have hmatrix : ((s.bandCells b).bandStored m as b).matrix = s.matrix := by
    rw [State.bandStored]
    cases b.seed <;> rfl
  show execBandCommit core s = _
  rw [execBandCommit, hm]
  dsimp only
  rw [hk]
  dsimp only
  rw [← hr, hdone, ← hmatrix]
  obtain ⟨acc, cells, seed, status⟩ := b
  cases seed <;> rfl

end

/-- Settles O24: what may start, and what a band commits or fails with. -/
theorem matrixEngineSteps : Obligations.MatrixEngineSteps := by
  refine ⟨fun s core m hnext hc hi => exec_matrixQueueEntryStart_work hnext hc hi, fun s core m w p as pb hnext hk => exec_matrixQueueEntryStart_compute hnext hk,
    fun s core m which p as pb r hm hk hr => ⟨fun b hb hlost => ?_, fun b hb hkept => ?_, fun reason k g he => ?_⟩, fun _ _ _ _ _ => ⟨rfl, rfl⟩⟩
  · refine exec_bandCommit_fail hm hk hr ?_
    rw [hb, State.commits]
    exact if_pos hlost
  · have hexec := exec_bandCommit_done hm hk hr (b := b) (by
      rw [hb, State.commits]
      exact if_neg (by rw [hkept]; exact Bool.false_ne_true))
    have hcells : s.SameButBand (s.bandCells b) := ⟨_, _, _, rfl⟩
    have hsame := State.bandStored_same hcells m as b
    have hacc : ((s.bandCells b).bandStored m as b).acc = s.acc.setAll b.acc := State.bandStored_acc ..
    have hmem : ((s.bandCells b).bandStored m as b).mem = ((s.storeCells b.cells).bandStored m as b).mem :=
      State.bandStored_mem_congr (t := s.bandCells b) (u := s.storeCells b.cells) rfl m as b
    obtain ⟨acc, cells, seed, status⟩ := b
    refine ⟨fun hlt => ⟨_, hexec.trans (if_neg (Nat.not_le.mpr hlt)), hacc, ?_, rfl, ?_⟩,
      fun hle => ⟨_, hexec.trans (if_pos hle), hacc, (State.store_mem_congr ?_ _ _), (hsame.store _ _).eq⟩⟩
    · cases seed <;> exact hmem
    · obtain ⟨a, m', b, h⟩ := hsame
      rw [h]
    · cases seed <;> exact hmem
  · refine exec_bandCommit_fail hm hk hr ?_
    subst he
    rfl

end Sys2Proof.Machine
end

section
namespace Sys2Proof.Machine

/-! ### Opening and joining (R335 to R337) -/

theorem State.writeRegs_chains (s : State) (gid : Nat) (ws : List (Nat × RegRef × Word)) : (s.writeRegs gid ws).chains = s.chains := by
  rw [State.writeRegs_eq]

/-- The state that CHAIN.OPEN leaves, by its answer. -/
def State.chainOpened (s : State) (e : Env) (f : Form) (c : Chain) (yes : Bool) : State :=
  let told := giveAll s e f [if yes then 1 else 0]
  let made := told.addOp e f .saved (fun _ _ => (.opened, (truthOf yes).writes f))
  let u := made.2.updOp made.1 (fun o => { o with dst := none })
  if yes then { u with chains := told.chains.filter (fun x => !(x.core = c.core && x.slot = c.slot)) ++ [c] } else u.doneAtIssue e f made.1 e.x

/-- R335: where the descriptor is in order, CHAIN.OPEN answers whether it opens the chain. -/
theorem exec_chainOpen {f : Form} {s : State} {e : Env} {t : TileDesc} {b : Block} (h : Runs .chainOpen f (noRuns f) s e) :
    let d := s.lowPair e f.a
    let old := s.chainAt e.g.core (bitsOf d.toNat 63 58)
    let c := Chain.ofDesc d e.g.core e.la.id e.b.id ((old.map (·.gen)).getD 0 + 1)
    let yes := !(old.elim false (·.isOpen)) && decide (c.bytes ≤ s.landingFree e.g.core)
    s.tileOf e c.tile = some (t, b) → chainGood e d c t b →
    let told := giveAll s e f [if yes then 1 else 0]
    let made := told.addOp e f .saved (fun _ _ => (.opened, (truthOf yes).writes f))
    let u := made.2.updOp made.1 (fun o => { o with dst := none })
    exec (.chainOpen f) s = .next ((if yes then { u with chains := s.chains.filter (fun x => !(x.core = c.core && x.slot = c.slot)) ++ [c] }
      else u.doneAtIssue e f made.1 e.x).retire e .chainOpen f) := by
  intro d old c yes htile hgood told made u
  refine h.answers rfl ?_
  obtain ⟨hreserved, hcount, hrows, hrows', hcols, hcols', hexact, hformat, hheld⟩ := hgood
  have hbad : ¬ (bitsOf d.toNat 13 0 ≠ 0 || c.count = 0 || c.rows = 0 || c.rows > 384 || c.cols = 0 || c.cols > 640 || (!c.exact && c.scale ≠ 0) ||
      t.format = 11 || !regionHeld b t e.g.core c.i0 c.j0 c.rows c.cols) = true := by
    simp [hreserved, hcount, hformat, hheld, Nat.pos_iff_ne_zero.mp hrows, Nat.pos_iff_ne_zero.mp hcols, Nat.not_lt.mpr hrows', Nat.not_lt.mpr hcols']
    exact hexact
  have hold : (match s.chainAt e.g.core c.slot with
      | some old => old.isOpen
      | none => false) = old.elim false (·.isOpen) := by
    show _ = (s.chainAt e.g.core c.slot).elim false (·.isOpen)
    cases s.chainAt e.g.core c.slot <;> rfl
  dsimp only
  rw [htile]
  refine (if_neg hbad).trans ?_
  show Res.ok (s.chainOpened e f c (!(match s.chainAt e.g.core c.slot with
      | some old => old.isOpen
      | none => false) && decide (c.bytes ≤ s.landingFree e.g.core))) = _
  rw [hold, State.chainOpened, show (giveAll s e f _).chains = s.chains from s.writeRegs_chains _ _]

/-- R337: where the name is known and the share in range, CHAIN.JOIN sends its request. -/
theorem exec_chainJoin {f : Form} {s : State} {e : Env} (h : Runs .chainJoin f (noRuns f) s e) {n : Word} {share : Nat} (hn : n = s.lowSrc e f.a)
    (hs : share = (s.lowSrc e f.b).toNat) (hknown : s.nameKnown e.la n = true) (hpos : 0 < share) (hle : share ≤ 65535)
    (hpending : ∀ b, e.g.binding? n = some b → b.pending = false) (hroom : e.g.binding? n = none → e.g.bindings.length < 16) :
    ∃ (t : State) (j : Join) (o : LongOp), exec (.chainJoin f) s = .next (t.retire e .chainJoin f) ∧ t.joins = s.joins ++ [j] ∧ j.peer = none ∧ t.ops = s.ops ++ [o] ∧
      j.op = o.id ∧ j.group = e.gid ∧ j.launch = e.la.id ∧ j.name = n ∧ j.share = share ∧ j.parked = false ∧ (∀ l ∈ o.lanes, l.cond = .engine) ∧
      t.groups = (s.updGroup e.gid (fun g => match e.g.binding? n with
        | some _ => g.updBinding n (fun b => { b with pending := true })
        | none => { g with bindings := g.bindings ++ [Binding.fresh n] })).groups ∧ t.mem = s.mem := by
  subst hn hs
  have hshare : ¬ (((s.lowSrc e f.b).toNat = 0 || (s.lowSrc e f.b).toNat > 65535) = true) := by simp; omega
  have hexec : exec (.chainJoin f) s = _ := h.effect _
  dsimp only at hexec
  rw [if_neg (by rw [hknown]; decide), if_neg hshare] at hexec
  have hlanes : ∀ l ∈ e.lanes.map (fun c => ({ lane := c.1, cond := .engine, writes := [] } : OpLane)), l.cond = .engine := fun l hl => by
    obtain ⟨c, -, rfl⟩ := List.mem_map.mp hl
    rfl
  cases hb : e.g.binding? (s.lowSrc e f.a) with
  | none =>
    rw [hb] at hexec
    dsimp only at hexec
    rw [if_neg Bool.false_ne_true, if_neg (by simpa using hroom hb)] at hexec
    exact ⟨_, _, _, hexec, rfl, rfl, rfl, rfl, rfl, rfl, rfl, rfl, rfl, hlanes, rfl, rfl⟩
  | some b =>
    rw [hb] at hexec
    dsimp only at hexec
    rw [if_neg (by rw [hpending b hb]; exact Bool.false_ne_true), if_neg (by simp)] at hexec
    exact ⟨_, _, _, hexec, rfl, rfl, rfl, rfl, rfl, rfl, rfl, rfl, rfl, hlanes, rfl, rfl⟩

/-- Settles O25: what each body answers. -/
theorem chainsOpenAndJoin : Obligations.ChainsOpenAndJoin :=
  ⟨fun _ _ _ _ _ h => exec_chainOpen h, fun _ _ _ h hknown hpos hle hpending hroom => exec_chainJoin h rfl rfl hknown hpos hle hpending hroom⟩

end Sys2Proof.Machine
end

section
namespace Sys2Proof.Machine

/-! ### Sends (R338 to R340) -/

/-- A send's entry enters the queue, and is not suspended (R354). -/
theorem State.enqueue_send (s : State) (e : Env) (f : Form) (block tile : Nat) (cores : List Nat) {kind : MatKind} (lays : List (Nat × BitVec 512))
    (gs : List Nat) (hsend : kind.isSend = true) :
    let t := s.enqueue e f block tile cores kind lays gs
    t.contributions = s.contributions ∧ t.groups = s.groups ∧ ∃ m, t.matrix.getLast? = some m ∧ m.kind = kind ∧ m.cores = cores ∧ m.suspended = false ∧
      m.op = s.nextId ∧ m.block = block ∧ m.tile = tile := by
  have hheld : (!kind.passes && !kind.isSend && s.matrix.any (fun m => m.block = block && m.suspended)) = false := by
    rw [hsend, Bool.not_true, Bool.and_false, Bool.false_and]
  dsimp only [State.enqueue]
  rw [if_pos hsend]
  have hlast : ∀ (ms : List MatEntry) (x : MatEntry) (g : MatEntry → MatEntry), ((ms ++ [x]).map g).getLast? = some (g x) := fun ms x g => by
    rw [List.map_append, List.map_singleton, List.getLast?_concat]
  refine ⟨rfl, rfl, _, hlast _ _ _, ?_⟩
  dsimp only
  split
  · exact ⟨rfl, rfl, rfl, rfl, rfl, rfl⟩
  · exact ⟨rfl, rfl, hheld, rfl, rfl, rfl⟩

/-- What a suspended entry's return leaves as it was. -/
theorem State.reenterAt_obs {β : Type} (obs : State → β)
    (hobs : ∀ (t : State) (ms : List MatEntry) (n : Nat) (cs : List Chain), obs { t with nextId := n, matrix := ms, chains := cs } = obs t)
    (s : State) (e : Env) (kind : MatKind) : obs (s.reenterAt e kind) = obs s := by
  rw [State.reenterAt]
  split
  · rfl
  · exact (foldl_frame obs (fun t c _ => State.placeIntegrations_obs obs (fun t _ n cs => hobs t _ n cs) t c) _).trans (hobs s _ s.nextId _)

/-- R338: taking a share is what `ShareTaken` says. -/
theorem shareTaken_iff {s t : State} {e : Env} {b : Binding} {n : Word} (hn : b.name = n) :
    ShareTaken s t e b ↔ t.groups = (s.updGroup e.gid (·.takeShare n)).groups := by
  subst hn
  have hshare : (fun g : Group => { g with bindings := (g.takeShare b.name).bindings }) = (·.takeShare b.name) := by
    funext g
    rw [Group.takeShare]
    split
    · split <;> rfl
    · rfl
  have hbindings : (fun g : Group => { g with bindings := match g.binding? b.name with
      | some x => if x.share ≤ 1 then g.bindings.filter (fun y => y.name ≠ b.name)
        else g.bindings.map (fun y => if y.name = b.name then { y with share := y.share - 1 } else y)
      | none => g.bindings }) = (fun g : Group => { g with bindings := (g.takeShare b.name).bindings }) := by
    funext g
    rw [Group.takeShare]
    cases g.binding? b.name with
    | none => rfl
    | some x =>
      dsimp only
      split <;> rfl
  rw [← hshare, ← hbindings]
  exact Iff.rfl

section
variable {f : Form} {s : State} {e : Env} {b : Binding} (h : Runs .chainSend f (noRuns f) s e) (hb : e.g.binding? (s.lowSrc e f.a) = some b)
  (hpending : b.pending = false) (hsuspended : b.suspended = false)
include h hb hpending hsuspended

/-- R339: a send from a tile. -/
theorem exec_chainSend_acc (hmod : f.mod = 0) {w : Nat} {d : TileDesc} {blk : Block} (hw : w = (s.lowSrc e f.b).toNat)
    (htile : s.tileOf e (w % 16) = some (d, blk)) (hformat : d.format ≠ 11) (hhigh : w / 2 ^ 11 = 0)
    (hheld : regionHeld blk d e.g.core (64 * bitsOf w 6 4) (64 * bitsOf w 10 7) b.rows b.cols = true) :
    let u := s.reenterAt e (.send 0 (64 * bitsOf w 6 4) (64 * bitsOf w 10 7) b.rows b.cols)
    (u.matrixFull e.g.core = true → exec (.chainSend f) s = .next (u.rewind e)) ∧
    (u.matrixFull e.g.core = false →
      ∃ (t : State) (c : Contribution) (m : MatEntry), exec (.chainSend f) s = .next (t.retire e .chainSend f) ∧ Sent s t e b c ∧ ShareTaken s t e b ∧
        t.matrix.getLast? = some m ∧ m.kind = .send c.id (64 * bitsOf w 6 4) (64 * bitsOf w 10 7) b.rows b.cols ∧ m.cores = [e.g.core] ∧
        m.suspended = false ∧ m.op = c.op ∧ m.block = blk.id ∧ m.tile = w % 16 ∧ t.mem = s.mem) := by
  intro u
  have hname : b.name = s.lowSrc e f.a := by simpa using List.find?_some hb
  have hexec : exec (.chainSend f) s = _ := h.effect _
  dsimp only at hexec
  rw [hb] at hexec
  dsimp only at hexec
  rw [if_neg (by rw [hpending]; exact Bool.false_ne_true), if_neg (by rw [hsuspended]; exact Bool.false_ne_true), if_pos hmod, ← hw, htile] at hexec
  dsimp only at hexec
  rw [if_neg (by rw [decide_eq_false hformat, hhigh, hheld]; decide)] at hexec
  refine ⟨fun hfull => ?_, fun hfree => ?_⟩
  · rw [if_pos hfull] at hexec
    exact hexec
  · rw [if_neg (by rw [hfree]; exact Bool.false_ne_true)] at hexec
    obtain ⟨hcontributions, hgroups, m, hm, hkind, hcores, hsusp, hop, hblock, htile'⟩ := State.enqueue_send u.fresh.2 e f blk.id (w % 16) [e.g.core]
      (kind := .send u.fresh.1 (64 * bitsOf w 6 4) (64 * bitsOf w 10 7) b.rows b.cols) [] [] rfl
    have hu : u.contributions = s.contributions ∧ u.groups = s.groups :=
      ⟨State.reenterAt_obs (·.contributions) (fun _ _ _ _ => rfl) s e _, State.reenterAt_obs (·.groups) (fun _ _ _ _ => rfl) s e _⟩
    refine ⟨_, _, m, hexec, ⟨congrArg (· ++ _) (hcontributions.trans hu.1), rfl, rfl, rfl, rfl, rfl, rfl, rfl, rfl, rfl, rfl⟩, ?_, hm, hkind, hcores, hsusp, hop,
      hblock, htile', ?_⟩
    · rw [shareTaken_iff hname]
      exact congrArg (updId Group.id e.gid _) (hgroups.trans hu.2)
    · exact (State.enqueue_mem ..).trans (s.reenterAt_mem e _)

/-- R340: a send through a layout. -/
theorem exec_chainSend_sp (hmod : f.mod ≠ 0) {m : BitVec 512} (hm : m = e.layout (layC f)) (hvalid : layValid m = true) (hshape : sendShape m b = true)
    (hread : layR m = true) (halign : ∀ c ∈ sendElems b.rows b.cols, layAddr m c % 4 = 0) :
    ∃ (t : State) (c : Contribution), exec (.chainSend f) s = .next (t.retire e .chainSend f) ∧ Sent s t e b c ∧ ShareTaken s t e b ∧ c.lay = m ∧ c.entry = layC f ∧
      c.block = e.b.id ∧ t.mem = s.mem := by
  have hname : b.name = s.lowSrc e f.a := by simpa using List.find?_some hb
  have haligned : ¬ ((sendElems b.rows b.cols).any (fun c => layAddr (e.layout (layC f)) c % 4 ≠ 0)) = true := by
    simpa [hm] using halign
  subst hm
  have hexec : exec (.chainSend f) s = _ := h.effect _
  dsimp only at hexec
  rw [hb] at hexec
  dsimp only at hexec
  rw [if_neg (by rw [hpending]; exact Bool.false_ne_true), if_neg (by rw [hsuspended]; exact Bool.false_ne_true), if_neg hmod, if_neg (by rw [hvalid]; decide),
    if_neg (by rw [hshape]; decide), if_neg (by rw [hread]; decide), if_neg haligned] at hexec
  exact ⟨_, _, hexec, ⟨rfl, rfl, rfl, rfl, rfl, rfl, rfl, rfl, rfl, rfl, rfl⟩, (shareTaken_iff hname).mpr rfl, rfl, rfl, rfl, rfl⟩

end

/-! ### Waiting and status (R345, R348) -/

theorem exec_chainWait {f : Form} {s : State} {e : Env} {c : Chain} (h : Runs .chainWait f (noRuns f) s e) (hc : ownChain s e f = some c) (hw : c.waiter = none) :
    let made := s.addOp e f .saved (fun _ _ => (.engine, []))
    exec (.chainWait f) s = .next ((((made.2.updChain e.g.core (slotOf s e f) (fun c => { c with waiter := some made.1 })).placeIntegrations
      e.g.core)).retire e .chainWait f) := by
  refine h.answers rfl ?_
  dsimp only
  rw [hc]
  dsimp only
  rw [hw]
  rfl

theorem does_chainStatus : Does .chainStatus noRuns always (fun f s e => giveAll s e f [match s.chainAt e.g.core (slotOf s e f) with
    | some c => if c.launch = e.la.id then c.statusWord else 0
    | none => 0]) := Does.of_run (fun _ _ => rfl) fun _ _ _ _ _ => rfl

end Sys2Proof.Machine
end

section
namespace Sys2Proof.Machine

/-! ### Marks of bindings (R352, R353) -/

/-- The bindings of a launch to one generation of a chain are all marked suspended, or none is. -/
def State.Marks (s : State) (launch : Nat) (name : Word) (gen : Nat) (on : Bool) : Prop :=
  ∀ g ∈ s.groups, g.launch = launch → ∀ b ∈ g.bindings, b.name = name → b.gen = gen → b.suspended = on

section
variable {s : State} {launch gen : Nat} {name : Word} {on : Bool}

theorem State.Marks.of_groups {t : State} (h : s.Marks launch name gen on) (ht : t.groups = s.groups) : t.Marks launch name gen on := by
  rw [State.Marks, ht]
  exact h

/-- Marking establishes the marks. -/
theorem State.marks_markBindings (s : State) (launch : Nat) (name : Word) (gen : Nat) (on : Bool) : (s.markBindings launch name gen on).Marks launch name gen on := by
  intro g hg hl b hb hn hgen
  obtain ⟨g', -, rfl⟩ := List.mem_map.mp hg
  by_cases hlaunch : g'.launch = launch
  · rw [if_pos hlaunch] at hb
    obtain ⟨b', -, rfl⟩ := List.mem_map.mp hb
    by_cases hb' : b'.name = name ∧ b'.gen = gen
    · rw [if_pos (by simpa using hb')]
    · rw [if_neg (by simpa using hb')] at hn hgen
      exact absurd ⟨hn, hgen⟩ hb'
  · rw [if_neg hlaunch] at hl
    exact absurd hl hlaunch

/-- Marks that go the same way disturb none. -/
theorem State.Marks.markBindings (h : s.Marks launch name gen on) (launch' : Nat) (name' : Word) (gen' : Nat) :
    (s.markBindings launch' name' gen' on).Marks launch name gen on := by
  intro g hg hl b hb hn hgen
  obtain ⟨g', hg', rfl⟩ := List.mem_map.mp hg
  split at hb
  case isTrue hlaunch =>
    rw [if_pos hlaunch] at hl
    obtain ⟨b', hb', rfl⟩ := List.mem_map.mp hb
    split
    · rfl
    case isFalse hother =>
      rw [if_neg hother] at hn hgen
      exact h g' hg' hl b' hb' hn hgen
  case isFalse hlaunch =>
    rw [if_neg hlaunch] at hl
    exact h g' hg' hl b hb hn hgen

/-- A change of a group that adds no binding, and marks none, disturbs none. -/
theorem State.Marks.updGroup (h : s.Marks launch name gen on) (k : Nat) {f : Group → Group} (hf : ∀ g, (f g).launch = g.launch)
    (hb : ∀ g, ∀ b ∈ (f g).bindings, ∃ b' ∈ g.bindings, b'.name = b.name ∧ b'.gen = b.gen ∧ b'.suspended = b.suspended) :
    (s.updGroup k f).Marks launch name gen on := by
  intro g hg hl b hbg hn hgen
  rw [State.updGroup, updId_eq_map] at hg
  obtain ⟨g', hg', rfl⟩ := List.mem_map.mp hg
  split at hbg
  case isTrue hk =>
    rw [if_pos hk, hf] at hl
    obtain ⟨b', hb', hname, hgen', hsusp⟩ := hb g' b hbg
    rw [← hsusp]
    exact h g' hg' hl b' hb' (hname.trans hn) (hgen'.trans hgen)
  case isFalse hk =>
    rw [if_neg hk] at hl
    exact h g' hg' hl b hbg hn hgen

theorem State.markChain_groups (s : State) (c : Chain) (on : Bool) : (s.markChain c on).groups = (s.markBindings c.launch (s.slotName c.core c.slot) c.gen on).groups := by
  rw [State.markChain]
  refine foldl_frame (fun t : State => t.groups) ?_ _
  exact fun _ _ _ => rfl

theorem State.markChain_obs {β : Type} (obs : State → β) (hobs : ∀ (t : State) (gs : List Group) o, obs { t with groups := gs, outbox := o } = obs t)
    (s : State) (c : Chain) (on : Bool) : obs (s.markChain c on) = obs s :=
  (foldl_frame obs (fun t _ _ => hobs t t.groups _) _).trans (hobs s _ s.outbox)

end

/-! ### A join that is refused (R337, R349) -/

section
variable (s : State) (j : Join)

theorem State.answerJoin_none_obs {β : Type} (obs : State → β)
    (hobs : ∀ (t : State) (gs : List Group) (ops : List LongOp) o js, obs { t with groups := gs, ops := ops, outbox := o, joins := js } = obs t) :
    obs (s.answerJoin j none) = obs s := by
  rw [State.answerJoin]
  cases j.peer with
  | none => exact hobs s _ _ s.outbox _
  | some p => exact hobs s s.groups s.ops _ _

theorem State.answerJoin_none_joins : (s.answerJoin j none).joins = delId Join.id j.id s.joins := by
  rw [State.answerJoin]
  cases j.peer <;> rfl

theorem State.Marks.answerJoin_none {s : State} {launch gen : Nat} {name : Word} {on : Bool} (h : s.Marks launch name gen on) (j : Join) :
    (s.answerJoin j none).Marks launch name gen on := by
  have htell : ((s.updGroup j.group (fun g => match g.binding? j.name with
      | some b => if b.share = 0 then g.dropBinding j.name else g.updBinding j.name (fun b => { b with pending := false })
      | none => g))).Marks launch name gen on := by
    refine h.updGroup _ (fun g => ?_) fun g b hb => ?_
    · split
      · split <;> rfl
      · rfl
    · split at hb
      · split at hb
        · exact ⟨b, (List.mem_filter.mp hb).1, rfl, rfl, rfl⟩
        · obtain ⟨b', hb', rfl⟩ := List.mem_map.mp hb
          refine ⟨b', hb', ?_⟩
          split <;> exact ⟨rfl, rfl, rfl⟩
      · exact ⟨b, hb, rfl, rfl, rfl⟩
  rw [State.answerJoin]
  cases j.peer with
  | none => exact htell.of_groups rfl
  | some p => exact h.of_groups rfl

end

/-- Refusing joins leaves none of them. -/
theorem State.refused_joins (js : List Join) (s : State) : ∀ x ∈ (js.foldl (fun (s : State) j => s.answerJoin j none) s).joins,
    x ∈ s.joins ∧ ∀ j ∈ js, x.id ≠ j.id := by
  induction js generalizing s with
  | nil => exact fun x hx => ⟨hx, fun _ h => absurd h List.not_mem_nil⟩
  | cons j js ih =>
    intro x hx
    obtain ⟨hmem, hne⟩ := ih _ x hx
    rw [State.answerJoin_none_joins] at hmem
    obtain ⟨hmem, hj⟩ := List.mem_filter.mp hmem
    refine ⟨hmem, fun k hk => ?_⟩
    rcases List.mem_cons.mp hk with rfl | hk
    · simpa using hj
    · exact hne k hk

/-! ### Aborting (R349) -/

/-- The state of an abort before the parked joins are refused. -/
def State.aborted (s : State) (core slot : Nat) (c : Chain) : State :=
  let u := match c.waiter with
    | some op => s.answerOp op []
    | none => s
  let u := { u with matrix := u.matrix.filter (fun m => !(m.kind = MatKind.integrate slot && m.cores = [core])) }
  let u := if c.suspended then u.markChain c false else u
  (u.updChain core slot (fun c => { c with aborted := true })).closeChain core slot

theorem State.aborted_obs {β : Type} (obs : State → β) (hobs : ∀ (t : State) gs ops o ms cs, obs { t with groups := gs, ops := ops, outbox := o, matrix := ms, chains := cs } = obs t)
    (s : State) (core slot : Nat) (c : Chain) : obs (s.aborted core slot c) = obs s := by
  have hmark : ∀ t : State, obs (if c.suspended then t.markChain c false else t) = obs t := fun t => by
    split
    · exact t.markChain_obs obs (fun t gs o => hobs t gs t.ops o t.matrix t.chains) c false
    · rfl
  rw [State.aborted]
  have hfirst : ∀ t : State, obs { t with matrix := t.matrix.filter (fun m => !(m.kind = MatKind.integrate slot && m.cores = [core])) } = obs t :=
    fun t => hobs t t.groups t.ops t.outbox _ t.chains
  have hlast : ∀ t : State, obs ((t.updChain core slot (fun c => { c with aborted := true })).closeChain core slot) = obs t :=
    fun t => hobs t t.groups t.ops t.outbox t.matrix _
  refine (hlast _).trans ((hmark _).trans ((hfirst _).trans ?_))
  cases c.waiter with
  | none => rfl
  | some op => exact hobs s s.groups _ s.outbox s.matrix s.chains

theorem State.aborted_chains_matrix (s : State) (core slot : Nat) (c : Chain) :
    (s.aborted core slot c).chains = s.chains.map (fun x => if x.core = core ∧ x.slot = slot then x.shut true else x) ∧
    (s.aborted core slot c).matrix = s.matrix.filter (fun m => !(m.kind = MatKind.integrate slot && m.cores = [core])) := by
  have hmark : ∀ t : State, (if c.suspended then t.markChain c false else t).chains = t.chains ∧ (if c.suspended then t.markChain c false else t).matrix = t.matrix :=
    fun t => by
      split
      · exact ⟨t.markChain_obs (·.chains) (fun _ _ _ => rfl) c false, t.markChain_obs (·.matrix) (fun _ _ _ => rfl) c false⟩
      · exact ⟨rfl, rfl⟩
  have hshut : ∀ cs : List Chain, (cs.map (fun x => if x.core = core ∧ x.slot = slot then { x with aborted := true } else x)).map
      (fun x => if x.core = core ∧ x.slot = slot then x.closed else x) = cs.map (fun x => if x.core = core ∧ x.slot = slot then x.shut true else x) := fun cs => by
    rw [List.map_map]
    refine List.map_congr_left fun x _ => ?_
    by_cases hx : x.core = core ∧ x.slot = slot
    · simp [hx, Chain.closed, Chain.shut]
    · simp [hx]
  rw [State.aborted]
  refine ⟨?_, (hmark _).2.trans ?_⟩
  · refine (congrArg (fun cs : List Chain => (cs.map _).map _) (hmark _).1).trans ((hshut _).trans ?_)
    cases c.waiter <;> rfl
  · cases c.waiter <;> rfl

theorem State.aborted_marks (s : State) (core slot : Nat) (c : Chain) (hc : c.suspended = true) :
    (s.aborted core slot c).Marks c.launch (s.slotName c.core c.slot) c.gen false := by
  have hmark : ∀ t : State, t.device = s.device → (if c.suspended then t.markChain c false else t).Marks c.launch (s.slotName c.core c.slot) c.gen false := fun t ht => by
    rw [if_pos hc]
    refine (t.marks_markBindings c.launch (s.slotName c.core c.slot) c.gen false).of_groups ?_
    rw [State.markChain_groups, State.slotName, State.slotName, ht]
  rw [State.aborted]
  refine State.Marks.of_groups (hmark _ ?_) rfl
  cases c.waiter <;> rfl

/-- A chain of the executing block, at its slot. -/
theorem ownChain_spec {s : State} {e : Env} {f : Form} {c : Chain} (h : ownChain s e f = some c) :
    s.chainAt e.g.core (slotOf s e f) = some c ∧ c.launch = e.la.id ∧ c.core = e.g.core ∧ c.slot = slotOf s e f := by
  rw [ownChain, State.openChain] at h
  cases hat : s.chainAt e.g.core (slotOf s e f) with
  | none => simp [hat] at h
  | some x =>
    rw [hat] at h
    dsimp only at h
    split at h
    case h_2 => exact absurd h (by simp)
    case h_1 y hy =>
      split at h
      case isFalse => exact absurd h (by simp)
      obtain rfl := Option.some.inj h
      split at hy
      case isFalse => exact absurd hy (by simp)
      case isTrue hopen =>
        obtain rfl := Option.some.inj hy
        have hkey := List.find?_some hat
        simp only [Bool.and_eq_true, decide_eq_true_eq] at hkey hopen
        exact ⟨rfl, hopen.2, hkey.1, hkey.2⟩

theorem exec_chainAbort {f : Form} {s : State} {e : Env} {c : Chain} (h : Runs .chainAbort f (noRuns f) s e) (hc : ownChain s e f = some c) :
    ∃ t : State, exec (.chainAbort f) s = .next (t.retire e .chainAbort f) ∧ t.mem = s.mem ∧
      t.chains = s.chains.map (fun x => if x.core = e.g.core ∧ x.slot = slotOf s e f then x.shut true else x) ∧
      t.matrix = s.matrix.filter (fun m => !(m.kind = MatKind.integrate (slotOf s e f) && m.cores = [e.g.core])) ∧
      (∀ j ∈ t.joins, ¬ (j.parked = true ∧ s.joinLaunch j = some e.la.id ∧ nameDevice j.name = s.device ∧ nameCore j.name = e.g.core ∧
        nameSlot j.name = slotOf s e f)) ∧
      (c.suspended = true → ∀ g ∈ t.groups, g.launch = e.la.id → ∀ b ∈ g.bindings, b.name = s.slotName e.g.core (slotOf s e f) → b.gen = c.gen →
        b.suspended = false) := by
  obtain ⟨-, hlaunch, hcore, hslot⟩ := ownChain_spec hc
  let u := s.aborted e.g.core (slotOf s e f) c
  let v := (u.parkedAt c).foldl (fun (s : State) j => s.answerJoin j none) u
  have hexec : exec (.chainAbort f) s = .next ((v.addOp e f .saved (fun _ _ => (.joint, []))).2.retire e .chainAbort f) := by
    refine h.answers rfl ?_
    dsimp only
    rw [hc]
    obtain ⟨core, slot, launch, block, isOpen, gen, exact_, set, scale, count, acked, tile, i0, j0, rows, cols, landed, sums, stat, aborted, waiter, placed, suspended, saved, held,
      peers, awaited⟩ := c
    cases waiter <;> rfl
  have hv : ∀ {β : Type} (obs : State → β) (_ : ∀ (t : State) gs ops o js, obs { t with groups := gs, ops := ops, outbox := o, joins := js } = obs t), obs v = obs u :=
    fun obs hobs => foldl_frame obs (fun t j _ => t.answerJoin_none_obs j obs hobs) u
  obtain ⟨hchains, hmatrix⟩ := s.aborted_chains_matrix e.g.core (slotOf s e f) c
  refine ⟨_, hexec, ?_, ?_, ?_, fun j hj hparked => ?_, fun hs => ?_⟩
  · exact (hv (·.mem) fun _ _ _ _ _ => rfl).trans (s.aborted_obs (·.mem) (fun _ _ _ _ _ _ => rfl) ..)
  · exact (hv (·.chains) fun _ _ _ _ _ => rfl).trans hchains
  · exact (hv (·.matrix) fun _ _ _ _ _ => rfl).trans hmatrix
  · obtain ⟨hmem, hne⟩ := State.refused_joins _ _ j hj
    refine hne j (List.mem_filter.mpr ⟨hmem, ?_⟩) rfl
    have hl : u.joinLaunch j = s.joinLaunch j := s.aborted_obs (·.joinLaunch j) (fun _ _ _ _ _ _ => rfl) ..
    have hd : u.device = s.device := s.aborted_obs (·.device) (fun _ _ _ _ _ _ => rfl) ..
    obtain ⟨hpark, hjoin, hdev, hjc, hjs⟩ := hparked
    simp [hpark, hl, hjoin, hlaunch, hd, hdev, hjc, hcore, hjs, hslot]
  · have hmarks : v.Marks c.launch (s.slotName c.core c.slot) c.gen false :=
      List.foldlRecOn (motive := fun t : State => t.Marks c.launch (s.slotName c.core c.slot) c.gen false) _ _ (s.aborted_marks e.g.core (slotOf s e f) c hs)
        fun t ht j _ => ht.answerJoin_none j
    rw [hlaunch, hcore, hslot] at hmarks
    exact hmarks

/-- Settles O26: sends by their form, and what waits, states and aborts answer. -/
theorem chainsSendWaitAndAbort : Obligations.ChainsSendWaitAndAbort :=
  ⟨fun _ _ _ _ h hb hp hs => ⟨fun hmod _ _ htile hformat hhigh hheld => exec_chainSend_acc h hb hp hs hmod rfl htile hformat hhigh hheld,
      fun hmod hvalid hshape hread halign => exec_chainSend_sp h hb hp hs hmod rfl hvalid hshape hread halign⟩,
    fun _ _ _ _ h hc hw => exec_chainWait h hc hw, does_chainStatus, fun _ _ _ _ h hc => exec_chainAbort h hc⟩

end Sys2Proof.Machine
end

section
namespace Sys2Proof.Machine

/-! ### Records of slots (R334) -/

section
variable {s : State} {core slot : Nat} {c : Chain}

theorem State.chainAt_key (h : s.chainAt core slot = some c) : c.core = core ∧ c.slot = slot := by
  simpa using List.find?_some h

theorem State.openChain_spec {launch : Nat} (h : s.openChain core slot launch = some c) :
    s.chainAt core slot = some c ∧ c.isOpen = true ∧ c.launch = launch := by
  rw [State.openChain] at h
  split at h
  case h_2 => exact absurd h (by simp)
  case h_1 x hx =>
    split at h
    case isFalse => exact absurd h (by simp)
    case isTrue hopen =>
      obtain rfl := Option.some.inj h
      simpa [hx] using hopen

/-- A change of a slot's record that leaves its place. -/
theorem State.chainAt_updChain (s : State) (core slot : Nat) {f : Chain → Chain} (hf : ∀ c, (f c).core = c.core ∧ (f c).slot = c.slot) :
    (s.updChain core slot f).chainAt core slot = (s.chainAt core slot).map f := by
  have hp : ((fun c : Chain => decide (c.core = core) && decide (c.slot = slot)) ∘ fun c => if c.core = core ∧ c.slot = slot then f c else c) =
      fun c => decide (c.core = core) && decide (c.slot = slot) := by
    funext c
    dsimp only [Function.comp]
    split
    · rw [(hf c).1, (hf c).2]
    · rfl
  show (s.chains.map _).find? _ = _
  rw [List.find?_map, hp, State.chainAt]
  cases hfind : s.chains.find? (fun c => decide (c.core = core) && decide (c.slot = slot)) with
  | none => rfl
  | some x => rw [Option.map_some, Option.map_some, if_pos (State.chainAt_key hfind)]

end

/-- What the placing of integrations does not touch of a record. -/
theorem State.chainAt_placeIntegrations {β : Type} {obs : Chain → β} (hobs : ∀ c : Chain, obs { c with placed := true } = obs c) (s : State) (k core slot : Nat) :
    ((s.placeIntegrations k).chainAt core slot).map obs = (s.chainAt core slot).map obs := by
  have hplace : ∀ (t : State) (a b : Nat), ((t.chains.map (fun x => if x.core = a ∧ x.slot = b then { x with placed := true } else x)).find?
      (fun c => decide (c.core = core) && decide (c.slot = slot))).map obs = (t.chainAt core slot).map obs := fun t a b => by
    have hp : ((fun c : Chain => decide (c.core = core) && decide (c.slot = slot)) ∘ fun x : Chain =>
        if x.core = a ∧ x.slot = b then { x with placed := true } else x) = fun c => decide (c.core = core) && decide (c.slot = slot) := by
      funext x
      dsimp only [Function.comp]
      split <;> rfl
    rw [List.find?_map, hp, Option.map_map, State.chainAt]
    refine Option.map_congr fun x _ => ?_
    dsimp only [Function.comp]
    split
    · exact hobs x
    · rfl
  rw [State.placeIntegrations]
  refine foldl_frame (fun t : State => (t.chainAt core slot).map obs) (fun t c _ => ?_) s
  split
  · rfl
  · split
    · exact hplace t _ _
    · rfl

/-- What lands leaves a record at its place. -/
theorem Chain.land_key (c : Chain) (rows cols : Nat) (vals : SMap 48) : (c.land rows cols vals).core = c.core ∧ (c.land rows cols vals).slot = c.slot := by
  have hone : ∀ (c : Chain) (key code : Nat), (c.landOne key code).core = c.core ∧ (c.landOne key code).slot = c.slot := fun c key code => by
    unfold Chain.landOne
    dsimp only
    split <;> exact ⟨rfl, rfl⟩
  have hall : ∀ xs : List (List Nat), let r := xs.foldl (fun (c : Chain) x => c.landOne (x.getD 1 0 * 1024 + x.getD 0 0) (vals.get (x.getD 1 0 * 1024 + x.getD 0 0)).toNat) c
      r.core = c.core ∧ r.slot = c.slot := fun xs =>
    ⟨foldl_frame (fun c : Chain => c.core) (fun c _ _ => (hone c _ _).1) c, foldl_frame (fun c : Chain => c.slot) (fun c _ _ => (hone c _ _).2) c⟩
  exact hall (sendElems rows cols)

/-! ### Joins (R337, R457) -/

section
variable {s : State} {k : Nat} {j : Join}

/-- A request of this device at a slot of it. -/
theorem exec_joinRequest_here (hj : findId Join.id k s.joins = some j) (hid : j.id = k) (hdev : nameDevice j.name = s.device) {la : Nat} (hla : s.joinLaunch j = some la) :
    (∀ c, s.openChain (nameCore j.name) (nameSlot j.name) la = some c → c.suspended = false →
      exec (.joinRequestArrival (.here k)) s = .next (s.answerJoin j (if c.acked + j.share ≤ c.count then some c else none))) ∧
    (s.openChain (nameCore j.name) (nameSlot j.name) la = none →
      exec (.joinRequestArrival (.here k)) s = .next { s with joins := updId Join.id k (fun j => { j with parked := true }) s.joins }) := by
  have hexec : exec (.joinRequestArrival (.here k)) s = .next (s.tryJoin j) := by
    show execJoinRequestArrival (.here k) s = _
    rw [execJoinRequestArrival, hj]
    exact if_pos hdev
  rw [hexec, State.tryJoin, hla, Option.bind_some]
  refine ⟨fun c hc hs => ?_, fun hnone => ?_⟩
  · rw [hc]
    exact congrArg Host.Outcome.next (if_neg (by rw [hs]; exact Bool.false_ne_true))
  · rw [hnone, hid]

/-- One that names a peer. -/
theorem exec_joinRequest_away (hj : findId Join.id k s.joins = some j) (hdev : nameDevice j.name ≠ s.device) :
    (s.peerCut (nameDevice j.name) = false → j.parked = false → exec (.joinRequestArrival (.here k)) s = .next { s with
        joins := updId Join.id k (fun j => { j with parked := true }) s.joins
        outbox := s.outbox ++ [(nameDevice j.name, .join k (s.linkOf j.launch) j.name j.share)] }) ∧
    (s.peerCut (nameDevice j.name) = true → exec (.joinRequestArrival (.here k)) s = .next (s.answerJoin j none)) := by
  have hexec : exec (.joinRequestArrival (.here k)) s = execJoinRequestArrival (.here k) s := rfl
  rw [execJoinRequestArrival, hj] at hexec
  dsimp only at hexec
  rw [if_neg hdev] at hexec
  refine ⟨fun hlinked hparked => ?_, fun hcut => ?_⟩
  · rw [if_neg (by rw [hlinked]; exact Bool.false_ne_true), if_neg (by rw [hparked]; exact Bool.false_ne_true)] at hexec
    exact hexec
  · rw [if_pos hcut] at hexec
    exact hexec

/-- A peer's answer. -/
theorem exec_joinRequest_answered (hj : findId Join.id k s.joins = some j) {d : BitVec 3} {c : Option ChainShape} (hpeer : j.peer = none) (hdev : nameDevice j.name = d.toNat) :
    exec (.joinRequestArrival (.peer d (.joined k c))) s = .next { s.tellJoin j c with joins := delId Join.id k s.joins } := by
  show execJoinRequestArrival (.peer d (.joined k c)) s = _
  rw [execJoinRequestArrival, hj]
  exact if_neg (by simp [hpeer, hdev])

end

section
variable {s : State} {d : BitVec 3} {id share : Nat} {link : PeerLink} {name : Word} {la : Launch}

/-- A join of a peer, as it stands in the list. -/
def peerJoin (s : State) (d : BitVec 3) (id : Nat) (link : PeerLink) (name : Word) (share : Nat) : Join :=
  { id := s.nextId, peer := some (d.toNat, id, link), op := 0, group := 0, launch := 0, name, share, parked := true }

theorem exec_joinRequest_peer (hdev : nameDevice name = s.device) : exec (.joinRequestArrival (.peer d (.join id link name share))) s =
    .next (({ s with nextId := s.nextId + 1, joins := s.joins ++ [peerJoin s d id link name share] } : State).tryJoin (peerJoin s d id link name share)) := by
  show execJoinRequestArrival (.peer d (.join id link name share)) s = _
  exact if_neg (not_not.mpr hdev)

/-- It is answered by the chain that is open for the launch linked with it. -/
theorem exec_joinRequest_peer_open (hdev : nameDevice name = s.device) (hlinked : s.linked link d.toNat = some la) {c : Chain}
    (hc : s.openChain (nameCore name) (nameSlot name) la.id = some c) (hs : c.suspended = false) :
    ∃ t : State, exec (.joinRequestArrival (.peer d (.join id link name share))) s = .next t ∧
      t.outbox = s.outbox ++ [(d.toNat, .joined id (if c.acked + share ≤ c.count then some c.shape else none))] ∧
      (c.acked + share ≤ c.count → (t.chainAt (nameCore name) (nameSlot name)).map (fun x => (x.acked, x.peers.contains d.toNat)) =
        some (c.acked + share, true)) := by
  obtain ⟨hat, -, -⟩ := State.openChain_spec hc
  obtain ⟨hcore, hslot⟩ := State.chainAt_key hat
  let u : State := { s with nextId := s.nextId + 1, joins := s.joins ++ [peerJoin s d id link name share] }
  have htry : u.tryJoin (peerJoin s d id link name share) =
      u.answerJoin (peerJoin s d id link name share) (if c.acked + share ≤ c.count then some c else none) := by
    have hjoin : u.joinLaunch (peerJoin s d id link name share) = some la.id := congrArg (Option.map Launch.id) hlinked
    have hopen : u.openChain (nameCore name) (nameSlot name) la.id = some c := hc
    rw [State.tryJoin, hjoin, Option.bind_some, show (peerJoin s d id link name share).name = name from rfl, hopen]
    exact if_neg (by rw [hs]; exact Bool.false_ne_true)
  refine ⟨_, (exec_joinRequest_peer hdev).trans (congrArg Host.Outcome.next htry), ?_, fun hle => ?_⟩
  · split <;> rfl
  · rw [if_pos hle]
    have hrecord := u.chainAt_updChain (nameCore name) (nameSlot name) (f := fun x => { x with
      acked := x.acked + share
      peers := if x.peers.contains d.toNat then x.peers else x.peers ++ [d.toNat] }) fun _ => ⟨rfl, rfl⟩
    have hanswer : (u.answerJoin (peerJoin s d id link name share) (some c)).chainAt (nameCore name) (nameSlot name) = some { c with
        acked := c.acked + share
        peers := if c.peers.contains d.toNat then c.peers else c.peers ++ [d.toNat] } := by
      rw [show u.chainAt (nameCore name) (nameSlot name) = some c from hat, ← hcore, ← hslot] at hrecord
      rw [← hcore, ← hslot]
      exact hrecord
    rw [hanswer, Option.map_some]
    refine congrArg (fun b => some (c.acked + share, b)) ?_
    dsimp only
    split
    · assumption
    · simp

/-- Or it parks. -/
theorem exec_joinRequest_peer_parks (hdev : nameDevice name = s.device) (hlinked : s.linked link d.toNat = some la)
    (hc : s.openChain (nameCore name) (nameSlot name) la.id = none) (hfresh : ∀ x ∈ s.joins, x.id ≠ s.nextId) :
    exec (.joinRequestArrival (.peer d (.join id link name share))) s =
      .next { s with nextId := s.nextId + 1, joins := s.joins ++ [peerJoin s d id link name share] } := by
  let u : State := { s with nextId := s.nextId + 1, joins := s.joins ++ [peerJoin s d id link name share] }
  have hjoin : u.joinLaunch (peerJoin s d id link name share) = some la.id := congrArg (Option.map Launch.id) hlinked
  have hopen : u.openChain (nameCore name) (nameSlot name) la.id = none := hc
  have hparked : updId Join.id s.nextId (fun j => { j with parked := true }) (s.joins ++ [peerJoin s d id link name share]) =
      s.joins ++ [peerJoin s d id link name share] := by
    rw [updId_eq_map, List.map_append]
    congr 1
    · exact (List.map_congr_left fun x hx => if_neg (hfresh x hx)).trans (List.map_id _)
    · exact congrArg (fun x => [x]) (if_pos rfl)
  rw [exec_joinRequest_peer hdev, State.tryJoin, hjoin, Option.bind_some, show (peerJoin s d id link name share).name = name from rfl, hopen]
  exact congrArg (fun js => Host.Outcome.next { u with joins := js }) hparked

end

/-! ### Landing (R341 to R344, R457) -/

section
variable {s : State} {name : Word} {launch gen rows cols : Nat} {vals : SMap 48}

/-- What a landing leaves as it was. -/
theorem State.landContribution_obs {β : Type} (obs : State → β)
    (hobs : ∀ (t : State) (ms : List MatEntry) (n : Nat) (cs : List Chain), obs { t with nextId := n, matrix := ms, chains := cs } = obs t)
    (s : State) (launch : Nat) (name : Word) (gen rows cols : Nat) (vals : SMap 48) : obs (s.landContribution launch name gen rows cols vals) = obs s := by
  rw [State.landContribution]
  split
  · rfl
  · split
    · rfl
    · exact (State.placeIntegrations_obs obs (fun t _ n cs => hobs t _ n cs) _ _).trans (hobs s s.matrix s.nextId _)

/-- The chain's record after a contribution has landed in it. -/
theorem State.landContribution_record {ch : Chain} (hopen : s.openChain (nameCore name) (nameSlot name) launch = some ch) (hgen : ch.gen = gen) :
    ((s.landContribution launch name gen rows cols vals).chainAt (nameCore name) (nameSlot name)).map (fun c => (c.landed, c.sums, c.stat)) =
      some ((ch.land rows cols vals).landed, (ch.land rows cols vals).sums, (ch.land rows cols vals).stat) := by
  obtain ⟨hat, -, -⟩ := State.openChain_spec hopen
  obtain ⟨hcore, hslot⟩ := State.chainAt_key hat
  rw [State.landContribution, hopen]
  dsimp only
  rw [if_neg (not_not.mpr hgen), State.chainAt_placeIntegrations (fun _ => rfl), hcore, hslot, State.chainAt_updChain _ _ _ fun c => c.land_key rows cols vals, hat]
  rfl

/-- One that finds no chain of its generation changes none. -/
theorem State.landContribution_discarded (h : ∀ ch, s.openChain (nameCore name) (nameSlot name) launch = some ch → ch.gen ≠ gen) :
    s.landContribution launch name gen rows cols vals = s := by
  rw [State.landContribution]
  split
  · rfl
  · next ch hch => exact if_pos (h ch hch)

end

section
variable {s : State} {k : Nat} {x : Contribution} {vals : SMap 48}

/-- A contribution that can be read is delivered. -/
theorem exec_contributionLanding_here (hx : findId Contribution.id k s.contributions = some x) (haway : x.away = false)
    (hvals : x.vals = some vals ∨ (x.vals = none ∧ layValid x.lay = true ∧ s.readSp x = .ok vals)) :
    exec (.contributionLanding (.here k)) s = .next (s.deliverSend x vals) := by
  have hexec : exec (.contributionLanding (.here k)) s = execContributionLanding (.here k) s := rfl
  rw [execContributionLanding, hx] at hexec
  dsimp only at hexec
  rw [if_neg (by rw [haway]; exact Bool.false_ne_true)] at hexec
  rcases hvals with hv | ⟨hv, hvalid, hread⟩
  · rw [hv] at hexec
    exact hexec
  · rw [hv] at hexec
    dsimp only at hexec
    rw [if_neg (by rw [hvalid]; decide), hread] at hexec
    exact hexec

/-- Delivered here, it is over, and nothing but its chain has changed with it. -/
theorem State.deliverSend_here (hdev : nameDevice x.name = s.device) :
    let t := s.deliverSend x vals
    t.contributions = delId Contribution.id x.id s.contributions ∧ t.mem = s.mem ∧
      t.chains = ((s.handBack x.granules).landContribution x.launch x.name x.gen x.rows x.cols vals).chains := by
  have hd : s.deliverSend x vals = ((s.handBack x.granules).landContribution x.launch x.name x.gen x.rows x.cols vals).contributionOver x := if_pos hdev
  intro t
  rw [show t = _ from hd]
  exact ⟨congrArg (delId Contribution.id x.id) ((s.handBack x.granules).landContribution_obs (·.contributions) (fun _ _ _ _ => rfl) ..),
    (s.handBack x.granules).landContribution_obs (·.mem) (fun _ _ _ _ => rfl) .., rfl⟩

/-- For a peer, it leaves. -/
theorem State.deliverSend_away (hdev : nameDevice x.name ≠ s.device) (hcut : s.peerCut (nameDevice x.name) = false) :
    let t := s.deliverSend x vals
    t.chains = s.chains ∧ t.mem = s.mem ∧ t.outbox = s.outbox ++ [(nameDevice x.name, .send x.id (s.linkOf x.launch) x.name x.gen x.rows x.cols vals)] := by
  have hd := (if_neg hdev : s.deliverSend x vals = _).trans (if_neg (by rw [show (s.handBack x.granules).peerCut (nameDevice x.name) = false from hcut]; exact Bool.false_ne_true))
  intro t
  rw [show t = _ from hd]
  exact ⟨rfl, rfl, rfl⟩

theorem contributionLanding_here (hx : findId Contribution.id k s.contributions = some x) (hid : x.id = k) (haway : x.away = false)
    (hvals : x.vals = some vals ∨ (x.vals = none ∧ layValid x.lay = true ∧ s.readSp x = .ok vals)) :
    (nameDevice x.name = s.device →
      (∀ ch, s.openChain (nameCore x.name) (nameSlot x.name) x.launch = some ch → ch.gen = x.gen →
        ∃ t : State, exec (.contributionLanding (.here k)) s = .next t ∧ t.contributions = delId Contribution.id k s.contributions ∧ t.mem = s.mem ∧
          (t.chainAt (nameCore x.name) (nameSlot x.name)).map (fun c => (c.landed, c.sums, c.stat)) =
            some ((ch.land x.rows x.cols vals).landed, (ch.land x.rows x.cols vals).sums, (ch.land x.rows x.cols vals).stat)) ∧
      ((∀ ch, s.openChain (nameCore x.name) (nameSlot x.name) x.launch = some ch → ch.gen ≠ x.gen) →
        ∃ t : State, exec (.contributionLanding (.here k)) s = .next t ∧ t.contributions = delId Contribution.id k s.contributions ∧ t.mem = s.mem ∧
          t.chains = s.chains)) ∧
    (nameDevice x.name ≠ s.device → s.peerCut (nameDevice x.name) = false →
      ∃ t : State, exec (.contributionLanding (.here k)) s = .next t ∧ t.chains = s.chains ∧ t.mem = s.mem ∧
        t.outbox = s.outbox ++ [(nameDevice x.name, .send x.id (s.linkOf x.launch) x.name x.gen x.rows x.cols vals)]) := by
  subst hid
  have hexec := exec_contributionLanding_here hx haway hvals
  refine ⟨fun hdev => ?_, fun hdev hcut => ⟨_, hexec, State.deliverSend_away hdev hcut⟩⟩
  obtain ⟨hcontributions, hmem, hchains⟩ := State.deliverSend_here (vals := vals) hdev
  refine ⟨fun ch hopen hgen => ⟨_, hexec, hcontributions, hmem, ?_⟩, fun hother => ⟨_, hexec, hcontributions, hmem, ?_⟩⟩
  · refine Eq.trans ?_ (State.landContribution_record (s := s.handBack x.granules) (rows := x.rows) (cols := x.cols) (vals := vals) hopen hgen)
    rw [State.chainAt, hchains]
    rfl
  · rw [hchains, State.landContribution_discarded (s := s.handBack x.granules) hother]
    rfl

end

/-- A contribution of a peer lands, and the peer is told. -/
theorem contributionLanding_peer {s : State} {d : BitVec 3} {id gen rows cols : Nat} {link : PeerLink} {name : Word} {vals : SMap 48} {la : Launch} {ch : Chain}
    (hdev : nameDevice name = s.device) (hlinked : s.linked link d.toNat = some la) (hopen : s.openChain (nameCore name) (nameSlot name) la.id = some ch) (hgen : ch.gen = gen) :
    ∃ t : State, exec (.contributionLanding (.peer d (.send id link name gen rows cols vals))) s = .next t ∧ t.mem = s.mem ∧
      t.outbox = s.outbox ++ [(d.toNat, .landed id)] ∧
      (t.chainAt (nameCore name) (nameSlot name)).map (fun c => (c.landed, c.sums, c.stat)) = some ((ch.land rows cols (SMap.setAll [] vals)).landed,
        (ch.land rows cols (SMap.setAll [] vals)).sums, (ch.land rows cols (SMap.setAll [] vals)).stat) := by
  have hexec : exec (.contributionLanding (.peer d (.send id link name gen rows cols vals))) s =
      .next ((s.landContribution la.id name gen rows cols (SMap.setAll [] vals)).post d.toNat (.landed id)) := by
    have hexec : exec (.contributionLanding (.peer d (.send id link name gen rows cols vals))) s =
      execContributionLanding (.peer d (.send id link name gen rows cols vals)) s := rfl
    rw [hexec, execContributionLanding, if_pos hdev, hlinked]
  exact ⟨_, hexec, s.landContribution_obs (·.mem) (fun _ _ _ _ => rfl) .., congrArg (· ++ _) (s.landContribution_obs (·.outbox) (fun _ _ _ _ => rfl) ..),
    State.landContribution_record hopen hgen⟩

/-! ### Integration (R346) -/

theorem State.endEntry_obs {β : Type} (obs : State → β) (hplace : ∀ (t : State) c, obs (t.placeIntegrations c) = obs t)
    (hobs : ∀ (t : State) counts owners ops ms, obs { t with engineCounts := counts, owners := owners, ops := ops, matrix := ms } = obs t) (s : State) (m : MatEntry) :
    obs (s.endEntry m) = obs s := by
  rw [State.endEntry]
  exact (foldl_frame obs (fun t c _ => hplace t c) _).trans (hobs s _ _ _ _)

/-- A record that closes, after a change of it. -/
theorem State.closed_record {t : State} {core slot op : Nat} {f : Chain → Chain} {c : Chain} (hf : ∀ c, (f c).core = c.core ∧ (f c).slot = c.slot)
    (hc : t.chainAt core slot = some c) : ((((t.updChain core slot f).answerOp op []).closeChain core slot).chainAt core slot).map (·.isOpen) = some false := by
  have hclosed := ((t.updChain core slot f).answerOp op []).chainAt_updChain core slot (f := Chain.closed) fun _ => ⟨rfl, rfl⟩
  have hchanged : ((t.updChain core slot f).answerOp op []).chainAt core slot = some (f c) := (t.chainAt_updChain core slot hf).trans (congrArg (Option.map f) hc)
  rw [hchanged] at hclosed
  exact congrArg (Option.map (·.isOpen)) hclosed

theorem integrationEntry_spec {s : State} {core slot : Nat} {m : MatEntry} {c : Chain} (hm : s.nextEntry core = some m) (hc : s.chainAt core slot = some c)
    (hk : m.kind = .integrate slot) (hopen : c.isOpen = true) :
    ∃ t : State, exec (.integrationEntry core slot) s = .next t ∧ t.mem = s.mem ∧ (t.chainAt core slot).map (·.isOpen) = some false ∧
      t.acc = s.acc.setAll ((sendElems c.rows c.cols).map (fun x =>
        let key := accKey m.block c.tile (c.i0 + x.getD 1 0) (c.j0 + x.getD 0 0)
        (key, BitVec.ofNat 48 (c.written (s.entryTile m).format (s.acc.get key).toNat (x.getD 1 0 * 1024 + x.getD 0 0))))) := by
  have hexec : exec (.integrationEntry core slot) s = execIntegrationEntry core slot s := rfl
  rw [execIntegrationEntry, hm, hc] at hexec
  dsimp only at hexec
  rw [if_pos (by simp [hk, hopen]), State.finishEntry, if_pos (by rw [hk]; rfl)] at hexec
  refine ⟨_, hexec, (State.endEntry_mem ..).trans rfl, ?_, ?_⟩
  · have hstat : ∀ (els : List (Nat × BitVec 48 × Nat × Bool)) (c : Chain), let r := els.foldl (fun (c : Chain) x =>
        if x.2.2.2 then { c with stat := c.stat.set x.2.2.1 (c.stat.get x.2.2.1 ||| 1) } else c) c
        r.core = c.core ∧ r.slot = c.slot := fun els c =>
      ⟨foldl_frame (fun c : Chain => c.core) (fun c x _ => by split <;> rfl) c, foldl_frame (fun c : Chain => c.slot) (fun c x _ => by split <;> rfl) c⟩
    refine (State.endEntry_obs (fun t => (t.chainAt core slot).map (·.isOpen)) (fun t k => State.chainAt_placeIntegrations (fun _ => rfl) t k core slot)
      (fun _ _ _ _ _ => rfl) _ m).trans ?_
    exact State.closed_record (hstat _) hc
  · refine (State.endEntry_obs (·.acc) (fun t k => State.placeIntegrations_obs (·.acc) (fun _ _ _ _ => rfl) t k) (fun _ _ _ _ _ => rfl) _ m).trans ?_
    refine congrArg s.acc.setAll ?_
    rw [List.map_map]
    rfl

/-! ### Suspension (R352, R353) -/

section
variable {s : State} {name : Word} {c : Chain} (hdev : nameDevice name = s.device) (hc : s.chainAt (nameCore name) (nameSlot name) = some c)
include hdev hc

/-- A suspended chain is saved once no earlier send to it is on its way. -/
theorem exec_chainSuspension_due (hopen : c.isOpen = true) (hs : c.suspended = true) (hsaved : c.saved = false) :
    (s.sendsTo c.launch name c.gen = false → (∀ d ∈ c.awaited, s.peerCut d = true) →
      exec (.chainSuspension name .due) s = .next (s.updChain (nameCore name) (nameSlot name) (fun c => { c with saved := true }))) ∧
    (s.sendsTo c.launch name c.gen = true ∨ (∃ d ∈ c.awaited, s.peerCut d = false) → exec (.chainSuspension name .due) s = .next s) := by
  have hexec : exec (.chainSuspension name .due) s = execChainSuspension name .due s := rfl
  rw [execChainSuspension, if_pos hdev, hc] at hexec
  dsimp only at hexec
  rw [if_neg (by rw [hopen, hs, hsaved]; decide)] at hexec
  refine ⟨fun hsends hawaited => ?_, fun hor => ?_⟩
  · rw [if_neg (by simpa [hsends] using hawaited)] at hexec
    exact hexec
  · rw [if_pos (by simpa using hor)] at hexec
    exact hexec

theorem chainSuspension_acknowledged (d : BitVec 3) :
    ∃ t : State, exec (.chainSuspension name (.acknowledged d c.gen)) s = .next t ∧ t.mem = s.mem ∧
      (t.chainAt (nameCore name) (nameSlot name)).map (·.awaited) = some (c.awaited.filter (fun x => x ≠ d.toNat)) := by
  have hexec : exec (.chainSuspension name (.acknowledged d c.gen)) s = execChainSuspension name (.acknowledged d c.gen) s := rfl
  rw [execChainSuspension, if_neg (not_not.mpr hdev)] at hexec
  refine ⟨_, hexec, rfl, ?_⟩
  rw [State.chainAt_updChain _ _ _ fun x => by split <;> exact ⟨rfl, rfl⟩, hc, Option.map_some, if_pos rfl]
  rfl

end

theorem chainSuspension_told {s : State} {name : Word} {d : BitVec 3} {link : PeerLink} {gen : Nat} {la : Launch} (hlinked : s.linked link d.toNat = some la)
    (hsends : s.sendsTo la.id name gen = false) :
    ∃ t : State, exec (.chainSuspension name (.told d link gen true)) s = .next t ∧ t.mem = s.mem ∧
      t.outbox = s.outbox ++ [(d.toNat, .suspended name gen)] ∧ ∀ g ∈ t.groups, g.launch = la.id → ∀ b ∈ g.bindings, b.name = name → b.gen = gen →
        b.suspended = true := by
  have hexec : exec (.chainSuspension name (.told d link gen true)) s = execChainSuspension name (.told d link gen true) s := rfl
  rw [execChainSuspension, hlinked] at hexec
  dsimp only at hexec
  rw [if_neg (by rw [show (s.markBindings la.id name gen true).sendsTo la.id name gen = false from hsends]; decide)] at hexec
  exact ⟨_, hexec, rfl, rfl, s.marks_markBindings la.id name gen true⟩

theorem State.marks_markChain (s : State) (c : Chain) (on : Bool) : (s.markChain c on).Marks c.launch (s.slotName c.core c.slot) c.gen on :=
  (s.marks_markBindings c.launch (s.slotName c.core c.slot) c.gen on).of_groups (s.markChain_groups c on)

/-- A chain becomes suspending. -/
def State.suspendChain (s : State) (c : Chain) : State :=
  (s.updChain c.core c.slot (fun c => { c with suspended := true, awaited := c.peers })).markChain c true

/-- R352: the bindings to a chain of a block that is to be saved are marked. -/
theorem State.suspendChains_marks {s : State} {c : Chain} (hc : c ∈ s.chains) (hopen : c.isOpen = true) (hs : c.suspended = false) :
    (s.suspendChains c.block).Marks c.launch (s.slotName c.core c.slot) c.gen true := by
  have hmem : c ∈ s.chains.filter (fun x => x.block = c.block && x.isOpen && !x.suspended) := List.mem_filter.mpr ⟨hc, by simp [hopen, hs]⟩
  obtain ⟨pre, post, hsplit⟩ := List.append_of_mem hmem
  have hstep : ∀ t : State, t.device = s.device → (t.suspendChain c).Marks c.launch (s.slotName c.core c.slot) c.gen true := fun t ht => by
    rw [State.slotName, ← ht]
    exact State.marks_markChain (t.updChain c.core c.slot _) c true
  have hdevice : (pre.foldl (fun (s : State) c => s.suspendChain c) s).device = s.device :=
    foldl_frame (fun t : State => t.device) (fun t x _ => (t.updChain x.core x.slot _).markChain_obs (fun t : State => t.device) (fun _ _ _ => rfl) x true) s
  have hall : ((pre ++ c :: post).foldl (fun (s : State) c => s.suspendChain c) s).Marks c.launch (s.slotName c.core c.slot) c.gen true := by
    rw [List.foldl_append, List.foldl_cons]
    exact List.foldlRecOn (motive := fun t : State => t.Marks c.launch (s.slotName c.core c.slot) c.gen true) post _ (hstep _ hdevice)
      fun t ht x _ => (State.Marks.markBindings (s := t.updChain x.core x.slot _) (ht.of_groups rfl) x.launch _ x.gen).of_groups (State.markChain_groups _ x true)
  rw [← hsplit] at hall
  exact hall

/-- Settles O27: by what arrives, and where. -/
theorem chainEvents : Obligations.ChainEvents := by
  refine ⟨fun s k j hj hid => ⟨fun hdev la hla => exec_joinRequest_here hj hid hdev hla, fun hdev => (exec_joinRequest_away hj hdev).1, fun hdev => (exec_joinRequest_away hj hdev).2,
      fun d c hpeer hdev => exec_joinRequest_answered hj hpeer hdev⟩,
    fun s d id link name share la hdev hlinked => ⟨fun c hc hs => exec_joinRequest_peer_open hdev hlinked hc hs, exec_joinRequest_peer_parks hdev hlinked⟩,
    fun s k x vals hx hid haway hvals => contributionLanding_here hx hid haway hvals,
    fun s d id link name gen rows cols vals la ch hdev hlinked hopen hgen => contributionLanding_peer hdev hlinked hopen hgen,
    fun s core slot m c hm hc hk hopen => integrationEntry_spec hm hc hk hopen,
    fun s name c hdev hc hopen hs hsaved => exec_chainSuspension_due hdev hc hopen hs hsaved, fun s name d gen c hdev hc hgen => ?_,
    fun s name d link gen la hlinked hsends => chainSuspension_told hlinked hsends, fun s block c hc hblock hopen hs => ?_⟩
  · subst hgen
    exact chainSuspension_acknowledged hdev hc d
  · subst hblock
    exact State.suspendChains_marks hc hopen hs

end Sys2Proof.Machine
end

section
namespace Sys2Proof.Machine

/-! ### The batcher's instructions (R371 to R376) -/

section
variable {f : Form} {s : State} {e : Env}

theorem State.writeRegs_streams (s : State) (gid : Nat) (ws : List (Nat × RegRef × Word)) : (s.writeRegs gid ws).streams = s.streams := by
  rw [State.writeRegs_eq]

theorem exec_batOpen (h : Runs .batOpen f (noRuns f) s e) :
    let d := (s.lowSrc e f.a).toNat
    let lv := e.rcd.level (e.g.level + 1)
    e.g.level < 7 → lv.present = true → lv.gen = 4 → bitsOf d 31 12 = 0 → bitsOf d 3 2 = 0 →
    let free := (s.stream? e.g.core).isNone
    let told := giveAll s e f [if free then 1 else 0]
    let new : Stream := { core := e.g.core, launch := e.la.id, block := e.b.id, level := e.g.level, depth := bitsOf d 11 4 + 1, bodies := bitsOf d 1 0 + 1
                          closed := false, closeOp := none, seq := 0, formed := 0, window := [], pushes := [], batches := [] }
    exec (.batOpen f) s = .next ((if free then { told with streams := s.streams ++ [new] } else told).retire e .batOpen f) := by
  intro d lv hlevel hpresent hgen hhigh hlow free told new
  refine h.answers (ownForm_of_good ?_) ?_
  · rw [show (e.rcd.level (e.g.level + 1)).present = true from hpresent, show (e.rcd.level (e.g.level + 1)).gen = 4 from hgen, decide_eq_false (Nat.not_le.mpr hlevel)]
    rfl
  · dsimp only
    rw [if_neg (by rw [show bitsOf (s.lowSrc e f.a).toNat 31 12 = 0 from hhigh, show bitsOf (s.lowSrc e f.a).toNat 3 2 = 0 from hlow]; decide)]
    have hstreams : told.streams = s.streams := s.writeRegs_streams ..
    by_cases hf : free = true
    · rw [if_pos hf, if_pos hf, ← hstreams]
      rfl
    · rw [if_neg hf, if_neg hf]
      rfl

/-- The key is the first word of a constraint, and its bodies are the others. -/
theorem pushWords_eq (s : State) (e : Env) (f : Form) (c : Nat × Lane) (n : Nat) :
    pushWords s e f c n = s.srcAt e .int c.1 c.2 0 f.a :: (List.range n).map (fun k => s.srcAt e .int c.1 c.2 (k + 1) f.a) := by
  rw [pushWords, Nat.add_comm, List.range_succ_eq_map, List.map_cons, List.map_map]
  rfl

theorem State.readHeld_ops (s : State) (n : Nat) (ops : List LongOp) (r : LaunchRec) (x : Elem) (i k : Nat) :
    ({ s with nextId := n, ops := ops } : State).readHeld r x i k = s.readHeld r x i k := by
  unfold State.readHeld
  rfl

/-- What issues changes no operand. -/
theorem State.srcAt_ops (s : State) (n : Nat) (ops : List LongOp) (e : Env) (v : View) (l : Nat) (ln : Lane) (k : Nat) (o : Opnd) :
    ({ s with nextId := n, ops := ops } : State).srcAt e v l ln k o = s.srcAt e v l ln k o := by
  cases o with
  | h i =>
    show State.held _ e ln i.toNat k = s.held e ln i.toNat k
    rw [State.held]
    simp only [State.readHeld_ops]
    rfl
  | sr i =>
    show State.special _ e.g l ln i.toNat = s.special e.g l ln i.toNat
    rfl
  | _ => rfl

theorem State.addOp_srcAt (s : State) (e : Env) (f : Form) (fate : Fate) (lane : Nat → Lane → Cond × List (RegRef × Word)) (v : View) (l : Nat) (ln : Lane) (k : Nat)
    (o : Opnd) : (s.addOp e f fate lane).2.srcAt e v l ln k o = s.srcAt e v l ln k o := s.srcAt_ops _ _ e v l ln k o

theorem exec_batPush {t : Stream} (h : Runs .batPush f (noRuns f) s e) (ht : s.ownStream e = some t) (hopen : t.closed = false) (hrun : pushRunFault e f t.bodies = none) :
    let made := s.addOp e f .saved (fun _ _ => (.engine, []))
    let ps := e.lanes.map (fun c =>
      ({ op := made.1, lane := c.1, key := (pushWords s e f c t.bodies).headD 0, bodies := (pushWords s e f c t.bodies).tail
         pusher := c.2.elem, claims := made.2.claimsOf [c.2.elem] } : Push))
    exec (.batPush f) s = .next ((State.feed t.core ps.length
      ((made.2.addClaims (ps.flatMap (·.claims))).updStream t.core (fun t => { t with pushes := t.pushes ++ ps }))).retire e .batPush f) := by
  intro made ps
  refine h.answers rfl ?_
  have hps : e.lanes.map (fun c =>
      ({ op := made.1, lane := c.1, key := State.srcAt made.2 e .int c.1 c.2 0 f.a
         bodies := (List.range t.bodies).map (fun k => State.srcAt made.2 e .int c.1 c.2 (k + 1) f.a)
         pusher := c.2.elem, claims := made.2.claimsOf [c.2.elem] } : Push)) = ps :=
    List.map_congr_left fun c _ => by
      simp only [made, State.addOp_srcAt, pushWords_eq, List.headD_cons, List.tail_cons]
  rw [← hps]
  dsimp only
  rw [ht]
  dsimp only
  rw [hrun]
  dsimp only
  rw [if_neg (by rw [hopen]; exact Bool.false_ne_true)]

theorem exec_batClose {t : Stream} (h : Runs .batClose f (noRuns f) s e) (ht : s.ownStream e = some t) (hopen : t.closed = false) :
    let made := s.addOp e f .saved (fun _ _ => (.engine, []))
    exec (.batClose f) s = .next (((made.2.updStream t.core (fun t => { t with closed := true, closeOp := some made.1 })).endStream t.core).retire e .batClose f) := by
  refine h.answers rfl ?_
  dsimp only
  rw [ht]
  exact if_neg (by rw [hopen]; exact Bool.false_ne_true)

end

/-- Settles O28: what each body answers. -/
theorem batcherInstructions : Obligations.BatcherInstructions :=
  ⟨fun _ _ _ h => exec_batOpen h, fun _ _ _ _ h ht hopen hrun => exec_batPush h ht hopen hrun, fun _ _ _ _ h ht hopen => exec_batClose h ht hopen,
    Does.of_run (fun _ _ => rfl) fun _ _ _ _ hgen => if_neg (not_not.mpr hgen), Does.of_run (fun _ _ => rfl) fun _ _ _ _ _ => rfl⟩

/-! ### Batches (R362 to R367) -/

theorem exec_batchFormation {s : State} {core : Nat} {t : Stream} {la : Launch} {bk : Block} (ht : s.stream? core = some t) (hla : s.launch? t.launch = some la)
    (hbk : s.block? t.block = some bk) (hst : bk.st = .admitted) (hpre : bk.preemptAt = none) (hdue : t.due = true) :
    let cut := cutBatch (la.rcd.level (t.level + 1)).width [] [] t.window
    t.claimCount + (cut.1.map (·.bodySet.length)).sum ≤ Config.claimTable →
    let made := s.createElems t.launch (t.level + 1) (cut.1.map (·.birth))
    let placed := (made.2.passClaims (cut.1.flatMap (·.claims))).placeElems made.1 t.block
    let b : Batch := { num := t.formed, members := cut.1, elems := made.1, claims := cut.1.map (fun _ => .held), group := none, ended := false }
    exec (.batchFormation core) s = .next (State.feed core t.pushes.length (placed.updStream core (fun t =>
      { t with window := cut.2, formed := t.formed + 1, batches := t.batches ++ [b] }))) := by
  intro cut hroom made placed b
  have hruns : s.streamRuns t = true := by simp [State.streamRuns, hbk, hst, hpre]
  show execBatchFormation core s = _
  rw [execBatchFormation, ht]
  dsimp only
  rw [hla]
  exact if_neg (by rw [hruns, hdue, decide_eq_false (Nat.not_lt.mpr hroom)]; decide)

theorem exec_batchAdmission {s : State} {core n p : Nat} {t : Stream} {la : Launch} {bk : Block} {b : Batch} (ht : s.stream? core = some t) (hla : s.launch? t.launch = some la)
    (hbk : s.block? t.block = some bk) (hb : t.batches.find? (fun b => b.num = n) = some b) (hp : s.batchPlace t b = some p)
    (hfirst : ∀ x ∈ t.batches, x.num < n → s.batchPlace t x = none) :
    exec (.batchAdmission core n) s = .next ((s.newGroup la { bk with level := t.level + 1 } n 3 b.elems core p (la.rcd.entryOf (t.level + 1) 3)).updStream
      core (fun t => { t with batches := t.batches.map (fun x => if x.num = n then { x with group := some s.nextId } else x) })) := by
  have hnone : ¬ t.batches.any (fun x => x.num < n && (s.batchPlace t x).isSome) = true := by
    simp only [List.any_eq_true, Bool.and_eq_true, decide_eq_true_eq, not_exists, not_and]
    exact fun x hx hlt => by simp [hfirst x hx hlt]
  show execBatchAdmission core n s = _
  rw [execBatchAdmission, ht]
  dsimp only
  rw [hb, hla, hbk]
  dsimp only
  rw [if_neg hnone, hp]

/-- Settles O29: a batch forms, is admitted, and lets claims end. -/
theorem batchEvents : Obligations.BatchEvents :=
  ⟨fun _ _ _ _ _ ht hla hbk hst hpre hdue => exec_batchFormation ht hla hbk hst hpre hdue,
    fun _ _ _ _ _ _ _ _ ht hla hbk hb hp hfirst => exec_batchAdmission ht hla hbk hb hp hfirst, fun _ _ _ _ => rfl⟩

end Sys2Proof.Machine
end

section
namespace Sys2Proof.Machine

/-! ### Sorting -/

theorem insertBy_perm {α : Type} (lt : α → α → Bool) (x : α) (l : List α) : (insertBy lt x l).Perm (x :: l) := by
  induction l with
  | nil => exact List.Perm.refl _
  | cons y l ih =>
    rw [insertBy]
    split
    · exact List.Perm.refl _
    · exact (ih.cons y).trans (List.Perm.swap x y l)

/-- Sorting permutes. -/
theorem sortBy_perm {α : Type} (lt : α → α → Bool) (l : List α) : (sortBy lt l).Perm l := by
  have hfold : ∀ (l acc : List α), (l.foldl (fun acc x => insertBy lt x acc) acc).Perm (l ++ acc) := fun l => by
    induction l with
    | nil => exact fun acc => List.Perm.refl _
    | cons x l ih => exact fun acc => (ih _).trans (((insertBy_perm lt x acc).append_left l).trans List.perm_middle)
  simpa [sortBy] using hfold l []

/-! ### What creation leaves as it was (R146, R170) -/

section
variable {β : Type} (obs : State → β) (hobs : ∀ (t : State) n es ss bs, obs { t with nextId := n, elems := es, slots := ss, blocks := bs } = obs t)
include hobs

theorem State.addClaims_obs (s : State) (hs : List Nat) : obs (s.addClaims hs) = obs s :=
  foldl_frame obs (fun t _ _ => hobs t t.nextId t.elems _ t.blocks) s

theorem State.createElem_obs (s : State) (launch level : Nat) (b : Birth) : obs (s.createElem launch level b).2 = obs s :=
  (hobs _ _ _ _ _).trans ((State.addClaims_obs obs hobs _ _).trans (hobs s _ s.elems s.slots s.blocks))

theorem State.createElems_obs (bs : List Birth) (s : State) (launch level : Nat) : obs (s.createElems launch level bs).2 = obs s := by
  induction bs generalizing s with
  | nil => rfl
  | cons b bs ih => exact (ih _).trans (State.createElem_obs obs hobs s launch level b)

theorem State.newBlock_obs (s : State) (la : Launch) (level : Nat) (gs : List (List Nat)) (bound : Option Nat) : obs (s.newBlock la level gs bound) = obs s :=
  hobs s _ _ s.slots _

theorem State.newBlocks_obs (s : State) (la : Launch) (level : Nat) (ids : List Nat) (bound : Option Nat) : obs (s.newBlocks la level ids bound) = obs s := by
  rw [State.newBlocks]
  split
  · rfl
  · split
    · exact foldl_frame obs (fun t _ _ => State.newBlock_obs obs hobs t la level _ _) s
    · exact State.newBlock_obs obs hobs s la level _ _

theorem State.rasterBlocks_obs (s : State) (la : Launch) (level : Nat) (ids : List Nat) (core : Nat) : obs (s.rasterBlocks la level ids core) = obs s :=
  foldl_frame obs (fun t _ _ => State.newBlocks_obs obs hobs t la level _ _) s

theorem State.resolveOne_obs (hlaunch : ∀ (t : State) ls, obs { t with launches := ls } = obs t) (s : State) (launch frame : Nat) (ps : List Prim) (n : Nat) :
    obs (s.resolveOne launch frame ps n) = obs s := by
  rw [State.resolveOne]
  split
  · rfl
  · dsimp only
    rw [State.rasterBlocks_obs obs hobs, State.rasterBlocks_obs obs hobs, State.createElems_obs obs hobs, State.createElems_obs obs hobs]
    exact hlaunch s _

theorem State.endClaims_obs (hending : ∀ (t : State) es, obs { t with endings := es } = obs t) (s : State) (hs : List Nat) : obs (s.endClaims hs) = obs s := by
  refine foldl_frame obs (fun t h _ => ?_) s
  rw [State.endClaim]
  split
  · rfl
  · split
    · exact (hending _ _).trans (hobs t _ t.elems t.slots t.blocks)
    · exact hobs t t.nextId t.elems _ t.blocks

end

/-! ### Draws (R382 to R389) -/

section
variable {f : Form} {s : State} {e : Env}

/-- The primitive of a lane; `v` is the state in which its vertices, claims and id are read. -/
def State.newPrim (s v : State) (e : Env) (f : Form) (op : Nat) (c : Nat × Lane) : Prim :=
  let vs := (vertIdx s e f c).map (fun i => ((v.childAt c.2.elem (e.rcd.rasterLevel - 1) i).map (·.id)).getD 0)
  { id := s.nextId + 1 + (e.lanes.map (·.1)).idxOf c.1, launch := e.la.id, op, lane := c.1, emitter := c.2.elem, verts := vs
    primId := v.src e .int c.1 c.2 f.b, cull := f.mod.toNat, reg := heldIndex f.c, claims := dedup (vs ++ v.claimsOf vs), binned := false, resolved := false
    pts := [], zs := [], ws := [] }

theorem State.newPrim_ops (s : State) (n : Nat) (ops : List LongOp) (e : Env) (f : Form) (op : Nat) :
    s.newPrim { s with nextId := n, ops := ops } e f op = s.newPrim s e f op := by
  funext c
  rw [State.newPrim, State.src, State.srcAt_ops]
  rfl

/-- The state that PRIM.EMIT leaves. -/
def State.primsEmitted (s : State) (e : Env) (f : Form) : State :=
  let made := s.addOp e f .held (fun l _ => (.prim (s.nextId + 1 + (e.lanes.map (·.1)).idxOf l), []))
  let ps := e.lanes.map (s.newPrim s e f made.1)
  { ({ made.2 with nextId := made.2.nextId + e.lanes.length } : State).addClaims (ps.flatMap (·.claims)) with prims := s.prims ++ ps }

theorem exec_primEmit (h : Runs .primEmit f (noRuns f) s e) (hdraw : e.rcd.draw.present = true) (hlevel : e.g.level + 2 = e.rcd.rasterLevel)
    (hreg : heldIndex f.c ≤ 60) (hheld : heldIndex f.c + 3 < (e.rcd.level (e.rcd.rasterLevel - 1)).held)
    (hverts : ∀ c ∈ e.lanes, ∀ i ∈ vertIdx s e f c, i < (s.laneElem c.2).elim 0 (·.emitted))
    (hroom : (s.prims.filter (fun p => p.launch = e.la.id)).length + e.lanes.length ≤ e.rcd.draw.capacity) :
    exec (.primEmit f) s = .next ((s.primsEmitted e f).retire e .primEmit f) := by
  refine h.answers ?_ ?_
  · rw [primForm]
    rw [if_neg (by simp [hdraw, hlevel]), if_neg (by simp; omega)]
  · dsimp only
    rw [List.filterMap_eq_nil_iff.mpr ?bad]
    case bad =>
      rintro ⟨c, n⟩ hc
      obtain ⟨-, hn, hcn⟩ := List.mem_zipIdx hc
      have hmem : c ∈ e.lanes := hcn ▸ List.getElem_mem _
      have hnone : ((List.range 3).map (fun i => (s.srcAt e .int c.1 c.2 i f.a).toNat)).find? (fun i => decide ((s.laneElem c.2).elim 0 (·.emitted) ≤ i)) = none :=
        List.find?_eq_none.mpr fun i hi => by simpa using hverts c hmem i hi
      dsimp only
      rw [hnone]
      exact if_neg (by omega)
    dsimp only
    show Res.ok (let made := s.addOp e f .held (fun l _ => (.prim (s.nextId + 1 + (e.lanes.map (·.1)).idxOf l), []))
      let v : State := { made.2 with nextId := made.2.nextId + e.lanes.length }
      let ps := e.lanes.map (s.newPrim v e f made.1)
      { v.addClaims (ps.flatMap (·.claims)) with prims := v.prims ++ ps }) = _
    dsimp only [State.primsEmitted]
    rw [State.addOp_eq, State.newPrim_ops]

theorem State.primsEmitted_spec (s : State) (e : Env) (f : Form) :
    let t := s.primsEmitted e f
    ∃ (ps : List Prim) (o : LongOp), t.prims = s.prims ++ ps ∧
      t.ops = s.ops ++ [o] ∧ t.mem = s.mem ∧ ps.map (·.lane) = e.lanes.map (·.1) ∧ o.lanes.map (fun l => (l.lane, l.cond)) = ps.map (fun p => (p.lane, .prim p.id)) ∧
      ps.map (fun p => (p.emitter, p.primId)) = e.lanes.map (fun c => (c.2.elem, s.src e .int c.1 c.2 f.b)) ∧
      ∀ p ∈ ps, p.op = o.id ∧ p.launch = e.la.id ∧ p.cull = f.mod.toNat ∧ p.reg = heldIndex f.c ∧ p.binned = false ∧ p.verts.length = 3 := by
  refine ⟨_, _, rfl, State.addClaims_obs (·.ops) (fun _ _ _ _ _ => rfl) _ _, State.addClaims_obs (·.mem) (fun _ _ _ _ _ => rfl) _ _, ?_, ?_, ?_, fun p hp => ?_⟩
  · rw [List.map_map]
    rfl
  · rw [List.map_map, List.map_map]
    rfl
  · rw [List.map_map]
    rfl
  · obtain ⟨c, -, rfl⟩ := List.mem_map.mp hp
    exact ⟨rfl, rfl, rfl, rfl, rfl, rfl⟩

end

theorem exec_primitiveBinning {s : State} {k : Nat} {p : Prim} {la : Launch} (hp : findId Prim.id k s.prims = some p) (hla : s.launch? p.launch = some la)
    (hbinned : p.binned = false) (hverts : ∀ v ∈ p.verts, ∃ e, s.elem? v = some e ∧ e.st = .finished) :
    exec (.primitiveBinning k) s = .next (match s.binned la.rcd.draw p with
      | some q => { s.readyLane p.op p.lane [] with prims := updId Prim.id k (fun _ => q) s.prims }
      | none => ({ s.readyLane p.op p.lane [] with prims := delId Prim.id k s.prims }.endClaims p.claims).freeSlots) := by
  have hexec : exec (.primitiveBinning k) s = execPrimitiveBinning k s := rfl
  rw [execPrimitiveBinning, hp] at hexec
  dsimp only at hexec
  rw [hla] at hexec
  dsimp only at hexec
  rw [hbinned, Bool.false_or, List.all_eq_true.mpr ?done, if_neg (by decide)] at hexec
  case done =>
    intro v hv
    obtain ⟨x, hx, hst⟩ := hverts v hv
    rw [hx]
    exact decide_eq_true hst
  rw [hexec]
  cases s.binned la.rcd.draw p <;> rfl

theorem State.launch?_updLaunch {s : State} {k : Nat} {f : Launch → Launch} {la : Launch} (hf : ∀ x, (f x).id = x.id) (h : (s.updLaunch k f).launch? k = some la) :
    ∃ x, s.launch? k = some x ∧ f x = la :=
  Option.map_eq_some_iff.mp ((findId_updId_self Launch.id f hf s.launches).symm.trans h)

theorem passResolution_spec {s : State} {launch pass : Nat} {la : Launch} {p : Elem} (hla : s.launch? launch = some la) (hp : s.elem? pass = some p)
    (hdraw : la.rcd.draw.present = true) (hst : la.st = .running) (hlaunch : p.launch = launch) (hready : s.passReady la p = true) :
    ∃ t : State, exec (.passResolution launch pass) s = .next t ∧ t.mem = s.mem ∧
      (∀ la', t.launch? launch = some la' → pass ∈ la'.passes) ∧ ∀ q ∈ t.prims, q ∈ s.prims ∧ q.id ∉ (s.passPrims la pass).map (·.id) := by
  have hexec : exec (.passResolution launch pass) s = execPassResolution launch pass s := rfl
  rw [execPassResolution, hla, hp] at hexec
  dsimp only at hexec
  rw [if_neg (by simp [hdraw, hst, hlaunch, hready])] at hexec
  refine ⟨_, hexec, ?_, fun la' hla' => ?_, fun q hq => ?_⟩
  · refine (State.endClaims_obs (·.mem) (fun _ _ _ _ _ => rfl) (fun _ _ => rfl) _ _).trans ?_
    exact foldl_frame (fun t : State => t.mem) (fun t n _ => State.resolveOne_mem t launch _ _ n) s
  · obtain ⟨la0, -, rfl⟩ := State.launch?_updLaunch (by exact fun _ => rfl) hla'
    exact List.mem_append_right _ (List.mem_singleton_self pass)
  · have hfold : ∀ ns : List Nat, (ns.foldl (fun (t : State) n => t.resolveOne launch (((s.ancestor p 0).map (·.id)).getD 0) (sortBy s.primBefore (s.passPrims la pass)) n) s).prims =
        s.prims := fun ns => foldl_frame (fun t : State => t.prims) (fun t n _ => State.resolveOne_obs (·.prims) (fun _ _ _ _ _ => rfl) (fun _ _ => rfl) t launch _ _ n) s
    have hclaims : ∀ (u : State) (keep : Prim → Bool) (cs : List Nat), q ∈ (State.endClaims { u with prims := u.prims.filter keep } cs).prims → q ∈ u.prims.filter keep :=
      fun u keep cs h => by rwa [State.endClaims_obs (·.prims) (fun _ _ _ _ _ => rfl) (fun _ _ => rfl)] at h
    have hq' := hclaims _ _ _ hq
    rw [hfold] at hq'
    obtain ⟨hmem, hgone⟩ := List.mem_filter.mp hq'
    refine ⟨hmem, fun hid => ?_⟩
    have hsorted := (((sortBy_perm s.primBefore (s.passPrims la pass)).map (·.id)).mem_iff).mpr hid
    rw [List.contains_iff_mem.mpr hsorted] at hgone
    exact Bool.false_ne_true hgone

/-- Settles O30: a primitive comes, is binned, and goes with its pass. -/
theorem drawsComplete : Obligations.DrawsComplete := by
  refine ⟨fun f s e h hdraw hlevel hreg hheld hverts hroom => ?_, fun s k p la hp hla hb hv => exec_primitiveBinning hp hla hb hv,
    fun s launch pass la p hla hp hdraw hst hl hready => passResolution_spec hla hp hdraw hst hl hready⟩
  obtain ⟨ps, o, hspec⟩ := s.primsEmitted_spec e f
  exact ⟨_, ps, o, exec_primEmit h hdraw hlevel hreg hheld hverts hroom, hspec⟩

end Sys2Proof.Machine
end

section
namespace Sys2Proof.Machine

/-! ### Textures (R402, R403) -/

theorem Env.where_eq_zero {e : Env} {p : Nat → Lane → Bool} (h : ∀ c ∈ e.lanes, p c.1 c.2 = false) : e.where_ p = 0 := by
  rw [Env.where_, List.filter_eq_nil_iff.mpr fun c hc => by simp [h c hc]]
  rfl

theorem laneForm_of_good {bad : Env → Nat → Lane → Bool} {e : Env} (h : ∀ c ∈ e.lanes, bad e c.1 c.2 = false) : laneForm bad e = none :=
  if_pos (Env.where_eq_zero h)

/-- The reads of a lane, each with its weight. -/
def laneTaps (s : State) (e : Env) (f : Form) (taps : Env → Word → Nat → Lane → Except Word (List Tap)) (l : Nat) (ln : Lane) : List (Nat × Chk) :=
  match taps e (s.src e .int l ln f.b) l ln with
  | .error _ => []
  | .ok ts => tapChecks s e (layC f) ts

/-- What a lane's handle and coordinates raise. -/
def tapShape (e : Env) (f : Form) (sampler : Word) (found : Except Word (List Tap)) : Chk :=
  match handleFault e.layout (layC f) (samplerLevels sampler) with
  | some (cause, w) => .bad cause w
  | none => match found with
    | .error w => .bad Cause.bounds w
    | .ok _ => .skip

/-- A texture instruction gives its samples, where each lane's sampler, handle and texels pass. -/
theorem samples_of_sampleOp {op : Op} {taps : Form → State → Env → Word → Nat → Lane → Except Word (List Tap)}
    (hexec : ∀ f s, exec (op.instr f) s = sampleOp op f s (taps f s)) : samples op taps := by
  refine Does.of_body hexec (fun f s e _ hc => laneForm_of_good fun c hc' => ?_) fun f s e _ hc => ?_
  · rw [(hc c hc').1]
    simp
  · have htexels : ∀ l ln, texels s e f (taps f s) l ln = (laneTaps s e f (taps f s) l ln).map (fun t => (t.1, s.chkLoad t.2)) := fun l ln => by
      rw [texels, laneTaps]
      cases taps f s e (s.src e .int l ln f.b) l ln with
      | error w => rfl
      | ok ts =>
        dsimp only [tapChecks]
        rw [List.map_map]
        rfl
    have hshape : allGood (e.lanes.map (fun c => (c.1, layC f, tapShape e f (s.src e .int c.1 c.2 f.b) (taps f s e (s.src e .int c.1 c.2 f.b) c.1 c.2)))) := fun x hx => by
      obtain ⟨c, hc', rfl⟩ := List.mem_map.mp hx
      obtain ⟨-, hhandle, ts, hts, -⟩ := hc c hc'
      dsimp only
      rw [hts, tapShape.eq_def, hhandle]
      rfl
    have hreads : allGood (e.lanes.flatMap (fun c => (laneTaps s e f (taps f s) c.1 c.2).map (fun t => (c.1, layC f, t.2)))) := fun x hx => by
      obtain ⟨c, hc', hx⟩ := List.mem_flatMap.mp hx
      obtain ⟨-, -, ts, hts, hgood⟩ := hc c hc'
      rw [laneTaps, hts] at hx
      obtain ⟨y, hy, rfl⟩ := List.mem_map.mp hx
      obtain ⟨t, ht, rfl⟩ := List.mem_map.mp hy
      exact hgood t ht
    simp only [htexels]
    rw [verdict_of_allGood ?shape]
    case shape => exact hshape
    dsimp only
    rw [State.allOrNothing_of_allGood ?reads]
    case reads => exact hreads
    rfl

/-- Settles O32: the three instructions differ in the texels that they take. -/
theorem textureSamples : Obligations.TextureSamples :=
  ⟨samples_of_sampleOp fun _ _ => rfl, samples_of_sampleOp fun _ _ => rfl, samples_of_sampleOp fun _ _ => rfl⟩

end Sys2Proof.Machine
end

section
namespace Sys2Proof.Machine

/-! ### TRACE (R395, R399) -/

theorem map_filterMap_eq {α β γ : Type} {l : List α} {ray : α → Option β} {p : α → Bool} {g : β → γ} {h : α → γ}
    (hsome : ∀ c ∈ l, p c = true → ∃ r, ray c = some r ∧ g r = h c) (hnone : ∀ c ∈ l, p c = false → ray c = none) :
    (l.filterMap ray).map g = (l.filter p).map h := by
  induction l with
  | nil => rfl
  | cons c l ih =>
    have ih' := ih (fun x hx => hsome x (List.mem_cons_of_mem _ hx)) (fun x hx => hnone x (List.mem_cons_of_mem _ hx))
    cases hp : p c with
    | true =>
      obtain ⟨r, hr, hg⟩ := hsome c List.mem_cons_self hp
      rw [List.filterMap_cons_some hr, List.filter_cons_of_pos hp, List.map_cons, List.map_cons, hg, ih']
    | false => rw [List.filterMap_cons_none (hnone c List.mem_cons_self hp), List.filter_cons_of_neg (by rw [hp]; exact Bool.false_ne_true), ih']

section
variable (s : State) (e : Env) (f : Form)

/-- Does a lane's ray stay within depth 8 (R399)? -/
def State.rayGoes (same : Bool) (ln : Lane) : Bool := (s.laneElem ln).elim false (fun el => decide (childDepth same el ≤ 8))

/-- The ray of a lane. -/
def State.rayOf (same : Bool) (op : Nat) (c : Nat × Lane) : Option Ray :=
  match s.laneElem c.2 with
  | none => none
  | some el =>
    if childDepth same el > 8 then none
    else some { op, lane := c.1, elem := el.id, bvh := e.layout (layC f), entry := layC f, first := f.mod = 1
                inputs := (List.range 10).map (fun i => s.srcAt e .fp c.1 c.2 i f.a)
                payload := (List.range 4).map (fun i => s.srcAt e .int c.1 c.2 i f.b)
                idx := BitVec.ofNat 32 (el.spawned same), depth := childDepth same el, claims := s.claimsOf [el.id], result := none }

/-- The state in which TRACE has issued, before its rays count. -/
def State.traceIssued (same : Bool) : Nat × State :=
  let made := (s.writeRegs e.gid (e.writes f (fun _ ln => .pred (s.rayGoes same ln)))).addOp e f .held (fun _ ln => (if s.rayGoes same ln then .trace else .ready, []))
  (made.1, (made.2.updOp made.1 (fun o => { o with run := Opnd.first f.b, dst := none })).doneAtIssue e f made.1 (e.where_ (fun _ ln => !s.rayGoes same ln)))

/-- Rays claim what their elements will, and count as spawned (R148, R170). -/
def State.countRays (s : State) (same : Bool) (rays : List Ray) : State :=
  rays.foldl (fun (s : State) r => (s.addClaims r.claims).updElem r.elem (·.countSpawn same)) s

/-- The state that TRACE leaves. -/
def State.traced (same : Bool) : State :=
  let issued := s.traceIssued e f same
  let rays := e.lanes.filterMap (s.rayOf e f same issued.1)
  let t := issued.2.countRays same rays
  if rays.isEmpty then t else { t with raySets := t.raySets ++ [{ op := issued.1, group := e.gid, lanes := e.r.lanes, same, rays }] }

end

section
variable {s : State} {e : Env} {f : Form} {same : Bool}

theorem exec_trace (h : Runs .trace f (noRuns f) s e) {n : Nat} (hsame : same = decide ((e.rcd.level e.g.level).gen = 3))
    (hn : n = if same then e.g.level else e.g.level + 1) (hlt : n < 8) (hpresent : (e.rcd.level n).present = true) (hgen : (e.rcd.level n).gen = 3)
    (hbvh : bvhFault (e.layout (layC f)) (layC f) = none) : exec (.trace f) s = .next ((s.traced e f same).retire e .trace f) := by
  subst hsame
  refine h.answers (ownForm_of_good ?_) ?_
  · have hlevel : (if (e.rcd.level e.g.level).gen = 3 then e.g.level else e.g.level + 1) = n := by rw [hn]; simp only [decide_eq_true_eq]
    rw [hlevel, Env.notSpawned, hpresent, hgen, decide_eq_false (Nat.not_le.mpr hlt)]
    rfl
  · dsimp only
    rw [hbvh]
    rfl

/-- What the rays' counting leaves as it was. -/
theorem State.countRays_obs {β : Type} (obs : State → β) (hobs : ∀ (t : State) n es ss bs, obs { t with nextId := n, elems := es, slots := ss, blocks := bs } = obs t)
    (t : State) (same : Bool) (rays : List Ray) : obs (t.countRays same rays) = obs t :=
  foldl_frame obs (fun t r _ => (hobs (t.addClaims r.claims) _ _ _ _).trans (State.addClaims_obs obs hobs t r.claims)) t

theorem State.traced_obs {β : Type} (obs : State → β) (hobs : ∀ (t : State) n es ss bs, obs { t with nextId := n, elems := es, slots := ss, blocks := bs } = obs t)
    (hrays : ∀ (t : State) rs, obs { t with raySets := rs } = obs t) : obs (s.traced e f same) = obs (s.traceIssued e f same).2 := by
  rw [State.traced]
  split
  · exact State.countRays_obs obs hobs _ _ _
  · exact (hrays _ _).trans (State.countRays_obs obs hobs _ _ _)

/-- The instruction that stays, for the lanes whose rays go. -/
def State.traceOp (s : State) (e : Env) (f : Form) (same : Bool) : LongOp :=
  { id := s.nextId, group := e.gid, flag := e.r.flagOf f.fsel
    lanes := (e.lanes.map (fun c => ({ lane := c.1, cond := if s.rayGoes same c.2 then .trace else .ready, writes := [] } : OpLane))).filter
      (fun l => !(e.where_ (fun _ ln => !s.rayGoes same ln)).getLsbD l.lane)
    fate := .held, run := Opnd.first f.b, dst := none, pdst := none, kept := false }

theorem State.traceIssued_ops : (s.traceIssued e f same).1 = s.nextId ∧
    ((s.traceOp e f same).lanes ≠ [] → (s.traceIssued e f same).2.ops.getLast? = some (s.traceOp e f same)) := by
  have hlast : ∀ (l : List LongOp) (x : LongOp) (u v : LongOp → LongOp), x.id = s.nextId → (u x).id = s.nextId → v (u x) = s.traceOp e f same → (s.traceOp e f same).lanes ≠ [] →
      ((updId LongOp.id s.nextId v (updId LongOp.id s.nextId u (l ++ [x]))).filter (fun o => decide (o.id ≠ s.nextId) || !o.lanes.isEmpty)).getLast? =
        some (s.traceOp e f same) := fun l x u v hx hu hv hne => by
    rw [updId_eq_map, updId_eq_map, List.map_append, List.map_append, List.filter_append, List.map_singleton, List.map_singleton, if_pos hx, if_pos hu, hv,
      List.filter_cons_of_pos (by simp [hne]), List.filter_nil, List.getLast?_concat]
  rw [State.traceIssued, State.writeRegs_eq]
  exact ⟨rfl, fun hne => hlast _ _ _ _ rfl rfl rfl hne⟩

theorem State.traceOp_lanes : (s.traceOp e f same).lanes.map (fun l => (l.lane, l.cond)) = (e.lanes.filter (fun c => s.rayGoes same c.2)).map (fun c => (c.1, .trace)) := by
  have hdone : ∀ c ∈ e.lanes, (e.where_ (fun _ ln => !s.rayGoes same ln)).getLsbD c.1 = !s.rayGoes same c.2 := fun c hc => by
    rw [Bool.eq_iff_iff, Env.getLsbD_where]
    constructor
    · rintro ⟨ln, hln, hgo⟩
      rwa [Env.mem_lanes_inj hc hln]
    · exact fun hgo => ⟨c.2, hc, hgo⟩
  rw [State.traceOp, List.filter_map, List.map_map]
  rw [List.filter_congr (q := fun c => s.rayGoes same c.2) fun c hc => by simp [hdone c hc]]
  exact List.map_congr_left fun c hc => by simp [(List.mem_filter.mp hc).2]

theorem trace_spec (h : Runs .trace f (noRuns f) s e) {n : Nat} (hsame : same = decide ((e.rcd.level e.g.level).gen = 3))
    (hn : n = if same then e.g.level else e.g.level + 1) (hlt : n < 8) (hpresent : (e.rcd.level n).present = true) (hgen : (e.rcd.level n).gen = 3)
    (hbvh : bvhFault (e.layout (layC f)) (layC f) = none) :
    ∃ (t : State) (rs : List RaySet) (o : LongOp), exec (.trace f) s = .next (t.retire e .trace f) ∧ t.raySets = s.raySets ++ rs ∧
      t.mem = s.mem ∧ t.groups = ((s.writeRegs e.gid (e.writes f (fun _ ln => truthOf (s.rayGoes same ln)))).updGroup e.gid (fun g =>
        g.subFlag? (e.r.flagOf f.fsel) (laneCount (e.where_ (fun _ ln => !s.rayGoes same ln))))).groups ∧
      ((∃ c ∈ e.lanes, s.rayGoes same c.2 = true) → t.ops.getLast? = some o) ∧
      o.lanes.map (fun l => (l.lane, l.cond)) = (e.lanes.filter (fun c => s.rayGoes same c.2)).map (fun c => (c.1, .trace)) ∧ o.run = Opnd.first f.b ∧
      (rs.flatMap (·.rays)).map (fun r => (r.lane, r.elem, r.inputs, r.payload)) = (e.lanes.filter (fun c => s.rayGoes same c.2)).map (fun c =>
        (c.1, c.2.elem, (List.range 10).map (fun i => s.srcAt e .fp c.1 c.2 i f.a), (List.range 4).map (fun i => s.srcAt e .int c.1 c.2 i f.b))) ∧
      ∀ r ∈ rs, r.op = o.id ∧ r.group = e.gid ∧ r.lanes = e.r.lanes ∧ ∀ x ∈ r.rays, x.op = o.id ∧ x.bvh = e.layout (layC f) ∧ x.first = decide (f.mod = 1) ∧ x.result = none := by
  obtain ⟨hid, hlast⟩ := s.traceIssued_ops (e := e) (f := f) (same := same)
  have hsets : (s.traceIssued e f same).2.raySets = s.raySets ∧ (s.traceIssued e f same).2.mem = s.mem := by
    rw [State.traceIssued, State.writeRegs_eq]
    exact ⟨rfl, rfl⟩
  let rays := e.lanes.filterMap (s.rayOf e f same (s.traceIssued e f same).1)
  let rs : List RaySet := if rays.isEmpty then [] else [{ op := (s.traceIssued e f same).1, group := e.gid, lanes := e.r.lanes, same, rays }]
  have hflat : rs.flatMap (·.rays) = rays := by
    dsimp only [rs]
    split
    · next hempty => exact (List.isEmpty_iff.mp hempty).symm
    · exact List.append_nil _
  refine ⟨_, rs, s.traceOp e f same, exec_trace h hsame hn hlt hpresent hgen hbvh, ?_, ?_, ?_, fun ⟨c, hc, hgo⟩ => ?_, s.traceOp_lanes, rfl, ?_, fun r hr => ?_⟩
  · have hcount : ((s.traceIssued e f same).2.countRays same rays).raySets = s.raySets := (State.countRays_obs (·.raySets) (fun _ _ _ _ _ => rfl) _ _ _).trans hsets.1
    rw [State.traced]
    dsimp only [rs]
    split
    · rw [List.append_nil]
      exact hcount
    · exact congrArg (· ++ _) hcount
  · exact (State.traced_obs (·.mem) (fun _ _ _ _ _ => rfl) fun _ _ => rfl).trans hsets.2
  · exact (State.traced_obs (·.groups) (fun _ _ _ _ _ => rfl) fun _ _ => rfl).trans rfl
  · refine (State.traced_obs (fun t => t.ops.getLast?) (fun _ _ _ _ _ => rfl) fun _ _ => rfl).trans (hlast fun hnil => ?_)
    have hlanes := s.traceOp_lanes (e := e) (f := f) (same := same)
    rw [hnil] at hlanes
    exact List.ne_nil_of_mem (List.mem_map_of_mem (List.mem_filter.mpr ⟨hc, hgo⟩)) hlanes.symm
  · rw [hflat]
    refine map_filterMap_eq (fun c _ hgo => ?_) fun c _ hstay => ?_
    · cases hel : s.laneElem c.2 with
      | none => simp [State.rayGoes, hel] at hgo
      | some el =>
        have hdepth : childDepth same el ≤ 8 := by simpa [State.rayGoes, hel] using hgo
        have hid' : el.id = c.2.elem := findId_key Elem.id hel
        refine ⟨_, (by rw [State.rayOf, hel]; exact if_neg (Nat.not_lt.mpr hdepth)), ?_⟩
        rw [hid']
    · cases hel : s.laneElem c.2 with
      | none => rw [State.rayOf, hel]
      | some el =>
        have hdepth : 8 < childDepth same el := by simpa [State.rayGoes, hel] using hstay
        rw [State.rayOf, hel]
        exact if_pos hdepth
  · have hr' : r = { op := (s.traceIssued e f same).1, group := e.gid, lanes := e.r.lanes, same, rays } := by
      dsimp only [rs] at hr
      split at hr
      · exact absurd hr List.not_mem_nil
      · exact List.mem_singleton.mp hr
    subst hr'
    refine ⟨hid, rfl, rfl, fun x hx => ?_⟩
    obtain ⟨c, -, hray⟩ := List.mem_filterMap.mp hx
    rw [State.rayOf] at hray
    split at hray
    · exact absurd hray (by simp)
    · split at hray
      · exact absurd hray (by simp)
      · obtain rfl := Option.some.inj hray
        exact ⟨hid, rfl, rfl, rfl⟩

end

/-! ### Traversals (R396, R397, R400) and RETV (R401) -/

section
variable {s : State} {op lane : Nat} {rs : RaySet} {ray : Ray} {g : Group} {la : Launch} (hrs : s.raySets.find? (fun r => r.op = op) = some rs)
  (hray : rs.rays.find? (fun r => r.lane = lane && r.result.isNone) = some ray) (hg : s.group? rs.group = some g) (hla : s.launch? g.launch = some la)
include hrs hray hg hla

theorem exec_traversalCompletion_done {hit : Option RayHit} (hdone : (Walker.mk s la g ray).traverse = .done hit) : exec (.traversalCompletion op lane) s =
    .next (s.settleRay la g rs lane (hit.elim (missRegs 0 (ray.inputs.getD 7 0)) hitRegs)) := by
  show execTraversalCompletion op lane s = _
  rw [execTraversalCompletion, hrs]
  dsimp only
  rw [hray, hg]
  dsimp only
  rw [hla]
  dsimp only
  rw [hdone]
  cases hit <;> rfl

theorem exec_traversalCompletion_failed {reason : Nat} (hfail : (Walker.mk s la g ray).traverse = .failed reason) : exec (.traversalCompletion op lane) s =
    .next ((s.engineFault g.id rs.lanes 5 reason ray.entry 0).settleRay la g rs lane (missRegs 2 (ray.inputs.getD 7 0))) := by
  show execTraversalCompletion op lane s = _
  rw [execTraversalCompletion, hrs]
  dsimp only
  rw [hray, hg]
  dsimp only
  rw [hla]
  dsimp only
  rw [hfail]

end

/-- Settles O31: rays issue by their lanes, traversals end by their outcome. -/
theorem raysComplete : Obligations.RaysComplete :=
  ⟨fun _ _ _ h hlt hpresent hgen hbvh => trace_spec h rfl rfl hlt hpresent hgen hbvh, fun _ _ _ _ _ _ _ _ hrs hray hg hla hdone => exec_traversalCompletion_done hrs hray hg hla hdone,
    fun _ _ _ _ _ _ _ _ hrs hray hg hla hfail => exec_traversalCompletion_failed hrs hray hg hla hfail,
    Does.of_body (fun _ _ => rfl) (fun _ _ _ _ hgen => ownForm_of_good (by simp [hgen])) fun _ _ _ _ _ => rfl⟩

end Sys2Proof.Machine
end

section
namespace Sys2Proof.Machine

/-! ### Traps and returns (R422, R423, R439) -/

/-- Where .RETRY and .NEXT send a lane (R423). -/
theorem Handler.sends_retry (h : Handler) (ln : Lane) : h.sends false ln = if h.atHeader then .header ln.retPc else .retry := by
  rw [Handler.sends, Bool.false_and, if_neg Bool.false_ne_true]

theorem Handler.sends_next (h : Handler) (ln : Lane) : h.sends true ln = if h.atHeader then .header ln.retPc else
    if h.cause.toNat = Cause.budget then .retry else
    match h.kept with
    | some k => if k.body = [] then .header k.ft else .skip
    | none => .header ln.retPc := by
  rw [Handler.sends]
  by_cases hb : h.cause.toNat = Cause.budget
  · simp [hb]
  · cases h.kept <;> simp [hb]

section
variable {f : Form} {s : State} {e : Env} {h : Handler} (hr : Runs .tret f (noRuns f) s e) (hh : e.g.handler = some h) (hpre : h.preDone = false)
include hr hh hpre

theorem exec_tret_sends (hmod : f.mod ≠ 2) : exec (.tret f) s =
    .next ((leaves s e (fun _ ln => .returned (h.sends (decide (f.mod = 1)) ln)) Handler.tretDone).retire e .tret f) := by
  refine hr.answers ?_ ?_
  · rw [tretForm, hh]
    exact (if_neg (by rw [hpre]; exact Bool.false_ne_true)).trans (if_neg hmod)
  · rw [hh]
    exact if_neg hmod

theorem exec_tret_to (hmod : f.mod = 2) (hgood : targetsGood s e (aTarget s e f)) :
    ∃ st, exec (.tret f) s = .next ((leaves s e st Handler.tretDone).retire e .tret f) ∧
      ∀ c ∈ e.lanes, st c.1 c.2 = .returned (.header (s.src e .int c.1 c.2 f.a).toNat) := by
  refine ⟨fun l _ => .returned (.header ((((e.lanes.map (fun x => (x.1, (aTarget s e f x.1 x.2).toNat))).find? (fun t => t.1 = l)).map (·.2)).getD 0)),
    hr.answers ?_ ?_, fun c hc => ?_⟩
  · rw [tretForm, hh]
    exact (if_neg (by rw [hpre]; exact Bool.false_ne_true)).trans ((if_pos hmod).trans (badTargets_of_good hgood _))
  · rw [hh]
    exact (if_pos hmod).trans (checkTargets_of_good hgood _)
  · have hfind : (e.lanes.map (fun x => (x.1, (aTarget s e f x.1 x.2).toNat))).find? (fun t => t.1 = c.1) = some (c.1, (aTarget s e f c.1 c.2).toNat) := by
      cases hf : (e.lanes.map (fun x => (x.1, (aTarget s e f x.1 x.2).toNat))).find? (fun t => t.1 = c.1) with
      | none => exact absurd (List.find?_eq_none.mp hf _ (List.mem_map_of_mem hc)) (by simp)
      | some x =>
        obtain ⟨⟨l, ln⟩, hd, rfl⟩ := List.mem_map.mp (List.mem_of_find?_eq_some hf)
        obtain rfl : l = c.1 := by simpa using List.find?_some hf
        rw [Env.mem_lanes_inj hd hc]
    dsimp only
    rw [hfind]
    rfl

end

/-- Settles O33: TRAPI traps, and the lanes of X leave their handler where it says. -/
theorem trapsAndReturns : Obligations.TrapsAndReturns := by
  refine ⟨fun f s e h => (h.effect _).trans rfl, fun f s e h hr hh hpre => ⟨fun hmod => ?_, fun hmod => ?_, exec_tret_to hr hh hpre⟩, fun f s e h hr hh hcause htret => ?_⟩
  · rw [exec_tret_sends hr hh hpre (by rw [hmod]; decide)]
    simp only [hmod] <;> rfl
  · rw [exec_tret_sends hr hh hpre (by rw [hmod]; decide)]
    simp only [hmod, decide_true, Handler.sends_next] <;> rfl
  · refine hr.answers (ownForm_of_good ?_) rfl
    rw [hh]
    simp [hcause, htret]

/-! ### SLICE.YIELD, HINT.SUCC, LAUNCH and WAITP (R424 to R427) -/

theorem exec_launch {f : Form} {s : State} {e : Env} (h : Runs .launch f (noRuns f) s e) :
    let m := e.layout (layC f)
    let at_ := (s.lowSrc e f.a).toNat
    let head := recordChecks s e (layC f) at_ 4
    let n := recLength (s.recordBytes head)
    let all := recordChecks s e (layC f) at_ ((n + 15) / 16)
    (s.lowSrc e f.b).toNat % 4 ≠ 3 → layValid m = true → layRank m = 1 → layElem m = 16 → laySpace m = spGlobal → layR m = true →
    pastExtent m at_ 64 = false → pastExtent m at_ n = false → allGood head → allGood all →
    let answer := s.submit e ((s.lowSrc e f.b).toNat % 4) ((s.recordBytes all).take n)
    exec (.launch f) s = .next (((answer.2.addOp e f .completed (fun _ _ => (.ready, writeTo (f.dst.ref 0) answer.1))).2).retire e .launch f) := by
  intro m at_ head n all hmode hvalid hrank helem hspace hread hpast hpast' hhead hall answer
  refine h.answers (ownForm_of_good ?_) ?_
  · rw [decide_eq_false (show ¬ launchModeOf s f e = 3 from hmode), Bool.and_false]
  · have hfault : launchFault (e.layout (layC f)) (layC f) = none := by
      rw [launchFault, show layValid (e.layout (layC f)) = true from hvalid, show layRank (e.layout (layC f)) = 1 from hrank, show layElem (e.layout (layC f)) = 16 from helem]
      rfl
    dsimp only
    rw [hfault]
    dsimp only
    rw [if_neg (by rw [show pastExtent (e.layout (layC f)) (s.lowSrc e f.a).toNat 64 = false from hpast]; exact Bool.false_ne_true),
      if_neg (by rw [show laySpace (e.layout (layC f)) = spGlobal from hspace, show layR (e.layout (layC f)) = true from hread]; decide),
      State.allOrNothing_of_allGood hhead,
      if_neg (by rw [show pastExtent (e.layout (layC f)) (s.lowSrc e f.a).toNat n = false from hpast']; exact Bool.false_ne_true),
      State.allOrNothing_of_allGood hall]
    rfl

/-- Settles O34: what each body answers. -/
theorem systemInstructions : Obligations.SystemInstructions :=
  ⟨Does.of_run (fun _ _ => rfl) fun _ _ _ _ _ => rfl, Does.of_run (fun _ _ => rfl) fun _ _ _ _ _ => rfl, fun _ _ _ h => exec_launch h,
    Does.of_run (fun _ _ => rfl) fun _ _ _ _ _ => rfl⟩

end Sys2Proof.Machine
end

section
namespace Sys2Proof.Machine

/-! ### Elements and their slots (R98, R161, R169 to R171, R178) -/

theorem exec_spawnReturn {s : State} {op lane child : Nat} {o : LongOp} {l : OpLane} (ho : s.op? op = some o) (hl : o.lanes.find? (fun l => l.lane = lane) = some l)
    (hc : l.cond = .child child) (hret : s.retired child = true) :
    exec (.spawnReturn op lane) s = .next (s.completeLane o l (((s.elem? child).elim [] (·.rets)).map (fun r => (RegRef.v (o.run + r.1), r.2)))) := by
  show execSpawnReturn op lane s = _
  rw [execSpawnReturn, ho]
  dsimp only
  rw [hl]
  dsimp only
  rw [hc]
  exact if_pos hret

/-- The lowest free index lies among the first that are in use and one more. -/
theorem find_free {used : List Nat} {i n : Nat} (hi : i < n) (hfree : i ∉ used) (hused : ∀ j < i, j ∈ used) :
    (List.range (used.length + 1)).find? (fun i => !used.contains i && decide (i < n)) = some i := by
  have hle : i ≤ used.length := by
    have hsub : (List.range i).Subperm used := List.subperm_of_subset List.nodup_range fun j hj => hused j (List.mem_range.mp hj)
    simpa using hsub.length_le
  rw [List.find?_range_eq_some]
  refine ⟨by simp [hfree, hi], List.mem_range.mpr (by omega), fun j hj => ?_⟩
  simp [hused j hj]

theorem exec_elementAdmission {s : State} {k core i : Nat} {e : Elem} {la : Launch} (he : s.elem? k = some e) (hla : s.launch? e.launch = some la)
    (hcore : s.poolOf e = some core) (hst : e.st = .waiting) (hrun : la.st = .running) (hhere : core = 0x7F ∨ s.poolHere la.id core = true)
    (hfirst : ((s.awaiting e.launch e.level core).head?).map (·.id) = some k) (hi : i < la.rcd.poolSize e.level)
    (hfree : i ∉ (s.pool e.launch e.level core).map (·.index)) (hused : ∀ j < i, j ∈ (s.pool e.launch e.level core).map (·.index)) :
    exec (.elementAdmission k) s = .next { s.updElem k (fun e => { e with st := .admitted }) with
      slots := s.slots ++ [{ elem := k, launch := e.launch, level := e.level, core, index := i, h := [], holds := s.claimsOn k }] } := by
  have hready : ¬ (e.st ≠ .waiting || la.st ≠ .running || (core ≠ 0x7F && !s.poolHere la.id core) ||
      ((s.awaiting e.launch e.level core).head?).map (·.id) ≠ some k) = true := by
    rw [decide_eq_false (not_not.mpr hst), decide_eq_false (not_not.mpr hrun), decide_eq_false (not_not.mpr hfirst)]
    rcases hhere with h | h <;> simp [h]
  show execElementAdmission k s = _
  rw [execElementAdmission, he]
  dsimp only
  rw [hla, hcore]
  dsimp only
  rw [if_neg hready, find_free hi hfree hused]

theorem exec_elementFinish {s : State} {k : Nat} {e : Elem} {la : Launch} (he : s.elem? k = some e) (hla : s.launch? e.launch = some la) (hexited : e.exited = true)
    (hst : e.st ≠ .finished) (hrun : la.st = .running) (hbusy : s.elemBusy e = false) : exec (.elementFinish k) s =
      .next ((((s.createFixed la e).endClaims e.claims).updElem k (fun e => { e with st := .finished })).freeSlots) := by
  show execElementFinish k s = _
  rw [execElementFinish, he]
  dsimp only
  rw [hla]
  exact if_neg (by simp [hexited, hst, hrun, hbusy])

theorem exec_claimEndingArrival {s : State} {k : Nat} {d : Ending} (hd : findId Ending.id k s.endings = some d) :
    exec (.claimEndingArrival k) s = .next ({ s with endings := delId Ending.id k s.endings }.updSlot d.holder (fun sl =>
      { sl with holds := sl.holds - 1 })).freeSlots := by
  show execClaimEndingArrival k s = _
  rw [execClaimEndingArrival, hd]

/-- Settles O35: each step acts where its conditions hold. -/
theorem elementEvents : Obligations.ElementEvents :=
  ⟨fun _ _ _ _ _ _ ho hl hc hret => exec_spawnReturn ho hl hc hret,
    fun _ _ _ _ _ _ he hla hcore hst hrun hhere hfirst hi hfree hused => exec_elementAdmission he hla hcore hst hrun hhere hfirst hi hfree hused,
    fun _ _ _ _ he hla hexited hst hrun hbusy => exec_elementFinish he hla hexited hst hrun hbusy, fun _ _ _ hd => exec_claimEndingArrival hd⟩

end Sys2Proof.Machine
end

section
namespace Sys2Proof.Machine

/-! ### Lanes that complete (R23, R269, R273, R355, R440) -/

section
variable {s : State} {op lane : Nat} {o : LongOp} {l : OpLane} (ho : s.op? op = some o) (hl : o.lanes.find? (fun l => l.lane = lane) = some l)
include ho hl

theorem exec_laneCompletion : exec (.laneCompletion op lane) s = .next (s.completeIf o l) := by
  show execLaneCompletion op lane s = _
  rw [execLaneCompletion, ho]
  dsimp only
  rw [hl]

theorem exec_laneCompletion_of_ready (hc : l.cond = .ready) :
    exec (.laneCompletion op lane) s = .next (if s.writesBehind o l then s else s.completeLane o l l.writes) := by
  rw [exec_laneCompletion ho hl, State.completeIf, hc]

theorem exec_laneCompletion_joint (hc : l.cond = .joint) : exec (.laneCompletion op lane) s = .next (s.completeLanes o (·.writes)) := by
  rw [exec_laneCompletion ho hl, State.completeIf, hc]

theorem exec_laneCompletion_opened (hc : l.cond = .opened) :
    exec (.laneCompletion op lane) s = .next (s.completeLanes o (fun l => if o.kept then l.writes else [])) := by
  rw [exec_laneCompletion ho hl, State.completeIf, hc]

theorem exec_laneCompletion_after {ks : List Nat} (hc : l.cond = .after ks) : exec (.laneCompletion op lane) s =
    .next (if ks.any (fun k => (s.op? k).elim false (fun p => p.lanes.any (fun x => x.lane = l.lane))) then s else s.completeLane o l l.writes) := by
  rw [exec_laneCompletion ho hl, State.completeIf, hc]

end

/-- Has an earlier instruction the lane still? -/
theorem earlier_iff (s : State) (ks : List Nat) (k : Nat) :
    ks.any (fun j => (s.op? j).elim false (fun p => p.lanes.any (fun x => x.lane = k))) = true ↔ ∃ j ∈ ks, ∃ x, s.op? j = some x ∧ ∃ y ∈ x.lanes, y.lane = k := by
  rw [List.any_eq_true]
  refine exists_congr fun j => and_congr_right fun _ => ?_
  cases s.op? j with
  | none => simp
  | some x => simp

/-! ### The lanes of one instruction that complete together -/

/-- What a lane that completes leaves of the list of instructions. -/
theorem State.completeLane_ops (s : State) (o : LongOp) (l : OpLane) (ws : List (RegRef × Word)) : (s.completeLane o l ws).ops = s.lessLane o l := by
  have hfin : ∀ t : State, t.ops = s.ops →
      (if (o.lanes.filter (fun x => x.lane ≠ l.lane)).isEmpty then { t with ops := delId LongOp.id o.id t.ops }
        else t.updOp o.id (fun p => { p with lanes := o.lanes.filter (fun x => x.lane ≠ l.lane) })).ops = s.lessLane o l := fun t ht => by
    rw [State.lessLane, ← ht]
    simp only [List.isEmpty_iff]
    by_cases hrest : o.lanesBut l.lane = []
    · rw [if_pos hrest]
      exact congrArg State.ops (if_pos hrest)
    · rw [if_neg hrest]
      exact congrArg State.ops (if_neg hrest)
  have hregs : ∀ ws', (s.writeRegs o.group ws').ops = s.ops := fun ws' => by rw [State.writeRegs_eq]
  refine hfin _ ?_
  show (if (o.kept && _) = true then _ else _ : State).ops = s.ops
  split
  · rfl
  · exact hregs _

theorem State.op?_completeLane {s : State} {k : Nat} {o : LongOp} (ho : s.op? k = some o) (l : OpLane) (ws : List (RegRef × Word)) :
    (s.completeLane o l ws).op? k = if o.lanesBut l.lane = [] then none else some { o with lanes := o.lanesBut l.lane } := by
  show findId LongOp.id k (s.completeLane o l ws).ops = _
  rw [State.completeLane_ops, State.lessLane_self ho]

/-- One of the lanes of an instruction completes, where it is there still. -/
def State.completeNext (k : Nat) (writes : OpLane → List (RegRef × Word)) (s : State) (l : OpLane) : State :=
  match s.op? k with
  | some o => s.completeLane o l (writes l)
  | none => s

theorem State.completeLanes_eq (s : State) (o : LongOp) (writes : OpLane → List (RegRef × Word)) :
    s.completeLanes o writes = o.lanes.foldl (State.completeNext o.id writes) s := rfl

theorem State.completeNext_mem (k : Nat) (writes : OpLane → List (RegRef × Word)) (s : State) (l : OpLane) : (s.completeNext k writes l).mem = s.mem := by
  rw [State.completeNext]
  split
  · exact State.completeLane_mem ..
  · rfl

theorem State.completeLanes_mem (s : State) (o : LongOp) (writes : OpLane → List (RegRef × Word)) : (s.completeLanes o writes).mem = s.mem :=
  foldl_frame (fun t : State => t.mem) (fun t l _ => t.completeNext_mem o.id writes l) s

/-- Has the instruction, where it is there still, lanes, and each of them among these? -/
def State.Left (s : State) (k : Nat) (ls : List OpLane) : Prop := ∀ x, s.op? k = some x → x.lanes ≠ [] ∧ ∀ y ∈ x.lanes, y ∈ ls

theorem State.Left.next {s : State} {k : Nat} {l : OpLane} {ls : List OpLane} (h : s.Left k (l :: ls)) (writes : OpLane → List (RegRef × Word)) :
    (s.completeNext k writes l).Left k ls := by
  intro x hx
  rw [State.completeNext] at hx
  cases ho : s.op? k with
  | none => simp [ho] at hx
  | some o =>
    rw [ho] at hx
    rw [State.op?_completeLane ho] at hx
    obtain ⟨-, hmem⟩ := h o ho
    split at hx
    · exact absurd hx (by simp)
    next hne =>
      obtain rfl : ({ o with lanes := o.lanesBut l.lane } : LongOp) = x := Option.some.inj hx
      refine ⟨hne, fun y hy => ?_⟩
      obtain ⟨hin, hlane⟩ := List.mem_filter.mp hy
      refine (List.mem_cons.mp (hmem y hin)).resolve_left fun heq => ?_
      simp [heq] at hlane

theorem State.Left.all {k : Nat} (writes : OpLane → List (RegRef × Word)) {ls : List OpLane} {s : State} (h : s.Left k ls) :
    (ls.foldl (State.completeNext k writes) s).op? k = none := by
  induction ls generalizing s with
  | nil =>
    refine Option.eq_none_iff_forall_ne_some.mpr fun x hx => ?_
    obtain ⟨hne, hmem⟩ := h x hx
    exact hne (List.eq_nil_iff_forall_not_mem.mpr fun y hy => List.not_mem_nil (hmem y hy))
  | cons l ls ih => exact ih (h.next writes)

/-- R355: an instruction all of whose lanes have completed is gone. -/
theorem State.completeLanes_gone {s : State} {op : Nat} {o : LongOp} (ho : s.op? op = some o) (hne : o.lanes ≠ []) (writes : OpLane → List (RegRef × Word)) :
    (s.completeLanes o writes).op? op = none := by
  obtain rfl : o.id = op := findId_key LongOp.id ho
  refine State.Left.all writes fun x hx => ?_
  obtain rfl : o = x := Option.some.inj (ho.symm.trans hx)
  exact ⟨hne, fun _ hy => hy⟩

/-! ### A predicate that every lane writes (pd of CHAIN.JOIN) -/

/-- Where the lanes of an instruction each write predicate `p`, those that have completed hold it. -/
structure State.Answered (s : State) (k gid p : Nat) (x : Bool) (ls : List OpLane) : Prop where
  op : ∀ o, s.op? k = some o → o.group = gid ∧ o.kept = false
  group : ∃ g, s.group? gid = some g ∧ ∀ y ∈ ls, (∃ o, s.op? k = some o ∧ ∃ z ∈ o.lanes, z.lane = y.lane) ∨
    ∀ ln, g.lane? y.lane = some ln → ln.pred p = x

/-- The lanes of a group after one of them has written a predicate on completion. -/
theorem State.completeLane_pred {s : State} {o : LongOp} {l : OpLane} {g : Group} (hg : s.group? o.group = some g) (hkept : o.kept = false) {p : Nat} (hp : p < 7)
    (x : Bool) : ∃ g', (s.completeLane o l [(.p p, if x then 1 else 0)]).group? o.group = some g' ∧
      ∀ k ln, g'.lane? k = some ln → ∃ ln₀, g.lane? k = some ln₀ ∧ ln.pred p = if k = l.lane then x else ln₀.pred p := by
  refine ⟨_, State.completeLane_group hg hkept _, fun k ln hln => ?_⟩
  have hwrites : s.writesOf o l [(.p p, if x then 1 else 0)] = [(.p p, if x then 1 else 0)] := rfl
  rw [hwrites, Group.subFlag?_eq] at hln
  have hlane : ((g.writeAll (ofLane l.lane [(.p p, if x then 1 else 0)])).lane? k) = some ln := hln
  rw [Group.writeAll_lane?] at hlane
  obtain ⟨ln₀, hln₀, rfl⟩ := Option.map_eq_some_iff.mp hlane
  refine ⟨ln₀, hln₀, ?_⟩
  by_cases hk : k = l.lane
  · rw [if_pos hk, hk, laneWrites_ofLane_self]
    show (ln₀.write (.p p) _).pred p = x
    rw [Lane.write, Lane.pred_setPred, if_pos ⟨rfl, hp⟩]
    cases x <;> rfl
  · rw [if_neg hk, laneWrites_ofLane_ne hk]
    rfl

theorem State.Answered.next {s : State} {k gid p : Nat} {x : Bool} {ls : List OpLane} (h : s.Answered k gid p x ls) (hp : p < 7)
    (writes : OpLane → List (RegRef × Word)) {l : OpLane} (hw : writes l = [(.p p, if x then 1 else 0)]) : (s.completeNext k writes l).Answered k gid p x ls := by
  rw [State.completeNext]
  cases ho : s.op? k with
  | none => exact h
  | some o =>
    obtain ⟨hgid, hkept⟩ := h.op o ho
    obtain ⟨g, hg, hlanes⟩ := h.group
    subst hgid
    dsimp only
    rw [hw]
    have hop := State.op?_completeLane ho l [(.p p, if x then 1 else 0)]
    obtain ⟨g', hg', hpred⟩ := State.completeLane_pred (l := l) hg hkept hp x
    refine ⟨fun o' ho' => ?_, g', hg', fun y hy => ?_⟩
    · rw [hop] at ho'
      split at ho'
      · exact absurd ho' (by simp)
      · obtain rfl := Option.some.inj ho'
        exact ⟨rfl, hkept⟩
    · by_cases hyl : y.lane = l.lane
      · refine .inr fun ln hln => ?_
        obtain ⟨ln₀, -, hval⟩ := hpred _ _ hln
        rw [hval, if_pos hyl]
      · rcases hlanes y hy with ⟨o', ho', z, hz, hzy⟩ | hdone
        · obtain rfl := Option.some.inj (ho.symm.trans ho')
          have hmem : z ∈ o.lanesBut l.lane := List.mem_filter.mpr ⟨hz, by simpa [hzy] using hyl⟩
          rw [if_neg (List.ne_nil_of_mem hmem)] at hop
          exact .inl ⟨_, hop, z, hmem, hzy⟩
        · refine .inr fun ln hln => ?_
          obtain ⟨ln₀, hln₀, hval⟩ := hpred _ _ hln
          rw [hval, if_neg hyl]
          exact hdone ln₀ hln₀

/-- R337, R355: the lanes of CHAIN.JOIN complete together, each with the answer in pd. -/
theorem State.completeLanes_pred {s : State} {op : Nat} {o : LongOp} (ho : s.op? op = some o) (hne : o.lanes ≠ []) {g : Group} {p : Nat} {x : Bool}
    (hg : s.group? o.group = some g) (hkept : o.kept = false) (hw : ∀ y ∈ o.lanes, p < 7 ∧ y.writes = [(RegRef.p p, if x then 1 else 0)]) :
    ∃ g', (s.completeLanes o (·.writes)).group? o.group = some g' ∧ ∀ y ∈ o.lanes, ∀ ln, g'.lane? y.lane = some ln → ln.pred p = x := by
  obtain rfl : o.id = op := findId_key LongOp.id ho
  have hstart : s.Answered o.id o.group p x o.lanes := by
    refine ⟨fun o' ho' => ?_, g, hg, fun y hy => .inl ⟨o, ho, y, hy, rfl⟩⟩
    obtain rfl := Option.some.inj (ho.symm.trans ho')
    exact ⟨rfl, hkept⟩
  have hend : (s.completeLanes o (·.writes)).Answered o.id o.group p x o.lanes :=
    List.foldlRecOn (motive := fun t : State => t.Answered o.id o.group p x o.lanes) o.lanes _ hstart
      fun t ht l hl => ht.next (hw l hl).1 _ (hw l hl).2
  obtain ⟨g', hg', hlanes⟩ := hend.group
  refine ⟨g', hg', fun y hy => (hlanes y hy).resolve_left ?_⟩
  rintro ⟨o', ho', -⟩
  exact absurd (ho'.symm.trans (State.completeLanes_gone ho hne _)) (by simp)

theorem lanes_ne_nil_of_find {o : LongOp} {lane : Nat} {l : OpLane} (hl : o.lanes.find? (fun l => l.lane = lane) = some l) : o.lanes ≠ [] :=
  List.ne_nil_of_mem (List.mem_of_find?_eq_some hl)

end Sys2Proof.Machine
end

section
namespace Sys2Proof.Machine

/-! ### Sorting by a strict order -/

section
variable {α : Type} {lt : α → α → Bool} (hasymm : ∀ a b, lt a b = true → lt b a = false)
  (htrans : ∀ a b c, lt b a = false → lt c b = false → lt c a = false)
include hasymm htrans

theorem insertBy_pairwise (x : α) {l : List α} (hl : l.Pairwise (fun a b => lt b a = false)) :
    (insertBy lt x l).Pairwise (fun a b => lt b a = false) := by
  induction l with
  | nil => exact List.pairwise_singleton _ x
  | cons y l ih =>
    obtain ⟨hy, hl'⟩ := List.pairwise_cons.mp hl
    rw [insertBy]
    by_cases hxy : lt x y = true
    · rw [if_pos hxy]
      refine List.pairwise_cons.mpr ⟨fun z hz => ?_, hl⟩
      rcases List.mem_cons.mp hz with rfl | hz
      · exact hasymm _ _ hxy
      · exact htrans _ _ _ (hasymm _ _ hxy) (hy z hz)
    · rw [if_neg hxy]
      refine List.pairwise_cons.mpr ⟨fun z hz => ?_, ih hl'⟩
      rcases List.mem_cons.mp ((insertBy_perm lt x l).mem_iff.mp hz) with rfl | hz
      · exact Bool.eq_false_iff.mpr hxy
      · exact hy z hz

/-- Nothing in the sorted list comes before what stands before it. -/
theorem sortBy_pairwise (l : List α) : (sortBy lt l).Pairwise (fun a b => lt b a = false) :=
  List.foldlRecOn (motive := fun acc : List α => acc.Pairwise (fun a b => lt b a = false)) l _ List.Pairwise.nil
    fun _ hacc x _ => insertBy_pairwise hasymm htrans x hacc

end

/-- The model's lexicographic order is that of lists. -/
theorem lexLt_iff (xs ys : List Nat) : lexLt xs ys = true ↔ xs < ys := by
  induction xs generalizing ys with
  | nil => cases ys <;> simp [lexLt]
  | cons x xs ih =>
    cases ys with
    | nil => simp [lexLt]
    | cons y ys => simp [lexLt, List.cons_lt_cons_iff, ih]

theorem lexLt_eq_false_iff (xs ys : List Nat) : lexLt xs ys = false ↔ ys ≤ xs := by
  rw [← Bool.not_eq_true, lexLt_iff, not_lt]

/-! ### Records with an identifier each -/

theorem findId_eq_some_of_mem {α : Type} {key : α → Nat} {l : List α} (hn : (l.map key).Nodup) {x : α} (hx : x ∈ l) : findId key (key x) l = some x := by
  induction l with
  | nil => simp at hx
  | cons y l ih =>
    obtain ⟨hy, hn'⟩ := List.nodup_cons.mp hn
    rw [findId]
    rcases List.mem_cons.mp hx with rfl | hx
    · exact if_pos rfl
    · rw [if_neg fun h : key y = key x => hy (h ▸ List.mem_map_of_mem hx)]
      exact ih hn' hx

/-- The record of a list whose records some of another replace. -/
theorem findId_replaced {α : Type} {key : α → Nat} {l news : List α} {p : α → Bool} (hl : (l.map key).Nodup) (hnews : (news.map key).Nodup) {x y : α} (hx : x ∈ l)
    (hp : p x = true) (hy : y ∈ news) (hxy : key x = key y) :
    findId key (key x) ((l.filter p).map (fun z => (findId key (key z) news).getD z)) = some y := by
  have hkey : ∀ z, key ((findId key (key z) news).getD z) = key z := fun z => by
    cases h : findId key (key z) news with
    | none => rfl
    | some w => exact findId_key key h
  rw [findId_map hkey, findId_eq_some_of_mem (hl.sublist (List.filter_sublist.map _)) (List.mem_filter.mpr ⟨hx, hp⟩), Option.map_some, hxy,
    findId_eq_some_of_mem hnews hy, Option.getD_some]

end Sys2Proof.Machine
end

section
namespace Sys2Proof.Machine

/-! ### The reorder point (R159, R160, R223) -/

/-- The groups of a level of a block and role that have participants, in the order of their numbers. -/
def State.reordering (s : State) (block level role : Nat) : List Group :=
  sortBy (fun (a b : Group) => decide (a.num < b.num)) ((s.roleGroups block level role).filter (fun g => g.lanes.any (·.unexited)))

/-- Their threads, sorted by key, group and lane (R159). -/
def reorderOrder (gs : List Group) : List (Nat × Nat × Lane) := sortBy (fun a b => lexLt (regroupRank a) (regroupRank b)) (participants gs)

theorem reorderOrder_perm (gs : List Group) : (reorderOrder gs).Perm (participants gs) := sortBy_perm _ _

theorem reorderOrder_sorted (gs : List Group) : (reorderOrder gs).Pairwise (fun x y => lexLt (regroupRank y) (regroupRank x) = false) := by
  refine sortBy_pairwise (fun a b h => ?_) (fun a b c hba hcb => ?_) _
  · rw [lexLt_iff] at h
    exact (lexLt_eq_false_iff _ _).mpr h.le
  · rw [lexLt_eq_false_iff] at hba hcb ⊢
    exact hba.trans hcb

theorem reorderSort_eq (gs : List Group) : reorderSort (participants gs) = (reorderOrder gs).map (·.2.2) := rfl

theorem Group.reordered_g (g : Group) (uniform : Nat) (threads : List Lane) (blank : Lane) (i : Nat) :
    (g.reordered uniform threads blank).g.get i = if i < uniform then g.g.get i else 0 := by
  simp [Group.reordered, SMap.get_keep]

/-- The new groups, before the first is given what those that are gone had to report. -/
def newGroups (old : List Group) (w uniform : Nat) (blank : Lane) : List Group :=
  (old.take (((reorderOrder old).length + w - 1) / w)).zipIdx.map
    (fun c => c.1.reordered uniform ((((reorderOrder old).map (·.2.2)).drop (c.2 * w)).take w) blank)

/-- The first of some groups is given reports. -/
def reportTo (fs : List EngFault) : List Group → List Group
  | [] => []
  | g :: rest => { g with faults := g.faults ++ fs } :: rest

theorem reportTo_ids (fs : List EngFault) (gs : List Group) : (reportTo fs gs).map (·.id) = gs.map (·.id) := by
  cases gs <;> rfl

theorem mem_reportTo (fs : List EngFault) {gs : List Group} {g : Group} (hg : g ∈ gs) : ∃ fs', { g with faults := fs' } ∈ reportTo fs gs := by
  cases gs with
  | nil => simp at hg
  | cons h gs =>
    rcases List.mem_cons.mp hg with rfl | hg
    · exact ⟨_, List.mem_cons_self⟩
    · exact ⟨g.faults, List.mem_cons_of_mem _ hg⟩

/-- The new groups stand in the places of the first old ones, but for the reports that the first is given. -/
theorem reorderGroups_eq (gs : List Group) {w : Nat} (hw : ∀ g ∈ sortBy (fun (a b : Group) => decide (a.num < b.num)) gs, g.width = w) (uniform : Nat) (blank : Lane) :
    ∃ fs, reorderGroups gs uniform blank = reportTo fs (newGroups (sortBy (fun (a b : Group) => decide (a.num < b.num)) gs) w uniform blank) := by
  let old := sortBy (fun (a b : Group) => decide (a.num < b.num)) gs
  let v := (old.head?).elim 8 (·.width)
  have heq : ∃ fs, reorderGroups gs uniform blank = reportTo fs (newGroups old v uniform blank) := by
    have hlen : (reorderSort (participants old)).length = (reorderOrder old).length := List.length_map ..
    refine ⟨(old.drop (newGroups old v uniform blank).length).flatMap (·.faults), ?_⟩
    rw [newGroups, ← hlen]
    rfl
  have hv : newGroups old v uniform blank = newGroups old w uniform blank := by
    cases hold : old with
    | nil => simp [newGroups]
    | cons g rest =>
      have hg : v = w := by
        show (old.head?).elim 8 (·.width) = w
        rw [hold]
        exact hw g (show g ∈ old by rw [hold]; exact List.mem_cons_self)
      rw [hg]
  obtain ⟨fs, hfs⟩ := heq
  exact ⟨fs, hfs.trans (by rw [hv])⟩

theorem newGroups_ids (old : List Group) (w uniform : Nat) (blank : Lane) :
    (newGroups old w uniform blank).map (·.id) = (old.take (((reorderOrder old).length + w - 1) / w)).map (·.id) := by
  conv_rhs => rw [← List.zipIdx_map_fst 0 (List.take _ old), List.map_map]
  rw [newGroups, List.map_map]
  rfl

/-- The group that a sorted thread goes to. -/
theorem mem_newGroups {old : List Group} {w j : Nat} (uniform : Nat) (blank : Lane) (hw : 0 < w) {g : Group} {x : Nat × Nat × Lane} (hg : old[j / w]? = some g)
    (hx : (reorderOrder old)[j]? = some x) :
    g.reordered uniform ((((reorderOrder old).map (·.2.2)).drop (j / w * w)).take w) blank ∈ newGroups old w uniform blank := by
  have hj : j < (reorderOrder old).length := (List.getElem?_eq_some_iff.mp hx).1
  have hplace : j / w < ((reorderOrder old).length + w - 1) / w := by
    rw [Nat.lt_div_iff_mul_lt hw, Nat.lt_sub_iff_add_lt]
    have := Nat.div_mul_le_self j w
    omega
  refine List.mem_map.mpr ⟨(g, j / w), ?_, rfl⟩
  rw [List.mem_zipIdx_iff_getElem?, List.getElem?_take_of_lt hplace]
  exact hg

/-- The place of a sorted thread in its new group. -/
theorem reordered_lane {old : List Group} {w j : Nat} (uniform : Nat) (blank : Lane) (hw : 0 < w) {g : Group} (hwidth : g.width = w) {x : Nat × Nat × Lane}
    (hx : (reorderOrder old)[j]? = some x) :
    (g.reordered uniform ((((reorderOrder old).map (·.2.2)).drop (j / w * w)).take w) blank).lane? (j % w) = some x.2.2.reordered := by
  have hmod : j % w < w := Nat.mod_lt j hw
  have hthread : ((((reorderOrder old).map (·.2.2)).drop (j / w * w)).take w)[j % w]? = some x.2.2 := by
    rw [List.getElem?_take_of_lt hmod, List.getElem?_drop, Nat.div_add_mod', List.getElem?_map, hx, Option.map_some]
  show ((List.range g.width).map _)[j % w]? = _
  rw [List.getElem?_map, List.getElem?_range (hwidth ▸ hmod), Option.map_some, hthread]
  rfl

/-- What a reorder point leaves of the machine's groups (R159, R160). -/
theorem State.reorderAt_eq {s t : State} {block level role w : Nat} {la : Launch} (hat : s.reorderAt block level role = some t)
    (hold : ∀ g ∈ s.reordering block level role, g.width = w ∧ s.launch? g.launch = some la) :
    ∃ (fs : List EngFault) (blank : Lane) (p : Group → Bool),
      let news := reportTo fs (newGroups (s.reordering block level role) w (la.rcd.level level).uniform blank)
      (∀ x : Group, x.id ∈ news.map (·.id) → p x = true) ∧ t.groups = (s.groups.filter p).map (fun g => (findId Group.id g.id news).getD g) := by
  rw [State.reorderAt] at hat
  split at hat
  · exact absurd hat (by simp)
  dsimp only at hat
  split at hat
  · exact absurd hat (by simp)
  next la' hla =>
    obtain ⟨g, hg, hgla⟩ := Option.bind_eq_some_iff.mp hla
    obtain ⟨-, hla'⟩ := hold g ((sortBy_perm _ _).mem_iff.mpr (List.mem_of_head? hg))
    obtain rfl : la' = la := Option.some.inj (hgla.symm.trans hla')
    obtain ⟨fs, hfs⟩ := reorderGroups_eq ((s.roleGroups block level role).filter (fun g => g.lanes.any (·.unexited)))
      (fun g hg => (hold g hg).1) (la'.rcd.level level).uniform (s.newLane la'.rcd 0 none)
    rw [hfs] at hat
    let news := reportTo fs (newGroups (s.reordering block level role) w (la'.rcd.level level).uniform (s.newLane la'.rcd 0 none))
    let old := ((s.roleGroups block level role).filter (fun g => g.lanes.any (·.unexited))).map (·.id)
    refine ⟨fs, s.newLane la'.rcd 0 none, fun g => !old.contains g.id || (news.map (·.id)).contains g.id, fun x hx => ?_, ?_⟩
    · exact (Bool.or_eq_true _ _).mpr (.inr (List.contains_iff_mem.mpr hx))
    · have hruns : ∀ gs : List Group,
          (gs.foldl (fun (s : State) g => s.runsAt (g.lanes.filterMap (fun ln => if ln.unexited then some ln.elem else none)) g.core) s).groups = s.groups :=
        fun gs => by refine foldl_frame (fun t : State => t.groups) ?_ s; intros; rfl
      rw [← Option.some.inj hat]
      exact congrArg (fun gs => List.map _ (List.filter _ gs)) (hruns news)

/-- R159, R160: a thread after the reorder point. -/
theorem Lane.reordered_eq (ln : Lane) : ln.reordered =
    { ln with st := .free, pc := (ln.regroup?).elim ln.pc (·.1), o := [], l := [], lValid := 0, lHidden := 0, lKept := [], wait := 0 } := rfl

/-- R159, R160, R223: where a level of a block and role reorders, its threads fill the old groups, sorted, in the order of the groups' numbers. -/
theorem State.reorderAt_sorts {s t : State} {block level role w : Nat} {la : Launch} (hat : s.reorderAt block level role = some t)
    (hids : (s.groups.map (·.id)).Nodup) (hw : 0 < w) (hold : ∀ g ∈ s.reordering block level role, g.width = w ∧ s.launch? g.launch = some la)
    {j : Nat} {g : Group} {x : Nat × Nat × Lane} (hg : (s.reordering block level role)[j / w]? = some g)
    (hx : (reorderOrder (s.reordering block level role))[j]? = some x) :
    ∃ g', t.group? g.id = some g' ∧ g'.num = g.num ∧ (∀ i < 12, g'.flag i = 0) ∧
      (∀ i, g'.g.get i = if i < (la.rcd.level level).uniform then g.g.get i else 0) ∧ g'.lane? (j % w) = some x.2.2.reordered := by
  obtain ⟨fs, blank, p, hp, hgroups⟩ := State.reorderAt_eq hat hold
  let old := s.reordering block level role
  have hgold : g ∈ old := List.mem_of_getElem? hg
  have hin : ∀ y ∈ old, y ∈ s.groups := fun y hy => (List.mem_filter.mp (List.mem_filter.mp ((sortBy_perm _ _).mem_iff.mp hy)).1).1
  have holdids : (old.map (·.id)).Nodup := by
    have hsub : ((s.roleGroups block level role).filter (fun g => g.lanes.any (·.unexited))).Sublist s.groups :=
      List.filter_sublist.trans List.filter_sublist
    exact ((sortBy_perm _ _).map _).nodup_iff.mpr (hids.sublist (hsub.map _))
  have hnewids : ((reportTo fs (newGroups old w (la.rcd.level level).uniform blank)).map (·.id)).Nodup := by
    rw [reportTo_ids, newGroups_ids]
    exact holdids.sublist ((List.take_sublist _ _).map _)
  obtain ⟨fs', hnew⟩ := mem_reportTo fs (mem_newGroups (la.rcd.level level).uniform blank hw hg hx)
  let threads := (((reorderOrder old).map (·.2.2)).drop (j / w * w)).take w
  have hfound : t.group? g.id = some { g.reordered (la.rcd.level level).uniform threads blank with faults := fs' } := by
    show findId Group.id g.id t.groups = _
    rw [hgroups]
    exact findId_replaced hids hnewids (hin g hgold) (hp g (List.mem_map.mpr ⟨_, hnew, rfl⟩)) hnew rfl
  exact ⟨_, hfound, rfl, fun _ _ => rfl, Group.reordered_g g _ threads blank, reordered_lane (la.rcd.level level).uniform blank hw (hold g hgold).1 hx⟩

/-- R223, R225: the first level that reorders does. -/
theorem exec_reorderPoint {s t : State} {block n : Nat} {role : BitVec 2} (hn : n < 8) (hbefore : ∀ m < n, s.reorderAt block m role.toNat = none)
    (hat : s.reorderAt block n role.toNat = some t) : exec (.reorderPoint block role) s = .next t := by
  have hfirst : (List.range 8).findSome? (fun n => s.reorderAt block n role.toNat) = some t := by
    rw [List.findSome?_eq_some_iff]
    refine ⟨List.range n, n, (List.range (8 - n - 1)).map (n + 1 + ·), ?_, hat, fun m hm => hbefore m (List.mem_range.mp hm)⟩
    rw [← List.singleton_append, ← List.append_assoc, ← List.range_succ, ← List.range_add]
    exact congrArg _ (by omega)
  show execReorderPoint block role s = _
  rw [execReorderPoint, hfirst, Option.getD_some]

end Sys2Proof.Machine
end

section
namespace Sys2Proof.Machine

/-! ### The admission of a block (R408, R409) -/

section
variable {s : State} {block core : Nat} {b : Block} {la : Launch} {p : Plan} (hb : s.block? block = some b) (hla : s.launch? b.launch = some la)
include hb hla

theorem exec_blockAdmission_outranked (hout : s.outranked b core = true) : exec (.blockAdmission block core) s = .next s := by
  show execBlockAdmission block core s = _
  rw [execBlockAdmission, hb]
  dsimp only
  rw [hla]
  exact if_pos (by simp [hout])

theorem exec_blockAdmission (hst : b.st = .waiting) (hrun : la.st = .running) (hpre : la.preempted = false) (hstop : s.stopped = false)
    (hplan : s.plan la b core b.groupList = some p) (hout : s.outranked b core = false) : exec (.blockAdmission block core) s =
      .next ((((s.takeSpace la b p).numberBlock la b).fixDie la b core).startGroups la b p) := by
  show execBlockAdmission block core s = _
  rw [execBlockAdmission, hb]
  dsimp only
  rw [hla]
  dsimp only
  rw [if_neg (by simp [hst, hrun, hpre, hstop, hout]), hplan]

end

/-! ### The issue of a partition (R185, R413) -/

/-- What a fetch finds does not rest on how groups and blocks stand. -/
theorem State.clauseOf_congr (s : State) (gs : List Group) (bs : List Block) (g : Group) (pc : Nat) :
    ({ s with groups := gs, blocks := bs } : State).clauseOf g pc = s.clauseOf g pc := rfl

theorem State.readyPaths_congr (s : State) (gs : List Group) (bs : List Block) (g : Group) :
    ({ s with groups := gs, blocks := bs } : State).readyPaths g = s.readyPaths g := rfl

theorem Group.addFlag?_frame (g : Group) (o : Option Nat) (n : Nat) :
    (g.addFlag? o n).id = g.id ∧ (g.addFlag? o n).passed = g.passed ∧ (g.addFlag? o n).lastIssue = g.lastIssue := by
  cases o <;> exact ⟨rfl, rfl, rfl⟩

/-- What the start of a clause leaves of its group (R23). -/
theorem Group.startClause_frame (g : Group) (p : Path) (c : Clause) (losers : LaneMask) :
    (g.startClause p c losers).id = g.id ∧ (g.startClause p c losers).passed = g.passed ∧ (g.startClause p c losers).lastIssue = g.lastIssue := by
  obtain ⟨hid, hpassed, hlast⟩ := g.addFlag?_frame c.hdr.flagA (1 + laneCount p.lanes * c.longA)
  obtain ⟨hid', hpassed', hlast'⟩ :=
    (g.addFlag? c.hdr.flagA (1 + laneCount p.lanes * c.longA)).addFlag?_frame c.hdr.flagB (1 + laneCount p.lanes * c.longB)
  exact ⟨hid'.trans hid, hpassed'.trans hpassed, hlast'.trans hlast⟩

/-- What the choice of a group leaves of the groups: the others of the partition that were ready have been passed over (R413), hints are over (R20). -/
def State.choosing (s : State) (core part : Nat) (g x : Group) : Group :=
  if x.id = g.id then { x with passed := 0, lastIssue := some s.clock, yielded := false }
  else if ((((s.groups.filter (fun g => g.core = core && g.part = part)).filter s.groupReady).map (·.id)).filter (fun k => k ≠ g.id)).contains x.id then
    { x.passOver s.clock with yielded := false }
  else if x.core = core && x.part = part then { x with yielded := false } else x

theorem State.choosing_id (s : State) (core part : Nat) (g x : Group) : (s.choosing core part g x).id = x.id := by
  rw [State.choosing]
  split
  · rfl
  split
  · rfl
  split <;> rfl

theorem State.choosing_self (s : State) (core part : Nat) (g : Group) :
    s.choosing core part g g = { g with passed := 0, lastIssue := some s.clock, yielded := false } := if_pos rfl

/-- The state in which a partition's chosen group issues. -/
def State.chosen (s : State) (core part : Nat) (g : Group) : State :=
  { s with groups := s.groups.map (s.choosing core part g) }.updBlock g.block (fun b => if b.preemptAt.isNone then { b with counting := true } else b)

theorem State.chosen_group {s : State} {g : Group} (core part : Nat) (hg : s.group? g.id = some g) :
    (s.chosen core part g).group? g.id = some { g with passed := 0, lastIssue := some s.clock, yielded := false } := by
  show findId Group.id g.id (s.groups.map (s.choosing core part g)) = _
  rw [findId_map (s.choosing_id core part g), show findId Group.id g.id s.groups = some g from hg, Option.map_some, State.choosing_self]

section
variable {s : State} {core part : Nat} {g : Group}
  (hre : ∀ x ∈ s.groups, x.core = core → x.part = part → s.reenterFor x = s)
  (hfirst : firstBy (fun (g h : Group) => lexLt (s.issueKey g) (s.issueKey h))
    ((s.groups.filter (fun g => g.core = core && g.part = part)).filter s.groupReady) = some g)
include hre hfirst

/-- R413: the first of the ready groups issues. -/
theorem exec_partitionIssue : exec (.partitionIssue core part) s = .next ((s.chosen core part g).issueGroup g) := by
  have hsame : (s.groups.filter (fun g => g.core = core && g.part = part)).foldl (fun (s : State) g => s.reenterFor g) s = s := by
    refine List.foldlRecOn (motive := fun t : State => t = s) _ _ rfl fun t ht x hx => ?_
    obtain ⟨hx, hhere⟩ := List.mem_filter.mp hx
    obtain ⟨hcore, hpart⟩ := (Bool.and_eq_true _ _).mp hhere
    rw [ht, hre x hx (of_decide_eq_true hcore) (of_decide_eq_true hpart)]
  show execPartitionIssue core part s = _
  rw [execPartitionIssue, hsame]
  dsimp only
  rw [hfirst]
  rfl

/-- R23, R185: a clause starts on the path that is chosen. -/
theorem exec_partitionIssue_clause {c : Clause} {p : Path} (hg : s.group? g.id = some g) (hrun : g.run = none)
    (hp : g.choose (s.readyPaths g) = some p) (hc : s.clauseOf g p.pc = .clause c) (htags : g.tagErrors = []) :
    ∃ t : State, exec (.partitionIssue core part) s = .next t ∧ t.focus = some g.id ∧ t.mem = s.mem ∧
      ∃ g', t.group? g.id = some g' ∧ g'.passed = 0 ∧ g'.lastIssue = some s.clock ∧
        g'.run.map (fun r => (r.hdr, r.lanes, r.body, r.next)) = some (p.pc, p.lanes, c.body, p.pc + 8) := by
  have hready : (s.chosen core part g).readyPaths g = s.readyPaths g := s.readyPaths_congr _ _ g
  have hclause : (s.chosen core part g).clauseOf g p.pc = .clause c := hc
  have hissue : ∃ losers, (s.chosen core part g).issueGroup g =
      { (s.chosen core part g).updGroup g.id (fun g => g.startClause p c losers) with focus := some g.id } := by
    apply Exists.intro
    rw [State.issueGroup, hrun, if_neg (by simp)]
    dsimp only
    rw [hready, hp]
    dsimp only
    rw [State.issuePath, hclause]
    dsimp only
    rw [Group.tagError?, htags]
    rfl
  obtain ⟨losers, hissue⟩ := hissue
  have hstart : ((s.chosen core part g).updGroup g.id (fun g => g.startClause p c losers)).group? g.id =
      some (({ g with passed := 0, lastIssue := some s.clock, yielded := false } : Group).startClause p c losers) :=
    State.updGroup_group?_of (State.chosen_group core part hg) _ fun x => (x.startClause_frame p c losers).1
  obtain ⟨-, hpassed, hlast⟩ := Group.startClause_frame ({ g with passed := 0, lastIssue := some s.clock, yielded := false } : Group) p c losers
  exact ⟨_, exec_partitionIssue hre hfirst, by rw [hissue], by rw [hissue]; rfl, _, by rw [hissue]; exact hstart, hpassed, hlast, rfl⟩

end

end Sys2Proof.Machine

namespace Sys2Proof
open Machine

/-- Settles O36: what a lane that completes waits for, the sorting of the reorder point, and the branches of admission and issue. -/
theorem schedulerEvents : Obligations.SchedulerEvents := by
  refine ⟨fun s op lane o l ho hl hc => ⟨fun hb => ?_, fun hb => ?_⟩, fun s op lane o l ho hl hc => ⟨exec_laneCompletion_joint ho hl hc,
      State.completeLanes_gone ho (lanes_ne_nil_of_find hl) _, State.completeLanes_mem s o _,
      fun _ _ _ hg hkept hw => State.completeLanes_pred ho (lanes_ne_nil_of_find hl) hg hkept hw⟩,
    fun s op lane o l ho hl hc => ⟨exec_laneCompletion_opened ho hl hc, State.completeLanes_gone ho (lanes_ne_nil_of_find hl) _, State.completeLanes_mem s o _⟩,
    fun s op lane o l ks ho hl hc => ⟨fun hwait => ?_, fun hfree => ?_⟩, fun s t block role n hn hbefore hat => ⟨exec_reorderPoint hn hbefore hat, ?_⟩,
    fun s block core b la p hb hla hst hrun hpre hstop hplan => ⟨exec_blockAdmission hb hla hst hrun hpre hstop hplan, exec_blockAdmission_outranked hb hla⟩,
    fun s core part g c p hre hfirst hg hrun hp hc htags => exec_partitionIssue_clause hre hfirst hg hrun hp hc htags⟩
  case refine_1 => rw [exec_laneCompletion_of_ready ho hl hc, hb]; rfl
  case refine_2 => rw [exec_laneCompletion_of_ready ho hl hc, hb]; rfl
  case refine_3 => rw [exec_laneCompletion_after ho hl hc, if_pos ((earlier_iff s ks l.lane).mpr hwait)]
  case refine_4 =>
    rw [exec_laneCompletion_after ho hl hc, if_neg fun h => ?_]
    obtain ⟨k, hk, x, hx, y, hy, hlane⟩ := (earlier_iff s ks l.lane).mp h
    exact hfree k hk x hx y hy hlane
  case refine_5 =>
    rintro la w old rfl hids hw hold
    exact ⟨_, reorderOrder_perm _, reorderOrder_sorted _, fun j g x hg hx => State.reorderAt_sorts hat hids hw hold hg hx⟩

end Sys2Proof
end

section
namespace Sys2Proof.Machine

/-! ### Accesses from outside (R455, R456, R458) -/

/-- What R455 lets pass, it forbids nowhere. -/
theorem forbidden_eq_false {xs : List (Nat × BitVec 64)} {op : OutsideOp}
    (h : ∀ x ∈ xs, (op.reads = true → pteR x.2 = true) ∧ (op.writes = true → pteW x.2 = true)) : forbidden xs op = false := by
  refine List.any_eq_false.mpr fun x hx => ?_
  obtain ⟨hr, hw⟩ := h x hx
  simp only [Bool.or_eq_true, Bool.and_eq_true, Bool.not_eq_true', not_or, not_and, Bool.not_eq_false]
  exact ⟨hr, hw⟩

theorem forbidden_of_mem {xs : List (Nat × BitVec 64)} {op : OutsideOp} {x : Nat × BitVec 64} (hx : x ∈ xs)
    (h : (op.reads = true ∧ pteR x.2 = false) ∨ (op.writes = true ∧ pteW x.2 = false)) : forbidden xs op = true := by
  refine List.any_eq_true.mpr ⟨x, hx, ?_⟩
  rcases h with ⟨ho, hp⟩ | ⟨ho, hp⟩ <;> simp [ho, hp]

section
variable {s : State} {a : PeerAccess} {w : Window} (hw : s.window? a.tenant a.window = some w)
include hw

/-- An access that reaches the window's bytes goes on as its pages say. -/
theorem exec_peerAccessArrival_inside {xs : List (Nat × BitVec 64)} (hexp : (a.device.toNat, a.sender) ∈ w.exports) (hsize : a.offset + a.op.length ≤ w.size)
    (hlen : a.op.length ≠ 0) (hat : s.outsideAt a.tenant (w.base + a.offset) a.op.length = .places xs) :
    exec (.peerAccessArrival a) s =
      if forbidden xs a.op then .next (s.post a.device.toNat (.reply false []))
      else if a.op.writes && s.sharedBeside (coherentOf xs) a.device.toNat then .next s
      else .next (let u := (s.post a.device.toNat (s.answerTo (xs.map (·.1)) a.op)).perform (xs.map (·.1)) a.op
        if a.op.writes then u else u.share (coherentOf xs) a.device.toNat) := by
  have hin : ¬ (!w.exports.contains (a.device.toNat, a.sender) || w.size < a.offset + a.op.length || a.op.length = 0) = true := by
    simp [hexp, hlen, Nat.not_lt.mpr hsize]
  show execPeerAccessArrival a s = _
  rw [execPeerAccessArrival, hw]
  dsimp only
  rw [if_neg hin, hat]

/-- An access outside what is exported is answered in the negative (R455). -/
theorem exec_peerAccessArrival_outside (hout : (a.device.toNat, a.sender) ∉ w.exports ∨ w.size < a.offset + a.op.length ∨ a.op.length = 0) :
    exec (.peerAccessArrival a) s = .next (s.post a.device.toNat (.reply false [])) := by
  have hno : (!w.exports.contains (a.device.toNat, a.sender) || w.size < a.offset + a.op.length || a.op.length = 0) = true := by
    rcases hout with h | h | h <;> simp [h]
  show execPeerAccessArrival a s = _
  rw [execPeerAccessArrival, hw]
  exact if_pos hno

end

theorem exec_peerAccessArrival_good {s : State} {a : PeerAccess} {xs : List (Nat × BitVec 64)} (hgood : outsideGood s a xs) :
    exec (.peerAccessArrival a) s =
      if a.op.writes && s.sharedBeside (coherentOf xs) a.device.toNat then .next s
      else .next (let u := (s.post a.device.toNat (s.answerTo (xs.map (·.1)) a.op)).perform (xs.map (·.1)) a.op
        if a.op.writes then u else u.share (coherentOf xs) a.device.toNat) := by
  obtain ⟨w, hw, hexp, hsize, hlen, hat, hpages⟩ := hgood
  rw [exec_peerAccessArrival_inside hw hexp hsize hlen hat, forbidden_eq_false hpages]
  rfl

/-- An access to what is not exported, or that a page does not permit, is answered in the negative. -/
theorem exec_peerAccessArrival_refused {s : State} {a : PeerAccess} {w : Window} (hw : s.window? a.tenant a.window = some w)
    (hbad : (a.device.toNat, a.sender) ∉ w.exports ∨ w.size < a.offset + a.op.length ∨ a.op.length = 0 ∨
      ∃ xs, s.outsideAt a.tenant (w.base + a.offset) a.op.length = .places xs ∧
        ∃ x ∈ xs, (a.op.reads = true ∧ pteR x.2 = false) ∨ (a.op.writes = true ∧ pteW x.2 = false)) :
    exec (.peerAccessArrival a) s = .next { s with outbox := s.outbox ++ [(a.device.toNat, .reply false [])] } := by
  by_cases hout : (a.device.toNat, a.sender) ∉ w.exports ∨ w.size < a.offset + a.op.length ∨ a.op.length = 0
  · exact exec_peerAccessArrival_outside hw hout
  · simp only [not_or, not_not, Nat.not_lt] at hout
    obtain ⟨hexp, hsize, hlen⟩ := hout
    obtain ⟨xs, hat, x, hx, hno⟩ := ((hbad.resolve_left (not_not.mpr hexp)).resolve_left (Nat.not_lt.mpr hsize)).resolve_left hlen
    rw [exec_peerAccessArrival_inside hw hexp hsize hlen hat, if_pos (forbidden_of_mem hx hno)]
    rfl

/-- R458: the host's access goes to the window's backing. -/
theorem exec_hostMemAccess {s : State} {a : HostAccess} {w : Window} (hw : s.window? a.tenant a.window = some w) (hkind : w.kind = .device)
    (hexp : (0xFF, 0xFF) ∈ w.exports) (hsize : a.offset + a.op.length ≤ w.size) :
    let as := (List.range a.op.length).map (fun i => w.backing + a.offset + i)
    exec (.hostMemAccess a) s =
      if a.op.writes && (linesOf as).any (fun k => s.directory.get k ≠ 0) then .next s else .next ((s.post 8 (s.answerTo as a.op)).perform as a.op) := by
  have hin : ¬ (w.kind ≠ .device || !w.exports.contains (0xFF, 0xFF) || w.size < a.offset + a.op.length) = true := by
    simp [hkind, hexp, Nat.not_lt.mpr hsize]
  show execHostMemAccess a s = _
  rw [execHostMemAccess, hw]
  exact if_neg hin

end Sys2Proof.Machine

namespace Sys2Proof
open Machine

/-- Settles O39: an access from outside, by whether it reaches exported bytes and the pages permit it and whether others share the lines that it writes. -/
theorem outsideAccesses : Obligations.OutsideAccesses := by
  refine ⟨fun s a xs hgood => ⟨fun hfree => ?_, fun hwrites hshared => ?_⟩, fun s a w hw hbad => exec_peerAccessArrival_refused hw hbad,
    fun s a w hw hkind hexp hsize => ⟨fun hfree => ?_, fun hwrites hshared => ?_⟩, fun s line sharer => rfl⟩
  · rw [exec_peerAccessArrival_good hgood, if_neg]
    · rfl
    · intro h
      obtain ⟨hwrites, hshared⟩ := (Bool.and_eq_true _ _).mp h
      exact absurd ((hfree hwrites).symm.trans hshared) (by simp)
  · rw [exec_peerAccessArrival_good hgood, if_pos]
    exact (Bool.and_eq_true _ _).mpr ⟨hwrites, hshared⟩
  · refine (exec_hostMemAccess hw hkind hexp hsize).trans (if_neg fun h => ?_)
    obtain ⟨hwrites, hany⟩ := (Bool.and_eq_true _ _).mp h
    obtain ⟨k, hk, hne⟩ := List.any_eq_true.mp hany
    exact of_decide_eq_true hne (hfree hwrites k hk)
  · obtain ⟨k, hk, hne⟩ := hshared
    refine (exec_hostMemAccess hw hkind hexp hsize).trans (if_pos ?_)
    exact (Bool.and_eq_true _ _).mpr ⟨hwrites, List.any_eq_true.mpr ⟨k, hk, decide_eq_true hne⟩⟩

end Sys2Proof
end

section
namespace Sys2Proof.Machine

/-! ### Two parked joins of one number (R349, R445) -/

/-- A launch whose block was to leave its core 350,000 clocks ago (R434). -/
def overdueLaunch : Launch :=
  { id := 1, tenant := 0, queue := 1, tag := 0, opcode := 0x16, code := 0, link := 5, rcd := parseRecord [] [], preds := [], hinted := false, st := .running
    endWord := 0, normal := false, preempted := true
    dist := { spill := [], handed := 0, sequence := 0, queues := [], black := [], token := 0, tokenBlack := false, circulating := false, declared := false }
    depths := [], ids := [], passes := [], blockSeq := 0, die := none, areas := [] }

def overdueBlock : Block :=
  { id := 2, launch := 1, level := 0, num := 0, st := .admitted, cores := [0], members := [], roles := [], base := [0], bound := none, admissible := 0
    deadline := none, budgetLeft := 0, refilled := false, counting := false, preemptAt := some 0, addressed := 0, kidsDie := none, saved := none }

/-- The open chain that the launch has in a slot of core 0. -/
def openChain (slot : Nat) : Chain :=
  { core := 0, slot, launch := 1, block := 2, isOpen := true, gen := 1, exact := false, set := false, scale := 0, count := 1, acked := 0, tile := 0, i0 := 0
    j0 := 0, rows := 1, cols := 1, landed := 0, sums := [], stat := [], aborted := false, waiter := none, placed := false, suspended := false, saved := false
    held := false, peers := [], awaited := [] }

/-- A join of device 1, under number 7, parked for the chain in a slot; the peer's own number for it is `token`. -/
def parkedJoin (slot token : Nat) : Join :=
  { id := 7, peer := some (1, token, { tenant := 0, link := 5 }), op := 0, group := 0, launch := 0, name := BitVec.ofNat 32 (slot * 2 ^ 16), share := 1
    parked := true }

/-- Two chains are open, and for each a join is parked; the two joins bear one number. -/
def overdue : State :=
  { State.reset with
    clock := 350000, launches := [overdueLaunch], blocks := [overdueBlock], chains := [openChain 0, openChain 1], joins := [parkedJoin 0 9, parkedJoin 1 8]
    members := 2
    windows := [{ tenant := 0, num := 0, kind := .device, base := 0, size := 0, backing := 0, waiting := none, exports := [(1, 0)] }] }

/-- What a step leaves to go out to peers. -/
def sentBy : Out → List (Nat × PeerMsg)
  | .next s => s.outbox
  | _ => []

/-- The join at the second chain is removed with the first one's, which bears its number, and its peer is told nothing. -/
theorem overdue_outbox : sentBy (exec (.hardStop 2) overdue) = [(1, .joined 9 none)] := by decide +kernel

theorem parked_overdue : parkedJoin 1 8 ∈ overdue.parkedAt (openChain 1) := by decide +kernel

end Sys2Proof.Machine

namespace Sys2Proof
open Machine

/-- Refutes O38: the hard stop removes the parked joins of the launch's chains by number, one chain after the other (`State.tellAbort`), so where joins parked
for two of its chains bear one number, the second is removed with the first and its peer is not refused. No clause of the statement asks that numbers differ. -/
theorem not_preemptionEvents : ¬ Obligations.PreemptionEvents := by
  rintro ⟨-, hstop, -⟩
  obtain ⟨u, hu, -, -, -, -, -, -, hrefused⟩ := hstop overdue 2 overdueBlock overdueLaunch 0 rfl rfl rfl (by decide) rfl (by decide)
  obtain ⟨-, htold⟩ := hrefused (openChain 1) (by decide) rfl rfl (parkedJoin 1 8) parked_overdue _ rfl
  have hout : u.outbox = [(1, .joined 9 none)] := by rw [← overdue_outbox, hu]; rfl
  rw [hout] at htold
  exact absurd htold (by decide)

end Sys2Proof
end

section
namespace Sys2Proof.Machine

/-! ### The end of a launch, as the rest of the machine sees it (R419) -/

/-- What does not rest on what a launch leaves and tells stays over its end. -/
theorem State.tellAbort_obs {β : Type} (obs : State → β) (hobs : ∀ (t : State) (gs : List Group) o js, obs { t with groups := gs, outbox := o, joins := js } = obs t)
    (s : State) (c : Chain) : obs (s.tellAbort c) = obs s := by
  have hmark : obs (if c.suspended then s.markChain c false else s) = obs s := by
    split
    · exact s.markChain_obs obs (fun t gs o => hobs t gs o t.joins) c false
    · rfl
  refine (foldl_frame obs (fun t j _ => ?_) _).trans hmark
  cases j.peer with
  | none => rfl
  | some p => exact hobs t t.groups _ _

theorem State.clearLaunch_queues (s : State) (k : Nat) : (s.clearLaunch k).queues = s.queues :=
  foldl_frame (fun t : State => t.queues) (fun t c _ => t.tellAbort_obs (fun t : State => t.queues) (fun _ _ _ _ => rfl) c) (s.handBack (s.heldByLaunch k))

theorem State.clearLaunch_stopped (s : State) (k : Nat) : (s.clearLaunch k).stopped = s.stopped :=
  foldl_frame (fun t : State => t.stopped) (fun t c _ => t.tellAbort_obs (fun t : State => t.stopped) (fun _ _ _ _ => rfl) c) (s.handBack (s.heldByLaunch k))

section
variable (s : State) (k : Nat) (word info pc : Word) (lanes : LaneMask)

theorem State.endLaunch_queues : (s.endLaunch k word info pc lanes).queues = s.queues := by
  rw [State.endLaunch]
  split
  · rfl
  split
  · rfl
  · exact s.clearLaunch_queues k

theorem State.endLaunch_stopped : (s.endLaunch k word info pc lanes).stopped = s.stopped := by
  rw [State.endLaunch]
  split
  · rfl
  split
  · rfl
  · exact s.clearLaunch_stopped k

/-- A launch that ends has ended; another is as it was. -/
theorem State.endLaunch_launch? (j : Nat) : (s.endLaunch k word info pc lanes).launch? j = (s.launch? j).map (fun la =>
    if j = k ∧ la.st ≠ .ended then { la with st := .ended, normal := false, endWord := word } else la) := by
  rw [State.endLaunch]
  cases hla : s.launch? k with
  | none =>
    cases hj : s.launch? j with
    | none => rfl
    | some la =>
      have hne : j ≠ k := fun h => by rw [h, hla] at hj; cases hj
      simp [hne]
  | some la =>
    dsimp only
    split
    next hst =>
      cases hj : s.launch? j with
      | none => rfl
      | some lb =>
        have hno : ¬ (j = k ∧ lb.st ≠ .ended) := fun h => by
          rw [h.1, hla] at hj
          exact h.2 (Option.some.inj hj ▸ hst)
        rw [Option.map_some, if_neg hno]
    next hst =>
      obtain ⟨-, hlaunches, -⟩ := s.clearLaunch_spec k
      by_cases hjk : j = k
      · subst hjk
        refine (findId_updId_self Launch.id (fun la => { la with st := .ended, normal := false, endWord := word }) (fun _ => rfl) _).trans ?_
        rw [show (State.handBack (s.clearLaunch j) _).launches = s.launches from hlaunches, show findId Launch.id j s.launches = some la from hla, hla]
        simp [hst]
      · refine (findId_updId_ne Launch.id (fun la => { la with st := .ended, normal := false, endWord := word }) (fun _ => rfl) hjk _).trans ?_
        rw [show (State.handBack (s.clearLaunch k) _).launches = s.launches from hlaunches]
        simp [hjk, State.launch?]

end

/-! ### Heat (R474) -/

/-- Has a launch ended? -/
def State.EndedAt (s : State) (k : Nat) : Prop := ∃ la, s.launch? k = some la ∧ la.st = .ended

theorem State.endByHeat_launch? (s : State) (k j : Nat) : ∃ word, (s.endByHeat k).launch? j = (s.launch? j).map (fun la =>
    if j = k ∧ la.st ≠ .ended then { la with st := .ended, normal := false, endWord := word } else la) :=
  ⟨_, State.endLaunch_launch? { s with free := s.free + 1 + 1 } k _ _ _ _ j⟩

theorem State.EndedAt.endByHeat {s : State} {j : Nat} (h : s.EndedAt j) (k : Nat) : (s.endByHeat k).EndedAt j := by
  obtain ⟨la, hla, hst⟩ := h
  obtain ⟨word, hword⟩ := s.endByHeat_launch? k j
  refine ⟨la, ?_, hst⟩
  rw [hword, hla, Option.map_some, if_neg fun h => h.2 hst]

theorem State.endedAt_endByHeat {s : State} {k : Nat} (h : (s.launch? k).isSome = true) : (s.endByHeat k).EndedAt k := by
  obtain ⟨la, hla⟩ := Option.isSome_iff_exists.mp h
  obtain ⟨word, hword⟩ := s.endByHeat_launch? k k
  by_cases hst : la.st = .ended
  · exact State.EndedAt.endByHeat ⟨la, hla, hst⟩ k
  · exact ⟨_, by rw [hword, hla, Option.map_some, if_pos ⟨rfl, hst⟩], rfl⟩

/-- A launch that is there, and that has ended or is among those that heat ends, has ended then. -/
theorem State.endedAt_heat {j : Nat} {ks : List Nat} {s : State} (hj : (s.launch? j).isSome = true) (h : s.EndedAt j ∨ j ∈ ks) :
    (ks.foldl State.endByHeat s).EndedAt j := by
  induction ks generalizing s with
  | nil => exact h.resolve_right List.not_mem_nil
  | cons k ks ih =>
    have hsome : ((s.endByHeat k).launch? j).isSome = true := by
      obtain ⟨word, hword⟩ := s.endByHeat_launch? k j
      rw [hword, Option.isSome_map, hj]
    refine ih hsome ?_
    rcases h with h | h
    · exact .inl (h.endByHeat k)
    · rcases List.mem_cons.mp h with rfl | h
      · exact .inl (State.endedAt_endByHeat hj)
      · exact .inr h

theorem exec_thermalShutdown {s : State} (hstop : s.stopped = false) (hheat : s.overheated = true) :
    ∃ t : State, exec .thermalShutdown s = .next t ∧ t.stopped = true ∧ t.mem = s.mem ∧
      (∀ q ∈ s.queues, ({ queue := q.num, tag := 0xFFFF, opcode := 0, kind := 4, status := 0, value := 0xFFFFFFFF, detail := 0 } : Completion) ∈
        t.completions) ∧
      ∀ k la, s.launch? k = some la → ∃ la', t.launch? k = some la' ∧ la'.st = .ended := by
  let live := (s.launches.filter (fun la => la.st ≠ .ended)).map (·.id)
  let u := live.foldl State.endByHeat { s with stopped := true }
  have hexec : exec .thermalShutdown s = .next { u with completions := u.completions ++ u.queues.map (fun q => linkEvent q.num 0xFFFFFFFF) } :=
    if_neg (by simp [hstop, hheat])
  have hqueues : u.queues = s.queues := foldl_frame (fun t : State => t.queues) (fun t k _ => State.endLaunch_queues { t with free := t.free + 1 + 1 } k _ _ _ _) _
  have hstopped : u.stopped = true := foldl_frame (fun t : State => t.stopped) (fun t k _ => State.endLaunch_stopped { t with free := t.free + 1 + 1 } k _ _ _ _) _
  have hmem : u.mem = s.mem := foldl_frame (fun t : State => t.mem) (fun t k _ => State.endLaunch_mem { t with free := t.free + 1 + 1 } k _ _ _ _) _
  refine ⟨_, hexec, hstopped, hmem, fun q hq => List.mem_append_right _ (List.mem_map.mpr ⟨q, by rw [hqueues]; exact hq, rfl⟩), fun k la hla => ?_⟩
  have hthere : (({ s with stopped := true } : State).launch? k).isSome = true := Option.isSome_iff_exists.mpr ⟨la, hla⟩
  refine State.endedAt_heat hthere ?_
  by_cases hst : la.st = .ended
  · exact .inl ⟨la, hla, hst⟩
  · exact .inr (List.mem_map.mpr ⟨la, List.mem_filter.mpr ⟨findId_mem _ hla, decide_eq_true hst⟩, findId_key _ hla⟩)

/-- The dies that stand in an emergency after a measurement. -/
theorem mem_hotDies {hot : Bool} {d k : Nat} {ds : List Nat} :
    k ∈ (if hot = true then ds.filter (fun x => decide (x ≠ d)) ++ [d] else ds.filter (fun x => decide (x ≠ d))) ↔ (k ≠ d ∧ k ∈ ds) ∨ (hot = true ∧ k = d) := by
  cases hot <;> simp [and_comm]

theorem exec_thermalEmergency (s : State) (die : BitVec 2) (x : BitVec 8) : ∃ t : State, exec (.thermalEmergency die x) s = .next t ∧
    t = { s with temps := t.temps, hotDies := t.hotDies, clockSteps := t.clockSteps, overheated := s.overheated || decide (115 ≤ x.toNat) } ∧
    (die.toNat ∈ t.hotDies ↔ 105 ≤ x.toNat ∨ (100 ≤ x.toNat ∧ die.toNat ∈ s.hotDies)) ∧
    (∀ d, d ≠ die.toNat → (d ∈ t.hotDies ↔ d ∈ s.hotDies) ∧ t.temps[d]? = s.temps[d]? ∧ t.clockSteps[d]? = s.clockSteps[d]?) ∧
    t.temps[die.toNat]? = s.temps[die.toNat]?.map (fun _ => x) ∧
    t.clockSteps[die.toNat]? = s.clockSteps[die.toNat]?.map (fun k => if die.toNat ∈ t.hotDies then max 4 (k - 1) else min 8 (k + 1)) := by
  let hot := if 105 ≤ x.toNat then true else if x.toNat < 100 then false else s.hotDies.contains die.toNat
  have hhot : hot = true ↔ 105 ≤ x.toNat ∨ (100 ≤ x.toNat ∧ die.toNat ∈ s.hotDies) := by
    show (if 105 ≤ x.toNat then true else if x.toNat < 100 then false else s.hotDies.contains die.toNat) = true ↔ _
    split
    next h => simp [h]
    next h =>
      split
      next h' => simp [h, Nat.not_le.mpr h']
      next h' => simp [h, Nat.not_lt.mp h']
  have hself : ∀ ds : List Nat, die.toNat ∈ (if hot = true then ds.filter (fun x => decide (x ≠ die.toNat)) ++ [die.toNat] else
      ds.filter (fun x => decide (x ≠ die.toNat))) ↔ hot = true := fun ds => by rw [mem_hotDies]; simp
  refine ⟨_, rfl, rfl, (hself _).trans hhot, fun d hd => ⟨?_, ?_, ?_⟩, ?_, ?_⟩
  · exact mem_hotDies.trans (by simp [hd])
  · exact (getElem?_updAt ..).trans (if_neg hd)
  · exact (getElem?_updAt ..).trans (if_neg hd)
  · exact (getElem?_updAt ..).trans (if_pos rfl)
  · refine (getElem?_updAt ..).trans ((if_pos rfl).trans ?_)
    refine congrArg (fun f => s.clockSteps[die.toNat]?.map f) (funext fun k => ?_)
    exact if_congr (hself s.hotDies).symm rfl rfl

/-! ### Links, windows, doorbells and reset (R451, R452, R461, R470) -/

theorem exec_peerWindowConfirmation {s : State} {tenant n : Nat} {w : Window} {tag : BitVec 16} {queue : Nat}
    (hw : s.windows.find? (fun w => w.tenant = tenant && w.num = n) = some w) (hwait : w.waiting = some (tag, queue)) :
    exec (.peerWindowConfirmation tenant n true) s = .next { s with
      windows := s.windows.map (fun x => if (x.tenant = tenant && x.num = n) = true then { x with waiting := none } else x)
      completions := s.completions ++ [{ queue, tag, opcode := 0x10, kind := 0, status := 0, value := 0, detail := 0 }] } := by
  show execPeerWindowConfirmation tenant n true s = _
  rw [execPeerWindowConfirmation, hw]
  dsimp only
  rw [hwait]
  rfl

theorem exec_linkDown {s : State} {peer : BitVec 3} {link : Bool} (hother : peer.toNat ≠ s.device) (hup : 2 * peer.toNat + link.toNat ∉ s.linksDown) :
    let t := { s with linksDown := s.linksDown ++ [2 * peer.toNat + link.toNat] }
    exec (.linkDown peer link) s = .next (if t.peerCut peer.toNat = true then t.losePeer peer.toNat else t) := by
  have hlink : (if link then 1 else 0) = link.toNat := by cases link <;> rfl
  show execLinkDown peer link s = _
  rw [execLinkDown, hlink]
  exact if_neg (by simp [hother, hup])

/-- R451: a page of a peer that no link reaches has no fault that holds an access. -/
theorem State.not_mem_endPeerFaults {s : State} {p : PageFault} {place : Nat} {pte : BitVec 64} (hr : p.reason = 3)
    (hat : s.translate p.tenant p.va = .at_ place pte) (hcut : s.peerCut (peerDevice place) = true) : p ∉ s.endPeerFaults.faults := by
  intro hp
  have hkeep := (List.mem_filter.mp hp).2
  rw [hat] at hkeep
  simp [hr, hcut] at hkeep

theorem exec_deviceReset (s : State) : ∃ t : State, exec .deviceReset s = .next t ∧ t.mem = s.mem.keep (fun a => decide (hostAt ≤ a)) ∧ t.fwFlash = s.fwFlash ∧
    t.cfgFlash = s.cfgFlash ∧ t.launches = [] ∧ t.groups = [] ∧ t.tenants = [] ∧ t.codes = [] ∧ t.ptes = [] ∧ t.focus = none ∧
    t.recovery = !Config.imageOk s.cfgFlash ∧ t.linksDown = trainLinks 0 s.free ∧
    (Config.imageOk s.cfgFlash = true → t.identity = deriveIdentity ∧ t.cfgImage = s.cfgFlash ∧ t.fwImage = s.fwFlash) := by
  by_cases hok : Config.imageOk s.cfgFlash = true
  · exact ⟨_, if_pos hok, rfl, rfl, rfl, rfl, rfl, rfl, rfl, rfl, rfl, by rw [hok]; rfl, rfl, fun _ => ⟨rfl, rfl, rfl⟩⟩
  · exact ⟨_, if_neg hok, rfl, rfl, rfl, rfl, rfl, rfl, rfl, rfl, rfl, by rw [Bool.eq_false_iff.mpr hok]; rfl, rfl, fun h => absurd h hok⟩

/-- R461: a doorbell brings the entries of the queue's ring. -/
theorem exec_doorbellWrite {s : State} {queue : Nat} {bell : Doorbell} {q : Queue}
    (hq : (s.updQueue queue (fun q => if q.rings = bell.rings then q else { q with rings := bell.rings, head := 0, tail := 0 })).queue? queue = some q) :
    let rings := bell.rings
    let u := s.updQueue queue (fun q => if q.rings = rings then q else { q with rings, head := 0, tail := 0 })
    let entries := (List.range (min bell.count rings.size)).map (fun i =>
      entryOf (s.bytes ((List.range 64).map (fun k => hostAt + q.rings.base + 64 * ((q.head + i) % q.rings.size) + k))))
    let taken := if s.recovery = true then entries.filter (fun c => c.opcode = 0x06) else entries
    exec (.doorbellWrite queue bell) s = .next ((u.updQueue queue (fun q =>
      { q with head := (q.head + entries.length) % rings.size, pending := q.pending ++ taken })).skipBad queue) := by
  show execDoorbellWrite queue bell s = _
  rw [execDoorbellWrite]
  dsimp only
  rw [hq]
  rfl

end Sys2Proof.Machine

namespace Sys2Proof
open Machine

/-- Settles O40: what a confirmation, a link, heat, a reset and a doorbell leave. -/
theorem outsideEvents : Obligations.OutsideEvents :=
  ⟨fun _ _ _ _ _ _ hw hwait => exec_peerWindowConfirmation hw hwait, fun _ _ _ hother hup => exec_linkDown hother hup,
    fun _ _ _ _ hr hat hcut => State.not_mem_endPeerFaults hr hat hcut, exec_thermalEmergency, fun _ hstop hheat => exec_thermalShutdown hstop hheat,
    exec_deviceReset, fun _ _ _ _ hq => exec_doorbellWrite hq, fun _ => ⟨rfl, rfl⟩⟩

end Sys2Proof
end

section
namespace Sys2Proof.Machine

/-! ### The command at the head of a queue (R461, R462) -/

/-- The command at the head of a queue runs on the state that it is taken from. -/
theorem command_atHead {s : State} {queue code : Nat} {c : CmdEntry} {rest : List CmdEntry} (h : AtHead s queue code c rest) (act : CmdEntry → State → State) :
    command code queue s act = .next ((act c (s.taken queue rest)).skipBad queue) := by
  obtain ⟨hrec, q, hq, hpending, hcode⟩ := h
  rw [command, hq]
  dsimp only
  rw [hpending]
  exact if_neg (by simp [hcode, hrec])

/-- A command completes as stated, where that is what it does on each state that meets its conditions. -/
theorem Commands.of_act {i : Nat → Instr} {code : Nat} {cond : State → Nat → CmdEntry → Nat × BitVec 128 → Prop} {eff : State → Nat → CmdEntry → State}
    (run : Nat → State → Out) {act : Nat → CmdEntry → State → State} (hexec : ∀ s queue, exec (i queue) s = run queue s)
    (hrun : ∀ s queue, run queue s = command code queue s (act queue))
    (hact : ∀ s queue c v, cond s queue c v → act queue c s = (eff s queue c).done queue c v.1 v.2) : Commands i code cond eff := by
  intro s queue c rest v h hcond
  rw [hexec, hrun, command_atHead h, hact _ _ _ _ hcond]
  rfl

/-- The same of a tenant's command. -/
theorem Commands.of_tenant {i : Nat → Instr} {code : Nat} {cond : State → Nat → CmdEntry → Nat × BitVec 128 → Prop} {eff : State → Nat → CmdEntry → State}
    (run : Nat → State → Out) {act : Nat → Nat → CmdEntry → State → State} (hexec : ∀ s queue, exec (i queue) s = run queue s)
    (hrun : ∀ s queue, run queue s = tenantCommand code queue s (act queue))
    (hact : ∀ s queue c v, cond s queue c v → act queue (queueTenant queue) c s = (eff s queue c).done queue c v.1 v.2) : Commands i code cond eff :=
  Commands.of_act run hexec hrun hact

/-! ### The commands of management (R414, R450, R451, R459, R460, R465, R472) -/

theorem commands_tenantCreate (key : List Byte) : Commands .tenantCreate 0x02
    (fun s _ c v => plain v ∧ c.op 0 < 16 ∧ 1 ≤ c.op 2 ∧ c.op 2 ≤ 4 ∧ (∀ t ∈ s.tenants, t.num ≠ c.op 0) ∧
      Config.unwrapKey s.identity (s.bytes (span (hostAt + c.op 3) 512)) = some key)
    (fun s _ c => { s with
      free := s.free + 1
      tenants := s.tenants ++ [{ num := c.op 0, queues := c.op 2, tableSize := c.op 1, codeKey := key, dataKey := Config.dataKey s.free }]
      queues := s.queues ++ (List.range (c.op 2)).map (fun i => Queue.fresh (1 + 4 * c.op 0 + i)) }) := by
  refine Commands.of_act execTenantCreate (fun _ _ => rfl) (fun _ _ => rfl) fun s queue c v ⟨hv, hnum, hmin, hmax, hnew, hkey⟩ => ?_
  subst hv
  have hfits : ¬ (16 ≤ c.op 0 || c.op 2 = 0 || 4 < c.op 2) = true := by
    simp only [Bool.or_eq_true, decide_eq_true_eq]
    omega
  have hfree : ¬ s.tenants.any (fun x => x.num = c.op 0) = true := by simpa using hnew
  dsimp only
  rw [if_neg hfits, if_neg hfree, hkey]

theorem commands_tenantDestroy : Commands .tenantDestroy 0x03
    (fun s _ c v => plain v ∧ (∃ t ∈ s.tenants, t.num = c.op 0) ∧ ∀ la ∈ s.launches, la.tenant = c.op 0 → la.st = .ended)
    (fun s _ c => s.removeTenant (c.op 0)) := by
  refine Commands.of_act execTenantDestroy (fun _ _ => rfl) (fun _ _ => rfl) fun s queue c v ⟨hv, hthere, hended⟩ => ?_
  subst hv
  dsimp only
  rw [if_neg (by simpa using hthere), if_neg (by simpa using hended)]

theorem commands_budgetSet : Commands .budgetSet 0x04 (fun s _ c v => plain v ∧ c.op 1 < 4 ∧ (s.queue? (1 + 4 * c.op 0 + c.op 1)).isSome = true)
    (fun s _ c => s.updQueue (1 + 4 * c.op 0 + c.op 1) (fun q => { q with budget := BitVec.ofNat 32 (c.op 2) })) := by
  refine Commands.of_act execBudgetSet (fun _ _ => rfl) (fun _ _ => rfl) fun s queue c v ⟨hv, hnum, hthere⟩ => ?_
  subst hv
  have hok : ¬ (4 ≤ c.op 1 || (s.queue? (1 + 4 * c.op 0 + c.op 1)).isNone) = true := by
    simp only [Bool.or_eq_true, decide_eq_true_eq, Nat.not_le.mpr hnum, false_or]
    simpa using Option.isSome_iff_ne_none.mp hthere
  exact if_neg hok

theorem commands_fwUpdate : Commands .fwUpdate 0x06 (fun s _ c v => plain v ∧ Config.imageOk (s.bytes (span (hostAt + c.op 0) (c.op 1))) = true) (fun s _ c =>
    let image := s.bytes (span (hostAt + c.op 0) (c.op 1))
    if Config.imageIsConfig image = true then { s with cfgFlash := image } else { s with fwFlash := image }) := by
  refine Commands.of_act execFwUpdate (fun _ _ => rfl) (fun _ _ => rfl) fun s queue c v ⟨hv, hok⟩ => ?_
  subst hv
  dsimp only
  rw [if_neg (by simp [hok])]
  split <;> rfl

/-! ### Windows, pages and faults (R429 to R432, R452 to R454, R464) -/

/-- The peers named in the pairs of a window's command are told, one after the other. -/
theorem State.tellExports_eq (s : State) (w : Window) : s.tellExports w = { s with
    outbox := s.outbox ++ (w.exports.filter (fun x => decide (x.1 < 8) && x.1 ≠ s.device)).map (fun x => (x.1, PeerMsg.exported w.tenant w.num x.2)) } := by
  have hfold : ∀ (es : List (Nat × Nat)) (t : State), es.foldl (fun (s : State) e => s.post e.1 (.exported w.tenant w.num e.2)) t =
      { t with outbox := t.outbox ++ es.map (fun x => (x.1, PeerMsg.exported w.tenant w.num x.2)) } := fun es => by
    induction es with
    | nil => exact fun t => by rw [List.map_nil, List.append_nil]; rfl
    | cons e es ih =>
      intro t
      rw [List.foldl_cons, ih, List.map_cons, State.post]
      simp only [List.append_assoc, List.singleton_append]
  exact hfold _ s

/-- A range and a number that a WINDOW_MAP may ask for, and that are free. -/
theorem windowMap_free {s : State} {t : Nat} {c : CmdEntry} (hrange : rangeOk (c.op 2) (c.op 3) = true) (hnum : c.op 0 < 256)
    (hnew : ∀ w ∈ s.windows, w.tenant = t → w.num ≠ c.op 0) (hfree : meets (s.virtualUsed t) (c.op 2) (c.op 3) = false) :
    ¬ (!rangeOk (c.op 2) (c.op 3) || 256 ≤ c.op 0 || s.windows.any (fun w => w.tenant = t && w.num = c.op 0) || meets (s.virtualUsed t) (c.op 2) (c.op 3)) = true := by
  have hnone : s.windows.any (fun w => w.tenant = t && w.num = c.op 0) = false := List.any_eq_false.mpr fun w hw => by
    simpa using hnew w hw
  simp [hrange, hfree, hnone, Nat.not_le.mpr hnum]

theorem commands_windowMap_device : Commands .windowMap 0x10
    (fun s q c v => plain v ∧ windowKindOf c = some .device ∧ rangeOk (c.op 2) (c.op 3) = true ∧ c.op 0 < 256 ∧
      (∀ w ∈ s.windows, w.tenant = queueTenant q → w.num ≠ c.op 0) ∧ meets (s.virtualUsed (queueTenant q)) (c.op 2) (c.op 3) = false ∧
      (firstFit s.deviceUsed 0 Config.deviceBytes (c.op 3) (if 2 ^ 30 ≤ c.op 3 then 2 ^ 30 else 2 ^ 21)).isSome = true)
    (fun s q c =>
      let a := (firstFit s.deviceUsed 0 Config.deviceBytes (c.op 3) (if 2 ^ 30 ≤ c.op 3 then 2 ^ 30 else 2 ^ 21)).getD 0
      let told := (exportPairs (c.operands.drop 4)).filter (fun x => decide (x.1 < 8) && x.1 ≠ s.device)
      { s.zeroRange a (c.op 3) with
        windows := s.windows ++ [{ tenant := queueTenant q, num := c.op 0, kind := .device, base := c.op 2, size := c.op 3, backing := a, waiting := none
                                   exports := exportPairs (c.operands.drop 4) }]
        outbox := s.outbox ++ told.map (fun x => (x.1, .exported (queueTenant q) (c.op 0) x.2)) }) := by
  refine Commands.of_tenant execWindowMap (fun _ _ => rfl) (fun _ _ => rfl) fun s queue c v ⟨hv, hkind, hrange, hnum, hnew, hfree, hplace⟩ => ?_
  subst hv
  obtain ⟨a, ha⟩ := Option.isSome_iff_exists.mp hplace
  dsimp only
  rw [hkind]
  dsimp only
  rw [if_neg (windowMap_free hrange hnum hnew hfree)]
  rw [ha]
  dsimp only
  rw [State.tellExports_eq]
  rfl

theorem commands_windowMap_host : Commands .windowMap 0x10
    (fun s q c v => plain v ∧ windowKindOf c = some .host ∧ rangeOk (c.op 2) (c.op 3) = true ∧ c.op 0 < 256 ∧
      (∀ w ∈ s.windows, w.tenant = queueTenant q → w.num ≠ c.op 0) ∧ meets (s.virtualUsed (queueTenant q)) (c.op 2) (c.op 3) = false ∧
      c.op 4 + c.op 3 ≤ 2 ^ 48)
    (fun s q c => { s with windows := s.windows ++ [{ tenant := queueTenant q, num := c.op 0, kind := .host, base := c.op 2, size := c.op 3
                                                      backing := c.op 4, waiting := none, exports := [] }] }) := by
  refine Commands.of_tenant execWindowMap (fun _ _ => rfl) (fun _ _ => rfl) fun s queue c v ⟨hv, hkind, hrange, hnum, hnew, hfree, hfits⟩ => ?_
  subst hv
  dsimp only
  rw [hkind]
  dsimp only
  rw [if_neg (windowMap_free hrange hnum hnew hfree)]
  rw [if_neg (Nat.not_lt.mpr hfits)]
  rfl

/-- R452: the map of a peer's window waits for its confirmation. -/
theorem exec_windowMap_peer {s : State} {queue : Nat} {c : CmdEntry} {rest : List CmdEntry} {d t w : Nat} (h : AtHead s queue 0x10 c rest)
    (hkind : windowKindOf c = some (.peer d t w)) (hrange : rangeOk (c.op 2) (c.op 3) = true) (hnum : c.op 0 < 256)
    (hnew : ∀ w ∈ s.windows, w.tenant = queueTenant queue → w.num ≠ c.op 0) (hfree : meets (s.virtualUsed (queueTenant queue)) (c.op 2) (c.op 3) = false) :
    exec (.windowMap queue) s = .next (({ s.taken queue rest with windows := s.windows ++
      [{ tenant := queueTenant queue, num := c.op 0, kind := .peer d t w, base := c.op 2, size := c.op 3, backing := 0, waiting := some (c.tag, queue)
         exports := [] }] } : State).skipBad queue) := by
  show execWindowMap queue s = _
  rw [execWindowMap, tenantCommand, command_atHead h]
  dsimp only
  rw [hkind]
  dsimp only
  rw [if_neg (windowMap_free (s := s.taken queue rest) hrange hnum hnew hfree)]
  rfl

theorem commands_windowUnmap (w : Window) : Commands .windowUnmap 0x11
    (fun s q c v => plain v ∧ s.window? (queueTenant q) (c.op 0) = some w ∧ s.windowUsed w = false)
    (fun s q _ => { s.unmapRange (queueTenant q) w.base (w.base + w.size) with
      windows := s.windows.filter (fun x => !(x.tenant = queueTenant q && x.num = w.num)) }) := by
  refine Commands.of_tenant execWindowUnmap (fun _ _ => rfl) (fun _ _ => rfl) fun s queue c v ⟨hv, hw, hunused⟩ => ?_
  subst hv
  dsimp only
  rw [hw]
  dsimp only
  rw [hunused]
  rfl

theorem commands_pageMap (w : Window) (level : Nat) : Commands .pageMap 0x12
    (fun s q c v => plain v ∧ s.windowOf (queueTenant q) (c.op 0) = some w ∧ pageLevel (c.op 1) = some level ∧
      pagesOk w (c.op 0) (c.op 1) (c.op 2) (c.op 3) (bitsOf (c.op 4) 52 48) = true)
    (fun s q c => (List.range (c.op 2)).foldl (fun (s : State) i => s.mapPage (queueTenant q) level (c.op 0 + i * c.op 1)
      (pteLeafOf (w.backing + c.op 3 + i * c.op 1) (c.op 4))) s) := by
  refine Commands.of_tenant execPageMap (fun _ _ => rfl) (fun _ _ => rfl) fun s queue c v ⟨hv, hw, hlevel, hok⟩ => ?_
  subst hv
  dsimp only
  rw [hw, hlevel]
  dsimp only
  rw [hok]
  rfl

theorem commands_faultDone (f : PageFault) : Commands .faultDone 0x13
    (fun s q c v => plain v ∧ s.faults.find? (fun f => f.id = c.op 0 && f.tenant = queueTenant q && f.offered && !f.unresolvable) = some f)
    (fun s q c =>
      if c.op 1 ≠ 0 then { s with faults := updId PageFault.id f.id (·.giveUp (s.walkFails (queueTenant q) f.page)) s.faults }
      else match s.walkFails (queueTenant q) f.page with
        | none => { s with faults := delId PageFault.id f.id s.faults }
        | some (reason, level) => s.offerAgain f.id reason level) := by
  refine Commands.of_tenant execFaultDone (fun _ _ => rfl) (fun _ _ => rfl) fun s queue c v ⟨hv, hf⟩ => ?_
  subst hv
  dsimp only
  rw [hf] <;> rfl

/-! ### Code, launches, queries and attestation (R406, R434, R446, R456, R462, R467, R473, R475) -/

theorem commands_codeLoad (w : Window) (image : List Byte) (x : Loaded) (k : Nat) (t : State) : Commands .codeLoad 0x14
    (fun s q c v => s.window? (queueTenant q) (c.op 0) = some w ∧ s.windowBytes w (c.op 1) (c.op 2) = some image ∧
      s.checkObject (((s.tenants.find? (fun x => x.num = queueTenant q)).map (·.codeKey)).getD []) (s.symbols (c.op 3) (c.op 4)) image = .ok x ∧
      s.placeCode (((s.tenants.find? (fun x => x.num = queueTenant q)).map (·.codeKey)).getD []) (queueTenant q) x image = some (k, t) ∧ v = (k, 0))
    (fun _ _ _ => t) := by
  refine Commands.of_tenant execCodeLoad (fun _ _ => rfl) (fun _ _ => rfl) fun s queue c v ⟨hw, hbytes, hcheck, hplace, hv⟩ => ?_
  subst hv
  dsimp only
  rw [hw]
  dsimp only
  rw [hbytes]
  dsimp only
  rw [hcheck]
  dsimp only
  rw [hplace]

theorem commands_codeUnload (x : Code) : Commands .codeUnload 0x15
    (fun s q c v => plain v ∧ s.codeFor (queueTenant q) (c.op 0) = some x ∧ ∀ la ∈ s.launches, la.code = x.handle → la.st = .ended)
    (fun s q _ => { s.unmapRange (queueTenant q) x.va (x.va + x.size) with
      codes := s.codes.filter (fun y => y.handle ≠ x.handle), dict := s.dict.filter (fun d => d.2.toNat ≠ x.handle + 1) }) := by
  refine Commands.of_tenant execCodeUnload (fun _ _ => rfl) (fun _ _ => rfl) fun s queue c v ⟨hv, hx, hended⟩ => ?_
  subst hv
  dsimp only
  rw [hx]
  dsimp only
  rw [if_neg (by simpa using hended)]
  rfl

theorem commands_launchCommand (code : Code) (w : Window) (bs : List Byte) (k : Nat) (t : State) : Commands .launchCommand 0x16
    (fun s q c v => s.pendingOf q < Config.pendingLaunches ∧ s.codeFor (queueTenant q) (c.op 0) = some code ∧
      s.window? (queueTenant q) (c.op 1) = some w ∧ (∀ p ∈ predPairs 4 (c.operands.drop 4), (s.launchOf (queueTenant q) p.1).isSome = true) ∧
      s.recordAt w (c.op 2) = some bs ∧
      s.accept { tenant := queueTenant q, queue := q, tag := c.tag, opcode := c.opcode, code := c.op 0, link := c.op 3
                 preds := predPairs 4 (c.operands.drop 4) } code bs = .ok (k, t) ∧ v = (k, 0))
    (fun _ _ _ => t) := by
  refine Commands.of_tenant execLaunchCommand (fun _ _ => rfl) (fun _ _ => rfl) fun s queue c v ⟨hroom, hcode, hw, hpreds, hrec, hacc, hv⟩ => ?_
  subst hv
  have hnone : ¬ (predPairs 4 (c.operands.drop 4)).any (fun p => (s.launchOf (queueTenant queue) p.1).isNone) = true := fun h => by
    obtain ⟨p, hp, hnone⟩ := List.any_eq_true.mp h
    have hsome := hpreds p hp
    rw [Option.isNone_iff_eq_none.mp hnone] at hsome
    cases hsome
  dsimp only
  rw [if_neg (Nat.not_le.mpr hroom), hcode, hw]
  dsimp only
  rw [if_neg hnone, hrec]
  dsimp only
  rw [hacc]

theorem commands_preempt (la : Launch) : Commands .preemptCommand 0x17
    (fun s q c v => plain v ∧ s.launchOf (queueTenant q) (c.op 0) = some la ∧ la.rcd.preemptible = true ∧
      ∀ b ∈ s.blocks, b.launch = la.id → b.st ≠ .admitted)
    (fun s _ _ => s.updLaunch la.id (fun la => { la with preempted := true })) := by
  refine Commands.of_tenant execPreemptCommand (fun _ _ => rfl) (fun _ _ => rfl) fun s queue c v ⟨hv, hla, hpre, hout⟩ => ?_
  subst hv
  have hnone : s.blocks.filter (fun b => b.launch = la.id && b.st = .admitted) = [] :=
    List.filter_eq_nil_iff.mpr fun b hb => by simpa using hout b hb
  dsimp only
  rw [hla]
  dsimp only
  rw [hpre]
  refine (if_neg (by simp)).trans (if_pos ?_)
  exact List.isEmpty_iff.mpr hnone

/-- R434: where blocks of the launch are admitted, PREEMPT waits for them. -/
theorem exec_preemptCommand_waits {s : State} {queue : Nat} {c : CmdEntry} {rest : List CmdEntry} {la : Launch} (h : AtHead s queue 0x17 c rest)
    (hla : s.launchOf (queueTenant queue) (c.op 0) = some la) (hpre : la.rcd.preemptible = true)
    (hin : ∃ b ∈ s.blocks, b.launch = la.id ∧ b.st = .admitted) :
    let t := (s.taken queue rest).updLaunch la.id (fun la => { la with preempted := true })
    let u := (s.blocks.filter (fun b => b.launch = la.id && b.st = .admitted)).foldl (fun (s : State) b => s.preemptBlock b.id) t
    exec (.preemptCommand queue) s = .next (({ u with preempts := u.preempts ++ [{ queue, tag := c.tag, launch := la.id }] } : State).skipBad queue) := by
  obtain ⟨b, hb, hbla, hst⟩ := hin
  have hsome : ¬ (s.blocks.filter (fun b => b.launch = la.id && b.st = .admitted)).isEmpty = true := fun h =>
    List.ne_nil_of_mem (List.mem_filter.mpr ⟨hb, by simp [hbla, hst]⟩) (List.isEmpty_iff.mp h)
  have hla' : (s.taken queue rest).launchOf (queueTenant queue) (c.op 0) = some la := hla
  intro t u
  show execPreemptCommand queue s = _
  rw [execPreemptCommand, tenantCommand, command_atHead h]
  dsimp only
  rw [hla']
  dsimp only
  rw [hpre]
  exact congrArg (fun u : State => Host.Outcome.next (u.skipBad queue)) ((if_neg (by simp)).trans (if_neg hsome))

theorem commands_resume (la : Launch) : Commands .resume 0x18 (fun s q c v => plain v ∧ s.launchOf (queueTenant q) (c.op 0) = some la)
    (fun s _ _ => s.updLaunch la.id (fun la => { la with preempted := false })) := by
  refine Commands.of_tenant execResume (fun _ _ => rfl) (fun _ _ => rfl) fun s queue c v ⟨hv, hla⟩ => ?_
  subst hv
  dsimp only
  rw [hla]

theorem commands_query : Commands .query 0x19
    (fun s q c v => ∃ d, s.answer (if q = 0 then none else some (queueTenant q)) c = some (v.1, d) ∧ v.2 = BitVec.ofNat 128 d) (fun s _ _ => s) := by
  refine Commands.of_act execQuery (fun _ _ => rfl) (fun _ _ => rfl) fun s queue c v ⟨d, hans, hd⟩ => ?_
  rw [hans, hd]

section
variable {s : State} {queue : Nat} {c : CmdEntry} {rest : List CmdEntry} {ns : List Nat} (h : AtHead s queue 0x1A c rest)
  (hns : s.placesAt (queueTenant queue) (c.op 0) 64 = some ns)
include h hns

theorem State.attestWaits_eq : s.attestWaits queue = s.sharedAt (queueTenant queue) (c.op 1) (s.report (queueTenant queue) (s.bytes ns)).length := by
  obtain ⟨-, q, hq, hpending, -⟩ := h
  have hhead : (s.queue? queue).bind (·.pending.head?) = some c := by rw [hq, Option.bind_some, hpending]; rfl
  rw [State.attestWaits, hhead, Option.elim_some]
  dsimp only
  rw [hns, Option.elim_some]

/-- What ATTEST does where no peer shares the lines of its place. -/
theorem exec_attest {ps : List Nat} (hps : s.placesAt (queueTenant queue) (c.op 1) (s.report (queueTenant queue) (s.bytes ns)).length = some ps)
    (hshared : s.sharedAt (queueTenant queue) (c.op 1) (s.report (queueTenant queue) (s.bytes ns)).length = false) :
    exec (.attest queue) s = .next ((if s.damaged ns || !s.covers ps then (s.taken queue rest).refuse queue c Err.windowInvalid
      else ((s.taken queue rest).writeOutside ps (s.report (queueTenant queue) (s.bytes ns))).done queue c 0 0).skipBad queue) := by
  have hns' : (s.taken queue rest).placesAt (queueTenant queue) (c.op 0) 64 = some ns := hns
  have hps' : (s.taken queue rest).placesAt (queueTenant queue) (c.op 1)
      ((s.taken queue rest).report (queueTenant queue) ((s.taken queue rest).bytes ns)).length = some ps := hps
  have hwaits : ¬ s.attestWaits queue = true := by rw [State.attestWaits_eq h hns, hshared]; simp
  show execAttest queue s = _
  rw [execAttest, if_neg hwaits, tenantCommand, command_atHead h]
  dsimp only
  rw [hns']
  dsimp only
  rw [hps']
  rfl

/-- R456: ATTEST waits for the peers that share lines of its place. -/
theorem exec_attest_waits (hshared : s.sharedAt (queueTenant queue) (c.op 1) (s.report (queueTenant queue) (s.bytes ns)).length = true) :
    exec (.attest queue) s = .next s :=
  if_pos ((State.attestWaits_eq h hns).trans hshared)

end

theorem commands_attest (ns ps : List Nat) : Commands .attest 0x1A
    (fun s q c v => plain v ∧ s.placesAt (queueTenant q) (c.op 0) 64 = some ns ∧
      s.placesAt (queueTenant q) (c.op 1) (s.report (queueTenant q) (s.bytes ns)).length = some ps ∧
      s.sharedAt (queueTenant q) (c.op 1) (s.report (queueTenant q) (s.bytes ns)).length = false ∧ s.damaged ns = false ∧ s.covers ps = true)
    (fun s q _ => { s.storeCells (ps.zip (s.report (queueTenant q) (s.bytes ns))) with
      bad := s.bad.filter (fun k => ps.all (fun a => a / 32 ≠ k)) }) := by
  intro s queue c rest v h ⟨hv, hns, hps, hshared, hdamaged, hcovers⟩
  subst hv
  have hwhole : ¬ (s.damaged ns || !s.covers ps) = true := by
    rw [show s.damaged ns = false from hdamaged, show s.covers ps = true from hcovers]
    simp
  have hwrite : (s.taken queue rest).writeOutside ps (s.report (queueTenant queue) (s.bytes ns)) =
      { (s.taken queue rest).storeCells (ps.zip (s.report (queueTenant queue) (s.bytes ns))) with
        bad := s.bad.filter (fun k => ps.all (fun a => a / 32 ≠ k)) } := if_pos hcovers
  rw [exec_attest h hns hps hshared, if_neg hwhole, hwrite]
  rfl

/-- R433: ATTEST is refused where its nonce is damaged, or its report would cover a damaged sector in part. -/
theorem exec_attest_refused {s : State} {queue : Nat} {c : CmdEntry} {rest : List CmdEntry} {ns ps : List Nat} (h : AtHead s queue 0x1A c rest)
    (hns : s.placesAt (queueTenant queue) (c.op 0) 64 = some ns)
    (hps : s.placesAt (queueTenant queue) (c.op 1) (s.report (queueTenant queue) (s.bytes ns)).length = some ps)
    (hshared : s.sharedAt (queueTenant queue) (c.op 1) (s.report (queueTenant queue) (s.bytes ns)).length = false)
    (hbad : s.damaged ns = true ∨ s.covers ps = false) :
    exec (.attest queue) s = .next (((s.taken queue rest).refuse queue c Err.windowInvalid).skipBad queue) := by
  rw [exec_attest h hns hps hshared, if_pos]
  rcases hbad with h | h <;> simp [h]

end Sys2Proof.Machine

namespace Sys2Proof
open Machine

/-- Settles O41: each command of the management queue, by its checks. -/
theorem managementCommands : Obligations.ManagementCommands := by
  refine ⟨Commands.of_act execGroupSet (fun _ _ => rfl) (fun _ _ => rfl) fun s queue c v hv => ?_, commands_tenantCreate, commands_tenantDestroy, commands_budgetSet,
    Commands.of_act execTimeSet (fun _ _ => rfl) (fun _ _ => rfl) fun s queue c v hv => ?_, commands_fwUpdate⟩
  · subst hv; rfl
  · subst hv; rfl

/-- Settles O42: each command of windows, pages and faults, by its checks. -/
theorem windowCommands : Obligations.WindowCommands :=
  ⟨commands_windowMap_device, commands_windowMap_host, fun _ _ _ _ _ _ _ h hkind hrange hnum hnew hfree => exec_windowMap_peer h hkind hrange hnum hnew hfree,
    commands_windowUnmap, commands_pageMap, commands_faultDone⟩

/-- Settles O43: each command of code, launches, queries and attestation, by its checks. -/
theorem launchCommands : Obligations.LaunchCommands :=
  ⟨commands_codeLoad, commands_codeUnload, commands_launchCommand, commands_preempt, fun _ _ _ _ _ h hla hpre hin => exec_preemptCommand_waits h hla hpre hin,
    commands_resume, commands_query, commands_attest, fun _ _ _ _ _ _ h hns hps hshared hbad => exec_attest_refused h hns hps hshared hbad,
    fun _ _ _ _ _ h hns hshared => exec_attest_waits h hns hshared⟩

end Sys2Proof
end

section
namespace Sys2Proof.Machine

/-! ### The step of a clause in progress (R25, R58, R75, R76) -/

theorem step_agenda {s : State} {dt : Nat} {i : Instr} {rest : List (Nat × Instr)} (h : s.agenda = (dt, i) :: rest) :
    step s = settled (exec i ({ s with agenda := rest }.tick dt)) := by
  rw [step, h]

theorem step_runs {s : State} (h : s.agenda = []) : step s = settled (s.tick 1).runNext := by
  rw [step, h]

/-- The state after an instruction of a clause: the clause ends where its body is done. -/
def endingClause (gid : Nat) : Out → Out
  | .next t => .next (t.endClause gid)
  | .fault x => .fault x
  | .refused x => .refused x

theorem State.runNext_instr {s t : State} {gid : Nat} {i : Instr} (h : s.upcoming = .instr gid t i) : s.runNext = endingClause gid (exec i t) := by
  rw [State.runNext, h]
  dsimp only
  cases exec i t <;> rfl

theorem State.runNext_passed {s t : State} {gid : Nat} (h : s.upcoming = .passed gid t) : s.runNext = .next (t.endClause gid) := by
  rw [State.runNext, h]

section
variable {s : State} {gid : Nat} {g : Group} {r : Run} (hfocus : s.focus = some gid) (hg : s.group? gid = some g) (hr : g.run = some r)
include hfocus hg hr

/-- What decodes is what runs next. -/
theorem State.upcoming_instr {i : Instr} {n : Nat} (hdec : decodeParcels (s.bankOf g r) r.body = .ok (i, n)) :
    s.upcoming = .instr gid (s.updGroup gid (fun g => { g with run := some (r.advance n) })) i := by
  rw [State.upcoming, hfocus]
  dsimp only
  rw [hg]
  dsimp only
  rw [hr]
  dsimp only
  rw [hdec]

/-- What does not decode is rejected, with the clause moved past it. -/
theorem State.upcoming_passed {why : Reject} (hdec : decodeParcels (s.bankOf g r) r.body = .error why) :
    let r' := r.advance (((scanOne (s.bankOf g r) r.body).map (·.len)).getD r.body.length)
    s.upcoming = .passed gid ((s.updGroup gid (fun _ => { g with run := some r' })).reject gid { g with run := some r' } r' (scanOne (s.bankOf g r) r.body) why) := by
  rw [State.upcoming, hfocus]
  dsimp only
  rw [hg]
  dsimp only
  rw [hr]
  dsimp only
  rw [hdec]

end

/-! ### Parcels that are no instruction (R75) -/

/-- What a reject does, by the guard that the parcels bear, the cause and the information. -/
theorem State.reject_eq (s : State) (gid : Nat) (g : Group) (r : Run) (sc : Option Scan) (why : Reject) : s.reject gid g r sc why =
    if g.active r (rejectGuard why) = 0 then (match sc.bind (·.long) with
      | some fsel => s.updGroup gid (fun g => g.settle r fsel 0)
      | none => s)
    else s.trapAt gid (rejectCause why).1 (rejectCause why).2 (g.active r (rejectGuard why)) := by
  cases why <;> rfl

/-- On no lanes a reject changes the group's own flags and counts. -/
theorem State.reject_idle {s : State} {gid : Nat} {g : Group} {r : Run} {why : Reject} (h : g.active r (rejectGuard why) = 0) (sc : Option Scan) :
    s.reject gid g r sc why = { s with groups := (s.reject gid g r sc why).groups } ∧ ∀ k, k ≠ gid → (s.reject gid g r sc why).group? k = s.group? k := by
  rw [State.reject_eq, if_pos h]
  cases sc.bind (·.long) with
  | none => exact ⟨rfl, fun _ _ => rfl⟩
  | some fsel => exact ⟨rfl, fun k hk => State.updGroup_group?_ne s _ (fun x => by rw [Group.settle_eq]) hk⟩

/-- The lanes of the path on which a guard is true, where no resume mask stands. -/
theorem Group.active_of_bits {g : Group} {r : Run} {gd : Guard} {x : LaneMask} (hres : g.resumeOn = false)
    (hx : ∀ l, x.getLsbD l = (r.lanes.getLsbD l && (g.lane? l).elim false (fun ln => ln.pred gd.idx.toNat ^^ gd.neg))) : g.active r gd = x := by
  refine BitVec.eq_of_getLsbD_eq fun l hl => ?_
  rw [Group.active, if_neg (by simp [hres]), Group.guarded, BitVec.getLsbD_and, Group.getLsbD_lanesWhere g _ hl, hx l]

end Sys2Proof.Machine

namespace Sys2Proof
open Machine

/-- Settles O48: the decoded instruction, the rejected parcels and the head of the agenda are the three branches of a step. -/
theorem stepRunsTheDecodedInstruction : Obligations.StepRunsTheDecodedInstruction := by
  refine ⟨fun s gid g r i n hagenda hfocus hg hr hdec => ?_, fun s gid g r why hagenda hfocus hg hr hdec x hres hx => ?_,
    fun s dt i rest h => step_agenda h⟩
  · rw [step_runs hagenda, State.runNext_instr (State.upcoming_instr (s := s.tick 1) hfocus hg hr hdec)]
    rfl
  · let r' := r.advance (((scanOne (s.bankOf g r) r.body).map (·.len)).getD r.body.length)
    let u := (s.tick 1).updGroup gid (fun _ => { g with run := some r' })
    have hstep : step s = settled (.next ((u.reject gid { g with run := some r' } r' (scanOne (s.bankOf g r) r.body) why).endClause gid)) := by
      rw [step_runs hagenda, State.runNext_passed (State.upcoming_passed (s := s.tick 1) hfocus hg hr hdec)]
      rfl
    have hactive : ({ g with run := some r' } : Group).active r' (rejectGuard why) = x := Group.active_of_bits hres hx
    refine ⟨fun hne => ?_, fun hzero => ?_⟩
    · rw [hstep, State.reject_eq, hactive, if_neg hne]
      rfl
    · obtain ⟨hgroups, hother⟩ := State.reject_idle (s := u) (gid := gid) (hactive.trans hzero) (scanOne (s.bankOf g r) r.body)
      exact ⟨_, hstep, hgroups, (congrArg State.mem hgroups).trans rfl, hother⟩

end Sys2Proof
end
